-- ==== Sys2Proof/Word.lean ====
section
/-! DEFINITION. The word types of the C910MP model (10_state:R21, R26, 20_memory:R180). -/

namespace Sys2Proof

/-- A 64-bit integer register, program counter or CSR (10_state:R21, R23). -/
abbrev Word := BitVec 64

/-- One byte of memory (20_memory:R180). -/
abbrev Byte := BitVec 8

/-- A register number `x0..x31` or `f0..f31` (10_state:R21, R26). -/
abbrev Reg := BitVec 5

/-- The 3-bit register field `r'` of a compressed instruction: register `8 + r'` (30_encoding:R285). -/
abbrev Reg' := BitVec 3

end Sys2Proof
end

