-- ==== Sys2Proof/Config.lean ====
section
/-! DEFINITION. What the manual leaves open and the model leaves free: constants without a body, applied to the counter
`State.draws` (log 49), so that no proof can depend on what they are. The constants an SoC integrator fixes are plain
data in the state (`State.soc`, log 4). -/

namespace Sys2Proof.Config

/-- The `n`-th free 64-bit value: a result the manual calls unpredictable or does not state. -/
opaque freeWord (n : Nat) : Word

/-- The `n`-th free choice: which of several permitted things the hardware does. -/
opaque freeChoice (n : Nat) : Nat

end Sys2Proof.Config
end

