-- ==== Sys2Proof/Syntax.lean ====
section
/-! DEFINITION. The syntax of the C910MP instruction set: one constructor per row of spec/opcode_table.json, and the
instruction code as it stands in memory. Every operand field of the encoding is kept, the ones an instruction ignores
too (the `fm`, `rs1`, `rd` of FENCE), so that the code can be rebuilt: it is the trap value of an illegal instruction
(60_exceptions:R790). The instructions with a gate of their own (floating point, T-Head, privileged, CSR) stand before the
others: Lean's code generator cannot build a constructor past the 244th, and so only `decode` and what calls it is left
without compiled code. -/

namespace Sys2Proof

/-- Every instruction of the opcode table, with the operand fields of its encoding (30_encoding:R282, R285, R286).
A branch offset is the field `off[12:1]`, that of JAL `off[20:1]`; a compressed immediate is the immediate's bits put back
in order, without the zeros below its scale. -/
inductive Instr where
  /-- `csrrw`, 40_rv64i:R386. -/
  | csrrw (rd : Reg) (csr : BitVec 12) (rs1 : Reg)
  /-- `csrrs`, 40_rv64i:R387. -/
  | csrrs (rd : Reg) (csr : BitVec 12) (rs1 : Reg)
  /-- `csrrc`, 40_rv64i:R388. -/
  | csrrc (rd : Reg) (csr : BitVec 12) (rs1 : Reg)
  /-- `csrrwi`, 40_rv64i:R389. -/
  | csrrwi (rd : Reg) (csr : BitVec 12) (uimm5 : BitVec 5)
  /-- `csrrsi`, 40_rv64i:R390. -/
  | csrrsi (rd : Reg) (csr : BitVec 12) (uimm5 : BitVec 5)
  /-- `csrrci`, 40_rv64i:R391. -/
  | csrrci (rd : Reg) (csr : BitVec 12) (uimm5 : BitVec 5)
  /-- `sret`, 40_rv64i:R395. -/
  | sret
  /-- `mret`, 40_rv64i:R396. -/
  | mret
  /-- `sfence.vma`, 40_rv64i:R397. -/
  | sfenceVma (rs1 rs2 : Reg)
  /-- `wfi`, 40_rv64i:R399. -/
  | wfi
  /-- `fadd.s`, 43_rv64f:R466. -/
  | faddS (fd fs1 fs2 : Reg) (rm : BitVec 3)
  /-- `fclass.s`, 43_rv64f:R467. -/
  | fclassS (rd fs1 : Reg)
  /-- `fcvt.l.s`, 43_rv64f:R468. -/
  | fcvtLS (rd fs1 : Reg) (rm : BitVec 3)
  /-- `fcvt.lu.s`, 43_rv64f:R469. -/
  | fcvtLuS (rd fs1 : Reg) (rm : BitVec 3)
  /-- `fcvt.s.l`, 43_rv64f:R470. -/
  | fcvtSL (fd rs1 : Reg) (rm : BitVec 3)
  /-- `fcvt.s.lu`, 43_rv64f:R471. -/
  | fcvtSLu (fd rs1 : Reg) (rm : BitVec 3)
  /-- `fcvt.s.w`, 43_rv64f:R472. -/
  | fcvtSW (fd rs1 : Reg) (rm : BitVec 3)
  /-- `fcvt.s.wu`, 43_rv64f:R473. -/
  | fcvtSWu (fd rs1 : Reg) (rm : BitVec 3)
  /-- `fcvt.w.s`, 43_rv64f:R474. -/
  | fcvtWS (rd fs1 : Reg) (rm : BitVec 3)
  /-- `fcvt.wu.s`, 43_rv64f:R475. -/
  | fcvtWuS (rd fs1 : Reg) (rm : BitVec 3)
  /-- `fdiv.s`, 43_rv64f:R476. -/
  | fdivS (fd fs1 fs2 : Reg) (rm : BitVec 3)
  /-- `feq.s`, 43_rv64f:R477. -/
  | feqS (rd fs1 fs2 : Reg)
  /-- `fle.s`, 43_rv64f:R478. -/
  | fleS (rd fs1 fs2 : Reg)
  /-- `flt.s`, 43_rv64f:R479. -/
  | fltS (rd fs1 fs2 : Reg)
  /-- `flw`, 43_rv64f:R480. -/
  | flw (fd rs1 : Reg) (imm12 : BitVec 12)
  /-- `fmadd.s`, 43_rv64f:R481. -/
  | fmaddS (fd fs1 fs2 fs3 : Reg) (rm : BitVec 3)
  /-- `fmax.s`, 43_rv64f:R482. -/
  | fmaxS (fd fs1 fs2 : Reg)
  /-- `fmin.s`, 43_rv64f:R483. -/
  | fminS (fd fs1 fs2 : Reg)
  /-- `fmsub.s`, 43_rv64f:R484. -/
  | fmsubS (fd fs1 fs2 fs3 : Reg) (rm : BitVec 3)
  /-- `fmul.s`, 43_rv64f:R485. -/
  | fmulS (fd fs1 fs2 : Reg) (rm : BitVec 3)
  /-- `fmv.w.x`, 43_rv64f:R486. -/
  | fmvWX (fd rs1 : Reg)
  /-- `fmv.x.w`, 43_rv64f:R487. -/
  | fmvXW (rd fs1 : Reg)
  /-- `fnmadd.s`, 43_rv64f:R488. -/
  | fnmaddS (fd fs1 fs2 fs3 : Reg) (rm : BitVec 3)
  /-- `fnmsub.s`, 43_rv64f:R489. -/
  | fnmsubS (fd fs1 fs2 fs3 : Reg) (rm : BitVec 3)
  /-- `fsgnj.s`, 43_rv64f:R490. -/
  | fsgnjS (fd fs1 fs2 : Reg)
  /-- `fsgnjn.s`, 43_rv64f:R491. -/
  | fsgnjnS (fd fs1 fs2 : Reg)
  /-- `fsgnjx.s`, 43_rv64f:R492. -/
  | fsgnjxS (fd fs1 fs2 : Reg)
  /-- `fsqrt.s`, 43_rv64f:R493. -/
  | fsqrtS (fd fs1 : Reg) (rm : BitVec 3)
  /-- `fsub.s`, 43_rv64f:R494. -/
  | fsubS (fd fs1 fs2 : Reg) (rm : BitVec 3)
  /-- `fsw`, 43_rv64f:R495. -/
  | fsw (fs2 rs1 : Reg) (imm12 : BitVec 12)
  /-- `fadd.d`, 44_rv64d:R501. -/
  | faddD (fd fs1 fs2 : Reg) (rm : BitVec 3)
  /-- `fclass.d`, 44_rv64d:R502. -/
  | fclassD (rd fs1 : Reg)
  /-- `fcvt.d.l`, 44_rv64d:R503. -/
  | fcvtDL (fd rs1 : Reg) (rm : BitVec 3)
  /-- `fcvt.d.lu`, 44_rv64d:R504. -/
  | fcvtDLu (fd rs1 : Reg) (rm : BitVec 3)
  /-- `fcvt.d.s`, 44_rv64d:R505. -/
  | fcvtDS (fd fs1 : Reg) (rm : BitVec 3)
  /-- `fcvt.d.w`, 44_rv64d:R506. -/
  | fcvtDW (fd rs1 : Reg) (rm : BitVec 3)
  /-- `fcvt.d.wu`, 44_rv64d:R507. -/
  | fcvtDWu (fd rs1 : Reg) (rm : BitVec 3)
  /-- `fcvt.l.d`, 44_rv64d:R508. -/
  | fcvtLD (rd fs1 : Reg) (rm : BitVec 3)
  /-- `fcvt.lu.d`, 44_rv64d:R509. -/
  | fcvtLuD (rd fs1 : Reg) (rm : BitVec 3)
  /-- `fcvt.s.d`, 44_rv64d:R510. -/
  | fcvtSD (fd fs1 : Reg) (rm : BitVec 3)
  /-- `fcvt.w.d`, 44_rv64d:R511. -/
  | fcvtWD (rd fs1 : Reg) (rm : BitVec 3)
  /-- `fcvt.wu.d`, 44_rv64d:R512. -/
  | fcvtWuD (rd fs1 : Reg) (rm : BitVec 3)
  /-- `fdiv.d`, 44_rv64d:R513. -/
  | fdivD (fd fs1 fs2 : Reg) (rm : BitVec 3)
  /-- `feq.d`, 44_rv64d:R514. -/
  | feqD (rd fs1 fs2 : Reg)
  /-- `fld`, 44_rv64d:R515. -/
  | fld (fd rs1 : Reg) (imm12 : BitVec 12)
  /-- `fle.d`, 44_rv64d:R516. -/
  | fleD (rd fs1 fs2 : Reg)
  /-- `flt.d`, 44_rv64d:R517. -/
  | fltD (rd fs1 fs2 : Reg)
  /-- `fmadd.d`, 44_rv64d:R518. -/
  | fmaddD (fd fs1 fs2 fs3 : Reg) (rm : BitVec 3)
  /-- `fmax.d`, 44_rv64d:R519. -/
  | fmaxD (fd fs1 fs2 : Reg)
  /-- `fmin.d`, 44_rv64d:R520. -/
  | fminD (fd fs1 fs2 : Reg)
  /-- `fmsub.d`, 44_rv64d:R521. -/
  | fmsubD (fd fs1 fs2 fs3 : Reg) (rm : BitVec 3)
  /-- `fmul.d`, 44_rv64d:R522. -/
  | fmulD (fd fs1 fs2 : Reg) (rm : BitVec 3)
  /-- `fmv.d.x`, 44_rv64d:R523. -/
  | fmvDX (fd rs1 : Reg)
  /-- `fmv.x.d`, 44_rv64d:R524. -/
  | fmvXD (rd fs1 : Reg)
  /-- `fnmadd.d`, 44_rv64d:R525. -/
  | fnmaddD (fd fs1 fs2 fs3 : Reg) (rm : BitVec 3)
  /-- `fnmsub.d`, 44_rv64d:R526. -/
  | fnmsubD (fd fs1 fs2 fs3 : Reg) (rm : BitVec 3)
  /-- `fsd`, 44_rv64d:R527. -/
  | fsd (fs2 rs1 : Reg) (imm12 : BitVec 12)
  /-- `fsgnj.d`, 44_rv64d:R528. -/
  | fsgnjD (fd fs1 fs2 : Reg)
  /-- `fsgnjn.d`, 44_rv64d:R529. -/
  | fsgnjnD (fd fs1 fs2 : Reg)
  /-- `fsgnjx.d`, 44_rv64d:R530. -/
  | fsgnjxD (fd fs1 fs2 : Reg)
  /-- `fsqrt.d`, 44_rv64d:R531. -/
  | fsqrtD (fd fs1 : Reg) (rm : BitVec 3)
  /-- `fsub.d`, 44_rv64d:R532. -/
  | fsubD (fd fs1 fs2 : Reg) (rm : BitVec 3)
  /-- `c.fld`, 45_rv64c:R553. -/
  | cFld (fd rs1 : Reg') (uimm5 : BitVec 5)
  /-- `c.fldsp`, 45_rv64c:R554. -/
  | cFldsp (fd : Reg) (uimm6 : BitVec 6)
  /-- `c.fsd`, 45_rv64c:R555. -/
  | cFsd (fs2 rs1 : Reg') (uimm5 : BitVec 5)
  /-- `c.fsdsp`, 45_rv64c:R556. -/
  | cFsdsp (fs2 : Reg) (uimm6 : BitVec 6)
  /-- `addsl`, 46_thead_arith_bit:R591. -/
  | addsl (rd rs1 rs2 : Reg) (imm2 : BitVec 2)
  /-- `mula`, 46_thead_arith_bit:R592. -/
  | mula (rd rs1 rs2 : Reg)
  /-- `mulah`, 46_thead_arith_bit:R593. -/
  | mulah (rd rs1 rs2 : Reg)
  /-- `mulaw`, 46_thead_arith_bit:R594. -/
  | mulaw (rd rs1 rs2 : Reg)
  /-- `muls`, 46_thead_arith_bit:R595. -/
  | muls (rd rs1 rs2 : Reg)
  /-- `mulsh`, 46_thead_arith_bit:R596. -/
  | mulsh (rd rs1 rs2 : Reg)
  /-- `mulsw`, 46_thead_arith_bit:R597. -/
  | mulsw (rd rs1 rs2 : Reg)
  /-- `mveqz`, 46_thead_arith_bit:R598. -/
  | mveqz (rd rs1 rs2 : Reg)
  /-- `mvnez`, 46_thead_arith_bit:R599. -/
  | mvnez (rd rs1 rs2 : Reg)
  /-- `srri`, 46_thead_arith_bit:R600. -/
  | srri (rd rs1 : Reg) (imm6 : BitVec 6)
  /-- `srriw`, 46_thead_arith_bit:R601. -/
  | srriw (rd rs1 : Reg) (imm5 : BitVec 5)
  /-- `ext`, 46_thead_arith_bit:R602. -/
  | ext (rd rs1 : Reg) (msb lsb : BitVec 6)
  /-- `extu`, 46_thead_arith_bit:R603. -/
  | extu (rd rs1 : Reg) (msb lsb : BitVec 6)
  /-- `ff0`, 46_thead_arith_bit:R604. -/
  | ff0 (rd rs1 : Reg)
  /-- `ff1`, 46_thead_arith_bit:R605. -/
  | ff1 (rd rs1 : Reg)
  /-- `rev`, 46_thead_arith_bit:R606. -/
  | rev (rd rs1 : Reg)
  /-- `revw`, 46_thead_arith_bit:R607. -/
  | revw (rd rs1 : Reg)
  /-- `tst`, 46_thead_arith_bit:R608. -/
  | tst (rd rs1 : Reg) (imm6 : BitVec 6)
  /-- `tstnbz`, 46_thead_arith_bit:R609. -/
  | tstnbz (rd rs1 : Reg)
  /-- `flrd`, 47_thead_mem:R622. -/
  | flrd (fd rs1 rs2 : Reg) (imm2 : BitVec 2)
  /-- `flrw`, 47_thead_mem:R623. -/
  | flrw (fd rs1 rs2 : Reg) (imm2 : BitVec 2)
  /-- `flurd`, 47_thead_mem:R624. -/
  | flurd (fd rs1 rs2 : Reg) (imm2 : BitVec 2)
  /-- `flurw`, 47_thead_mem:R625. -/
  | flurw (fd rs1 rs2 : Reg) (imm2 : BitVec 2)
  /-- `fsrd`, 47_thead_mem:R626. -/
  | fsrd (fd rs1 rs2 : Reg) (imm2 : BitVec 2)
  /-- `fsrw`, 47_thead_mem:R627. -/
  | fsrw (fd rs1 rs2 : Reg) (imm2 : BitVec 2)
  /-- `fsurd`, 47_thead_mem:R628. -/
  | fsurd (fd rs1 rs2 : Reg) (imm2 : BitVec 2)
  /-- `fsurw`, 47_thead_mem:R629. -/
  | fsurw (fd rs1 rs2 : Reg) (imm2 : BitVec 2)
  /-- `lbia`, 47_thead_mem:R630. -/
  | lbia (rd rs1 : Reg) (imm5 : BitVec 5) (imm2 : BitVec 2)
  /-- `lbib`, 47_thead_mem:R631. -/
  | lbib (rd rs1 : Reg) (imm5 : BitVec 5) (imm2 : BitVec 2)
  /-- `lbuia`, 47_thead_mem:R632. -/
  | lbuia (rd rs1 : Reg) (imm5 : BitVec 5) (imm2 : BitVec 2)
  /-- `lbuib`, 47_thead_mem:R633. -/
  | lbuib (rd rs1 : Reg) (imm5 : BitVec 5) (imm2 : BitVec 2)
  /-- `ldd`, 47_thead_mem:R634. -/
  | ldd (rd1 rd2 rs1 : Reg) (imm2 : BitVec 2)
  /-- `ldia`, 47_thead_mem:R635. -/
  | ldia (rd rs1 : Reg) (imm5 : BitVec 5) (imm2 : BitVec 2)
  /-- `ldib`, 47_thead_mem:R636. -/
  | ldib (rd rs1 : Reg) (imm5 : BitVec 5) (imm2 : BitVec 2)
  /-- `lhia`, 47_thead_mem:R637. -/
  | lhia (rd rs1 : Reg) (imm5 : BitVec 5) (imm2 : BitVec 2)
  /-- `lhib`, 47_thead_mem:R638. -/
  | lhib (rd rs1 : Reg) (imm5 : BitVec 5) (imm2 : BitVec 2)
  /-- `lhuia`, 47_thead_mem:R639. -/
  | lhuia (rd rs1 : Reg) (imm5 : BitVec 5) (imm2 : BitVec 2)
  /-- `lhuib`, 47_thead_mem:R640. -/
  | lhuib (rd rs1 : Reg) (imm5 : BitVec 5) (imm2 : BitVec 2)
  /-- `lrb`, 47_thead_mem:R641. -/
  | lrb (rd rs1 rs2 : Reg) (imm2 : BitVec 2)
  /-- `lrbu`, 47_thead_mem:R642. -/
  | lrbu (rd rs1 rs2 : Reg) (imm2 : BitVec 2)
  /-- `lrd`, 47_thead_mem:R643. -/
  | lrd (rd rs1 rs2 : Reg) (imm2 : BitVec 2)
  /-- `lrh`, 47_thead_mem:R644. -/
  | lrh (rd rs1 rs2 : Reg) (imm2 : BitVec 2)
  /-- `lrhu`, 47_thead_mem:R645. -/
  | lrhu (rd rs1 rs2 : Reg) (imm2 : BitVec 2)
  /-- `lrw`, 47_thead_mem:R646. -/
  | lrw (rd rs1 rs2 : Reg) (imm2 : BitVec 2)
  /-- `lrwu`, 47_thead_mem:R647. -/
  | lrwu (rd rs1 rs2 : Reg) (imm2 : BitVec 2)
  /-- `lurb`, 47_thead_mem:R648. -/
  | lurb (rd rs1 rs2 : Reg) (imm2 : BitVec 2)
  /-- `lurbu`, 47_thead_mem:R649. -/
  | lurbu (rd rs1 rs2 : Reg) (imm2 : BitVec 2)
  /-- `lurd`, 47_thead_mem:R650. -/
  | lurd (rd rs1 rs2 : Reg) (imm2 : BitVec 2)
  /-- `lurh`, 47_thead_mem:R651. -/
  | lurh (rd rs1 rs2 : Reg) (imm2 : BitVec 2)
  /-- `lurhu`, 47_thead_mem:R652. -/
  | lurhu (rd rs1 rs2 : Reg) (imm2 : BitVec 2)
  /-- `lurw`, 47_thead_mem:R653. -/
  | lurw (rd rs1 rs2 : Reg) (imm2 : BitVec 2)
  /-- `lurwu`, 47_thead_mem:R654. -/
  | lurwu (rd rs1 rs2 : Reg) (imm2 : BitVec 2)
  /-- `lwd`, 47_thead_mem:R655. -/
  | lwd (rd1 rd2 rs1 : Reg) (imm2 : BitVec 2)
  /-- `lwia`, 47_thead_mem:R656. -/
  | lwia (rd rs1 : Reg) (imm5 : BitVec 5) (imm2 : BitVec 2)
  /-- `lwib`, 47_thead_mem:R657. -/
  | lwib (rd rs1 : Reg) (imm5 : BitVec 5) (imm2 : BitVec 2)
  /-- `lwud`, 47_thead_mem:R658. -/
  | lwud (rd1 rd2 rs1 : Reg) (imm2 : BitVec 2)
  /-- `lwuia`, 47_thead_mem:R659. -/
  | lwuia (rd rs1 : Reg) (imm5 : BitVec 5) (imm2 : BitVec 2)
  /-- `lwuib`, 47_thead_mem:R660. -/
  | lwuib (rd rs1 : Reg) (imm5 : BitVec 5) (imm2 : BitVec 2)
  /-- `sbia`, 47_thead_mem:R661. -/
  | sbia (rs2 rs1 : Reg) (imm5 : BitVec 5) (imm2 : BitVec 2)
  /-- `sbib`, 47_thead_mem:R662. -/
  | sbib (rs2 rs1 : Reg) (imm5 : BitVec 5) (imm2 : BitVec 2)
  /-- `sdd`, 47_thead_mem:R663. -/
  | sdd (rd1 rd2 rs1 : Reg) (imm2 : BitVec 2)
  /-- `sdia`, 47_thead_mem:R664. -/
  | sdia (rs2 rs1 : Reg) (imm5 : BitVec 5) (imm2 : BitVec 2)
  /-- `sdib`, 47_thead_mem:R665. -/
  | sdib (rs2 rs1 : Reg) (imm5 : BitVec 5) (imm2 : BitVec 2)
  /-- `shia`, 47_thead_mem:R666. -/
  | shia (rs2 rs1 : Reg) (imm5 : BitVec 5) (imm2 : BitVec 2)
  /-- `shib`, 47_thead_mem:R667. -/
  | shib (rs2 rs1 : Reg) (imm5 : BitVec 5) (imm2 : BitVec 2)
  /-- `srb`, 47_thead_mem:R668. -/
  | srb (rs rs1 rs2 : Reg) (imm2 : BitVec 2)
  /-- `srd`, 47_thead_mem:R669. -/
  | srd (rs rs1 rs2 : Reg) (imm2 : BitVec 2)
  /-- `srh`, 47_thead_mem:R670. -/
  | srh (rs rs1 rs2 : Reg) (imm2 : BitVec 2)
  /-- `srw`, 47_thead_mem:R671. -/
  | srw (rs rs1 rs2 : Reg) (imm2 : BitVec 2)
  /-- `surb`, 47_thead_mem:R672. -/
  | surb (rs rs1 rs2 : Reg) (imm2 : BitVec 2)
  /-- `surd`, 47_thead_mem:R673. -/
  | surd (rs rs1 rs2 : Reg) (imm2 : BitVec 2)
  /-- `surh`, 47_thead_mem:R674. -/
  | surh (rs rs1 rs2 : Reg) (imm2 : BitVec 2)
  /-- `surw`, 47_thead_mem:R675. -/
  | surw (rs rs1 rs2 : Reg) (imm2 : BitVec 2)
  /-- `swia`, 47_thead_mem:R676. -/
  | swia (rs2 rs1 : Reg) (imm5 : BitVec 5) (imm2 : BitVec 2)
  /-- `swib`, 47_thead_mem:R677. -/
  | swib (rs2 rs1 : Reg) (imm5 : BitVec 5) (imm2 : BitVec 2)
  /-- `swd`, 47_thead_mem:R678. -/
  | swd (rd1 rd2 rs1 : Reg) (imm2 : BitVec 2)
  /-- `dcache.call`, 48_thead_cache_sync:R693. -/
  | dcacheCall
  /-- `dcache.ciall`, 48_thead_cache_sync:R694. -/
  | dcacheCiall
  /-- `dcache.cipa`, 48_thead_cache_sync:R695. -/
  | dcacheCipa (rs1 : Reg)
  /-- `dcache.cisw`, 48_thead_cache_sync:R696. -/
  | dcacheCisw (rs1 : Reg)
  /-- `dcache.civa`, 48_thead_cache_sync:R697. -/
  | dcacheCiva (rs1 : Reg)
  /-- `dcache.cpa`, 48_thead_cache_sync:R698. -/
  | dcacheCpa (rs1 : Reg)
  /-- `dcache.cpal1`, 48_thead_cache_sync:R699. -/
  | dcacheCpal1 (rs1 : Reg)
  /-- `dcache.cva`, 48_thead_cache_sync:R700. -/
  | dcacheCva (rs1 : Reg)
  /-- `dcache.cval1`, 48_thead_cache_sync:R701. -/
  | dcacheCval1 (rs1 : Reg)
  /-- `dcache.ipa`, 48_thead_cache_sync:R702. -/
  | dcacheIpa (rs1 : Reg)
  /-- `dcache.isw`, 48_thead_cache_sync:R703. -/
  | dcacheIsw (rs1 : Reg)
  /-- `dcache.iva`, 48_thead_cache_sync:R704. -/
  | dcacheIva (rs1 : Reg)
  /-- `dcache.iall`, 48_thead_cache_sync:R705. -/
  | dcacheIall
  /-- `icache.iall`, 48_thead_cache_sync:R706. -/
  | icacheIall
  /-- `icache.ialls`, 48_thead_cache_sync:R707. -/
  | icacheIalls
  /-- `icache.ipa`, 48_thead_cache_sync:R708. -/
  | icacheIpa (rs1 : Reg)
  /-- `icache.iva`, 48_thead_cache_sync:R709. -/
  | icacheIva (rs1 : Reg)
  /-- `l2cache.call`, 48_thead_cache_sync:R710. -/
  | l2cacheCall
  /-- `l2cache.ciall`, 48_thead_cache_sync:R711. -/
  | l2cacheCiall
  /-- `l2cache.iall`, 48_thead_cache_sync:R712. -/
  | l2cacheIall
  /-- `dcache.csw`, 48_thead_cache_sync:R713. -/
  | dcacheCsw (rs1 : Reg)
  /-- `sfence.vmas`, 48_thead_cache_sync:R715. -/
  | sfenceVmas (rs1 rs2 : Reg)
  /-- `sync`, 48_thead_cache_sync:R716. -/
  | sync
  /-- `sync.s`, 48_thead_cache_sync:R717. -/
  | syncS
  /-- `sync.i`, 48_thead_cache_sync:R718. -/
  | syncI
  /-- `sync.is`, 48_thead_cache_sync:R719. -/
  | syncIs
  /-- `fadd.h`, 49_thead_fp16:R735. -/
  | faddH (fd fs1 fs2 : Reg) (rm : BitVec 3)
  /-- `fclass.h`, 49_thead_fp16:R736. -/
  | fclassH (rd fs1 : Reg)
  /-- `fcvt.d.h`, 49_thead_fp16:R737. -/
  | fcvtDH (fd fs1 : Reg) (rm : BitVec 3)
  /-- `fcvt.h.d`, 49_thead_fp16:R738. -/
  | fcvtHD (fd fs1 : Reg) (rm : BitVec 3)
  /-- `fcvt.h.l`, 49_thead_fp16:R739. -/
  | fcvtHL (fd rs1 : Reg) (rm : BitVec 3)
  /-- `fcvt.h.lu`, 49_thead_fp16:R740. -/
  | fcvtHLu (fd rs1 : Reg) (rm : BitVec 3)
  /-- `fcvt.h.s`, 49_thead_fp16:R741. -/
  | fcvtHS (fd fs1 : Reg) (rm : BitVec 3)
  /-- `fcvt.h.w`, 49_thead_fp16:R742. -/
  | fcvtHW (fd rs1 : Reg) (rm : BitVec 3)
  /-- `fcvt.h.wu`, 49_thead_fp16:R743. -/
  | fcvtHWu (fd rs1 : Reg) (rm : BitVec 3)
  /-- `fcvt.l.h`, 49_thead_fp16:R744. -/
  | fcvtLH (rd fs1 : Reg) (rm : BitVec 3)
  /-- `fcvt.lu.h`, 49_thead_fp16:R745. -/
  | fcvtLuH (rd fs1 : Reg) (rm : BitVec 3)
  /-- `fcvt.s.h`, 49_thead_fp16:R746. -/
  | fcvtSH (fd fs1 : Reg) (rm : BitVec 3)
  /-- `fcvt.w.h`, 49_thead_fp16:R747. -/
  | fcvtWH (rd fs1 : Reg) (rm : BitVec 3)
  /-- `fcvt.wu.h`, 49_thead_fp16:R748. -/
  | fcvtWuH (rd fs1 : Reg) (rm : BitVec 3)
  /-- `fdiv.h`, 49_thead_fp16:R749. -/
  | fdivH (fd fs1 fs2 : Reg) (rm : BitVec 3)
  /-- `feq.h`, 49_thead_fp16:R750. -/
  | feqH (rd fs1 fs2 : Reg)
  /-- `fle.h`, 49_thead_fp16:R751. -/
  | fleH (rd fs1 fs2 : Reg)
  /-- `flh`, 49_thead_fp16:R752. -/
  | flh (fd rs1 : Reg) (imm12 : BitVec 12)
  /-- `flt.h`, 49_thead_fp16:R753. -/
  | fltH (rd fs1 fs2 : Reg)
  /-- `fmadd.h`, 49_thead_fp16:R754. -/
  | fmaddH (fd fs1 fs2 fs3 : Reg) (rm : BitVec 3)
  /-- `fmax.h`, 49_thead_fp16:R755. -/
  | fmaxH (fd fs1 fs2 : Reg)
  /-- `fmin.h`, 49_thead_fp16:R756. -/
  | fminH (fd fs1 fs2 : Reg)
  /-- `fmsub.h`, 49_thead_fp16:R757. -/
  | fmsubH (fd fs1 fs2 fs3 : Reg) (rm : BitVec 3)
  /-- `fmul.h`, 49_thead_fp16:R758. -/
  | fmulH (fd fs1 fs2 : Reg) (rm : BitVec 3)
  /-- `fmv.h.x`, 49_thead_fp16:R759. -/
  | fmvHX (fd rs1 : Reg)
  /-- `fmv.x.h`, 49_thead_fp16:R760. -/
  | fmvXH (rd fs1 : Reg)
  /-- `fnmadd.h`, 49_thead_fp16:R761. -/
  | fnmaddH (fd fs1 fs2 fs3 : Reg) (rm : BitVec 3)
  /-- `fnmsub.h`, 49_thead_fp16:R762. -/
  | fnmsubH (fd fs1 fs2 fs3 : Reg) (rm : BitVec 3)
  /-- `fsgnj.h`, 49_thead_fp16:R763. -/
  | fsgnjH (fd fs1 fs2 : Reg)
  /-- `fsgnjn.h`, 49_thead_fp16:R764. -/
  | fsgnjnH (fd fs1 fs2 : Reg)
  /-- `fsgnjx.h`, 49_thead_fp16:R765. -/
  | fsgnjxH (fd fs1 fs2 : Reg)
  /-- `fsh`, 49_thead_fp16:R766. -/
  | fsh (fs2 rs1 : Reg) (imm12 : BitVec 12)
  /-- `fsqrt.h`, 49_thead_fp16:R767. -/
  | fsqrtH (fd fs1 : Reg) (rm : BitVec 3)
  /-- `fsub.h`, 49_thead_fp16:R768. -/
  | fsubH (fd fs1 fs2 : Reg) (rm : BitVec 3)
  /-- `add`, 40_rv64i:R335. -/
  | add (rd rs1 rs2 : Reg)
  /-- `addi`, 40_rv64i:R336. -/
  | addi (rd rs1 : Reg) (imm12 : BitVec 12)
  /-- `addiw`, 40_rv64i:R337. -/
  | addiw (rd rs1 : Reg) (imm12 : BitVec 12)
  /-- `addw`, 40_rv64i:R338. -/
  | addw (rd rs1 rs2 : Reg)
  /-- `sub`, 40_rv64i:R339. -/
  | sub (rd rs1 rs2 : Reg)
  /-- `subw`, 40_rv64i:R340. -/
  | subw (rd rs1 rs2 : Reg)
  /-- `and`, 40_rv64i:R341. -/
  | and (rd rs1 rs2 : Reg)
  /-- `andi`, 40_rv64i:R342. -/
  | andi (rd rs1 : Reg) (imm12 : BitVec 12)
  /-- `or`, 40_rv64i:R343. -/
  | or (rd rs1 rs2 : Reg)
  /-- `ori`, 40_rv64i:R344. -/
  | ori (rd rs1 : Reg) (imm12 : BitVec 12)
  /-- `xor`, 40_rv64i:R345. -/
  | xor (rd rs1 rs2 : Reg)
  /-- `xori`, 40_rv64i:R346. -/
  | xori (rd rs1 : Reg) (imm12 : BitVec 12)
  /-- `sll`, 40_rv64i:R347. -/
  | sll (rd rs1 rs2 : Reg)
  /-- `slli`, 40_rv64i:R348. -/
  | slli (rd rs1 : Reg) (shamt : BitVec 6)
  /-- `slliw`, 40_rv64i:R349. -/
  | slliw (rd rs1 : Reg) (shamt : BitVec 5)
  /-- `sllw`, 40_rv64i:R350. -/
  | sllw (rd rs1 rs2 : Reg)
  /-- `srl`, 40_rv64i:R351. -/
  | srl (rd rs1 rs2 : Reg)
  /-- `srli`, 40_rv64i:R352. -/
  | srli (rd rs1 : Reg) (shamt : BitVec 6)
  /-- `srliw`, 40_rv64i:R353. -/
  | srliw (rd rs1 : Reg) (shamt : BitVec 5)
  /-- `srlw`, 40_rv64i:R354. -/
  | srlw (rd rs1 rs2 : Reg)
  /-- `sra`, 40_rv64i:R355. -/
  | sra (rd rs1 rs2 : Reg)
  /-- `srai`, 40_rv64i:R356. -/
  | srai (rd rs1 : Reg) (shamt : BitVec 6)
  /-- `sraiw`, 40_rv64i:R357. -/
  | sraiw (rd rs1 : Reg) (shamt : BitVec 5)
  /-- `sraw`, 40_rv64i:R358. -/
  | sraw (rd rs1 rs2 : Reg)
  /-- `slt`, 40_rv64i:R359. -/
  | slt (rd rs1 rs2 : Reg)
  /-- `sltu`, 40_rv64i:R360. -/
  | sltu (rd rs1 rs2 : Reg)
  /-- `slti`, 40_rv64i:R361. -/
  | slti (rd rs1 : Reg) (imm12 : BitVec 12)
  /-- `sltiu`, 40_rv64i:R362. -/
  | sltiu (rd rs1 : Reg) (imm12 : BitVec 12)
  /-- `lui`, 40_rv64i:R363. -/
  | lui (rd : Reg) (imm20 : BitVec 20)
  /-- `auipc`, 40_rv64i:R364. -/
  | auipc (rd : Reg) (imm20 : BitVec 20)
  /-- `beq`, 40_rv64i:R365. -/
  | beq (rs1 rs2 : Reg) (off : BitVec 12)
  /-- `bne`, 40_rv64i:R366. -/
  | bne (rs1 rs2 : Reg) (off : BitVec 12)
  /-- `blt`, 40_rv64i:R367. -/
  | blt (rs1 rs2 : Reg) (off : BitVec 12)
  /-- `bge`, 40_rv64i:R368. -/
  | bge (rs1 rs2 : Reg) (off : BitVec 12)
  /-- `bltu`, 40_rv64i:R369. -/
  | bltu (rs1 rs2 : Reg) (off : BitVec 12)
  /-- `bgeu`, 40_rv64i:R370. -/
  | bgeu (rs1 rs2 : Reg) (off : BitVec 12)
  /-- `jal`, 40_rv64i:R371. -/
  | jal (rd : Reg) (off : BitVec 20)
  /-- `jalr`, 40_rv64i:R372. -/
  | jalr (rd rs1 : Reg) (imm12 : BitVec 12)
  /-- `lb`, 40_rv64i:R373. -/
  | lb (rd rs1 : Reg) (imm12 : BitVec 12)
  /-- `lbu`, 40_rv64i:R374. -/
  | lbu (rd rs1 : Reg) (imm12 : BitVec 12)
  /-- `lh`, 40_rv64i:R375. -/
  | lh (rd rs1 : Reg) (imm12 : BitVec 12)
  /-- `lhu`, 40_rv64i:R376. -/
  | lhu (rd rs1 : Reg) (imm12 : BitVec 12)
  /-- `lw`, 40_rv64i:R377. -/
  | lw (rd rs1 : Reg) (imm12 : BitVec 12)
  /-- `lwu`, 40_rv64i:R378. -/
  | lwu (rd rs1 : Reg) (imm12 : BitVec 12)
  /-- `ld`, 40_rv64i:R379. -/
  | ld (rd rs1 : Reg) (imm12 : BitVec 12)
  /-- `sb`, 40_rv64i:R380. -/
  | sb (rs2 rs1 : Reg) (imm12 : BitVec 12)
  /-- `sh`, 40_rv64i:R381. -/
  | sh (rs2 rs1 : Reg) (imm12 : BitVec 12)
  /-- `sw`, 40_rv64i:R382. -/
  | sw (rs2 rs1 : Reg) (imm12 : BitVec 12)
  /-- `sd`, 40_rv64i:R383. -/
  | sd (rs2 rs1 : Reg) (imm12 : BitVec 12)
  /-- `fence`, 40_rv64i:R384. -/
  | fence (fm pred succ : BitVec 4) (rs1 rd : Reg)
  /-- `fence.i`, 40_rv64i:R385. -/
  | fenceI (imm12 : BitVec 12) (rs1 rd : Reg)
  /-- `ecall`, 40_rv64i:R393. -/
  | ecall
  /-- `ebreak`, 40_rv64i:R394. -/
  | ebreak
  /-- `div`, 41_rv64m:R411. -/
  | div (rd rs1 rs2 : Reg)
  /-- `divu`, 41_rv64m:R412. -/
  | divu (rd rs1 rs2 : Reg)
  /-- `divuw`, 41_rv64m:R413. -/
  | divuw (rd rs1 rs2 : Reg)
  /-- `divw`, 41_rv64m:R414. -/
  | divw (rd rs1 rs2 : Reg)
  /-- `mul`, 41_rv64m:R415. -/
  | mul (rd rs1 rs2 : Reg)
  /-- `mulh`, 41_rv64m:R416. -/
  | mulh (rd rs1 rs2 : Reg)
  /-- `mulhsu`, 41_rv64m:R417. -/
  | mulhsu (rd rs1 rs2 : Reg)
  /-- `mulhu`, 41_rv64m:R418. -/
  | mulhu (rd rs1 rs2 : Reg)
  /-- `mulw`, 41_rv64m:R419. -/
  | mulw (rd rs1 rs2 : Reg)
  /-- `rem`, 41_rv64m:R420. -/
  | rem (rd rs1 rs2 : Reg)
  /-- `remu`, 41_rv64m:R421. -/
  | remu (rd rs1 rs2 : Reg)
  /-- `remuw`, 41_rv64m:R422. -/
  | remuw (rd rs1 rs2 : Reg)
  /-- `remw`, 41_rv64m:R423. -/
  | remw (rd rs1 rs2 : Reg)
  /-- `amoadd.d`, 42_rv64a:R438. -/
  | amoaddD (rd rs2 rs1 : Reg) (aq rl : BitVec 1)
  /-- `amoadd.w`, 42_rv64a:R439. -/
  | amoaddW (rd rs2 rs1 : Reg) (aq rl : BitVec 1)
  /-- `amoand.d`, 42_rv64a:R440. -/
  | amoandD (rd rs2 rs1 : Reg) (aq rl : BitVec 1)
  /-- `amoand.w`, 42_rv64a:R441. -/
  | amoandW (rd rs2 rs1 : Reg) (aq rl : BitVec 1)
  /-- `amomax.d`, 42_rv64a:R442. -/
  | amomaxD (rd rs2 rs1 : Reg) (aq rl : BitVec 1)
  /-- `amomax.w`, 42_rv64a:R443. -/
  | amomaxW (rd rs2 rs1 : Reg) (aq rl : BitVec 1)
  /-- `amomaxu.d`, 42_rv64a:R444. -/
  | amomaxuD (rd rs2 rs1 : Reg) (aq rl : BitVec 1)
  /-- `amomaxu.w`, 42_rv64a:R445. -/
  | amomaxuW (rd rs2 rs1 : Reg) (aq rl : BitVec 1)
  /-- `amomin.d`, 42_rv64a:R446. -/
  | amominD (rd rs2 rs1 : Reg) (aq rl : BitVec 1)
  /-- `amomin.w`, 42_rv64a:R447. -/
  | amominW (rd rs2 rs1 : Reg) (aq rl : BitVec 1)
  /-- `amominu.d`, 42_rv64a:R448. -/
  | amominuD (rd rs2 rs1 : Reg) (aq rl : BitVec 1)
  /-- `amominu.w`, 42_rv64a:R449. -/
  | amominuW (rd rs2 rs1 : Reg) (aq rl : BitVec 1)
  /-- `amoor.d`, 42_rv64a:R450. -/
  | amoorD (rd rs2 rs1 : Reg) (aq rl : BitVec 1)
  /-- `amoor.w`, 42_rv64a:R451. -/
  | amoorW (rd rs2 rs1 : Reg) (aq rl : BitVec 1)
  /-- `amoswap.d`, 42_rv64a:R452. -/
  | amoswapD (rd rs2 rs1 : Reg) (aq rl : BitVec 1)
  /-- `amoswap.w`, 42_rv64a:R453. -/
  | amoswapW (rd rs2 rs1 : Reg) (aq rl : BitVec 1)
  /-- `amoxor.d`, 42_rv64a:R454. -/
  | amoxorD (rd rs2 rs1 : Reg) (aq rl : BitVec 1)
  /-- `amoxor.w`, 42_rv64a:R455. -/
  | amoxorW (rd rs2 rs1 : Reg) (aq rl : BitVec 1)
  /-- `lr.d`, 42_rv64a:R456. -/
  | lrD (rd rs1 : Reg) (aq rl : BitVec 1)
  /-- `lr.w`, 42_rv64a:R457. -/
  | lrW (rd rs1 : Reg) (aq rl : BitVec 1)
  /-- `sc.d`, 42_rv64a:R458. -/
  | scD (rd rs2 rs1 : Reg) (aq rl : BitVec 1)
  /-- `sc.w`, 42_rv64a:R459. -/
  | scW (rd rs2 rs1 : Reg) (aq rl : BitVec 1)
  /-- `c.add`, 45_rv64c:R542. -/
  | cAdd (rd rs2 : Reg)
  /-- `c.addi`, 45_rv64c:R543. -/
  | cAddi (rd : Reg) (imm6 : BitVec 6)
  /-- `c.addiw`, 45_rv64c:R544. -/
  | cAddiw (rd : Reg) (imm6 : BitVec 6)
  /-- `c.addi4spn`, 45_rv64c:R545. -/
  | cAddi4spn (rd : Reg') (uimm8 : BitVec 8)
  /-- `c.addi16sp`, 45_rv64c:R546. -/
  | cAddi16sp (imm6 : BitVec 6)
  /-- `c.addw`, 45_rv64c:R547. -/
  | cAddw (rd rs2 : Reg')
  /-- `c.and`, 45_rv64c:R548. -/
  | cAnd (rd rs2 : Reg')
  /-- `c.andi`, 45_rv64c:R549. -/
  | cAndi (rd : Reg') (imm6 : BitVec 6)
  /-- `c.beqz`, 45_rv64c:R550. -/
  | cBeqz (rs1 : Reg') (off : BitVec 8)
  /-- `c.bnez`, 45_rv64c:R551. -/
  | cBnez (rs1 : Reg') (off : BitVec 8)
  /-- `c.ebreak`, 45_rv64c:R552. -/
  | cEbreak
  /-- `c.j`, 45_rv64c:R557. -/
  | cJ (off : BitVec 11)
  /-- `c.jalr`, 45_rv64c:R558. -/
  | cJalr (rs1 : Reg)
  /-- `c.jr`, 45_rv64c:R559. -/
  | cJr (rs1 : Reg)
  /-- `c.ld`, 45_rv64c:R560. -/
  | cLd (rd rs1 : Reg') (uimm5 : BitVec 5)
  /-- `c.ldsp`, 45_rv64c:R561. -/
  | cLdsp (rd : Reg) (uimm6 : BitVec 6)
  /-- `c.li`, 45_rv64c:R562. -/
  | cLi (rd : Reg) (imm6 : BitVec 6)
  /-- `c.lui`, 45_rv64c:R563. -/
  | cLui (rd : Reg) (imm6 : BitVec 6)
  /-- `c.lw`, 45_rv64c:R564. -/
  | cLw (rd rs1 : Reg') (uimm5 : BitVec 5)
  /-- `c.lwsp`, 45_rv64c:R565. -/
  | cLwsp (rd : Reg) (uimm6 : BitVec 6)
  /-- `c.mv`, 45_rv64c:R566. -/
  | cMv (rd rs2 : Reg)
  /-- `c.nop`, 45_rv64c:R567. -/
  | cNop
  /-- `c.or`, 45_rv64c:R568. -/
  | cOr (rd rs2 : Reg')
  /-- `c.sd`, 45_rv64c:R569. -/
  | cSd (rs2 rs1 : Reg') (uimm5 : BitVec 5)
  /-- `c.sdsp`, 45_rv64c:R570. -/
  | cSdsp (rs2 : Reg) (uimm6 : BitVec 6)
  /-- `c.slli`, 45_rv64c:R571. -/
  | cSlli (rd : Reg) (shamt : BitVec 6)
  /-- `c.srai`, 45_rv64c:R572. -/
  | cSrai (rd : Reg') (shamt : BitVec 6)
  /-- `c.srli`, 45_rv64c:R573. -/
  | cSrli (rd : Reg') (shamt : BitVec 6)
  /-- `c.sw`, 45_rv64c:R574. -/
  | cSw (rs2 rs1 : Reg') (uimm5 : BitVec 5)
  /-- `c.swsp`, 45_rv64c:R575. -/
  | cSwsp (rs2 : Reg) (uimm6 : BitVec 6)
  /-- `c.sub`, 45_rv64c:R576. -/
  | cSub (rd rs2 : Reg')
  /-- `c.subw`, 45_rv64c:R577. -/
  | cSubw (rd rs2 : Reg')
  /-- `c.xor`, 45_rv64c:R578. -/
  | cXor (rd rs2 : Reg')
  deriving DecidableEq, Repr

/-- An instruction's code: one 16-bit parcel or a 32-bit word (30_encoding:R280). -/
inductive Code where
  | half (c : BitVec 16)
  | full (c : BitVec 32)
  deriving DecidableEq, Repr

/-- Why the decoder refuses some bytes. Each is raised by `decode` and turned by the step into the illegal-instruction
exception (30_encoding:R281, R287), so each is safe. -/
inductive Reject where
  /-- fewer bytes than the instruction has -/
  | truncated
  /-- no row of the opcode table matches the code -/
  | noRow (c : Code)
  /-- a row matches, with an operand value the spec calls reserved or illegal -/
  | reservedOperand (c : Code)
  deriving DecidableEq, Repr

end Sys2Proof
end

