-- ==== Sys2Proof/WellFormed.lean ====
section
/-! DEFINITION. Which operand values an instruction may have: the constraints the spec names in the instruction's rule;
a code that breaks one is reserved or illegal and raises the illegal-instruction exception (30_encoding:R287). -/

namespace Sys2Proof

/-- A static rounding mode: codes 5 and 6 are illegal (30_encoding:R284). -/
def rmLegal (rm : BitVec 3) : Bool := rm != 5 && rm != 6

/-- The three registers of a pair load are pairwise different (47_thead_mem:R624, 93_implementation_defined:U26). -/
def distinct3 (a b c : Reg) : Bool := a != b && a != c && b != c

/-- Well-formedness of an instruction: its operand values are among those its rule admits. -/
def Instr.wf : Instr → Bool
  | .add _ _ _ => true
  | .addi _ _ _ => true
  | .addiw _ _ _ => true
  | .addw _ _ _ => true
  | .sub _ _ _ => true
  | .subw _ _ _ => true
  | .and _ _ _ => true
  | .andi _ _ _ => true
  | .or _ _ _ => true
  | .ori _ _ _ => true
  | .xor _ _ _ => true
  | .xori _ _ _ => true
  | .sll _ _ _ => true
  | .slli _ _ _ => true
  | .slliw _ _ _ => true
  | .sllw _ _ _ => true
  | .srl _ _ _ => true
  | .srli _ _ _ => true
  | .srliw _ _ _ => true
  | .srlw _ _ _ => true
  | .sra _ _ _ => true
  | .srai _ _ _ => true
  | .sraiw _ _ _ => true
  | .sraw _ _ _ => true
  | .slt _ _ _ => true
  | .sltu _ _ _ => true
  | .slti _ _ _ => true
  | .sltiu _ _ _ => true
  | .lui _ _ => true
  | .auipc _ _ => true
  | .beq _ _ _ => true
  | .bne _ _ _ => true
  | .blt _ _ _ => true
  | .bge _ _ _ => true
  | .bltu _ _ _ => true
  | .bgeu _ _ _ => true
  | .jal _ _ => true
  | .jalr _ _ _ => true
  | .lb _ _ _ => true
  | .lbu _ _ _ => true
  | .lh _ _ _ => true
  | .lhu _ _ _ => true
  | .lw _ _ _ => true
  | .lwu _ _ _ => true
  | .ld _ _ _ => true
  | .sb _ _ _ => true
  | .sh _ _ _ => true
  | .sw _ _ _ => true
  | .sd _ _ _ => true
  | .fence _ _ _ _ _ => true
  | .fenceI _ _ _ => true
  | .csrrw _ _ _ => true
  | .csrrs _ _ _ => true
  | .csrrc _ _ _ => true
  | .csrrwi _ _ _ => true
  | .csrrsi _ _ _ => true
  | .csrrci _ _ _ => true
  | .ecall => true
  | .ebreak => true
  | .sret => true
  | .mret => true
  | .sfenceVma _ _ => true
  | .wfi => true
  | .div _ _ _ => true
  | .divu _ _ _ => true
  | .divuw _ _ _ => true
  | .divw _ _ _ => true
  | .mul _ _ _ => true
  | .mulh _ _ _ => true
  | .mulhsu _ _ _ => true
  | .mulhu _ _ _ => true
  | .mulw _ _ _ => true
  | .rem _ _ _ => true
  | .remu _ _ _ => true
  | .remuw _ _ _ => true
  | .remw _ _ _ => true
  | .amoaddD _ _ _ _ _ => true
  | .amoaddW _ _ _ _ _ => true
  | .amoandD _ _ _ _ _ => true
  | .amoandW _ _ _ _ _ => true
  | .amomaxD _ _ _ _ _ => true
  | .amomaxW _ _ _ _ _ => true
  | .amomaxuD _ _ _ _ _ => true
  | .amomaxuW _ _ _ _ _ => true
  | .amominD _ _ _ _ _ => true
  | .amominW _ _ _ _ _ => true
  | .amominuD _ _ _ _ _ => true
  | .amominuW _ _ _ _ _ => true
  | .amoorD _ _ _ _ _ => true
  | .amoorW _ _ _ _ _ => true
  | .amoswapD _ _ _ _ _ => true
  | .amoswapW _ _ _ _ _ => true
  | .amoxorD _ _ _ _ _ => true
  | .amoxorW _ _ _ _ _ => true
  | .lrD _ _ _ _ => true
  | .lrW _ _ _ _ => true
  | .scD _ _ _ _ _ => true
  | .scW _ _ _ _ _ => true
  | .faddS _ _ _ rm => rmLegal rm
  | .fclassS _ _ => true
  | .fcvtLS _ _ rm => rmLegal rm
  | .fcvtLuS _ _ rm => rmLegal rm
  | .fcvtSL _ _ rm => rmLegal rm
  | .fcvtSLu _ _ rm => rmLegal rm
  | .fcvtSW _ _ rm => rmLegal rm
  | .fcvtSWu _ _ rm => rmLegal rm
  | .fcvtWS _ _ rm => rmLegal rm
  | .fcvtWuS _ _ rm => rmLegal rm
  | .fdivS _ _ _ rm => rmLegal rm
  | .feqS _ _ _ => true
  | .fleS _ _ _ => true
  | .fltS _ _ _ => true
  | .flw _ _ _ => true
  | .fmaddS _ _ _ _ rm => rmLegal rm
  | .fmaxS _ _ _ => true
  | .fminS _ _ _ => true
  | .fmsubS _ _ _ _ rm => rmLegal rm
  | .fmulS _ _ _ rm => rmLegal rm
  | .fmvWX _ _ => true
  | .fmvXW _ _ => true
  | .fnmaddS _ _ _ _ rm => rmLegal rm
  | .fnmsubS _ _ _ _ rm => rmLegal rm
  | .fsgnjS _ _ _ => true
  | .fsgnjnS _ _ _ => true
  | .fsgnjxS _ _ _ => true
  | .fsqrtS _ _ rm => rmLegal rm
  | .fsubS _ _ _ rm => rmLegal rm
  | .fsw _ _ _ => true
  | .faddD _ _ _ rm => rmLegal rm
  | .fclassD _ _ => true
  | .fcvtDL _ _ rm => rmLegal rm
  | .fcvtDLu _ _ rm => rmLegal rm
  | .fcvtDS _ _ rm => rmLegal rm
  | .fcvtDW _ _ rm => rmLegal rm
  | .fcvtDWu _ _ rm => rmLegal rm
  | .fcvtLD _ _ rm => rmLegal rm
  | .fcvtLuD _ _ rm => rmLegal rm
  | .fcvtSD _ _ rm => rmLegal rm
  | .fcvtWD _ _ rm => rmLegal rm
  | .fcvtWuD _ _ rm => rmLegal rm
  | .fdivD _ _ _ rm => rmLegal rm
  | .feqD _ _ _ => true
  | .fld _ _ _ => true
  | .fleD _ _ _ => true
  | .fltD _ _ _ => true
  | .fmaddD _ _ _ _ rm => rmLegal rm
  | .fmaxD _ _ _ => true
  | .fminD _ _ _ => true
  | .fmsubD _ _ _ _ rm => rmLegal rm
  | .fmulD _ _ _ rm => rmLegal rm
  | .fmvDX _ _ => true
  | .fmvXD _ _ => true
  | .fnmaddD _ _ _ _ rm => rmLegal rm
  | .fnmsubD _ _ _ _ rm => rmLegal rm
  | .fsd _ _ _ => true
  | .fsgnjD _ _ _ => true
  | .fsgnjnD _ _ _ => true
  | .fsgnjxD _ _ _ => true
  | .fsqrtD _ _ rm => rmLegal rm
  | .fsubD _ _ _ rm => rmLegal rm
  | .cAdd _ rs2 => rs2 != 0
  | .cAddi rd imm6 => !(rd == 0 && imm6 == 0)
  | .cAddiw rd _ => rd != 0
  | .cAddi4spn _ uimm8 => uimm8 != 0
  | .cAddi16sp imm6 => imm6 != 0
  | .cAddw _ _ => true
  | .cAnd _ _ => true
  | .cAndi _ _ => true
  | .cBeqz _ _ => true
  | .cBnez _ _ => true
  | .cEbreak => true
  | .cFld _ _ _ => true
  | .cFldsp _ _ => true
  | .cFsd _ _ _ => true
  | .cFsdsp _ _ => true
  | .cJ _ => true
  | .cJalr rs1 => rs1 != 0
  | .cJr rs1 => rs1 != 0
  | .cLd _ _ _ => true
  | .cLdsp rd _ => rd != 0
  | .cLi _ _ => true
  | .cLui rd imm6 => rd != 2 && imm6 != 0
  | .cLw _ _ _ => true
  | .cLwsp rd _ => rd != 0
  | .cMv _ rs2 => rs2 != 0
  | .cNop => true
  | .cOr _ _ => true
  | .cSd _ _ _ => true
  | .cSdsp _ _ => true
  | .cSlli _ _ => true
  | .cSrai _ _ => true
  | .cSrli _ _ => true
  | .cSw _ _ _ => true
  | .cSwsp _ _ => true
  | .cSub _ _ => true
  | .cSubw _ _ => true
  | .cXor _ _ => true
  | .addsl _ _ _ _ => true
  | .mula _ _ _ => true
  | .mulah _ _ _ => true
  | .mulaw _ _ _ => true
  | .muls _ _ _ => true
  | .mulsh _ _ _ => true
  | .mulsw _ _ _ => true
  | .mveqz _ _ _ => true
  | .mvnez _ _ _ => true
  | .srri _ _ _ => true
  | .srriw _ _ _ => true
  | .ext _ _ _ _ => true
  | .extu _ _ _ _ => true
  | .ff0 _ _ => true
  | .ff1 _ _ => true
  | .rev _ _ => true
  | .revw _ _ => true
  | .tst _ _ _ => true
  | .tstnbz _ _ => true
  | .flrd _ _ _ _ => true
  | .flrw _ _ _ _ => true
  | .flurd _ _ _ _ => true
  | .flurw _ _ _ _ => true
  | .fsrd _ _ _ _ => true
  | .fsrw _ _ _ _ => true
  | .fsurd _ _ _ _ => true
  | .fsurw _ _ _ _ => true
  | .lbia rd rs1 _ _ => rd != rs1
  | .lbib rd rs1 _ _ => rd != rs1
  | .lbuia rd rs1 _ _ => rd != rs1
  | .lbuib rd rs1 _ _ => rd != rs1
  | .ldd rd1 rd2 rs1 _ => distinct3 rd1 rd2 rs1
  | .ldia rd rs1 _ _ => rd != rs1
  | .ldib rd rs1 _ _ => rd != rs1
  | .lhia rd rs1 _ _ => rd != rs1
  | .lhib rd rs1 _ _ => rd != rs1
  | .lhuia rd rs1 _ _ => rd != rs1
  | .lhuib rd rs1 _ _ => rd != rs1
  | .lrb _ _ _ _ => true
  | .lrbu _ _ _ _ => true
  | .lrd _ _ _ _ => true
  | .lrh _ _ _ _ => true
  | .lrhu _ _ _ _ => true
  | .lrw _ _ _ _ => true
  | .lrwu _ _ _ _ => true
  | .lurb _ _ _ _ => true
  | .lurbu _ _ _ _ => true
  | .lurd _ _ _ _ => true
  | .lurh _ _ _ _ => true
  | .lurhu _ _ _ _ => true
  | .lurw _ _ _ _ => true
  | .lurwu _ _ _ _ => true
  | .lwd rd1 rd2 rs1 _ => distinct3 rd1 rd2 rs1
  | .lwia rd rs1 _ _ => rd != rs1
  | .lwib rd rs1 _ _ => rd != rs1
  | .lwud rd1 rd2 rs1 _ => distinct3 rd1 rd2 rs1
  | .lwuia rd rs1 _ _ => rd != rs1
  | .lwuib rd rs1 _ _ => rd != rs1
  | .sbia _ _ _ _ => true
  | .sbib _ _ _ _ => true
  | .sdd _ _ _ _ => true
  | .sdia _ _ _ _ => true
  | .sdib _ _ _ _ => true
  | .shia _ _ _ _ => true
  | .shib _ _ _ _ => true
  | .srb _ _ _ _ => true
  | .srd _ _ _ _ => true
  | .srh _ _ _ _ => true
  | .srw _ _ _ _ => true
  | .surb _ _ _ _ => true
  | .surd _ _ _ _ => true
  | .surh _ _ _ _ => true
  | .surw _ _ _ _ => true
  | .swia _ _ _ _ => true
  | .swib _ _ _ _ => true
  | .swd _ _ _ _ => true
  | .dcacheCall => true
  | .dcacheCiall => true
  | .dcacheCipa _ => true
  | .dcacheCisw _ => true
  | .dcacheCiva _ => true
  | .dcacheCpa _ => true
  | .dcacheCpal1 _ => true
  | .dcacheCva _ => true
  | .dcacheCval1 _ => true
  | .dcacheIpa _ => true
  | .dcacheIsw _ => true
  | .dcacheIva _ => true
  | .dcacheIall => true
  | .icacheIall => true
  | .icacheIalls => true
  | .icacheIpa _ => true
  | .icacheIva _ => true
  | .l2cacheCall => true
  | .l2cacheCiall => true
  | .l2cacheIall => true
  | .dcacheCsw _ => true
  | .sfenceVmas _ _ => true
  | .sync => true
  | .syncS => true
  | .syncI => true
  | .syncIs => true
  | .faddH _ _ _ rm => rmLegal rm
  | .fclassH _ _ => true
  | .fcvtDH _ _ rm => rmLegal rm
  | .fcvtHD _ _ rm => rmLegal rm
  | .fcvtHL _ _ rm => rmLegal rm
  | .fcvtHLu _ _ rm => rmLegal rm
  | .fcvtHS _ _ rm => rmLegal rm
  | .fcvtHW _ _ rm => rmLegal rm
  | .fcvtHWu _ _ rm => rmLegal rm
  | .fcvtLH _ _ rm => rmLegal rm
  | .fcvtLuH _ _ rm => rmLegal rm
  | .fcvtSH _ _ rm => rmLegal rm
  | .fcvtWH _ _ rm => rmLegal rm
  | .fcvtWuH _ _ rm => rmLegal rm
  | .fdivH _ _ _ rm => rmLegal rm
  | .feqH _ _ _ => true
  | .fleH _ _ _ => true
  | .flh _ _ _ => true
  | .fltH _ _ _ => true
  | .fmaddH _ _ _ _ rm => rmLegal rm
  | .fmaxH _ _ _ => true
  | .fminH _ _ _ => true
  | .fmsubH _ _ _ _ rm => rmLegal rm
  | .fmulH _ _ _ rm => rmLegal rm
  | .fmvHX _ _ => true
  | .fmvXH _ _ => true
  | .fnmaddH _ _ _ _ rm => rmLegal rm
  | .fnmsubH _ _ _ _ rm => rmLegal rm
  | .fsgnjH _ _ _ => true
  | .fsgnjnH _ _ _ => true
  | .fsgnjxH _ _ _ => true
  | .fsh _ _ _ => true
  | .fsqrtH _ _ rm => rmLegal rm
  | .fsubH _ _ _ rm => rmLegal rm

end Sys2Proof
end

