-- ==== Sys2Proof/Decode.lean ====
section
/-! DEFINITION. The decoder and the encoder, written from the formats of 30_encoding:R282 to R286 and the per-instruction
encodings. A 32-bit code is split once into the six pieces all formats share, a 16-bit code into five; a row is a test on
pieces and the operands put together from them. -/

namespace Sys2Proof

/-- `len` bits of `w` from bit `lo` up. -/
def bits (w lo len : Nat) : Nat := w / 2 ^ lo % 2 ^ len

/-- A 32-bit code from its pieces `bits[31:25] [24:20] [19:15] [14:12] [11:7] [6:0]` (30_encoding:R282). -/
def word32 (f7 b a f3 d op : Nat) : BitVec 32 :=
  .ofNat 32 (f7 * 33554432 + b * 1048576 + a * 32768 + f3 * 4096 + d * 128 + op)

/-- A 16-bit code from its pieces `bits[15:13] [12] [11:7] [6:2] [1:0]` (30_encoding:R285). -/
def word16 (f3 e r t q : Nat) : BitVec 16 := .ofNat 16 (f3 * 8192 + e * 4096 + r * 128 + t * 4 + q)

noncomputable section

/-- Opcode 0x03 (30_encoding:R283). -/
def decodeLoad : Nat → Nat → Nat → Nat → Nat → Option Instr := fun f7 b a f3 d =>
  if f3 = 0 then some (.lb (.ofNat 5 d) (.ofNat 5 a) (.ofNat 12 (f7 * 32 + b)))
  else if f3 = 4 then some (.lbu (.ofNat 5 d) (.ofNat 5 a) (.ofNat 12 (f7 * 32 + b)))
  else if f3 = 1 then some (.lh (.ofNat 5 d) (.ofNat 5 a) (.ofNat 12 (f7 * 32 + b)))
  else if f3 = 5 then some (.lhu (.ofNat 5 d) (.ofNat 5 a) (.ofNat 12 (f7 * 32 + b)))
  else if f3 = 2 then some (.lw (.ofNat 5 d) (.ofNat 5 a) (.ofNat 12 (f7 * 32 + b)))
  else if f3 = 6 then some (.lwu (.ofNat 5 d) (.ofNat 5 a) (.ofNat 12 (f7 * 32 + b)))
  else if f3 = 3 then some (.ld (.ofNat 5 d) (.ofNat 5 a) (.ofNat 12 (f7 * 32 + b)))
  else none

/-- Opcode 0x07 (30_encoding:R283). -/
def decodeLoadFp : Nat → Nat → Nat → Nat → Nat → Option Instr := fun f7 b a f3 d =>
  if f3 = 2 then some (.flw (.ofNat 5 d) (.ofNat 5 a) (.ofNat 12 (f7 * 32 + b)))
  else if f3 = 3 then some (.fld (.ofNat 5 d) (.ofNat 5 a) (.ofNat 12 (f7 * 32 + b)))
  else if f3 = 1 then some (.flh (.ofNat 5 d) (.ofNat 5 a) (.ofNat 12 (f7 * 32 + b)))
  else none

/-- Opcode 0x0b, funct3 = 0, 30_encoding:R286. -/
def decodeCustom0_0 : Nat → Nat → Nat → Nat → Nat → Option Instr := fun f7 b a _ d =>
  if f7 = 0 ∧ b = 1 ∧ a = 0 ∧ d = 0 then some (.dcacheCall)
  else if f7 = 0 ∧ b = 3 ∧ a = 0 ∧ d = 0 then some (.dcacheCiall)
  else if f7 = 1 ∧ b = 11 ∧ d = 0 then some (.dcacheCipa (.ofNat 5 a))
  else if f7 = 1 ∧ b = 3 ∧ d = 0 then some (.dcacheCisw (.ofNat 5 a))
  else if f7 = 1 ∧ b = 7 ∧ d = 0 then some (.dcacheCiva (.ofNat 5 a))
  else if f7 = 1 ∧ b = 9 ∧ d = 0 then some (.dcacheCpa (.ofNat 5 a))
  else if f7 = 1 ∧ b = 8 ∧ d = 0 then some (.dcacheCpal1 (.ofNat 5 a))
  else if f7 = 1 ∧ b = 5 ∧ d = 0 then some (.dcacheCva (.ofNat 5 a))
  else if f7 = 1 ∧ b = 4 ∧ d = 0 then some (.dcacheCval1 (.ofNat 5 a))
  else if f7 = 1 ∧ b = 10 ∧ d = 0 then some (.dcacheIpa (.ofNat 5 a))
  else if f7 = 1 ∧ b = 2 ∧ d = 0 then some (.dcacheIsw (.ofNat 5 a))
  else if f7 = 1 ∧ b = 6 ∧ d = 0 then some (.dcacheIva (.ofNat 5 a))
  else if f7 = 0 ∧ b = 2 ∧ a = 0 ∧ d = 0 then some (.dcacheIall)
  else if f7 = 0 ∧ b = 16 ∧ a = 0 ∧ d = 0 then some (.icacheIall)
  else if f7 = 0 ∧ b = 17 ∧ a = 0 ∧ d = 0 then some (.icacheIalls)
  else if f7 = 1 ∧ b = 24 ∧ d = 0 then some (.icacheIpa (.ofNat 5 a))
  else if f7 = 1 ∧ b = 16 ∧ d = 0 then some (.icacheIva (.ofNat 5 a))
  else if f7 = 0 ∧ b = 21 ∧ a = 0 ∧ d = 0 then some (.l2cacheCall)
  else if f7 = 0 ∧ b = 23 ∧ a = 0 ∧ d = 0 then some (.l2cacheCiall)
  else if f7 = 0 ∧ b = 22 ∧ a = 0 ∧ d = 0 then some (.l2cacheIall)
  else if f7 = 1 ∧ b = 1 ∧ d = 0 then some (.dcacheCsw (.ofNat 5 a))
  else if f7 = 2 ∧ d = 0 then some (.sfenceVmas (.ofNat 5 a) (.ofNat 5 b))
  else if f7 = 0 ∧ b = 24 ∧ a = 0 ∧ d = 0 then some (.sync)
  else if f7 = 0 ∧ b = 25 ∧ a = 0 ∧ d = 0 then some (.syncS)
  else if f7 = 0 ∧ b = 26 ∧ a = 0 ∧ d = 0 then some (.syncI)
  else if f7 = 0 ∧ b = 27 ∧ a = 0 ∧ d = 0 then some (.syncIs)
  else none

/-- Opcode 0x0b, funct3 = 1, 30_encoding:R286. -/
def decodeCustom0_1 : Nat → Nat → Nat → Nat → Nat → Option Instr := fun f7 b a _ d =>
  if f7 / 4 = 0 then some (.addsl (.ofNat 5 d) (.ofNat 5 a) (.ofNat 5 b) (.ofNat 2 f7))
  else if f7 = 16 then some (.mula (.ofNat 5 d) (.ofNat 5 a) (.ofNat 5 b))
  else if f7 = 20 then some (.mulah (.ofNat 5 d) (.ofNat 5 a) (.ofNat 5 b))
  else if f7 = 18 then some (.mulaw (.ofNat 5 d) (.ofNat 5 a) (.ofNat 5 b))
  else if f7 = 17 then some (.muls (.ofNat 5 d) (.ofNat 5 a) (.ofNat 5 b))
  else if f7 = 21 then some (.mulsh (.ofNat 5 d) (.ofNat 5 a) (.ofNat 5 b))
  else if f7 = 19 then some (.mulsw (.ofNat 5 d) (.ofNat 5 a) (.ofNat 5 b))
  else if f7 = 32 then some (.mveqz (.ofNat 5 d) (.ofNat 5 a) (.ofNat 5 b))
  else if f7 = 33 then some (.mvnez (.ofNat 5 d) (.ofNat 5 a) (.ofNat 5 b))
  else if f7 / 2 = 4 then some (.srri (.ofNat 5 d) (.ofNat 5 a) (.ofNat 6 (f7 % 2 * 32 + b)))
  else if f7 = 10 then some (.srriw (.ofNat 5 d) (.ofNat 5 a) (.ofNat 5 b))
  else if f7 = 66 ∧ b = 0 then some (.ff0 (.ofNat 5 d) (.ofNat 5 a))
  else if f7 = 67 ∧ b = 0 then some (.ff1 (.ofNat 5 d) (.ofNat 5 a))
  else if f7 = 65 ∧ b = 0 then some (.rev (.ofNat 5 d) (.ofNat 5 a))
  else if f7 = 72 ∧ b = 0 then some (.revw (.ofNat 5 d) (.ofNat 5 a))
  else if f7 / 2 = 34 then some (.tst (.ofNat 5 d) (.ofNat 5 a) (.ofNat 6 (f7 % 2 * 32 + b)))
  else if f7 = 64 ∧ b = 0 then some (.tstnbz (.ofNat 5 d) (.ofNat 5 a))
  else none

/-- Opcode 0x0b, funct3 = 2, 30_encoding:R286. -/
def decodeCustom0_2 : Nat → Nat → Nat → Nat → Nat → Option Instr := fun f7 b a _ d =>
  some (.ext (.ofNat 5 d) (.ofNat 5 a) (.ofNat 6 (f7 / 2)) (.ofNat 6 (f7 % 2 * 32 + b)))

/-- Opcode 0x0b, funct3 = 3, 30_encoding:R286. -/
def decodeCustom0_3 : Nat → Nat → Nat → Nat → Nat → Option Instr := fun f7 b a _ d =>
  some (.extu (.ofNat 5 d) (.ofNat 5 a) (.ofNat 6 (f7 / 2)) (.ofNat 6 (f7 % 2 * 32 + b)))

/-- Opcode 0x0b, funct3 = 4, 30_encoding:R286. -/
def decodeCustom0_4 : Nat → Nat → Nat → Nat → Nat → Option Instr := fun f7 b a _ d =>
  if f7 / 4 = 3 then some (.lbia (.ofNat 5 d) (.ofNat 5 a) (.ofNat 5 b) (.ofNat 2 f7))
  else if f7 / 4 = 1 then some (.lbib (.ofNat 5 d) (.ofNat 5 a) (.ofNat 5 b) (.ofNat 2 f7))
  else if f7 / 4 = 19 then some (.lbuia (.ofNat 5 d) (.ofNat 5 a) (.ofNat 5 b) (.ofNat 2 f7))
  else if f7 / 4 = 17 then some (.lbuib (.ofNat 5 d) (.ofNat 5 a) (.ofNat 5 b) (.ofNat 2 f7))
  else if f7 / 4 = 31 then some (.ldd (.ofNat 5 d) (.ofNat 5 b) (.ofNat 5 a) (.ofNat 2 f7))
  else if f7 / 4 = 15 then some (.ldia (.ofNat 5 d) (.ofNat 5 a) (.ofNat 5 b) (.ofNat 2 f7))
  else if f7 / 4 = 13 then some (.ldib (.ofNat 5 d) (.ofNat 5 a) (.ofNat 5 b) (.ofNat 2 f7))
  else if f7 / 4 = 7 then some (.lhia (.ofNat 5 d) (.ofNat 5 a) (.ofNat 5 b) (.ofNat 2 f7))
  else if f7 / 4 = 5 then some (.lhib (.ofNat 5 d) (.ofNat 5 a) (.ofNat 5 b) (.ofNat 2 f7))
  else if f7 / 4 = 23 then some (.lhuia (.ofNat 5 d) (.ofNat 5 a) (.ofNat 5 b) (.ofNat 2 f7))
  else if f7 / 4 = 21 then some (.lhuib (.ofNat 5 d) (.ofNat 5 a) (.ofNat 5 b) (.ofNat 2 f7))
  else if f7 / 4 = 0 then some (.lrb (.ofNat 5 d) (.ofNat 5 a) (.ofNat 5 b) (.ofNat 2 f7))
  else if f7 / 4 = 16 then some (.lrbu (.ofNat 5 d) (.ofNat 5 a) (.ofNat 5 b) (.ofNat 2 f7))
  else if f7 / 4 = 12 then some (.lrd (.ofNat 5 d) (.ofNat 5 a) (.ofNat 5 b) (.ofNat 2 f7))
  else if f7 / 4 = 4 then some (.lrh (.ofNat 5 d) (.ofNat 5 a) (.ofNat 5 b) (.ofNat 2 f7))
  else if f7 / 4 = 20 then some (.lrhu (.ofNat 5 d) (.ofNat 5 a) (.ofNat 5 b) (.ofNat 2 f7))
  else if f7 / 4 = 8 then some (.lrw (.ofNat 5 d) (.ofNat 5 a) (.ofNat 5 b) (.ofNat 2 f7))
  else if f7 / 4 = 24 then some (.lrwu (.ofNat 5 d) (.ofNat 5 a) (.ofNat 5 b) (.ofNat 2 f7))
  else if f7 / 4 = 2 then some (.lurb (.ofNat 5 d) (.ofNat 5 a) (.ofNat 5 b) (.ofNat 2 f7))
  else if f7 / 4 = 18 then some (.lurbu (.ofNat 5 d) (.ofNat 5 a) (.ofNat 5 b) (.ofNat 2 f7))
  else if f7 / 4 = 14 then some (.lurd (.ofNat 5 d) (.ofNat 5 a) (.ofNat 5 b) (.ofNat 2 f7))
  else if f7 / 4 = 6 then some (.lurh (.ofNat 5 d) (.ofNat 5 a) (.ofNat 5 b) (.ofNat 2 f7))
  else if f7 / 4 = 22 then some (.lurhu (.ofNat 5 d) (.ofNat 5 a) (.ofNat 5 b) (.ofNat 2 f7))
  else if f7 / 4 = 10 then some (.lurw (.ofNat 5 d) (.ofNat 5 a) (.ofNat 5 b) (.ofNat 2 f7))
  else if f7 / 4 = 26 then some (.lurwu (.ofNat 5 d) (.ofNat 5 a) (.ofNat 5 b) (.ofNat 2 f7))
  else if f7 / 4 = 28 then some (.lwd (.ofNat 5 d) (.ofNat 5 b) (.ofNat 5 a) (.ofNat 2 f7))
  else if f7 / 4 = 11 then some (.lwia (.ofNat 5 d) (.ofNat 5 a) (.ofNat 5 b) (.ofNat 2 f7))
  else if f7 / 4 = 9 then some (.lwib (.ofNat 5 d) (.ofNat 5 a) (.ofNat 5 b) (.ofNat 2 f7))
  else if f7 / 4 = 30 then some (.lwud (.ofNat 5 d) (.ofNat 5 b) (.ofNat 5 a) (.ofNat 2 f7))
  else if f7 / 4 = 27 then some (.lwuia (.ofNat 5 d) (.ofNat 5 a) (.ofNat 5 b) (.ofNat 2 f7))
  else if f7 / 4 = 25 then some (.lwuib (.ofNat 5 d) (.ofNat 5 a) (.ofNat 5 b) (.ofNat 2 f7))
  else none

/-- Opcode 0x0b, funct3 = 5, 30_encoding:R286. -/
def decodeCustom0_5 : Nat → Nat → Nat → Nat → Nat → Option Instr := fun f7 b a _ d =>
  if f7 / 4 = 3 then some (.sbia (.ofNat 5 d) (.ofNat 5 a) (.ofNat 5 b) (.ofNat 2 f7))
  else if f7 / 4 = 1 then some (.sbib (.ofNat 5 d) (.ofNat 5 a) (.ofNat 5 b) (.ofNat 2 f7))
  else if f7 / 4 = 31 then some (.sdd (.ofNat 5 d) (.ofNat 5 b) (.ofNat 5 a) (.ofNat 2 f7))
  else if f7 / 4 = 15 then some (.sdia (.ofNat 5 d) (.ofNat 5 a) (.ofNat 5 b) (.ofNat 2 f7))
  else if f7 / 4 = 13 then some (.sdib (.ofNat 5 d) (.ofNat 5 a) (.ofNat 5 b) (.ofNat 2 f7))
  else if f7 / 4 = 7 then some (.shia (.ofNat 5 d) (.ofNat 5 a) (.ofNat 5 b) (.ofNat 2 f7))
  else if f7 / 4 = 5 then some (.shib (.ofNat 5 d) (.ofNat 5 a) (.ofNat 5 b) (.ofNat 2 f7))
  else if f7 / 4 = 0 then some (.srb (.ofNat 5 d) (.ofNat 5 a) (.ofNat 5 b) (.ofNat 2 f7))
  else if f7 / 4 = 12 then some (.srd (.ofNat 5 d) (.ofNat 5 a) (.ofNat 5 b) (.ofNat 2 f7))
  else if f7 / 4 = 4 then some (.srh (.ofNat 5 d) (.ofNat 5 a) (.ofNat 5 b) (.ofNat 2 f7))
  else if f7 / 4 = 8 then some (.srw (.ofNat 5 d) (.ofNat 5 a) (.ofNat 5 b) (.ofNat 2 f7))
  else if f7 / 4 = 2 then some (.surb (.ofNat 5 d) (.ofNat 5 a) (.ofNat 5 b) (.ofNat 2 f7))
  else if f7 / 4 = 14 then some (.surd (.ofNat 5 d) (.ofNat 5 a) (.ofNat 5 b) (.ofNat 2 f7))
  else if f7 / 4 = 6 then some (.surh (.ofNat 5 d) (.ofNat 5 a) (.ofNat 5 b) (.ofNat 2 f7))
  else if f7 / 4 = 10 then some (.surw (.ofNat 5 d) (.ofNat 5 a) (.ofNat 5 b) (.ofNat 2 f7))
  else if f7 / 4 = 11 then some (.swia (.ofNat 5 d) (.ofNat 5 a) (.ofNat 5 b) (.ofNat 2 f7))
  else if f7 / 4 = 9 then some (.swib (.ofNat 5 d) (.ofNat 5 a) (.ofNat 5 b) (.ofNat 2 f7))
  else if f7 / 4 = 28 then some (.swd (.ofNat 5 d) (.ofNat 5 b) (.ofNat 5 a) (.ofNat 2 f7))
  else none

/-- Opcode 0x0b, funct3 = 6, 30_encoding:R286. -/
def decodeCustom0_6 : Nat → Nat → Nat → Nat → Nat → Option Instr := fun f7 b a _ d =>
  if f7 / 4 = 12 then some (.flrd (.ofNat 5 d) (.ofNat 5 a) (.ofNat 5 b) (.ofNat 2 f7))
  else if f7 / 4 = 8 then some (.flrw (.ofNat 5 d) (.ofNat 5 a) (.ofNat 5 b) (.ofNat 2 f7))
  else if f7 / 4 = 14 then some (.flurd (.ofNat 5 d) (.ofNat 5 a) (.ofNat 5 b) (.ofNat 2 f7))
  else if f7 / 4 = 10 then some (.flurw (.ofNat 5 d) (.ofNat 5 a) (.ofNat 5 b) (.ofNat 2 f7))
  else none

/-- Opcode 0x0b, funct3 = 7, 30_encoding:R286. -/
def decodeCustom0_7 : Nat → Nat → Nat → Nat → Nat → Option Instr := fun f7 b a _ d =>
  if f7 / 4 = 12 then some (.fsrd (.ofNat 5 d) (.ofNat 5 a) (.ofNat 5 b) (.ofNat 2 f7))
  else if f7 / 4 = 8 then some (.fsrw (.ofNat 5 d) (.ofNat 5 a) (.ofNat 5 b) (.ofNat 2 f7))
  else if f7 / 4 = 14 then some (.fsurd (.ofNat 5 d) (.ofNat 5 a) (.ofNat 5 b) (.ofNat 2 f7))
  else if f7 / 4 = 10 then some (.fsurw (.ofNat 5 d) (.ofNat 5 a) (.ofNat 5 b) (.ofNat 2 f7))
  else none

/-- Opcode 0x0b. -/
def decodeCustom0 (f7 b a f3 d : Nat) : Option Instr :=
  match f3 with
  | 0 => decodeCustom0_0 f7 b a f3 d
  | 1 => decodeCustom0_1 f7 b a f3 d
  | 2 => decodeCustom0_2 f7 b a f3 d
  | 3 => decodeCustom0_3 f7 b a f3 d
  | 4 => decodeCustom0_4 f7 b a f3 d
  | 5 => decodeCustom0_5 f7 b a f3 d
  | 6 => decodeCustom0_6 f7 b a f3 d
  | 7 => decodeCustom0_7 f7 b a f3 d
  | _ => none

/-- Opcode 0x0f (30_encoding:R283). -/
def decodeMiscMem : Nat → Nat → Nat → Nat → Nat → Option Instr := fun f7 b a f3 d =>
  if f3 = 0 then some (.fence (.ofNat 4 (f7 / 8)) (.ofNat 4 (f7 % 8 * 2 + b / 16)) (.ofNat 4 b) (.ofNat 5 a) (.ofNat 5 d))
  else if f3 = 1 then some (.fenceI (.ofNat 12 (f7 * 32 + b)) (.ofNat 5 a) (.ofNat 5 d))
  else none

/-- Opcode 0x13 (30_encoding:R283). -/
def decodeOpImm : Nat → Nat → Nat → Nat → Nat → Option Instr := fun f7 b a f3 d =>
  if f3 = 0 then some (.addi (.ofNat 5 d) (.ofNat 5 a) (.ofNat 12 (f7 * 32 + b)))
  else if f3 = 7 then some (.andi (.ofNat 5 d) (.ofNat 5 a) (.ofNat 12 (f7 * 32 + b)))
  else if f3 = 6 then some (.ori (.ofNat 5 d) (.ofNat 5 a) (.ofNat 12 (f7 * 32 + b)))
  else if f3 = 4 then some (.xori (.ofNat 5 d) (.ofNat 5 a) (.ofNat 12 (f7 * 32 + b)))
  else if f3 = 1 ∧ f7 / 2 = 0 then some (.slli (.ofNat 5 d) (.ofNat 5 a) (.ofNat 6 (f7 % 2 * 32 + b)))
  else if f3 = 5 ∧ f7 / 2 = 0 then some (.srli (.ofNat 5 d) (.ofNat 5 a) (.ofNat 6 (f7 % 2 * 32 + b)))
  else if f3 = 5 ∧ f7 / 2 = 16 then some (.srai (.ofNat 5 d) (.ofNat 5 a) (.ofNat 6 (f7 % 2 * 32 + b)))
  else if f3 = 2 then some (.slti (.ofNat 5 d) (.ofNat 5 a) (.ofNat 12 (f7 * 32 + b)))
  else if f3 = 3 then some (.sltiu (.ofNat 5 d) (.ofNat 5 a) (.ofNat 12 (f7 * 32 + b)))
  else none

/-- Opcode 0x17 (30_encoding:R283). -/
def decodeAuipc : Nat → Nat → Nat → Nat → Nat → Option Instr := fun f7 b a f3 d =>
  some (.auipc (.ofNat 5 d) (.ofNat 20 (f7 * 8192 + b * 256 + a * 8 + f3)))

/-- Opcode 0x1b (30_encoding:R283). -/
def decodeOpImm32 : Nat → Nat → Nat → Nat → Nat → Option Instr := fun f7 b a f3 d =>
  if f3 = 0 then some (.addiw (.ofNat 5 d) (.ofNat 5 a) (.ofNat 12 (f7 * 32 + b)))
  else if f3 = 1 ∧ f7 = 0 then some (.slliw (.ofNat 5 d) (.ofNat 5 a) (.ofNat 5 b))
  else if f3 = 5 ∧ f7 = 0 then some (.srliw (.ofNat 5 d) (.ofNat 5 a) (.ofNat 5 b))
  else if f3 = 5 ∧ f7 = 32 then some (.sraiw (.ofNat 5 d) (.ofNat 5 a) (.ofNat 5 b))
  else none

/-- Opcode 0x23 (30_encoding:R283). -/
def decodeStore : Nat → Nat → Nat → Nat → Nat → Option Instr := fun f7 b a f3 d =>
  if f3 = 0 then some (.sb (.ofNat 5 b) (.ofNat 5 a) (.ofNat 12 (f7 * 32 + d)))
  else if f3 = 1 then some (.sh (.ofNat 5 b) (.ofNat 5 a) (.ofNat 12 (f7 * 32 + d)))
  else if f3 = 2 then some (.sw (.ofNat 5 b) (.ofNat 5 a) (.ofNat 12 (f7 * 32 + d)))
  else if f3 = 3 then some (.sd (.ofNat 5 b) (.ofNat 5 a) (.ofNat 12 (f7 * 32 + d)))
  else none

/-- Opcode 0x27 (30_encoding:R283). -/
def decodeStoreFp : Nat → Nat → Nat → Nat → Nat → Option Instr := fun f7 b a f3 d =>
  if f3 = 2 then some (.fsw (.ofNat 5 b) (.ofNat 5 a) (.ofNat 12 (f7 * 32 + d)))
  else if f3 = 3 then some (.fsd (.ofNat 5 b) (.ofNat 5 a) (.ofNat 12 (f7 * 32 + d)))
  else if f3 = 1 then some (.fsh (.ofNat 5 b) (.ofNat 5 a) (.ofNat 12 (f7 * 32 + d)))
  else none

/-- Opcode 0x2f (30_encoding:R283). -/
def decodeAmo : Nat → Nat → Nat → Nat → Nat → Option Instr := fun f7 b a f3 d =>
  if f3 = 3 ∧ f7 / 4 = 0 then some (.amoaddD (.ofNat 5 d) (.ofNat 5 b) (.ofNat 5 a) (.ofNat 1 (f7 / 2)) (.ofNat 1 f7))
  else if f3 = 2 ∧ f7 / 4 = 0 then some (.amoaddW (.ofNat 5 d) (.ofNat 5 b) (.ofNat 5 a) (.ofNat 1 (f7 / 2)) (.ofNat 1 f7))
  else if f3 = 3 ∧ f7 / 4 = 12 then some (.amoandD (.ofNat 5 d) (.ofNat 5 b) (.ofNat 5 a) (.ofNat 1 (f7 / 2)) (.ofNat 1 f7))
  else if f3 = 2 ∧ f7 / 4 = 12 then some (.amoandW (.ofNat 5 d) (.ofNat 5 b) (.ofNat 5 a) (.ofNat 1 (f7 / 2)) (.ofNat 1 f7))
  else if f3 = 3 ∧ f7 / 4 = 20 then some (.amomaxD (.ofNat 5 d) (.ofNat 5 b) (.ofNat 5 a) (.ofNat 1 (f7 / 2)) (.ofNat 1 f7))
  else if f3 = 2 ∧ f7 / 4 = 20 then some (.amomaxW (.ofNat 5 d) (.ofNat 5 b) (.ofNat 5 a) (.ofNat 1 (f7 / 2)) (.ofNat 1 f7))
  else if f3 = 3 ∧ f7 / 4 = 28 then some (.amomaxuD (.ofNat 5 d) (.ofNat 5 b) (.ofNat 5 a) (.ofNat 1 (f7 / 2)) (.ofNat 1 f7))
  else if f3 = 2 ∧ f7 / 4 = 28 then some (.amomaxuW (.ofNat 5 d) (.ofNat 5 b) (.ofNat 5 a) (.ofNat 1 (f7 / 2)) (.ofNat 1 f7))
  else if f3 = 3 ∧ f7 / 4 = 16 then some (.amominD (.ofNat 5 d) (.ofNat 5 b) (.ofNat 5 a) (.ofNat 1 (f7 / 2)) (.ofNat 1 f7))
  else if f3 = 2 ∧ f7 / 4 = 16 then some (.amominW (.ofNat 5 d) (.ofNat 5 b) (.ofNat 5 a) (.ofNat 1 (f7 / 2)) (.ofNat 1 f7))
  else if f3 = 3 ∧ f7 / 4 = 24 then some (.amominuD (.ofNat 5 d) (.ofNat 5 b) (.ofNat 5 a) (.ofNat 1 (f7 / 2)) (.ofNat 1 f7))
  else if f3 = 2 ∧ f7 / 4 = 24 then some (.amominuW (.ofNat 5 d) (.ofNat 5 b) (.ofNat 5 a) (.ofNat 1 (f7 / 2)) (.ofNat 1 f7))
  else if f3 = 3 ∧ f7 / 4 = 8 then some (.amoorD (.ofNat 5 d) (.ofNat 5 b) (.ofNat 5 a) (.ofNat 1 (f7 / 2)) (.ofNat 1 f7))
  else if f3 = 2 ∧ f7 / 4 = 8 then some (.amoorW (.ofNat 5 d) (.ofNat 5 b) (.ofNat 5 a) (.ofNat 1 (f7 / 2)) (.ofNat 1 f7))
  else if f3 = 3 ∧ f7 / 4 = 1 then some (.amoswapD (.ofNat 5 d) (.ofNat 5 b) (.ofNat 5 a) (.ofNat 1 (f7 / 2)) (.ofNat 1 f7))
  else if f3 = 2 ∧ f7 / 4 = 1 then some (.amoswapW (.ofNat 5 d) (.ofNat 5 b) (.ofNat 5 a) (.ofNat 1 (f7 / 2)) (.ofNat 1 f7))
  else if f3 = 3 ∧ f7 / 4 = 4 then some (.amoxorD (.ofNat 5 d) (.ofNat 5 b) (.ofNat 5 a) (.ofNat 1 (f7 / 2)) (.ofNat 1 f7))
  else if f3 = 2 ∧ f7 / 4 = 4 then some (.amoxorW (.ofNat 5 d) (.ofNat 5 b) (.ofNat 5 a) (.ofNat 1 (f7 / 2)) (.ofNat 1 f7))
  else if f3 = 3 ∧ f7 / 4 = 2 ∧ b = 0 then some (.lrD (.ofNat 5 d) (.ofNat 5 a) (.ofNat 1 (f7 / 2)) (.ofNat 1 f7))
  else if f3 = 2 ∧ f7 / 4 = 2 ∧ b = 0 then some (.lrW (.ofNat 5 d) (.ofNat 5 a) (.ofNat 1 (f7 / 2)) (.ofNat 1 f7))
  else if f3 = 3 ∧ f7 / 4 = 3 then some (.scD (.ofNat 5 d) (.ofNat 5 b) (.ofNat 5 a) (.ofNat 1 (f7 / 2)) (.ofNat 1 f7))
  else if f3 = 2 ∧ f7 / 4 = 3 then some (.scW (.ofNat 5 d) (.ofNat 5 b) (.ofNat 5 a) (.ofNat 1 (f7 / 2)) (.ofNat 1 f7))
  else none

/-- Opcode 0x33 (30_encoding:R283). -/
def decodeOp : Nat → Nat → Nat → Nat → Nat → Option Instr := fun f7 b a f3 d =>
  if f3 = 0 ∧ f7 = 0 then some (.add (.ofNat 5 d) (.ofNat 5 a) (.ofNat 5 b))
  else if f3 = 0 ∧ f7 = 32 then some (.sub (.ofNat 5 d) (.ofNat 5 a) (.ofNat 5 b))
  else if f3 = 7 ∧ f7 = 0 then some (.and (.ofNat 5 d) (.ofNat 5 a) (.ofNat 5 b))
  else if f3 = 6 ∧ f7 = 0 then some (.or (.ofNat 5 d) (.ofNat 5 a) (.ofNat 5 b))
  else if f3 = 4 ∧ f7 = 0 then some (.xor (.ofNat 5 d) (.ofNat 5 a) (.ofNat 5 b))
  else if f3 = 1 ∧ f7 = 0 then some (.sll (.ofNat 5 d) (.ofNat 5 a) (.ofNat 5 b))
  else if f3 = 5 ∧ f7 = 0 then some (.srl (.ofNat 5 d) (.ofNat 5 a) (.ofNat 5 b))
  else if f3 = 5 ∧ f7 = 32 then some (.sra (.ofNat 5 d) (.ofNat 5 a) (.ofNat 5 b))
  else if f3 = 2 ∧ f7 = 0 then some (.slt (.ofNat 5 d) (.ofNat 5 a) (.ofNat 5 b))
  else if f3 = 3 ∧ f7 = 0 then some (.sltu (.ofNat 5 d) (.ofNat 5 a) (.ofNat 5 b))
  else if f3 = 4 ∧ f7 = 1 then some (.div (.ofNat 5 d) (.ofNat 5 a) (.ofNat 5 b))
  else if f3 = 5 ∧ f7 = 1 then some (.divu (.ofNat 5 d) (.ofNat 5 a) (.ofNat 5 b))
  else if f3 = 0 ∧ f7 = 1 then some (.mul (.ofNat 5 d) (.ofNat 5 a) (.ofNat 5 b))
  else if f3 = 1 ∧ f7 = 1 then some (.mulh (.ofNat 5 d) (.ofNat 5 a) (.ofNat 5 b))
  else if f3 = 2 ∧ f7 = 1 then some (.mulhsu (.ofNat 5 d) (.ofNat 5 a) (.ofNat 5 b))
  else if f3 = 3 ∧ f7 = 1 then some (.mulhu (.ofNat 5 d) (.ofNat 5 a) (.ofNat 5 b))
  else if f3 = 6 ∧ f7 = 1 then some (.rem (.ofNat 5 d) (.ofNat 5 a) (.ofNat 5 b))
  else if f3 = 7 ∧ f7 = 1 then some (.remu (.ofNat 5 d) (.ofNat 5 a) (.ofNat 5 b))
  else none

/-- Opcode 0x37 (30_encoding:R283). -/
def decodeLui : Nat → Nat → Nat → Nat → Nat → Option Instr := fun f7 b a f3 d =>
  some (.lui (.ofNat 5 d) (.ofNat 20 (f7 * 8192 + b * 256 + a * 8 + f3)))

/-- Opcode 0x3b (30_encoding:R283). -/
def decodeOp32 : Nat → Nat → Nat → Nat → Nat → Option Instr := fun f7 b a f3 d =>
  if f3 = 0 ∧ f7 = 0 then some (.addw (.ofNat 5 d) (.ofNat 5 a) (.ofNat 5 b))
  else if f3 = 0 ∧ f7 = 32 then some (.subw (.ofNat 5 d) (.ofNat 5 a) (.ofNat 5 b))
  else if f3 = 1 ∧ f7 = 0 then some (.sllw (.ofNat 5 d) (.ofNat 5 a) (.ofNat 5 b))
  else if f3 = 5 ∧ f7 = 0 then some (.srlw (.ofNat 5 d) (.ofNat 5 a) (.ofNat 5 b))
  else if f3 = 5 ∧ f7 = 32 then some (.sraw (.ofNat 5 d) (.ofNat 5 a) (.ofNat 5 b))
  else if f3 = 5 ∧ f7 = 1 then some (.divuw (.ofNat 5 d) (.ofNat 5 a) (.ofNat 5 b))
  else if f3 = 4 ∧ f7 = 1 then some (.divw (.ofNat 5 d) (.ofNat 5 a) (.ofNat 5 b))
  else if f3 = 0 ∧ f7 = 1 then some (.mulw (.ofNat 5 d) (.ofNat 5 a) (.ofNat 5 b))
  else if f3 = 7 ∧ f7 = 1 then some (.remuw (.ofNat 5 d) (.ofNat 5 a) (.ofNat 5 b))
  else if f3 = 6 ∧ f7 = 1 then some (.remw (.ofNat 5 d) (.ofNat 5 a) (.ofNat 5 b))
  else none

/-- Opcode 0x43 (30_encoding:R283). -/
def decodeMadd : Nat → Nat → Nat → Nat → Nat → Option Instr := fun f7 b a f3 d =>
  if f7 % 4 = 0 then some (.fmaddS (.ofNat 5 d) (.ofNat 5 a) (.ofNat 5 b) (.ofNat 5 (f7 / 4)) (.ofNat 3 f3))
  else if f7 % 4 = 1 then some (.fmaddD (.ofNat 5 d) (.ofNat 5 a) (.ofNat 5 b) (.ofNat 5 (f7 / 4)) (.ofNat 3 f3))
  else if f7 % 4 = 2 then some (.fmaddH (.ofNat 5 d) (.ofNat 5 a) (.ofNat 5 b) (.ofNat 5 (f7 / 4)) (.ofNat 3 f3))
  else none

/-- Opcode 0x47 (30_encoding:R283). -/
def decodeMsub : Nat → Nat → Nat → Nat → Nat → Option Instr := fun f7 b a f3 d =>
  if f7 % 4 = 0 then some (.fmsubS (.ofNat 5 d) (.ofNat 5 a) (.ofNat 5 b) (.ofNat 5 (f7 / 4)) (.ofNat 3 f3))
  else if f7 % 4 = 1 then some (.fmsubD (.ofNat 5 d) (.ofNat 5 a) (.ofNat 5 b) (.ofNat 5 (f7 / 4)) (.ofNat 3 f3))
  else if f7 % 4 = 2 then some (.fmsubH (.ofNat 5 d) (.ofNat 5 a) (.ofNat 5 b) (.ofNat 5 (f7 / 4)) (.ofNat 3 f3))
  else none

/-- Opcode 0x4b (30_encoding:R283). -/
def decodeNmsub : Nat → Nat → Nat → Nat → Nat → Option Instr := fun f7 b a f3 d =>
  if f7 % 4 = 0 then some (.fnmsubS (.ofNat 5 d) (.ofNat 5 a) (.ofNat 5 b) (.ofNat 5 (f7 / 4)) (.ofNat 3 f3))
  else if f7 % 4 = 1 then some (.fnmsubD (.ofNat 5 d) (.ofNat 5 a) (.ofNat 5 b) (.ofNat 5 (f7 / 4)) (.ofNat 3 f3))
  else if f7 % 4 = 2 then some (.fnmsubH (.ofNat 5 d) (.ofNat 5 a) (.ofNat 5 b) (.ofNat 5 (f7 / 4)) (.ofNat 3 f3))
  else none

/-- Opcode 0x4f (30_encoding:R283). -/
def decodeNmadd : Nat → Nat → Nat → Nat → Nat → Option Instr := fun f7 b a f3 d =>
  if f7 % 4 = 0 then some (.fnmaddS (.ofNat 5 d) (.ofNat 5 a) (.ofNat 5 b) (.ofNat 5 (f7 / 4)) (.ofNat 3 f3))
  else if f7 % 4 = 1 then some (.fnmaddD (.ofNat 5 d) (.ofNat 5 a) (.ofNat 5 b) (.ofNat 5 (f7 / 4)) (.ofNat 3 f3))
  else if f7 % 4 = 2 then some (.fnmaddH (.ofNat 5 d) (.ofNat 5 a) (.ofNat 5 b) (.ofNat 5 (f7 / 4)) (.ofNat 3 f3))
  else none

/-- Opcode 0x53, fmt = 0, 30_encoding:R283. -/
def decodeOpFp_0 : Nat → Nat → Nat → Nat → Nat → Option Instr := fun f7 b a f3 d =>
  if f7 = 0 then some (.faddS (.ofNat 5 d) (.ofNat 5 a) (.ofNat 5 b) (.ofNat 3 f3))
  else if f7 = 112 ∧ b = 0 ∧ f3 = 1 then some (.fclassS (.ofNat 5 d) (.ofNat 5 a))
  else if f7 = 96 ∧ b = 2 then some (.fcvtLS (.ofNat 5 d) (.ofNat 5 a) (.ofNat 3 f3))
  else if f7 = 96 ∧ b = 3 then some (.fcvtLuS (.ofNat 5 d) (.ofNat 5 a) (.ofNat 3 f3))
  else if f7 = 104 ∧ b = 2 then some (.fcvtSL (.ofNat 5 d) (.ofNat 5 a) (.ofNat 3 f3))
  else if f7 = 104 ∧ b = 3 then some (.fcvtSLu (.ofNat 5 d) (.ofNat 5 a) (.ofNat 3 f3))
  else if f7 = 104 ∧ b = 0 then some (.fcvtSW (.ofNat 5 d) (.ofNat 5 a) (.ofNat 3 f3))
  else if f7 = 104 ∧ b = 1 then some (.fcvtSWu (.ofNat 5 d) (.ofNat 5 a) (.ofNat 3 f3))
  else if f7 = 96 ∧ b = 0 then some (.fcvtWS (.ofNat 5 d) (.ofNat 5 a) (.ofNat 3 f3))
  else if f7 = 96 ∧ b = 1 then some (.fcvtWuS (.ofNat 5 d) (.ofNat 5 a) (.ofNat 3 f3))
  else if f7 = 12 then some (.fdivS (.ofNat 5 d) (.ofNat 5 a) (.ofNat 5 b) (.ofNat 3 f3))
  else if f7 = 80 ∧ f3 = 2 then some (.feqS (.ofNat 5 d) (.ofNat 5 a) (.ofNat 5 b))
  else if f7 = 80 ∧ f3 = 0 then some (.fleS (.ofNat 5 d) (.ofNat 5 a) (.ofNat 5 b))
  else if f7 = 80 ∧ f3 = 1 then some (.fltS (.ofNat 5 d) (.ofNat 5 a) (.ofNat 5 b))
  else if f7 = 20 ∧ f3 = 1 then some (.fmaxS (.ofNat 5 d) (.ofNat 5 a) (.ofNat 5 b))
  else if f7 = 20 ∧ f3 = 0 then some (.fminS (.ofNat 5 d) (.ofNat 5 a) (.ofNat 5 b))
  else if f7 = 8 then some (.fmulS (.ofNat 5 d) (.ofNat 5 a) (.ofNat 5 b) (.ofNat 3 f3))
  else if f7 = 120 ∧ b = 0 ∧ f3 = 0 then some (.fmvWX (.ofNat 5 d) (.ofNat 5 a))
  else if f7 = 112 ∧ b = 0 ∧ f3 = 0 then some (.fmvXW (.ofNat 5 d) (.ofNat 5 a))
  else if f7 = 16 ∧ f3 = 0 then some (.fsgnjS (.ofNat 5 d) (.ofNat 5 a) (.ofNat 5 b))
  else if f7 = 16 ∧ f3 = 1 then some (.fsgnjnS (.ofNat 5 d) (.ofNat 5 a) (.ofNat 5 b))
  else if f7 = 16 ∧ f3 = 2 then some (.fsgnjxS (.ofNat 5 d) (.ofNat 5 a) (.ofNat 5 b))
  else if f7 = 44 ∧ b = 0 then some (.fsqrtS (.ofNat 5 d) (.ofNat 5 a) (.ofNat 3 f3))
  else if f7 = 4 then some (.fsubS (.ofNat 5 d) (.ofNat 5 a) (.ofNat 5 b) (.ofNat 3 f3))
  else if f7 = 32 ∧ b = 1 then some (.fcvtSD (.ofNat 5 d) (.ofNat 5 a) (.ofNat 3 f3))
  else if f7 = 32 ∧ b = 2 then some (.fcvtSH (.ofNat 5 d) (.ofNat 5 a) (.ofNat 3 f3))
  else none

/-- Opcode 0x53, fmt = 1, 30_encoding:R283. -/
def decodeOpFp_1 : Nat → Nat → Nat → Nat → Nat → Option Instr := fun f7 b a f3 d =>
  if f7 = 1 then some (.faddD (.ofNat 5 d) (.ofNat 5 a) (.ofNat 5 b) (.ofNat 3 f3))
  else if f7 = 113 ∧ b = 0 ∧ f3 = 1 then some (.fclassD (.ofNat 5 d) (.ofNat 5 a))
  else if f7 = 105 ∧ b = 2 then some (.fcvtDL (.ofNat 5 d) (.ofNat 5 a) (.ofNat 3 f3))
  else if f7 = 105 ∧ b = 3 then some (.fcvtDLu (.ofNat 5 d) (.ofNat 5 a) (.ofNat 3 f3))
  else if f7 = 33 ∧ b = 0 then some (.fcvtDS (.ofNat 5 d) (.ofNat 5 a) (.ofNat 3 f3))
  else if f7 = 105 ∧ b = 0 then some (.fcvtDW (.ofNat 5 d) (.ofNat 5 a) (.ofNat 3 f3))
  else if f7 = 105 ∧ b = 1 then some (.fcvtDWu (.ofNat 5 d) (.ofNat 5 a) (.ofNat 3 f3))
  else if f7 = 97 ∧ b = 2 then some (.fcvtLD (.ofNat 5 d) (.ofNat 5 a) (.ofNat 3 f3))
  else if f7 = 97 ∧ b = 3 then some (.fcvtLuD (.ofNat 5 d) (.ofNat 5 a) (.ofNat 3 f3))
  else if f7 = 97 ∧ b = 0 then some (.fcvtWD (.ofNat 5 d) (.ofNat 5 a) (.ofNat 3 f3))
  else if f7 = 97 ∧ b = 1 then some (.fcvtWuD (.ofNat 5 d) (.ofNat 5 a) (.ofNat 3 f3))
  else if f7 = 13 then some (.fdivD (.ofNat 5 d) (.ofNat 5 a) (.ofNat 5 b) (.ofNat 3 f3))
  else if f7 = 81 ∧ f3 = 2 then some (.feqD (.ofNat 5 d) (.ofNat 5 a) (.ofNat 5 b))
  else if f7 = 81 ∧ f3 = 0 then some (.fleD (.ofNat 5 d) (.ofNat 5 a) (.ofNat 5 b))
  else if f7 = 81 ∧ f3 = 1 then some (.fltD (.ofNat 5 d) (.ofNat 5 a) (.ofNat 5 b))
  else if f7 = 21 ∧ f3 = 1 then some (.fmaxD (.ofNat 5 d) (.ofNat 5 a) (.ofNat 5 b))
  else if f7 = 21 ∧ f3 = 0 then some (.fminD (.ofNat 5 d) (.ofNat 5 a) (.ofNat 5 b))
  else if f7 = 9 then some (.fmulD (.ofNat 5 d) (.ofNat 5 a) (.ofNat 5 b) (.ofNat 3 f3))
  else if f7 = 121 ∧ b = 0 ∧ f3 = 0 then some (.fmvDX (.ofNat 5 d) (.ofNat 5 a))
  else if f7 = 113 ∧ b = 0 ∧ f3 = 0 then some (.fmvXD (.ofNat 5 d) (.ofNat 5 a))
  else if f7 = 17 ∧ f3 = 0 then some (.fsgnjD (.ofNat 5 d) (.ofNat 5 a) (.ofNat 5 b))
  else if f7 = 17 ∧ f3 = 1 then some (.fsgnjnD (.ofNat 5 d) (.ofNat 5 a) (.ofNat 5 b))
  else if f7 = 17 ∧ f3 = 2 then some (.fsgnjxD (.ofNat 5 d) (.ofNat 5 a) (.ofNat 5 b))
  else if f7 = 45 ∧ b = 0 then some (.fsqrtD (.ofNat 5 d) (.ofNat 5 a) (.ofNat 3 f3))
  else if f7 = 5 then some (.fsubD (.ofNat 5 d) (.ofNat 5 a) (.ofNat 5 b) (.ofNat 3 f3))
  else if f7 = 33 ∧ b = 2 then some (.fcvtDH (.ofNat 5 d) (.ofNat 5 a) (.ofNat 3 f3))
  else none

/-- Opcode 0x53, fmt = 2, 30_encoding:R283. -/
def decodeOpFp_2 : Nat → Nat → Nat → Nat → Nat → Option Instr := fun f7 b a f3 d =>
  if f7 = 2 then some (.faddH (.ofNat 5 d) (.ofNat 5 a) (.ofNat 5 b) (.ofNat 3 f3))
  else if f7 = 114 ∧ b = 0 ∧ f3 = 1 then some (.fclassH (.ofNat 5 d) (.ofNat 5 a))
  else if f7 = 34 ∧ b = 1 then some (.fcvtHD (.ofNat 5 d) (.ofNat 5 a) (.ofNat 3 f3))
  else if f7 = 106 ∧ b = 2 then some (.fcvtHL (.ofNat 5 d) (.ofNat 5 a) (.ofNat 3 f3))
  else if f7 = 106 ∧ b = 3 then some (.fcvtHLu (.ofNat 5 d) (.ofNat 5 a) (.ofNat 3 f3))
  else if f7 = 34 ∧ b = 0 then some (.fcvtHS (.ofNat 5 d) (.ofNat 5 a) (.ofNat 3 f3))
  else if f7 = 106 ∧ b = 0 then some (.fcvtHW (.ofNat 5 d) (.ofNat 5 a) (.ofNat 3 f3))
  else if f7 = 106 ∧ b = 1 then some (.fcvtHWu (.ofNat 5 d) (.ofNat 5 a) (.ofNat 3 f3))
  else if f7 = 98 ∧ b = 2 then some (.fcvtLH (.ofNat 5 d) (.ofNat 5 a) (.ofNat 3 f3))
  else if f7 = 98 ∧ b = 3 then some (.fcvtLuH (.ofNat 5 d) (.ofNat 5 a) (.ofNat 3 f3))
  else if f7 = 98 ∧ b = 0 then some (.fcvtWH (.ofNat 5 d) (.ofNat 5 a) (.ofNat 3 f3))
  else if f7 = 98 ∧ b = 1 then some (.fcvtWuH (.ofNat 5 d) (.ofNat 5 a) (.ofNat 3 f3))
  else if f7 = 14 then some (.fdivH (.ofNat 5 d) (.ofNat 5 a) (.ofNat 5 b) (.ofNat 3 f3))
  else if f7 = 82 ∧ f3 = 2 then some (.feqH (.ofNat 5 d) (.ofNat 5 a) (.ofNat 5 b))
  else if f7 = 82 ∧ f3 = 0 then some (.fleH (.ofNat 5 d) (.ofNat 5 a) (.ofNat 5 b))
  else if f7 = 82 ∧ f3 = 1 then some (.fltH (.ofNat 5 d) (.ofNat 5 a) (.ofNat 5 b))
  else if f7 = 22 ∧ f3 = 1 then some (.fmaxH (.ofNat 5 d) (.ofNat 5 a) (.ofNat 5 b))
  else if f7 = 22 ∧ f3 = 0 then some (.fminH (.ofNat 5 d) (.ofNat 5 a) (.ofNat 5 b))
  else if f7 = 10 then some (.fmulH (.ofNat 5 d) (.ofNat 5 a) (.ofNat 5 b) (.ofNat 3 f3))
  else if f7 = 122 ∧ b = 0 ∧ f3 = 0 then some (.fmvHX (.ofNat 5 d) (.ofNat 5 a))
  else if f7 = 114 ∧ b = 0 ∧ f3 = 0 then some (.fmvXH (.ofNat 5 d) (.ofNat 5 a))
  else if f7 = 18 ∧ f3 = 0 then some (.fsgnjH (.ofNat 5 d) (.ofNat 5 a) (.ofNat 5 b))
  else if f7 = 18 ∧ f3 = 1 then some (.fsgnjnH (.ofNat 5 d) (.ofNat 5 a) (.ofNat 5 b))
  else if f7 = 18 ∧ f3 = 2 then some (.fsgnjxH (.ofNat 5 d) (.ofNat 5 a) (.ofNat 5 b))
  else if f7 = 46 ∧ b = 0 then some (.fsqrtH (.ofNat 5 d) (.ofNat 5 a) (.ofNat 3 f3))
  else if f7 = 6 then some (.fsubH (.ofNat 5 d) (.ofNat 5 a) (.ofNat 5 b) (.ofNat 3 f3))
  else none

/-- Opcode 0x53. -/
def decodeOpFp (f7 b a f3 d : Nat) : Option Instr :=
  match f7 % 4 with
  | 0 => decodeOpFp_0 f7 b a f3 d
  | 1 => decodeOpFp_1 f7 b a f3 d
  | 2 => decodeOpFp_2 f7 b a f3 d
  | _ => none

/-- Opcode 0x63 (30_encoding:R283). -/
def decodeBranch : Nat → Nat → Nat → Nat → Nat → Option Instr := fun f7 b a f3 d =>
  if f3 = 0 then some (.beq (.ofNat 5 a) (.ofNat 5 b) (.ofNat 12 (f7 / 64 * 2048 + d % 2 * 1024 + f7 % 64 * 16 + d / 2)))
  else if f3 = 1 then some (.bne (.ofNat 5 a) (.ofNat 5 b) (.ofNat 12 (f7 / 64 * 2048 + d % 2 * 1024 + f7 % 64 * 16 + d / 2)))
  else if f3 = 4 then some (.blt (.ofNat 5 a) (.ofNat 5 b) (.ofNat 12 (f7 / 64 * 2048 + d % 2 * 1024 + f7 % 64 * 16 + d / 2)))
  else if f3 = 5 then some (.bge (.ofNat 5 a) (.ofNat 5 b) (.ofNat 12 (f7 / 64 * 2048 + d % 2 * 1024 + f7 % 64 * 16 + d / 2)))
  else if f3 = 6 then some (.bltu (.ofNat 5 a) (.ofNat 5 b) (.ofNat 12 (f7 / 64 * 2048 + d % 2 * 1024 + f7 % 64 * 16 + d / 2)))
  else if f3 = 7 then some (.bgeu (.ofNat 5 a) (.ofNat 5 b) (.ofNat 12 (f7 / 64 * 2048 + d % 2 * 1024 + f7 % 64 * 16 + d / 2)))
  else none

/-- Opcode 0x67 (30_encoding:R283). -/
def decodeJalr : Nat → Nat → Nat → Nat → Nat → Option Instr := fun f7 b a f3 d =>
  if f3 = 0 then some (.jalr (.ofNat 5 d) (.ofNat 5 a) (.ofNat 12 (f7 * 32 + b)))
  else none

/-- Opcode 0x6f (30_encoding:R283). -/
def decodeJal : Nat → Nat → Nat → Nat → Nat → Option Instr := fun f7 b a f3 d =>
  some (.jal (.ofNat 5 d) (.ofNat 20 (f7 / 64 * 524288 + a * 16384 + f3 * 2048 + b % 2 * 1024 + f7 % 64 * 16 + b / 2)))

/-- Opcode 0x73 (30_encoding:R283). -/
def decodeSystem : Nat → Nat → Nat → Nat → Nat → Option Instr := fun f7 b a f3 d =>
  if f3 = 1 then some (.csrrw (.ofNat 5 d) (.ofNat 12 (f7 * 32 + b)) (.ofNat 5 a))
  else if f3 = 2 then some (.csrrs (.ofNat 5 d) (.ofNat 12 (f7 * 32 + b)) (.ofNat 5 a))
  else if f3 = 3 then some (.csrrc (.ofNat 5 d) (.ofNat 12 (f7 * 32 + b)) (.ofNat 5 a))
  else if f3 = 5 then some (.csrrwi (.ofNat 5 d) (.ofNat 12 (f7 * 32 + b)) (.ofNat 5 a))
  else if f3 = 6 then some (.csrrsi (.ofNat 5 d) (.ofNat 12 (f7 * 32 + b)) (.ofNat 5 a))
  else if f3 = 7 then some (.csrrci (.ofNat 5 d) (.ofNat 12 (f7 * 32 + b)) (.ofNat 5 a))
  else if f7 = 0 ∧ b = 0 ∧ a = 0 ∧ f3 = 0 ∧ d = 0 then some (.ecall)
  else if f7 = 0 ∧ b = 1 ∧ a = 0 ∧ f3 = 0 ∧ d = 0 then some (.ebreak)
  else if f7 = 8 ∧ b = 2 ∧ a = 0 ∧ f3 = 0 ∧ d = 0 then some (.sret)
  else if f7 = 24 ∧ b = 2 ∧ a = 0 ∧ f3 = 0 ∧ d = 0 then some (.mret)
  else if f7 = 9 ∧ f3 = 0 ∧ d = 0 then some (.sfenceVma (.ofNat 5 a) (.ofNat 5 b))
  else if f7 = 8 ∧ b = 5 ∧ a = 0 ∧ f3 = 0 ∧ d = 0 then some (.wfi)
  else none

/-- The row of a 32-bit code, by its opcode (30_encoding:R283). -/
def decodeOpcode (f7 b a f3 d op : Nat) : Option Instr :=
  match op with
  | 0x03 => decodeLoad f7 b a f3 d
  | 0x07 => decodeLoadFp f7 b a f3 d
  | 0x0b => decodeCustom0 f7 b a f3 d
  | 0x0f => decodeMiscMem f7 b a f3 d
  | 0x13 => decodeOpImm f7 b a f3 d
  | 0x17 => decodeAuipc f7 b a f3 d
  | 0x1b => decodeOpImm32 f7 b a f3 d
  | 0x23 => decodeStore f7 b a f3 d
  | 0x27 => decodeStoreFp f7 b a f3 d
  | 0x2f => decodeAmo f7 b a f3 d
  | 0x33 => decodeOp f7 b a f3 d
  | 0x37 => decodeLui f7 b a f3 d
  | 0x3b => decodeOp32 f7 b a f3 d
  | 0x43 => decodeMadd f7 b a f3 d
  | 0x47 => decodeMsub f7 b a f3 d
  | 0x4b => decodeNmsub f7 b a f3 d
  | 0x4f => decodeNmadd f7 b a f3 d
  | 0x53 => decodeOpFp f7 b a f3 d
  | 0x63 => decodeBranch f7 b a f3 d
  | 0x67 => decodeJalr f7 b a f3 d
  | 0x6f => decodeJal f7 b a f3 d
  | 0x73 => decodeSystem f7 b a f3 d
  | _ => none

/-- The row a 32-bit code matches, its operands not yet checked. -/
def decode32 (w : Nat) : Option Instr :=
  decodeOpcode (bits w 25 7) (bits w 20 5) (bits w 15 5) (bits w 12 3) (bits w 7 5) (bits w 0 7)

/-- Quadrant 0 of the compressed codes, the most specific row first (30_encoding:R281, R285). -/
def decodeQuadrant0 : Nat → Nat → Nat → Nat → Option Instr := fun f3 e r t =>
  if f3 = 0 then some (.cAddi4spn (.ofNat 3 t) (.ofNat 8 (r % 16 * 16 + e * 8 + r / 16 * 4 + t / 8 % 2 * 2 + t / 16)))
  else if f3 = 1 then some (.cFld (.ofNat 3 t) (.ofNat 3 r) (.ofNat 5 (t / 8 * 8 + e * 4 + r / 8)))
  else if f3 = 5 then some (.cFsd (.ofNat 3 t) (.ofNat 3 r) (.ofNat 5 (t / 8 * 8 + e * 4 + r / 8)))
  else if f3 = 3 then some (.cLd (.ofNat 3 t) (.ofNat 3 r) (.ofNat 5 (t / 8 * 8 + e * 4 + r / 8)))
  else if f3 = 2 then some (.cLw (.ofNat 3 t) (.ofNat 3 r) (.ofNat 5 (t / 8 % 2 * 16 + e * 8 + r / 8 * 2 + t / 16)))
  else if f3 = 7 then some (.cSd (.ofNat 3 t) (.ofNat 3 r) (.ofNat 5 (t / 8 * 8 + e * 4 + r / 8)))
  else if f3 = 6 then some (.cSw (.ofNat 3 t) (.ofNat 3 r) (.ofNat 5 (t / 8 % 2 * 16 + e * 8 + r / 8 * 2 + t / 16)))
  else none

/-- Quadrant 1 of the compressed codes, the most specific row first (30_encoding:R281, R285). -/
def decodeQuadrant1 : Nat → Nat → Nat → Nat → Option Instr := fun f3 e r t =>
  if f3 = 0 ∧ e = 0 ∧ r = 0 ∧ t = 0 then some (.cNop)
  else if f3 = 3 ∧ r = 2 then some (.cAddi16sp (.ofNat 6 (e * 32 + t / 2 % 4 * 8 + t / 8 % 2 * 4 + t % 2 * 2 + t / 16)))
  else if f3 = 0 then some (.cAddi (.ofNat 5 r) (.ofNat 6 (e * 32 + t)))
  else if f3 = 1 then some (.cAddiw (.ofNat 5 r) (.ofNat 6 (e * 32 + t)))
  else if f3 = 4 ∧ e = 1 ∧ r / 8 = 3 ∧ t / 8 = 1 then some (.cAddw (.ofNat 3 r) (.ofNat 3 t))
  else if f3 = 4 ∧ e = 0 ∧ r / 8 = 3 ∧ t / 8 = 3 then some (.cAnd (.ofNat 3 r) (.ofNat 3 t))
  else if f3 = 4 ∧ r / 8 = 2 then some (.cAndi (.ofNat 3 r) (.ofNat 6 (e * 32 + t)))
  else if f3 = 6 then some (.cBeqz (.ofNat 3 r) (.ofNat 8 (e * 128 + t / 8 * 32 + t % 2 * 16 + r / 8 * 4 + t / 2 % 4)))
  else if f3 = 7 then some (.cBnez (.ofNat 3 r) (.ofNat 8 (e * 128 + t / 8 * 32 + t % 2 * 16 + r / 8 * 4 + t / 2 % 4)))
  else if f3 = 5 then some (.cJ (.ofNat 11 (e * 1024 + r / 2 % 2 * 512 + r / 4 % 4 * 128 + t / 16 * 64 + r % 2 * 32 + t % 2 * 16 + r / 16 * 8 + t / 2 % 8)))
  else if f3 = 2 then some (.cLi (.ofNat 5 r) (.ofNat 6 (e * 32 + t)))
  else if f3 = 3 then some (.cLui (.ofNat 5 r) (.ofNat 6 (e * 32 + t)))
  else if f3 = 4 ∧ e = 0 ∧ r / 8 = 3 ∧ t / 8 = 2 then some (.cOr (.ofNat 3 r) (.ofNat 3 t))
  else if f3 = 4 ∧ r / 8 = 1 then some (.cSrai (.ofNat 3 r) (.ofNat 6 (e * 32 + t)))
  else if f3 = 4 ∧ r / 8 = 0 then some (.cSrli (.ofNat 3 r) (.ofNat 6 (e * 32 + t)))
  else if f3 = 4 ∧ e = 0 ∧ r / 8 = 3 ∧ t / 8 = 0 then some (.cSub (.ofNat 3 r) (.ofNat 3 t))
  else if f3 = 4 ∧ e = 1 ∧ r / 8 = 3 ∧ t / 8 = 0 then some (.cSubw (.ofNat 3 r) (.ofNat 3 t))
  else if f3 = 4 ∧ e = 0 ∧ r / 8 = 3 ∧ t / 8 = 1 then some (.cXor (.ofNat 3 r) (.ofNat 3 t))
  else none

/-- Quadrant 2 of the compressed codes, the most specific row first (30_encoding:R281, R285). -/
def decodeQuadrant2 : Nat → Nat → Nat → Nat → Option Instr := fun f3 e r t =>
  if f3 = 4 ∧ e = 0 ∧ t = 0 then some (.cJr (.ofNat 5 r))
  else if f3 = 4 ∧ e = 1 ∧ r = 0 ∧ t = 0 then some (.cEbreak)
  else if f3 = 4 ∧ e = 1 ∧ t = 0 then some (.cJalr (.ofNat 5 r))
  else if f3 = 4 ∧ e = 1 then some (.cAdd (.ofNat 5 r) (.ofNat 5 t))
  else if f3 = 1 then some (.cFldsp (.ofNat 5 r) (.ofNat 6 (t % 8 * 8 + e * 4 + t / 8)))
  else if f3 = 5 then some (.cFsdsp (.ofNat 5 t) (.ofNat 6 (r % 8 * 8 + e * 4 + r / 8)))
  else if f3 = 3 then some (.cLdsp (.ofNat 5 r) (.ofNat 6 (t % 8 * 8 + e * 4 + t / 8)))
  else if f3 = 2 then some (.cLwsp (.ofNat 5 r) (.ofNat 6 (t % 4 * 16 + e * 8 + t / 4)))
  else if f3 = 4 ∧ e = 0 then some (.cMv (.ofNat 5 r) (.ofNat 5 t))
  else if f3 = 7 then some (.cSdsp (.ofNat 5 t) (.ofNat 6 (r % 8 * 8 + e * 4 + r / 8)))
  else if f3 = 0 then some (.cSlli (.ofNat 5 r) (.ofNat 6 (e * 32 + t)))
  else if f3 = 6 then some (.cSwsp (.ofNat 5 t) (.ofNat 6 (r % 4 * 16 + e * 8 + r / 4)))
  else none

/-- The row of a 16-bit code, by its quadrant. -/
def decodeQuadrant (f3 e r t q : Nat) : Option Instr :=
  match q with
  | 0 => decodeQuadrant0 f3 e r t
  | 1 => decodeQuadrant1 f3 e r t
  | 2 => decodeQuadrant2 f3 e r t
  | _ => none

/-- The row a 16-bit code matches, its operands not yet checked. -/
def decode16 (w : Nat) : Option Instr :=
  decodeQuadrant (bits w 13 3) (bits w 12 1) (bits w 7 5) (bits w 2 5) (bits w 0 2)

/-- The row a code matches. -/
def decodeRow : Code → Option Instr
  | .half c => decode16 c.toNat
  | .full c => decode32 c.toNat

/-- The instruction a code stands for: the row it matches, its operands among those the row's rule admits
(30_encoding:R281, R287). -/
def decodeCode (c : Code) : Except Reject Instr :=
  match decodeRow c with
  | none => .error (.noRow c)
  | some i => if i.wf then .ok i else .error (.reservedOperand c)

end

/-- A 16-bit parcel from its two bytes, little-endian (20_memory:R181, 30_encoding:R280). -/
def parcel (lo hi : Byte) : BitVec 16 := .ofNat 16 (hi.toNat * 256 + lo.toNat)

/-- A 32-bit code from its two parcels, the first at the lower address (30_encoding:R280). -/
def joinParcels (p0 p1 : BitVec 16) : BitVec 32 := .ofNat 32 (p1.toNat * 65536 + p0.toNat)

/-- The first parcel's two lowest bits are 11: a 32-bit instruction (30_encoding:R280). -/
def isFull (p0 : BitVec 16) : Bool := p0.toNat % 4 == 3

/-- The code at the head of some bytes, and the bytes after it. -/
def codeOf : List Byte → Except Reject (Code × List Byte)
  | b0 :: b1 :: rest =>
    if isFull (parcel b0 b1) then
      match rest with
      | b2 :: b3 :: rest => .ok (.full (joinParcels (parcel b0 b1) (parcel b2 b3)), rest)
      | _ => .error .truncated
    else .ok (.half (parcel b0 b1), rest)
  | _ => .error .truncated

noncomputable section

/-- The decoder: total on any bytes; the instruction at their head and the bytes after it, or why it is refused. -/
def decode (bs : List Byte) : Except Reject (Instr × List Byte) :=
  match codeOf bs with
  | .error r => .error r
  | .ok (c, rest) =>
    match decodeCode c with
    | .error r => .error r
    | .ok i => .ok (i, rest)

end

/-- The code of an instruction, from the encoding line of its rule. -/
def encode : Instr → Code
  | .add rd rs1 rs2 => .full (word32 0 rs2.toNat rs1.toNat 0 rd.toNat 0x33)
  | .addi rd rs1 imm12 => .full (word32 (imm12.toNat / 32) (imm12.toNat % 32) rs1.toNat 0 rd.toNat 0x13)
  | .addiw rd rs1 imm12 => .full (word32 (imm12.toNat / 32) (imm12.toNat % 32) rs1.toNat 0 rd.toNat 0x1b)
  | .addw rd rs1 rs2 => .full (word32 0 rs2.toNat rs1.toNat 0 rd.toNat 0x3b)
  | .sub rd rs1 rs2 => .full (word32 32 rs2.toNat rs1.toNat 0 rd.toNat 0x33)
  | .subw rd rs1 rs2 => .full (word32 32 rs2.toNat rs1.toNat 0 rd.toNat 0x3b)
  | .and rd rs1 rs2 => .full (word32 0 rs2.toNat rs1.toNat 7 rd.toNat 0x33)
  | .andi rd rs1 imm12 => .full (word32 (imm12.toNat / 32) (imm12.toNat % 32) rs1.toNat 7 rd.toNat 0x13)
  | .or rd rs1 rs2 => .full (word32 0 rs2.toNat rs1.toNat 6 rd.toNat 0x33)
  | .ori rd rs1 imm12 => .full (word32 (imm12.toNat / 32) (imm12.toNat % 32) rs1.toNat 6 rd.toNat 0x13)
  | .xor rd rs1 rs2 => .full (word32 0 rs2.toNat rs1.toNat 4 rd.toNat 0x33)
  | .xori rd rs1 imm12 => .full (word32 (imm12.toNat / 32) (imm12.toNat % 32) rs1.toNat 4 rd.toNat 0x13)
  | .sll rd rs1 rs2 => .full (word32 0 rs2.toNat rs1.toNat 1 rd.toNat 0x33)
  | .slli rd rs1 shamt => .full (word32 (0 + shamt.toNat / 32) (shamt.toNat % 32) rs1.toNat 1 rd.toNat 0x13)
  | .slliw rd rs1 shamt => .full (word32 0 shamt.toNat rs1.toNat 1 rd.toNat 0x1b)
  | .sllw rd rs1 rs2 => .full (word32 0 rs2.toNat rs1.toNat 1 rd.toNat 0x3b)
  | .srl rd rs1 rs2 => .full (word32 0 rs2.toNat rs1.toNat 5 rd.toNat 0x33)
  | .srli rd rs1 shamt => .full (word32 (0 + shamt.toNat / 32) (shamt.toNat % 32) rs1.toNat 5 rd.toNat 0x13)
  | .srliw rd rs1 shamt => .full (word32 0 shamt.toNat rs1.toNat 5 rd.toNat 0x1b)
  | .srlw rd rs1 rs2 => .full (word32 0 rs2.toNat rs1.toNat 5 rd.toNat 0x3b)
  | .sra rd rs1 rs2 => .full (word32 32 rs2.toNat rs1.toNat 5 rd.toNat 0x33)
  | .srai rd rs1 shamt => .full (word32 (32 + shamt.toNat / 32) (shamt.toNat % 32) rs1.toNat 5 rd.toNat 0x13)
  | .sraiw rd rs1 shamt => .full (word32 32 shamt.toNat rs1.toNat 5 rd.toNat 0x1b)
  | .sraw rd rs1 rs2 => .full (word32 32 rs2.toNat rs1.toNat 5 rd.toNat 0x3b)
  | .slt rd rs1 rs2 => .full (word32 0 rs2.toNat rs1.toNat 2 rd.toNat 0x33)
  | .sltu rd rs1 rs2 => .full (word32 0 rs2.toNat rs1.toNat 3 rd.toNat 0x33)
  | .slti rd rs1 imm12 => .full (word32 (imm12.toNat / 32) (imm12.toNat % 32) rs1.toNat 2 rd.toNat 0x13)
  | .sltiu rd rs1 imm12 => .full (word32 (imm12.toNat / 32) (imm12.toNat % 32) rs1.toNat 3 rd.toNat 0x13)
  | .lui rd imm20 => .full (word32 (imm20.toNat / 8192) (imm20.toNat / 256 % 32) (imm20.toNat / 8 % 32) (imm20.toNat % 8) rd.toNat 0x37)
  | .auipc rd imm20 => .full (word32 (imm20.toNat / 8192) (imm20.toNat / 256 % 32) (imm20.toNat / 8 % 32) (imm20.toNat % 8) rd.toNat 0x17)
  | .beq rs1 rs2 off => .full (word32 (off.toNat / 2048 * 64 + off.toNat / 16 % 64) rs2.toNat rs1.toNat 0 (off.toNat % 16 * 2 + off.toNat / 1024 % 2) 0x63)
  | .bne rs1 rs2 off => .full (word32 (off.toNat / 2048 * 64 + off.toNat / 16 % 64) rs2.toNat rs1.toNat 1 (off.toNat % 16 * 2 + off.toNat / 1024 % 2) 0x63)
  | .blt rs1 rs2 off => .full (word32 (off.toNat / 2048 * 64 + off.toNat / 16 % 64) rs2.toNat rs1.toNat 4 (off.toNat % 16 * 2 + off.toNat / 1024 % 2) 0x63)
  | .bge rs1 rs2 off => .full (word32 (off.toNat / 2048 * 64 + off.toNat / 16 % 64) rs2.toNat rs1.toNat 5 (off.toNat % 16 * 2 + off.toNat / 1024 % 2) 0x63)
  | .bltu rs1 rs2 off => .full (word32 (off.toNat / 2048 * 64 + off.toNat / 16 % 64) rs2.toNat rs1.toNat 6 (off.toNat % 16 * 2 + off.toNat / 1024 % 2) 0x63)
  | .bgeu rs1 rs2 off => .full (word32 (off.toNat / 2048 * 64 + off.toNat / 16 % 64) rs2.toNat rs1.toNat 7 (off.toNat % 16 * 2 + off.toNat / 1024 % 2) 0x63)
  | .jal rd off => .full (word32 (off.toNat / 524288 * 64 + off.toNat / 16 % 64) (off.toNat % 16 * 2 + off.toNat / 1024 % 2) (off.toNat / 16384 % 32) (off.toNat / 2048 % 8) rd.toNat 0x6f)
  | .jalr rd rs1 imm12 => .full (word32 (imm12.toNat / 32) (imm12.toNat % 32) rs1.toNat 0 rd.toNat 0x67)
  | .lb rd rs1 imm12 => .full (word32 (imm12.toNat / 32) (imm12.toNat % 32) rs1.toNat 0 rd.toNat 0x3)
  | .lbu rd rs1 imm12 => .full (word32 (imm12.toNat / 32) (imm12.toNat % 32) rs1.toNat 4 rd.toNat 0x3)
  | .lh rd rs1 imm12 => .full (word32 (imm12.toNat / 32) (imm12.toNat % 32) rs1.toNat 1 rd.toNat 0x3)
  | .lhu rd rs1 imm12 => .full (word32 (imm12.toNat / 32) (imm12.toNat % 32) rs1.toNat 5 rd.toNat 0x3)
  | .lw rd rs1 imm12 => .full (word32 (imm12.toNat / 32) (imm12.toNat % 32) rs1.toNat 2 rd.toNat 0x3)
  | .lwu rd rs1 imm12 => .full (word32 (imm12.toNat / 32) (imm12.toNat % 32) rs1.toNat 6 rd.toNat 0x3)
  | .ld rd rs1 imm12 => .full (word32 (imm12.toNat / 32) (imm12.toNat % 32) rs1.toNat 3 rd.toNat 0x3)
  | .sb rs2 rs1 imm12 => .full (word32 (imm12.toNat / 32) rs2.toNat rs1.toNat 0 (imm12.toNat % 32) 0x23)
  | .sh rs2 rs1 imm12 => .full (word32 (imm12.toNat / 32) rs2.toNat rs1.toNat 1 (imm12.toNat % 32) 0x23)
  | .sw rs2 rs1 imm12 => .full (word32 (imm12.toNat / 32) rs2.toNat rs1.toNat 2 (imm12.toNat % 32) 0x23)
  | .sd rs2 rs1 imm12 => .full (word32 (imm12.toNat / 32) rs2.toNat rs1.toNat 3 (imm12.toNat % 32) 0x23)
  | .fence fm pred succ rs1 rd => .full (word32 (fm.toNat * 8 + pred.toNat / 2) (pred.toNat % 2 * 16 + succ.toNat) rs1.toNat 0 rd.toNat 0xf)
  | .fenceI imm12 rs1 rd => .full (word32 (imm12.toNat / 32) (imm12.toNat % 32) rs1.toNat 1 rd.toNat 0xf)
  | .csrrw rd csr rs1 => .full (word32 (csr.toNat / 32) (csr.toNat % 32) rs1.toNat 1 rd.toNat 0x73)
  | .csrrs rd csr rs1 => .full (word32 (csr.toNat / 32) (csr.toNat % 32) rs1.toNat 2 rd.toNat 0x73)
  | .csrrc rd csr rs1 => .full (word32 (csr.toNat / 32) (csr.toNat % 32) rs1.toNat 3 rd.toNat 0x73)
  | .csrrwi rd csr uimm5 => .full (word32 (csr.toNat / 32) (csr.toNat % 32) uimm5.toNat 5 rd.toNat 0x73)
  | .csrrsi rd csr uimm5 => .full (word32 (csr.toNat / 32) (csr.toNat % 32) uimm5.toNat 6 rd.toNat 0x73)
  | .csrrci rd csr uimm5 => .full (word32 (csr.toNat / 32) (csr.toNat % 32) uimm5.toNat 7 rd.toNat 0x73)
  | .ecall => .full (word32 0 0 0 0 0 0x73)
  | .ebreak => .full (word32 0 1 0 0 0 0x73)
  | .sret => .full (word32 8 2 0 0 0 0x73)
  | .mret => .full (word32 24 2 0 0 0 0x73)
  | .sfenceVma rs1 rs2 => .full (word32 9 rs2.toNat rs1.toNat 0 0 0x73)
  | .wfi => .full (word32 8 5 0 0 0 0x73)
  | .div rd rs1 rs2 => .full (word32 1 rs2.toNat rs1.toNat 4 rd.toNat 0x33)
  | .divu rd rs1 rs2 => .full (word32 1 rs2.toNat rs1.toNat 5 rd.toNat 0x33)
  | .divuw rd rs1 rs2 => .full (word32 1 rs2.toNat rs1.toNat 5 rd.toNat 0x3b)
  | .divw rd rs1 rs2 => .full (word32 1 rs2.toNat rs1.toNat 4 rd.toNat 0x3b)
  | .mul rd rs1 rs2 => .full (word32 1 rs2.toNat rs1.toNat 0 rd.toNat 0x33)
  | .mulh rd rs1 rs2 => .full (word32 1 rs2.toNat rs1.toNat 1 rd.toNat 0x33)
  | .mulhsu rd rs1 rs2 => .full (word32 1 rs2.toNat rs1.toNat 2 rd.toNat 0x33)
  | .mulhu rd rs1 rs2 => .full (word32 1 rs2.toNat rs1.toNat 3 rd.toNat 0x33)
  | .mulw rd rs1 rs2 => .full (word32 1 rs2.toNat rs1.toNat 0 rd.toNat 0x3b)
  | .rem rd rs1 rs2 => .full (word32 1 rs2.toNat rs1.toNat 6 rd.toNat 0x33)
  | .remu rd rs1 rs2 => .full (word32 1 rs2.toNat rs1.toNat 7 rd.toNat 0x33)
  | .remuw rd rs1 rs2 => .full (word32 1 rs2.toNat rs1.toNat 7 rd.toNat 0x3b)
  | .remw rd rs1 rs2 => .full (word32 1 rs2.toNat rs1.toNat 6 rd.toNat 0x3b)
  | .amoaddD rd rs2 rs1 aq rl => .full (word32 (0 + aq.toNat * 2 + rl.toNat) rs2.toNat rs1.toNat 3 rd.toNat 0x2f)
  | .amoaddW rd rs2 rs1 aq rl => .full (word32 (0 + aq.toNat * 2 + rl.toNat) rs2.toNat rs1.toNat 2 rd.toNat 0x2f)
  | .amoandD rd rs2 rs1 aq rl => .full (word32 (48 + aq.toNat * 2 + rl.toNat) rs2.toNat rs1.toNat 3 rd.toNat 0x2f)
  | .amoandW rd rs2 rs1 aq rl => .full (word32 (48 + aq.toNat * 2 + rl.toNat) rs2.toNat rs1.toNat 2 rd.toNat 0x2f)
  | .amomaxD rd rs2 rs1 aq rl => .full (word32 (80 + aq.toNat * 2 + rl.toNat) rs2.toNat rs1.toNat 3 rd.toNat 0x2f)
  | .amomaxW rd rs2 rs1 aq rl => .full (word32 (80 + aq.toNat * 2 + rl.toNat) rs2.toNat rs1.toNat 2 rd.toNat 0x2f)
  | .amomaxuD rd rs2 rs1 aq rl => .full (word32 (112 + aq.toNat * 2 + rl.toNat) rs2.toNat rs1.toNat 3 rd.toNat 0x2f)
  | .amomaxuW rd rs2 rs1 aq rl => .full (word32 (112 + aq.toNat * 2 + rl.toNat) rs2.toNat rs1.toNat 2 rd.toNat 0x2f)
  | .amominD rd rs2 rs1 aq rl => .full (word32 (64 + aq.toNat * 2 + rl.toNat) rs2.toNat rs1.toNat 3 rd.toNat 0x2f)
  | .amominW rd rs2 rs1 aq rl => .full (word32 (64 + aq.toNat * 2 + rl.toNat) rs2.toNat rs1.toNat 2 rd.toNat 0x2f)
  | .amominuD rd rs2 rs1 aq rl => .full (word32 (96 + aq.toNat * 2 + rl.toNat) rs2.toNat rs1.toNat 3 rd.toNat 0x2f)
  | .amominuW rd rs2 rs1 aq rl => .full (word32 (96 + aq.toNat * 2 + rl.toNat) rs2.toNat rs1.toNat 2 rd.toNat 0x2f)
  | .amoorD rd rs2 rs1 aq rl => .full (word32 (32 + aq.toNat * 2 + rl.toNat) rs2.toNat rs1.toNat 3 rd.toNat 0x2f)
  | .amoorW rd rs2 rs1 aq rl => .full (word32 (32 + aq.toNat * 2 + rl.toNat) rs2.toNat rs1.toNat 2 rd.toNat 0x2f)
  | .amoswapD rd rs2 rs1 aq rl => .full (word32 (4 + aq.toNat * 2 + rl.toNat) rs2.toNat rs1.toNat 3 rd.toNat 0x2f)
  | .amoswapW rd rs2 rs1 aq rl => .full (word32 (4 + aq.toNat * 2 + rl.toNat) rs2.toNat rs1.toNat 2 rd.toNat 0x2f)
  | .amoxorD rd rs2 rs1 aq rl => .full (word32 (16 + aq.toNat * 2 + rl.toNat) rs2.toNat rs1.toNat 3 rd.toNat 0x2f)
  | .amoxorW rd rs2 rs1 aq rl => .full (word32 (16 + aq.toNat * 2 + rl.toNat) rs2.toNat rs1.toNat 2 rd.toNat 0x2f)
  | .lrD rd rs1 aq rl => .full (word32 (8 + aq.toNat * 2 + rl.toNat) 0 rs1.toNat 3 rd.toNat 0x2f)
  | .lrW rd rs1 aq rl => .full (word32 (8 + aq.toNat * 2 + rl.toNat) 0 rs1.toNat 2 rd.toNat 0x2f)
  | .scD rd rs2 rs1 aq rl => .full (word32 (12 + aq.toNat * 2 + rl.toNat) rs2.toNat rs1.toNat 3 rd.toNat 0x2f)
  | .scW rd rs2 rs1 aq rl => .full (word32 (12 + aq.toNat * 2 + rl.toNat) rs2.toNat rs1.toNat 2 rd.toNat 0x2f)
  | .faddS fd fs1 fs2 rm => .full (word32 0 fs2.toNat fs1.toNat rm.toNat fd.toNat 0x53)
  | .fclassS rd fs1 => .full (word32 112 0 fs1.toNat 1 rd.toNat 0x53)
  | .fcvtLS rd fs1 rm => .full (word32 96 2 fs1.toNat rm.toNat rd.toNat 0x53)
  | .fcvtLuS rd fs1 rm => .full (word32 96 3 fs1.toNat rm.toNat rd.toNat 0x53)
  | .fcvtSL fd rs1 rm => .full (word32 104 2 rs1.toNat rm.toNat fd.toNat 0x53)
  | .fcvtSLu fd rs1 rm => .full (word32 104 3 rs1.toNat rm.toNat fd.toNat 0x53)
  | .fcvtSW fd rs1 rm => .full (word32 104 0 rs1.toNat rm.toNat fd.toNat 0x53)
  | .fcvtSWu fd rs1 rm => .full (word32 104 1 rs1.toNat rm.toNat fd.toNat 0x53)
  | .fcvtWS rd fs1 rm => .full (word32 96 0 fs1.toNat rm.toNat rd.toNat 0x53)
  | .fcvtWuS rd fs1 rm => .full (word32 96 1 fs1.toNat rm.toNat rd.toNat 0x53)
  | .fdivS fd fs1 fs2 rm => .full (word32 12 fs2.toNat fs1.toNat rm.toNat fd.toNat 0x53)
  | .feqS rd fs1 fs2 => .full (word32 80 fs2.toNat fs1.toNat 2 rd.toNat 0x53)
  | .fleS rd fs1 fs2 => .full (word32 80 fs2.toNat fs1.toNat 0 rd.toNat 0x53)
  | .fltS rd fs1 fs2 => .full (word32 80 fs2.toNat fs1.toNat 1 rd.toNat 0x53)
  | .flw fd rs1 imm12 => .full (word32 (imm12.toNat / 32) (imm12.toNat % 32) rs1.toNat 2 fd.toNat 0x7)
  | .fmaddS fd fs1 fs2 fs3 rm => .full (word32 (fs3.toNat * 4 + 0) fs2.toNat fs1.toNat rm.toNat fd.toNat 0x43)
  | .fmaxS fd fs1 fs2 => .full (word32 20 fs2.toNat fs1.toNat 1 fd.toNat 0x53)
  | .fminS fd fs1 fs2 => .full (word32 20 fs2.toNat fs1.toNat 0 fd.toNat 0x53)
  | .fmsubS fd fs1 fs2 fs3 rm => .full (word32 (fs3.toNat * 4 + 0) fs2.toNat fs1.toNat rm.toNat fd.toNat 0x47)
  | .fmulS fd fs1 fs2 rm => .full (word32 8 fs2.toNat fs1.toNat rm.toNat fd.toNat 0x53)
  | .fmvWX fd rs1 => .full (word32 120 0 rs1.toNat 0 fd.toNat 0x53)
  | .fmvXW rd fs1 => .full (word32 112 0 fs1.toNat 0 rd.toNat 0x53)
  | .fnmaddS fd fs1 fs2 fs3 rm => .full (word32 (fs3.toNat * 4 + 0) fs2.toNat fs1.toNat rm.toNat fd.toNat 0x4f)
  | .fnmsubS fd fs1 fs2 fs3 rm => .full (word32 (fs3.toNat * 4 + 0) fs2.toNat fs1.toNat rm.toNat fd.toNat 0x4b)
  | .fsgnjS fd fs1 fs2 => .full (word32 16 fs2.toNat fs1.toNat 0 fd.toNat 0x53)
  | .fsgnjnS fd fs1 fs2 => .full (word32 16 fs2.toNat fs1.toNat 1 fd.toNat 0x53)
  | .fsgnjxS fd fs1 fs2 => .full (word32 16 fs2.toNat fs1.toNat 2 fd.toNat 0x53)
  | .fsqrtS fd fs1 rm => .full (word32 44 0 fs1.toNat rm.toNat fd.toNat 0x53)
  | .fsubS fd fs1 fs2 rm => .full (word32 4 fs2.toNat fs1.toNat rm.toNat fd.toNat 0x53)
  | .fsw fs2 rs1 imm12 => .full (word32 (imm12.toNat / 32) fs2.toNat rs1.toNat 2 (imm12.toNat % 32) 0x27)
  | .faddD fd fs1 fs2 rm => .full (word32 1 fs2.toNat fs1.toNat rm.toNat fd.toNat 0x53)
  | .fclassD rd fs1 => .full (word32 113 0 fs1.toNat 1 rd.toNat 0x53)
  | .fcvtDL fd rs1 rm => .full (word32 105 2 rs1.toNat rm.toNat fd.toNat 0x53)
  | .fcvtDLu fd rs1 rm => .full (word32 105 3 rs1.toNat rm.toNat fd.toNat 0x53)
  | .fcvtDS fd fs1 rm => .full (word32 33 0 fs1.toNat rm.toNat fd.toNat 0x53)
  | .fcvtDW fd rs1 rm => .full (word32 105 0 rs1.toNat rm.toNat fd.toNat 0x53)
  | .fcvtDWu fd rs1 rm => .full (word32 105 1 rs1.toNat rm.toNat fd.toNat 0x53)
  | .fcvtLD rd fs1 rm => .full (word32 97 2 fs1.toNat rm.toNat rd.toNat 0x53)
  | .fcvtLuD rd fs1 rm => .full (word32 97 3 fs1.toNat rm.toNat rd.toNat 0x53)
  | .fcvtSD fd fs1 rm => .full (word32 32 1 fs1.toNat rm.toNat fd.toNat 0x53)
  | .fcvtWD rd fs1 rm => .full (word32 97 0 fs1.toNat rm.toNat rd.toNat 0x53)
  | .fcvtWuD rd fs1 rm => .full (word32 97 1 fs1.toNat rm.toNat rd.toNat 0x53)
  | .fdivD fd fs1 fs2 rm => .full (word32 13 fs2.toNat fs1.toNat rm.toNat fd.toNat 0x53)
  | .feqD rd fs1 fs2 => .full (word32 81 fs2.toNat fs1.toNat 2 rd.toNat 0x53)
  | .fld fd rs1 imm12 => .full (word32 (imm12.toNat / 32) (imm12.toNat % 32) rs1.toNat 3 fd.toNat 0x7)
  | .fleD rd fs1 fs2 => .full (word32 81 fs2.toNat fs1.toNat 0 rd.toNat 0x53)
  | .fltD rd fs1 fs2 => .full (word32 81 fs2.toNat fs1.toNat 1 rd.toNat 0x53)
  | .fmaddD fd fs1 fs2 fs3 rm => .full (word32 (fs3.toNat * 4 + 1) fs2.toNat fs1.toNat rm.toNat fd.toNat 0x43)
  | .fmaxD fd fs1 fs2 => .full (word32 21 fs2.toNat fs1.toNat 1 fd.toNat 0x53)
  | .fminD fd fs1 fs2 => .full (word32 21 fs2.toNat fs1.toNat 0 fd.toNat 0x53)
  | .fmsubD fd fs1 fs2 fs3 rm => .full (word32 (fs3.toNat * 4 + 1) fs2.toNat fs1.toNat rm.toNat fd.toNat 0x47)
  | .fmulD fd fs1 fs2 rm => .full (word32 9 fs2.toNat fs1.toNat rm.toNat fd.toNat 0x53)
  | .fmvDX fd rs1 => .full (word32 121 0 rs1.toNat 0 fd.toNat 0x53)
  | .fmvXD rd fs1 => .full (word32 113 0 fs1.toNat 0 rd.toNat 0x53)
  | .fnmaddD fd fs1 fs2 fs3 rm => .full (word32 (fs3.toNat * 4 + 1) fs2.toNat fs1.toNat rm.toNat fd.toNat 0x4f)
  | .fnmsubD fd fs1 fs2 fs3 rm => .full (word32 (fs3.toNat * 4 + 1) fs2.toNat fs1.toNat rm.toNat fd.toNat 0x4b)
  | .fsd fs2 rs1 imm12 => .full (word32 (imm12.toNat / 32) fs2.toNat rs1.toNat 3 (imm12.toNat % 32) 0x27)
  | .fsgnjD fd fs1 fs2 => .full (word32 17 fs2.toNat fs1.toNat 0 fd.toNat 0x53)
  | .fsgnjnD fd fs1 fs2 => .full (word32 17 fs2.toNat fs1.toNat 1 fd.toNat 0x53)
  | .fsgnjxD fd fs1 fs2 => .full (word32 17 fs2.toNat fs1.toNat 2 fd.toNat 0x53)
  | .fsqrtD fd fs1 rm => .full (word32 45 0 fs1.toNat rm.toNat fd.toNat 0x53)
  | .fsubD fd fs1 fs2 rm => .full (word32 5 fs2.toNat fs1.toNat rm.toNat fd.toNat 0x53)
  | .cAdd rd rs2 => .half (word16 4 1 rd.toNat rs2.toNat 2)
  | .cAddi rd imm6 => .half (word16 0 (imm6.toNat / 32) rd.toNat (imm6.toNat % 32) 1)
  | .cAddiw rd imm6 => .half (word16 1 (imm6.toNat / 32) rd.toNat (imm6.toNat % 32) 1)
  | .cAddi4spn rd uimm8 => .half (word16 0 (uimm8.toNat / 8 % 2) (uimm8.toNat / 4 % 2 * 16 + uimm8.toNat / 16) (uimm8.toNat % 2 * 16 + uimm8.toNat / 2 % 2 * 8 + rd.toNat) 0)
  | .cAddi16sp imm6 => .half (word16 3 (imm6.toNat / 32) 2 (imm6.toNat % 2 * 16 + imm6.toNat / 4 % 2 * 8 + imm6.toNat / 8 % 4 * 2 + imm6.toNat / 2 % 2) 1)
  | .cAddw rd rs2 => .half (word16 4 1 (24 + rd.toNat) (8 + rs2.toNat) 1)
  | .cAnd rd rs2 => .half (word16 4 0 (24 + rd.toNat) (24 + rs2.toNat) 1)
  | .cAndi rd imm6 => .half (word16 4 (imm6.toNat / 32) (16 + rd.toNat) (imm6.toNat % 32) 1)
  | .cBeqz rs1 off => .half (word16 6 (off.toNat / 128) (off.toNat / 4 % 4 * 8 + rs1.toNat) (off.toNat / 32 % 4 * 8 + off.toNat % 4 * 2 + off.toNat / 16 % 2) 1)
  | .cBnez rs1 off => .half (word16 7 (off.toNat / 128) (off.toNat / 4 % 4 * 8 + rs1.toNat) (off.toNat / 32 % 4 * 8 + off.toNat % 4 * 2 + off.toNat / 16 % 2) 1)
  | .cEbreak => .half (word16 4 1 0 0 2)
  | .cFld fd rs1 uimm5 => .half (word16 1 (uimm5.toNat / 4 % 2) (uimm5.toNat % 4 * 8 + rs1.toNat) (uimm5.toNat / 8 * 8 + fd.toNat) 0)
  | .cFldsp fd uimm6 => .half (word16 1 (uimm6.toNat / 4 % 2) fd.toNat (uimm6.toNat % 4 * 8 + uimm6.toNat / 8) 2)
  | .cFsd fs2 rs1 uimm5 => .half (word16 5 (uimm5.toNat / 4 % 2) (uimm5.toNat % 4 * 8 + rs1.toNat) (uimm5.toNat / 8 * 8 + fs2.toNat) 0)
  | .cFsdsp fs2 uimm6 => .half (word16 5 (uimm6.toNat / 4 % 2) (uimm6.toNat % 4 * 8 + uimm6.toNat / 8) fs2.toNat 2)
  | .cJ off => .half (word16 5 (off.toNat / 1024) (off.toNat / 8 % 2 * 16 + off.toNat / 128 % 4 * 4 + off.toNat / 512 % 2 * 2 + off.toNat / 32 % 2) (off.toNat / 64 % 2 * 16 + off.toNat % 8 * 2 + off.toNat / 16 % 2) 1)
  | .cJalr rs1 => .half (word16 4 1 rs1.toNat 0 2)
  | .cJr rs1 => .half (word16 4 0 rs1.toNat 0 2)
  | .cLd rd rs1 uimm5 => .half (word16 3 (uimm5.toNat / 4 % 2) (uimm5.toNat % 4 * 8 + rs1.toNat) (uimm5.toNat / 8 * 8 + rd.toNat) 0)
  | .cLdsp rd uimm6 => .half (word16 3 (uimm6.toNat / 4 % 2) rd.toNat (uimm6.toNat % 4 * 8 + uimm6.toNat / 8) 2)
  | .cLi rd imm6 => .half (word16 2 (imm6.toNat / 32) rd.toNat (imm6.toNat % 32) 1)
  | .cLui rd imm6 => .half (word16 3 (imm6.toNat / 32) rd.toNat (imm6.toNat % 32) 1)
  | .cLw rd rs1 uimm5 => .half (word16 2 (uimm5.toNat / 8 % 2) (uimm5.toNat / 2 % 4 * 8 + rs1.toNat) (uimm5.toNat % 2 * 16 + uimm5.toNat / 16 * 8 + rd.toNat) 0)
  | .cLwsp rd uimm6 => .half (word16 2 (uimm6.toNat / 8 % 2) rd.toNat (uimm6.toNat % 8 * 4 + uimm6.toNat / 16) 2)
  | .cMv rd rs2 => .half (word16 4 0 rd.toNat rs2.toNat 2)
  | .cNop => .half (word16 0 0 0 0 1)
  | .cOr rd rs2 => .half (word16 4 0 (24 + rd.toNat) (16 + rs2.toNat) 1)
  | .cSd rs2 rs1 uimm5 => .half (word16 7 (uimm5.toNat / 4 % 2) (uimm5.toNat % 4 * 8 + rs1.toNat) (uimm5.toNat / 8 * 8 + rs2.toNat) 0)
  | .cSdsp rs2 uimm6 => .half (word16 7 (uimm6.toNat / 4 % 2) (uimm6.toNat % 4 * 8 + uimm6.toNat / 8) rs2.toNat 2)
  | .cSlli rd shamt => .half (word16 0 (shamt.toNat / 32) rd.toNat (shamt.toNat % 32) 2)
  | .cSrai rd shamt => .half (word16 4 (shamt.toNat / 32) (8 + rd.toNat) (shamt.toNat % 32) 1)
  | .cSrli rd shamt => .half (word16 4 (shamt.toNat / 32) (0 + rd.toNat) (shamt.toNat % 32) 1)
  | .cSw rs2 rs1 uimm5 => .half (word16 6 (uimm5.toNat / 8 % 2) (uimm5.toNat / 2 % 4 * 8 + rs1.toNat) (uimm5.toNat % 2 * 16 + uimm5.toNat / 16 * 8 + rs2.toNat) 0)
  | .cSwsp rs2 uimm6 => .half (word16 6 (uimm6.toNat / 8 % 2) (uimm6.toNat % 8 * 4 + uimm6.toNat / 16) rs2.toNat 2)
  | .cSub rd rs2 => .half (word16 4 0 (24 + rd.toNat) (0 + rs2.toNat) 1)
  | .cSubw rd rs2 => .half (word16 4 1 (24 + rd.toNat) (0 + rs2.toNat) 1)
  | .cXor rd rs2 => .half (word16 4 0 (24 + rd.toNat) (8 + rs2.toNat) 1)
  | .addsl rd rs1 rs2 imm2 => .full (word32 (0 + imm2.toNat) rs2.toNat rs1.toNat 1 rd.toNat 0xb)
  | .mula rd rs1 rs2 => .full (word32 16 rs2.toNat rs1.toNat 1 rd.toNat 0xb)
  | .mulah rd rs1 rs2 => .full (word32 20 rs2.toNat rs1.toNat 1 rd.toNat 0xb)
  | .mulaw rd rs1 rs2 => .full (word32 18 rs2.toNat rs1.toNat 1 rd.toNat 0xb)
  | .muls rd rs1 rs2 => .full (word32 17 rs2.toNat rs1.toNat 1 rd.toNat 0xb)
  | .mulsh rd rs1 rs2 => .full (word32 21 rs2.toNat rs1.toNat 1 rd.toNat 0xb)
  | .mulsw rd rs1 rs2 => .full (word32 19 rs2.toNat rs1.toNat 1 rd.toNat 0xb)
  | .mveqz rd rs1 rs2 => .full (word32 32 rs2.toNat rs1.toNat 1 rd.toNat 0xb)
  | .mvnez rd rs1 rs2 => .full (word32 33 rs2.toNat rs1.toNat 1 rd.toNat 0xb)
  | .srri rd rs1 imm6 => .full (word32 (8 + imm6.toNat / 32) (imm6.toNat % 32) rs1.toNat 1 rd.toNat 0xb)
  | .srriw rd rs1 imm5 => .full (word32 10 imm5.toNat rs1.toNat 1 rd.toNat 0xb)
  | .ext rd rs1 msb lsb => .full (word32 (msb.toNat * 2 + lsb.toNat / 32) (lsb.toNat % 32) rs1.toNat 2 rd.toNat 0xb)
  | .extu rd rs1 msb lsb => .full (word32 (msb.toNat * 2 + lsb.toNat / 32) (lsb.toNat % 32) rs1.toNat 3 rd.toNat 0xb)
  | .ff0 rd rs1 => .full (word32 66 0 rs1.toNat 1 rd.toNat 0xb)
  | .ff1 rd rs1 => .full (word32 67 0 rs1.toNat 1 rd.toNat 0xb)
  | .rev rd rs1 => .full (word32 65 0 rs1.toNat 1 rd.toNat 0xb)
  | .revw rd rs1 => .full (word32 72 0 rs1.toNat 1 rd.toNat 0xb)
  | .tst rd rs1 imm6 => .full (word32 (68 + imm6.toNat / 32) (imm6.toNat % 32) rs1.toNat 1 rd.toNat 0xb)
  | .tstnbz rd rs1 => .full (word32 64 0 rs1.toNat 1 rd.toNat 0xb)
  | .flrd fd rs1 rs2 imm2 => .full (word32 (48 + imm2.toNat) rs2.toNat rs1.toNat 6 fd.toNat 0xb)
  | .flrw fd rs1 rs2 imm2 => .full (word32 (32 + imm2.toNat) rs2.toNat rs1.toNat 6 fd.toNat 0xb)
  | .flurd fd rs1 rs2 imm2 => .full (word32 (56 + imm2.toNat) rs2.toNat rs1.toNat 6 fd.toNat 0xb)
  | .flurw fd rs1 rs2 imm2 => .full (word32 (40 + imm2.toNat) rs2.toNat rs1.toNat 6 fd.toNat 0xb)
  | .fsrd fd rs1 rs2 imm2 => .full (word32 (48 + imm2.toNat) rs2.toNat rs1.toNat 7 fd.toNat 0xb)
  | .fsrw fd rs1 rs2 imm2 => .full (word32 (32 + imm2.toNat) rs2.toNat rs1.toNat 7 fd.toNat 0xb)
  | .fsurd fd rs1 rs2 imm2 => .full (word32 (56 + imm2.toNat) rs2.toNat rs1.toNat 7 fd.toNat 0xb)
  | .fsurw fd rs1 rs2 imm2 => .full (word32 (40 + imm2.toNat) rs2.toNat rs1.toNat 7 fd.toNat 0xb)
  | .lbia rd rs1 imm5 imm2 => .full (word32 (12 + imm2.toNat) imm5.toNat rs1.toNat 4 rd.toNat 0xb)
  | .lbib rd rs1 imm5 imm2 => .full (word32 (4 + imm2.toNat) imm5.toNat rs1.toNat 4 rd.toNat 0xb)
  | .lbuia rd rs1 imm5 imm2 => .full (word32 (76 + imm2.toNat) imm5.toNat rs1.toNat 4 rd.toNat 0xb)
  | .lbuib rd rs1 imm5 imm2 => .full (word32 (68 + imm2.toNat) imm5.toNat rs1.toNat 4 rd.toNat 0xb)
  | .ldd rd1 rd2 rs1 imm2 => .full (word32 (124 + imm2.toNat) rd2.toNat rs1.toNat 4 rd1.toNat 0xb)
  | .ldia rd rs1 imm5 imm2 => .full (word32 (60 + imm2.toNat) imm5.toNat rs1.toNat 4 rd.toNat 0xb)
  | .ldib rd rs1 imm5 imm2 => .full (word32 (52 + imm2.toNat) imm5.toNat rs1.toNat 4 rd.toNat 0xb)
  | .lhia rd rs1 imm5 imm2 => .full (word32 (28 + imm2.toNat) imm5.toNat rs1.toNat 4 rd.toNat 0xb)
  | .lhib rd rs1 imm5 imm2 => .full (word32 (20 + imm2.toNat) imm5.toNat rs1.toNat 4 rd.toNat 0xb)
  | .lhuia rd rs1 imm5 imm2 => .full (word32 (92 + imm2.toNat) imm5.toNat rs1.toNat 4 rd.toNat 0xb)
  | .lhuib rd rs1 imm5 imm2 => .full (word32 (84 + imm2.toNat) imm5.toNat rs1.toNat 4 rd.toNat 0xb)
  | .lrb rd rs1 rs2 imm2 => .full (word32 (0 + imm2.toNat) rs2.toNat rs1.toNat 4 rd.toNat 0xb)
  | .lrbu rd rs1 rs2 imm2 => .full (word32 (64 + imm2.toNat) rs2.toNat rs1.toNat 4 rd.toNat 0xb)
  | .lrd rd rs1 rs2 imm2 => .full (word32 (48 + imm2.toNat) rs2.toNat rs1.toNat 4 rd.toNat 0xb)
  | .lrh rd rs1 rs2 imm2 => .full (word32 (16 + imm2.toNat) rs2.toNat rs1.toNat 4 rd.toNat 0xb)
  | .lrhu rd rs1 rs2 imm2 => .full (word32 (80 + imm2.toNat) rs2.toNat rs1.toNat 4 rd.toNat 0xb)
  | .lrw rd rs1 rs2 imm2 => .full (word32 (32 + imm2.toNat) rs2.toNat rs1.toNat 4 rd.toNat 0xb)
  | .lrwu rd rs1 rs2 imm2 => .full (word32 (96 + imm2.toNat) rs2.toNat rs1.toNat 4 rd.toNat 0xb)
  | .lurb rd rs1 rs2 imm2 => .full (word32 (8 + imm2.toNat) rs2.toNat rs1.toNat 4 rd.toNat 0xb)
  | .lurbu rd rs1 rs2 imm2 => .full (word32 (72 + imm2.toNat) rs2.toNat rs1.toNat 4 rd.toNat 0xb)
  | .lurd rd rs1 rs2 imm2 => .full (word32 (56 + imm2.toNat) rs2.toNat rs1.toNat 4 rd.toNat 0xb)
  | .lurh rd rs1 rs2 imm2 => .full (word32 (24 + imm2.toNat) rs2.toNat rs1.toNat 4 rd.toNat 0xb)
  | .lurhu rd rs1 rs2 imm2 => .full (word32 (88 + imm2.toNat) rs2.toNat rs1.toNat 4 rd.toNat 0xb)
  | .lurw rd rs1 rs2 imm2 => .full (word32 (40 + imm2.toNat) rs2.toNat rs1.toNat 4 rd.toNat 0xb)
  | .lurwu rd rs1 rs2 imm2 => .full (word32 (104 + imm2.toNat) rs2.toNat rs1.toNat 4 rd.toNat 0xb)
  | .lwd rd1 rd2 rs1 imm2 => .full (word32 (112 + imm2.toNat) rd2.toNat rs1.toNat 4 rd1.toNat 0xb)
  | .lwia rd rs1 imm5 imm2 => .full (word32 (44 + imm2.toNat) imm5.toNat rs1.toNat 4 rd.toNat 0xb)
  | .lwib rd rs1 imm5 imm2 => .full (word32 (36 + imm2.toNat) imm5.toNat rs1.toNat 4 rd.toNat 0xb)
  | .lwud rd1 rd2 rs1 imm2 => .full (word32 (120 + imm2.toNat) rd2.toNat rs1.toNat 4 rd1.toNat 0xb)
  | .lwuia rd rs1 imm5 imm2 => .full (word32 (108 + imm2.toNat) imm5.toNat rs1.toNat 4 rd.toNat 0xb)
  | .lwuib rd rs1 imm5 imm2 => .full (word32 (100 + imm2.toNat) imm5.toNat rs1.toNat 4 rd.toNat 0xb)
  | .sbia rs2 rs1 imm5 imm2 => .full (word32 (12 + imm2.toNat) imm5.toNat rs1.toNat 5 rs2.toNat 0xb)
  | .sbib rs2 rs1 imm5 imm2 => .full (word32 (4 + imm2.toNat) imm5.toNat rs1.toNat 5 rs2.toNat 0xb)
  | .sdd rd1 rd2 rs1 imm2 => .full (word32 (124 + imm2.toNat) rd2.toNat rs1.toNat 5 rd1.toNat 0xb)
  | .sdia rs2 rs1 imm5 imm2 => .full (word32 (60 + imm2.toNat) imm5.toNat rs1.toNat 5 rs2.toNat 0xb)
  | .sdib rs2 rs1 imm5 imm2 => .full (word32 (52 + imm2.toNat) imm5.toNat rs1.toNat 5 rs2.toNat 0xb)
  | .shia rs2 rs1 imm5 imm2 => .full (word32 (28 + imm2.toNat) imm5.toNat rs1.toNat 5 rs2.toNat 0xb)
  | .shib rs2 rs1 imm5 imm2 => .full (word32 (20 + imm2.toNat) imm5.toNat rs1.toNat 5 rs2.toNat 0xb)
  | .srb rs rs1 rs2 imm2 => .full (word32 (0 + imm2.toNat) rs2.toNat rs1.toNat 5 rs.toNat 0xb)
  | .srd rs rs1 rs2 imm2 => .full (word32 (48 + imm2.toNat) rs2.toNat rs1.toNat 5 rs.toNat 0xb)
  | .srh rs rs1 rs2 imm2 => .full (word32 (16 + imm2.toNat) rs2.toNat rs1.toNat 5 rs.toNat 0xb)
  | .srw rs rs1 rs2 imm2 => .full (word32 (32 + imm2.toNat) rs2.toNat rs1.toNat 5 rs.toNat 0xb)
  | .surb rs rs1 rs2 imm2 => .full (word32 (8 + imm2.toNat) rs2.toNat rs1.toNat 5 rs.toNat 0xb)
  | .surd rs rs1 rs2 imm2 => .full (word32 (56 + imm2.toNat) rs2.toNat rs1.toNat 5 rs.toNat 0xb)
  | .surh rs rs1 rs2 imm2 => .full (word32 (24 + imm2.toNat) rs2.toNat rs1.toNat 5 rs.toNat 0xb)
  | .surw rs rs1 rs2 imm2 => .full (word32 (40 + imm2.toNat) rs2.toNat rs1.toNat 5 rs.toNat 0xb)
  | .swia rs2 rs1 imm5 imm2 => .full (word32 (44 + imm2.toNat) imm5.toNat rs1.toNat 5 rs2.toNat 0xb)
  | .swib rs2 rs1 imm5 imm2 => .full (word32 (36 + imm2.toNat) imm5.toNat rs1.toNat 5 rs2.toNat 0xb)
  | .swd rd1 rd2 rs1 imm2 => .full (word32 (112 + imm2.toNat) rd2.toNat rs1.toNat 5 rd1.toNat 0xb)
  | .dcacheCall => .full (word32 0 1 0 0 0 0xb)
  | .dcacheCiall => .full (word32 0 3 0 0 0 0xb)
  | .dcacheCipa rs1 => .full (word32 1 11 rs1.toNat 0 0 0xb)
  | .dcacheCisw rs1 => .full (word32 1 3 rs1.toNat 0 0 0xb)
  | .dcacheCiva rs1 => .full (word32 1 7 rs1.toNat 0 0 0xb)
  | .dcacheCpa rs1 => .full (word32 1 9 rs1.toNat 0 0 0xb)
  | .dcacheCpal1 rs1 => .full (word32 1 8 rs1.toNat 0 0 0xb)
  | .dcacheCva rs1 => .full (word32 1 5 rs1.toNat 0 0 0xb)
  | .dcacheCval1 rs1 => .full (word32 1 4 rs1.toNat 0 0 0xb)
  | .dcacheIpa rs1 => .full (word32 1 10 rs1.toNat 0 0 0xb)
  | .dcacheIsw rs1 => .full (word32 1 2 rs1.toNat 0 0 0xb)
  | .dcacheIva rs1 => .full (word32 1 6 rs1.toNat 0 0 0xb)
  | .dcacheIall => .full (word32 0 2 0 0 0 0xb)
  | .icacheIall => .full (word32 0 16 0 0 0 0xb)
  | .icacheIalls => .full (word32 0 17 0 0 0 0xb)
  | .icacheIpa rs1 => .full (word32 1 24 rs1.toNat 0 0 0xb)
  | .icacheIva rs1 => .full (word32 1 16 rs1.toNat 0 0 0xb)
  | .l2cacheCall => .full (word32 0 21 0 0 0 0xb)
  | .l2cacheCiall => .full (word32 0 23 0 0 0 0xb)
  | .l2cacheIall => .full (word32 0 22 0 0 0 0xb)
  | .dcacheCsw rs1 => .full (word32 1 1 rs1.toNat 0 0 0xb)
  | .sfenceVmas rs1 rs2 => .full (word32 2 rs2.toNat rs1.toNat 0 0 0xb)
  | .sync => .full (word32 0 24 0 0 0 0xb)
  | .syncS => .full (word32 0 25 0 0 0 0xb)
  | .syncI => .full (word32 0 26 0 0 0 0xb)
  | .syncIs => .full (word32 0 27 0 0 0 0xb)
  | .faddH fd fs1 fs2 rm => .full (word32 2 fs2.toNat fs1.toNat rm.toNat fd.toNat 0x53)
  | .fclassH rd fs1 => .full (word32 114 0 fs1.toNat 1 rd.toNat 0x53)
  | .fcvtDH fd fs1 rm => .full (word32 33 2 fs1.toNat rm.toNat fd.toNat 0x53)
  | .fcvtHD fd fs1 rm => .full (word32 34 1 fs1.toNat rm.toNat fd.toNat 0x53)
  | .fcvtHL fd rs1 rm => .full (word32 106 2 rs1.toNat rm.toNat fd.toNat 0x53)
  | .fcvtHLu fd rs1 rm => .full (word32 106 3 rs1.toNat rm.toNat fd.toNat 0x53)
  | .fcvtHS fd fs1 rm => .full (word32 34 0 fs1.toNat rm.toNat fd.toNat 0x53)
  | .fcvtHW fd rs1 rm => .full (word32 106 0 rs1.toNat rm.toNat fd.toNat 0x53)
  | .fcvtHWu fd rs1 rm => .full (word32 106 1 rs1.toNat rm.toNat fd.toNat 0x53)
  | .fcvtLH rd fs1 rm => .full (word32 98 2 fs1.toNat rm.toNat rd.toNat 0x53)
  | .fcvtLuH rd fs1 rm => .full (word32 98 3 fs1.toNat rm.toNat rd.toNat 0x53)
  | .fcvtSH fd fs1 rm => .full (word32 32 2 fs1.toNat rm.toNat fd.toNat 0x53)
  | .fcvtWH rd fs1 rm => .full (word32 98 0 fs1.toNat rm.toNat rd.toNat 0x53)
  | .fcvtWuH rd fs1 rm => .full (word32 98 1 fs1.toNat rm.toNat rd.toNat 0x53)
  | .fdivH fd fs1 fs2 rm => .full (word32 14 fs2.toNat fs1.toNat rm.toNat fd.toNat 0x53)
  | .feqH rd fs1 fs2 => .full (word32 82 fs2.toNat fs1.toNat 2 rd.toNat 0x53)
  | .fleH rd fs1 fs2 => .full (word32 82 fs2.toNat fs1.toNat 0 rd.toNat 0x53)
  | .flh fd rs1 imm12 => .full (word32 (imm12.toNat / 32) (imm12.toNat % 32) rs1.toNat 1 fd.toNat 0x7)
  | .fltH rd fs1 fs2 => .full (word32 82 fs2.toNat fs1.toNat 1 rd.toNat 0x53)
  | .fmaddH fd fs1 fs2 fs3 rm => .full (word32 (fs3.toNat * 4 + 2) fs2.toNat fs1.toNat rm.toNat fd.toNat 0x43)
  | .fmaxH fd fs1 fs2 => .full (word32 22 fs2.toNat fs1.toNat 1 fd.toNat 0x53)
  | .fminH fd fs1 fs2 => .full (word32 22 fs2.toNat fs1.toNat 0 fd.toNat 0x53)
  | .fmsubH fd fs1 fs2 fs3 rm => .full (word32 (fs3.toNat * 4 + 2) fs2.toNat fs1.toNat rm.toNat fd.toNat 0x47)
  | .fmulH fd fs1 fs2 rm => .full (word32 10 fs2.toNat fs1.toNat rm.toNat fd.toNat 0x53)
  | .fmvHX fd rs1 => .full (word32 122 0 rs1.toNat 0 fd.toNat 0x53)
  | .fmvXH rd fs1 => .full (word32 114 0 fs1.toNat 0 rd.toNat 0x53)
  | .fnmaddH fd fs1 fs2 fs3 rm => .full (word32 (fs3.toNat * 4 + 2) fs2.toNat fs1.toNat rm.toNat fd.toNat 0x4f)
  | .fnmsubH fd fs1 fs2 fs3 rm => .full (word32 (fs3.toNat * 4 + 2) fs2.toNat fs1.toNat rm.toNat fd.toNat 0x4b)
  | .fsgnjH fd fs1 fs2 => .full (word32 18 fs2.toNat fs1.toNat 0 fd.toNat 0x53)
  | .fsgnjnH fd fs1 fs2 => .full (word32 18 fs2.toNat fs1.toNat 1 fd.toNat 0x53)
  | .fsgnjxH fd fs1 fs2 => .full (word32 18 fs2.toNat fs1.toNat 2 fd.toNat 0x53)
  | .fsh fs2 rs1 imm12 => .full (word32 (imm12.toNat / 32) fs2.toNat rs1.toNat 1 (imm12.toNat % 32) 0x27)
  | .fsqrtH fd fs1 rm => .full (word32 46 0 fs1.toNat rm.toNat fd.toNat 0x53)
  | .fsubH fd fs1 fs2 rm => .full (word32 6 fs2.toNat fs1.toNat rm.toNat fd.toNat 0x53)

/-- A code as bytes of memory, the lowest address first (20_memory:R181). -/
def Code.bytes : Code → List Byte
  | .half c => [.ofNat 8 c.toNat, .ofNat 8 (c.toNat / 256)]
  | .full c => [.ofNat 8 c.toNat, .ofNat 8 (c.toNat / 256), .ofNat 8 (c.toNat / 65536), .ofNat 8 (c.toNat / 16777216)]

/-- How many bytes a code takes (30_encoding:R280). -/
def Code.len : Code → Nat
  | .half _ => 2
  | .full _ => 4

/-- A code as a trap value, zero-extended (60_exceptions:R790). -/
def Code.value : Code → Word
  | .half c => c.zeroExtend 64
  | .full c => c.zeroExtend 64

/-- How many bytes an instruction takes. -/
def Instr.len (i : Instr) : Nat := (encode i).len

/-- The four bytes that hold the bits `w` of an instruction of `nbits` bits, the first parcel at the lowest address; the
bits above `nbits` are 0. -/
def tableBytes (nbits w : Nat) : List Byte :=
  Code.bytes (.full (.ofNat 32 (w % 2 ^ nbits)))

noncomputable section

/-- The instruction the decoder reads from an instruction of `nbits` bits `w`, numbered as spec/opcode_table.json numbers
them. -/
def decodeTableWord (nbits w : Nat) : Option Instr :=
  match decode (tableBytes nbits w) with
  | .ok (i, _) => some i
  | .error _ => none

end

end Sys2Proof
end

