-- ==== Sys2Proof/Machine/State.lean ====
section
/-! DEFINITION. The state of the C910MP: every register, memory, device register and hidden buffer the spec names, as
plain data. INVENTORY.md lists each field with its rule and its reset value. -/

namespace Sys2Proof.Machine

/-- Privilege modes (10_state:R31). -/
inductive Priv where
  | user
  | supervisor
  | machine
  deriving DecidableEq, Repr

/-- The two cores, one hart each (10_state:R20). -/
inductive HartId where
  | core0
  | core1
  deriving DecidableEq, Repr

/-- Reasons a step stops with a fault. -/
inductive Fault where
  /-- Raised by an AMO on non-cacheable or device memory when the SoC has no exclusive monitor: the manual calls the result
  unpredictable and gives no effect (93_implementation_defined:U19, 20_memory:R218). Safe. -/
  | unpredictableAtomic
  deriving DecidableEq, Repr

/-- Reasons a step refuses. -/
inductive Refusal where
  /-- Raised by `exec` alone, for an instruction that has no meaning yet. Safe. -/
  | notModelled (mnemonic : String)
  /-- Raised by a data access, a fetch or the read of a page-table entry whose page attributes are a combination outside
  table 6.1 (93_implementation_defined:U14, 20_memory:R183). Safe. -/
  | undefinedAttributes
  /-- Raised by a translation that hits several TLB entries (93_implementation_defined:U21, 21_mmu_pmp:R247). Safe. -/
  | tlbMultipleHit
  deriving DecidableEq, Repr

/-- An event of the environment, taken between two instructions (log 2). -/
inductive Input where
  /-- the current hart runs one instruction, its interrupts sampled first (60_exceptions:R813) -/
  | run
  /-- the current hart runs one instruction, the interrupt not yet arrived (93_implementation_defined:U29) -/
  | runHeld
  /-- the other hart becomes the current one (log 1) -/
  | switchHart
  /-- MTIME advances (61_clint_plic:R858) -/
  | time (ticks : Nat)
  /-- the current hart spends clock cycles (11_csr_standard:R89) -/
  | cycles (n : Nat)
  /-- a micro-architectural event of the current hart occurs `n` times (62_pmu_debug_power:R902) -/
  | event (counter : Fin 29) (n : Nat)
  /-- a level interrupt line changes (61_clint_plic:R880) -/
  | line (source : Fin 145) (level : Bool)
  /-- a pulse interrupt source fires (61_clint_plic:R880) -/
  | pulse (source : Fin 145)
  /-- a jTLB entry of the current hart is evicted (21_mmu_pmp:R246) -/
  | tlbEvict (set : BitVec 8) (way : BitVec 2)
  /-- the entry at a position of the current hart's I-uTLB or D-uTLB is evicted (21_mmu_pmp:R246) -/
  | utlbEvict (fetch : Bool) (index : Nat)
  /-- a translation of the current hart is brought into the TLB ahead of its use (21_mmu_pmp:R246) -/
  | tlbPrefetch (va : Word)
  /-- the current hart loses its reservation (93_implementation_defined:U18) -/
  | loseReservation
  /-- a 64-byte line leaves the current hart's L1 D-cache (20_memory:R219) -/
  | dcacheEvict (line : Nat)
  /-- the line at a position of the current hart's L1 I-cache leaves it (20_memory:R222) -/
  | icacheEvict (index : Nat)
  /-- a 64-byte line leaves the L2 (20_memory:R220) -/
  | l2Evict (line : Nat)
  /-- the line of a virtual address is prefetched into the current hart's L1 D-cache (20_memory:R225) -/
  | dcachePrefetch (va : Word)
  /-- the line of a virtual address is prefetched into the current hart's L1 I-cache (20_memory:R189, R225) -/
  | icachePrefetch (va : Word)
  /-- the line of a virtual address of code or of data is prefetched into the L2 (20_memory:R225, 12_csr_extended:R137) -/
  | l2Prefetch (fetch : Bool) (va : Word)
  /-- the current hart fetches the parcel at a virtual address ahead of its use (20_memory:R189) -/
  | fetchAhead (va : Word)
  /-- the current hart forgets what it has fetched ahead (20_memory:R189) -/
  | dropFetched
  /-- the broadcasts of the other hart take effect on the current one (70_reset_and_hazards:R951, log 62) -/
  | settle
  /-- `pad_cpu_l2cache_flush_req`, until `cpu_pad_l2cache_flush_done` (62_pmu_debug_power:R923, R927) -/
  | l2Flush
  /-- `pad_corex_rst_b` asserted and released (70_reset_and_hazards:R931) -/
  | resetHart (h : HartId)
  /-- `pad_corex_rst_b` asserted (70_reset_and_hazards:R931) -/
  | holdReset (h : HartId)
  /-- `pad_corex_rst_b` released (70_reset_and_hazards:R932) -/
  | releaseReset (h : HartId)
  /-- all reset inputs together (70_reset_and_hazards:R931) -/
  | resetCluster
  deriving DecidableEq, Repr

/-- Floating-point control storage: `fcsr` and the two fields `fxcr` adds (11_csr_standard:R120, 12_csr_extended:R170). -/
structure FpCsr where
  fflags : BitVec 5
  frm    : BitVec 3
  fe     : Bool
  dqNaN  : Bool
  deriving DecidableEq, Repr

/-- Machine-mode trap registers (11_csr_standard:R64 to R84). -/
structure MachineCsr where
  mstatus       : Word
  medeleg       : Word
  mideleg       : Word
  mie           : Word
  mtvec         : Word
  mcounteren    : Word
  mcountinhibit : Word
  mscratch      : Word
  mepc          : Word
  mcause        : Word
  mtval         : Word
  /-- the software-written half of `mip.SSIP` (11_csr_standard:R84, log 36) -/
  ssipLatch     : Bool
  deriving DecidableEq, Repr

/-- Supervisor registers with storage of their own (11_csr_standard:R102 to R109). -/
structure SupervisorCsr where
  stvec      : Word
  scounteren : Word
  sscratch   : Word
  sepc       : Word
  scause     : Word
  stval      : Word
  satp       : Word
  deriving DecidableEq, Repr

/-- The eight PMP entries (11_csr_standard:R85, R86). -/
structure Pmp where
  cfg  : Vector Byte 8
  addr : Vector (BitVec 38) 8
  deriving DecidableEq, Repr

/-- T-Head machine-mode registers, one set per core (12_csr_extended:R130 to R152). -/
structure TheadCsr where
  /-- every field but PM, which is read from the privilege mode -/
  mxstatus      : Word
  mhcr          : Word
  mcor          : Word
  mhint         : Word
  mcounterwen   : Word
  mcounterinten : Word
  mcounterof    : Word
  mcindex       : Word
  mcdata0       : Word
  mcdata1       : Word
  msmpr         : Word
  deriving DecidableEq, Repr

/-- Performance counters and their event selectors; index `k` is counter `k + 3` (11_csr_standard:R89 to R92). -/
structure Pmu where
  mcycle   : Word
  minstret : Word
  hpm      : Vector Word 29
  event    : Vector Word 29
  /-- the counters that a CSR instruction has initialised (11_csr_standard:R91) -/
  inited   : Vector Bool 29
  deriving DecidableEq, Repr

/-- The software TLB registers (12_csr_extended:R165 to R168). -/
structure TlbCsr where
  smir  : Word
  smel  : Word
  smeh  : Word
  smcir : Word
  deriving DecidableEq, Repr

/-- One TLB entry at its place in the jTLB (21_mmu_pmp:R245, R255). -/
structure TlbEntry where
  set      : BitVec 8
  way      : BitVec 2
  vpn      : BitVec 27
  asid     : BitVec 16
  /-- one-hot: 4 KB, 2 MB, 1 GB -/
  pageSize : BitVec 3
  ppn      : BitVec 28
  /-- PTE bits 9:0 -/
  flags    : BitVec 10
  /-- PTE bits 63:59: SO, C, B, SH, Sec -/
  attr     : BitVec 5
  deriving DecidableEq, Repr

/-- The TLBs of one core (21_mmu_pmp:R245). -/
structure Tlb where
  /-- the jTLB -/
  joint   : List TlbEntry
  /-- the I-uTLB, at most 32 entries -/
  fetch   : List TlbEntry
  /-- the D-uTLB, at most 17 entries -/
  data    : List TlbEntry
  /-- entries that a broadcast invalidation of the other core has reached but not yet removed (70_reset_and_hazards:R951,
  log 62) -/
  leaving : List TlbEntry
  deriving DecidableEq, Repr

/-- How a line stands in its cache. -/
inductive LineState where
  /-- as the next level has it -/
  | clean
  /-- not yet written back to the next level -/
  | dirty
  /-- a broadcast of the other core that invalidates the line has reached it, and has not yet taken effect: it can still be read,
  and goes without a write-back (70_reset_and_hazards:R951, log 62) -/
  | leaving
  deriving DecidableEq, Repr

/-- A 64-byte line of a cache; its number is its address over 64 (20_memory:R219, R220, R222). -/
structure CacheLine where
  line    : Nat
  /-- its way in a D-cache (48_thead_cache_sync:R714); `false` in the other caches, whose ways nothing selects -/
  way     : Bool
  state   : LineState
  /-- its 64 bytes, that of the lowest address first -/
  data    : List Byte
  deriving DecidableEq, Repr

/-- A line of an I-cache: the set it stands in, by bits 14:6 of the virtual address, and the line by its physical one
(20_memory:R222). -/
structure CodeLine where
  set  : Nat
  line : CacheLine
  deriving DecidableEq, Repr

/-- What a monitor holds in the state EXCLUSIVE (10_state:R35, 20_memory:R212, R213). -/
structure Reservation where
  addr : BitVec 40
  size : Nat
  deriving DecidableEq, Repr

/-- A parcel fetched ahead of its use, by its physical address: an instruction already in the pipeline, or in the prefetch or
loop buffer (20_memory:R223, R224, log 42). -/
structure Fetched where
  addr   : Nat
  parcel : BitVec 16
  deriving DecidableEq, Repr

/-- An aligned 8-byte word of memory as it was before a store of this core, which its page-table walker may still read until the
next SFENCE (21_mmu_pmp:R242, R249, log 61). -/
structure OldPte where
  addr    : Nat
  word    : Word
  /-- a broadcast SFENCE of the other core that takes it out has not yet taken effect (70_reset_and_hazards:R951, log 62) -/
  leaving : Bool
  deriving DecidableEq, Repr

/-- Everything one core has of its own (10_state:R20). -/
structure Hart where
  id       : HartId
  pc       : Word
  priv     : Priv
  x        : Vector Word 32
  f        : Vector Word 32
  fp       : FpCsr
  m        : MachineCsr
  sup      : SupervisorCsr
  pmp      : Pmp
  th       : TheadCsr
  pmu      : Pmu
  smmu     : TlbCsr
  tlb      : Tlb
  /-- local exclusive monitor; `none` is IDLE -/
  lmon     : Option Reservation
  /-- this core's global exclusive monitor, in the L2 -/
  gmon     : Option Reservation
  /-- the L1 D-cache, the line brought in last first (20_memory:R219) -/
  l1d      : List CacheLine
  /-- the L1 I-cache, the line brought in last first (20_memory:R222) -/
  icache   : List CodeLine
  /-- parcels fetched ahead -/
  fetched  : List Fetched
  oldPtes  : List OldPte
  /-- waiting in WFI (62_pmu_debug_power:R920) -/
  lowPower : Bool
  /-- held in reset (70_reset_and_hazards:R931, R932) -/
  inReset  : Bool
  deriving DecidableEq, Repr

/-- The CLINT registers of one core (61_clint_plic:R853). -/
structure ClintRegs where
  msip      : Bool
  ssip      : Bool
  mtimecmp  : Word
  stimecmp  : Word
  deriving DecidableEq, Repr

/-- One PLIC target (61_clint_plic:R871). -/
structure PlicTarget where
  enable    : BitVec 1024
  threshold : BitVec 5
  deriving DecidableEq, Repr

/-- The PLIC (61_clint_plic:R870 to R880). -/
structure Plic where
  prio   : Vector (BitVec 5) 145
  ip     : BitVec 1024
  h0m    : PlicTarget
  h0s    : PlicTarget
  h1m    : PlicTarget
  h1s    : PlicTarget
  /-- PLIC_PER.S_PER -/
  per    : Bool
  /-- sources in service -/
  masked : BitVec 1024
  /-- level lines now asserted -/
  lines  : BitVec 1024
  deriving DecidableEq, Repr

/-- One region of sysmap.h: the upper bound's PA[39:12] and the flags SO, C, B, SH, Sec (20_memory:R186). -/
structure SysmapRegion where
  top  : BitVec 28
  attr : BitVec 5
  deriving DecidableEq, Repr

/-- What the SoC integrator fixes (00_scope:R6, 92_eei_decisions section 2, log 4). No step changes it. -/
structure Soc where
  rvba0   : BitVec 40
  rvba1   : BitVec 40
  /-- PA[39:27] of the CLINT and PLIC window -/
  apbHi   : BitVec 13
  sysmap  : Vector SysmapRegion 8
  marchid : Word
  mcpuid  : Word
  hartid0 : Word
  hartid1 : Word
  /-- `CORES_RELEASED`: the cores whose reset input is released with the cluster's (70_reset_and_hazards:R932) -/
  released0 : Bool
  released1 : Bool
  /-- `mhcr.SCK` -/
  sck     : BitVec 3
  /-- physical ranges, first and last byte, that answer with a bus error -/
  busErrors         : List (Nat × Nat)
  /-- the SoC has an exclusive monitor for non-cacheable memory -/
  exclusiveMonitor  : Bool
  /-- bits 63:40 of an untranslated address: fault instead of ignore -/
  highAddrFault     : Bool
  sumAllowsFetch    : Bool
  fminmaxZeroOrdered : Bool
  /-- a widening conversion of a signalling NaN raises NV -/
  fcvtWidenSnanNv   : Bool
  /-- `mhint.TLB_BROAD_DIS` stops the broadcast of SFENCE.VMAS too (12_csr_extended:R140 against 48_thead_cache_sync:R715,
  log 64) -/
  vmasObeysBroadDis : Bool
  /-- in user mode SYNC, SYNC.S, SYNC.I and SYNC.IS need `mxstatus.UCME` (30_encoding:R290 against 48_thead_cache_sync:R716,
  log 63) -/
  syncNeedsUcme     : Bool
  deriving DecidableEq, Repr

/-- The whole machine: the hart that runs, the other one, and what they share (10_state:R20). -/
structure State where
  me     : Hart
  other  : Hart
  /-- memory below the caches: sorted by address, no byte equal to `Memory.unlisted` (log 7) -/
  mem    : List Host.Cell
  /-- the L2 cache, the line brought in last first (20_memory:R220) -/
  l2     : List CacheLine
  mtime  : Word
  clint0 : ClintRegs
  clint1 : ClintRegs
  plic   : Plic
  mccr2  : Word
  soc    : Soc
  /-- environment events still to come (the model's own field, log 2) -/
  inputs : List Input
  /-- how many free values have been used (the model's own field, log 49) -/
  draws  : Nat
  deriving DecidableEq, Repr

/-- What a byte of physical memory that nothing has written reads as (DESIGN CHOICE, log 7). -/
def Memory.unlisted : Byte := 0

/-- The canonical form of memory: addresses strictly rising, no byte equal to `Memory.unlisted`. -/
def Memory.wf : List Host.Cell → Bool
  | [] => true
  | [c] => c.2 != Memory.unlisted
  | c :: d :: rest => c.2 != Memory.unlisted && decide (c.1 < d.1) && Memory.wf (d :: rest)

/-- All memory cacheable, bufferable and shareable, the CLINT and PLIC window a non-bufferable device
(92_eei_decisions section 2, `SYSMAP`). -/
def Soc.defaultSysmap : Vector SysmapRegion 8 :=
  #v[⟨0x08000, 0b01110⟩, ⟨0x10000, 0b10010⟩, ⟨0xfffffff, 0b01110⟩, ⟨0xfffffff, 0b01110⟩,
     ⟨0xfffffff, 0b01110⟩, ⟨0xfffffff, 0b01110⟩, ⟨0xfffffff, 0b01110⟩, ⟨0xfffffff, 0b01110⟩]

/-- The default parameters of 92_eei_decisions section 2 (log 4). -/
def Soc.default : Soc where
  rvba0 := 0
  rvba1 := 0
  apbHi := 1
  sysmap := Soc.defaultSysmap
  marchid := 0
  mcpuid := 0
  hartid0 := 0
  hartid1 := 1
  released0 := true
  released1 := true
  sck := 0
  busErrors := []
  exclusiveMonitor := true
  highAddrFault := false
  sumAllowsFetch := true
  fminmaxZeroOrdered := true
  fcvtWidenSnanNv := false
  vmasObeysBroadDis := false
  syncNeedsUcme := false

/-- The reset vector of a core: the pins with bit 0 tied to 0 (12_csr_extended:R143). -/
def Soc.mrvbr (c : Soc) : HartId → Word
  | .core0 => (c.rvba0 &&& ~~~1#40).zeroExtend 64
  | .core1 => (c.rvba1 &&& ~~~1#40).zeroExtend 64

/-- The core's reset input is released with the cluster's (70_reset_and_hazards:R932). -/
def Soc.released (c : Soc) : HartId → Bool
  | .core0 => c.released0
  | .core1 => c.released1

/-- A core after its reset (10_state:R37, 70_reset_and_hazards:R930). -/
def Hart.reset (c : Soc) (id : HartId) : Hart where
  id := id
  pc := c.mrvbr id
  priv := .machine
  x := Vector.replicate 32 0
  f := Vector.replicate 32 0
  fp := ⟨0, 0, false, false⟩
  m := { mstatus := 0xa00001900, medeleg := 0, mideleg := 0, mie := 0, mtvec := 0, mcounteren := 0, mcountinhibit := 0,
         mscratch := 0, mepc := 0, mcause := 0, mtval := 0, ssipLatch := false }
  sup := ⟨0, 0, 0, 0, 0, 0, 0⟩
  pmp := ⟨Vector.replicate 8 0, Vector.replicate 8 0⟩
  th := { mxstatus := 0x8000, mhcr := 0x108 ||| (c.sck.zeroExtend 64 <<< 16), mcor := 0, mhint := 0, mcounterwen := 0,
          mcounterinten := 0, mcounterof := 0, mcindex := 0, mcdata0 := 0, mcdata1 := 0, msmpr := 0 }
  pmu := ⟨0, 0, Vector.replicate 29 0, Vector.replicate 29 0, Vector.replicate 29 false⟩
  smmu := ⟨0, 0, 0, 0⟩
  tlb := ⟨[], [], [], []⟩
  lmon := none
  gmon := none
  l1d := []
  icache := []
  fetched := []
  oldPtes := []
  lowPower := false
  inReset := !c.released id

/-- The CLINT registers of a core after reset (61_clint_plic:R853). -/
def ClintRegs.reset : ClintRegs := ⟨false, false, 0xffffffffffffffff, 0xffffffffffffffff⟩

/-- The PLIC after reset, with the lines now asserted (61_clint_plic:R871). -/
def Plic.reset (lines : BitVec 1024) : Plic where
  prio := Vector.replicate 145 0
  ip := 0
  h0m := ⟨0, 0⟩
  h0s := ⟨0, 0⟩
  h1m := ⟨0, 0⟩
  h1s := ⟨0, 0⟩
  per := false
  masked := 0
  lines := lines

/-- The machine right after reset, the reset inputs released together (10_state:R37, 70_reset_and_hazards:R930 to R932). -/
def State.reset : State where
  me := Hart.reset Soc.default .core0
  other := Hart.reset Soc.default .core1
  mem := []
  l2 := []
  mtime := 0
  clint0 := ClintRegs.reset
  clint1 := ClintRegs.reset
  plic := Plic.reset 0
  mccr2 := 8
  soc := Soc.default
  inputs := []
  draws := 0

end Sys2Proof.Machine
end

