-- ==== Sys2Proof/Machine/Ops.lean ====
section
/-! DEFINITION. The named operations over registers, memory and counters; how an instruction ends; taking an exception
and returning from one. -/

namespace Sys2Proof.Machine

/-! ### Bits of a register -/

/-- Bit `n` of a register. -/
def bit (w : Word) (n : Nat) : Bool := w.getLsbD n

/-- A register with bit `n` set to `b`. -/
def setBit (w : Word) (n : Nat) (b : Bool) : Word :=
  if b then w ||| (1#64 <<< n) else w &&& ~~~(1#64 <<< n)

/-- `len` bits of a register from bit `lo` up, as a number. -/
def field (w : Word) (lo len : Nat) : Nat := w.toNat / 2 ^ lo % 2 ^ len

/-- The mask of bits `lo .. lo + len - 1`. -/
def maskOf (lo len : Nat) : Word := BitVec.ofNat 64 ((2 ^ len - 1) * 2 ^ lo)

/-- A register whose bits under `mask` come from `new` and the others from `old`: how a write reaches only the writable
bits (00_scope:R7). -/
def blend (mask old new : Word) : Word := (old &&& ~~~mask) ||| (new &&& mask)

/-- A register with `len` bits from bit `lo` up replaced by `v`. -/
def setField (w : Word) (lo len v : Nat) : Word := blend (maskOf lo len) w (BitVec.ofNat 64 (v * 2 ^ lo))

/-! ### Physical memory -/

/-- The byte at an address (20_memory:R180). -/
def Memory.read : List Host.Cell → Nat → Byte
  | [], _ => Memory.unlisted
  | c :: rest, a => if c.1 = a then c.2 else Memory.read rest a

/-- Put a cell in its place by address. -/
def Memory.put (a : Nat) (b : Byte) : List Host.Cell → List Host.Cell
  | [] => [(a, b)]
  | c :: rest =>
    if a < c.1 then (a, b) :: c :: rest
    else if a = c.1 then (a, b) :: rest
    else c :: Memory.put a b rest

/-- Take a cell out. -/
def Memory.drop (a : Nat) : List Host.Cell → List Host.Cell
  | [] => []
  | c :: rest => if c.1 = a then Memory.drop a rest else c :: Memory.drop a rest

/-- Write one byte, keeping the canonical form (log 7). -/
def Memory.write (a : Nat) (b : Byte) (m : List Host.Cell) : List Host.Cell :=
  if b = Memory.unlisted then Memory.drop a m else Memory.put a b m

/-- Write bytes, the first at `a`. -/
def Memory.writeBytes (a : Nat) : List Byte → List Host.Cell → List Host.Cell
  | [], m => m
  | b :: rest, m => Memory.writeBytes (a + 1) rest (Memory.write a b m)

/-- The little-endian number of the `n` bytes from an address up, each as `f` has it (20_memory:R181). -/
def numberAt (f : Nat → Byte) (a : Nat) : Nat → Nat
  | 0 => 0
  | n + 1 => (f a).toNat + 256 * numberAt f (a + 1) n

/-- The `n` low bytes of a number, the lowest first (20_memory:R181). -/
def bytesLe (v : Nat) : Nat → List Byte
  | 0 => []
  | n + 1 => BitVec.ofNat 8 v :: bytesLe (v / 256) n

/-- The number some bytes hold, the lowest first (20_memory:R181). -/
def ofBytesLe : List Byte → Nat
  | [] => 0
  | b :: rest => b.toNat + 256 * ofBytesLe rest

/-! ### Registers -/

/-- Integer register `r`; `x0` reads 0 (10_state:R21). -/
def Hart.getX (h : Hart) (r : Reg) : Word := if r = 0 then 0 else h.x[r.toNat]'(r.isLt)

/-- Write integer register `r`; a write to `x0` is discarded (10_state:R21). -/
def Hart.setX (h : Hart) (r : Reg) (v : Word) : Hart :=
  if r = 0 then h else { h with x := h.x.set r.toNat v r.isLt }

/-- Floating-point register `r` (10_state:R26). -/
def Hart.getF (h : Hart) (r : Reg) : Word := h.f[r.toNat]'(r.isLt)

/-- Write floating-point register `r` (10_state:R26). -/
def Hart.setF (h : Hart) (r : Reg) (v : Word) : Hart := { h with f := h.f.set r.toNat v r.isLt }

/-- Integer register `r` of the running hart. -/
def State.getX (s : State) (r : Reg) : Word := s.me.getX r

/-- The state with integer register `r` of the running hart written. -/
def State.setX (s : State) (r : Reg) (v : Word) : State := { s with me := s.me.setX r v }

/-- Floating-point register `r` of the running hart. -/
def State.getF (s : State) (r : Reg) : Word := s.me.getF r

/-- The state with floating-point register `r` of the running hart written. -/
def State.setF (s : State) (r : Reg) (v : Word) : State := { s with me := s.me.setF r v }

/-- The register a 3-bit field names: `x8..x15`, `f8..f15` (30_encoding:R285). -/
def creg (r : Reg') : Reg := BitVec.ofNat 5 (8 + r.toNat)

/-- The state after one more free value (log 49). -/
def State.drawn (s : State) : State := { s with draws := s.draws + 1 }

/-! ### Fields of mstatus, mxstatus, mhcr, mhint, satp -/

/-- `mstatus` bit numbers (11_csr_standard:R64). -/
def mstatusSIE : Nat := 1
def mstatusMIE : Nat := 3
def mstatusSPIE : Nat := 5
def mstatusMPIE : Nat := 7
def mstatusSPP : Nat := 8
def mstatusMPP : Nat := 11
def mstatusFS : Nat := 13
def mstatusMPRV : Nat := 17
def mstatusSUM : Nat := 18
def mstatusMXR : Nat := 19
def mstatusTVM : Nat := 20
def mstatusTW : Nat := 21
def mstatusTSR : Nat := 22

/-- `mxstatus` bit numbers (12_csr_extended:R130). -/
def mxstatusPMDU : Nat := 10
def mxstatusPMDS : Nat := 11
def mxstatusPMDM : Nat := 13
def mxstatusMM : Nat := 15
def mxstatusUCME : Nat := 16
def mxstatusCLINTEE : Nat := 17
def mxstatusMHRD : Nat := 18
def mxstatusINSDE : Nat := 19
def mxstatusMAEE : Nat := 21
def mxstatusTHEADISAEE : Nat := 22

/-- `mhcr` enables of the I-cache and the D-cache, and write allocation (12_csr_extended:R133). -/
def mhcrIE : Nat := 0
def mhcrDE : Nat := 1
def mhcrWA : Nat := 2

/-- `mccr2` read allocation of the L2 (12_csr_extended:R137). -/
def mccr2RFE : Nat := 0

/-- `mhint` broadcast switches (12_csr_extended:R139). -/
def mhintTlbBroadDis : Nat := 21
def mhintFenceiBroadDis : Nat := 23

/-- The two-bit code of a privilege mode (10_state:R31). -/
def Priv.code : Priv → Nat
  | .user => 0
  | .supervisor => 1
  | .machine => 3

/-- The privilege mode a two-bit code names; 2 names none and no register holds it (93_implementation_defined:U2). -/
def Priv.ofCode : Nat → Priv
  | 0 => .user
  | 1 => .supervisor
  | _ => .machine

/-- `mstatus.FS` is not 00 (10_state:R29). -/
def Hart.fpOn (h : Hart) : Bool := field h.m.mstatus mstatusFS 2 != 0

/-- `mxstatus.THEADISAEE` (30_encoding:R288). -/
def Hart.theadOn (h : Hart) : Bool := bit h.th.mxstatus mxstatusTHEADISAEE

/-! ### Counters -/

/-- The mode's PMDx bit stops the counters (12_csr_extended:R131). -/
def Hart.pmd (h : Hart) : Bool :=
  match h.priv with
  | .user => bit h.th.mxstatus mxstatusPMDU
  | .supervisor => bit h.th.mxstatus mxstatusPMDS
  | .machine => bit h.th.mxstatus mxstatusPMDM

/-- Counter `n` counts now (62_pmu_debug_power:R903). -/
def Hart.counting (h : Hart) (n : Nat) : Bool := !bit h.m.mcountinhibit n && !h.pmd

/-- `mcounterof` after counter `n` went from `v` up by `k` (12_csr_extended:R146). -/
def Hart.noteOverflow (h : Hart) (n : Nat) (v : Word) (k : Nat) : Word :=
  if v.toNat + k < 2 ^ 64 then h.th.mcounterof else setBit h.th.mcounterof n true

/-- `k` clock cycles pass (11_csr_standard:R89, log 13). -/
def Hart.tickCycles (h : Hart) (k : Nat) : Hart :=
  if h.counting 0 then
    { h with pmu := { h.pmu with mcycle := h.pmu.mcycle + BitVec.ofNat 64 k },
             th := { h.th with mcounterof := h.noteOverflow 0 h.pmu.mcycle k } }
  else h

/-- One instruction retires (11_csr_standard:R90, log 13). -/
def Hart.tickInstret (h : Hart) : Hart :=
  if h.counting 2 then
    { h with pmu := { h.pmu with minstret := h.pmu.minstret + 1 },
             th := { h.th with mcounterof := h.noteOverflow 2 h.pmu.minstret 1 } }
  else h

/-- The counters after one executed instruction. -/
def Hart.tick (h : Hart) : Hart := (h.tickCycles 1).tickInstret

/-- The counters of the running hart after one executed instruction. -/
def State.tick (s : State) : State := { s with me := s.me.tick }

/-- The state with the running hart's program counter set. -/
def State.setPc (s : State) (pc : Word) : State := { s with me := { s.me with pc := pc } }

/-- An instruction of `len` bytes completes and the next one follows it (10_state:R23). -/
def State.retire (s : State) (len : Nat) : State := s.tick.setPc (s.me.pc + BitVec.ofNat 64 len)

/-- An instruction completes and control goes to `target` (10_state:R23). -/
def State.jump (s : State) (target : Word) : State := s.tick.setPc target

/-! ### Taking an exception and returning from one -/

/-- The handler's address (60_exceptions:R802; MODE 2 and 3 are direct, log 11). -/
def trapEntry (tvec : Word) (interrupt : Bool) (code : Nat) : Word :=
  let base := tvec &&& ~~~3#64
  if interrupt && field tvec 0 2 == 1 then base + BitVec.ofNat 64 (4 * code) else base

/-- The value of `xcause` (11_csr_standard:R82). -/
def causeWord (interrupt : Bool) (code : Nat) : Word :=
  setBit (BitVec.ofNat 64 code) 63 interrupt

/-- Trap entry into machine mode (60_exceptions:R800, R813). -/
def Hart.trapToM (h : Hart) (interrupt : Bool) (code : Nat) (tval : Word) : Hart :=
  let st := setBit h.m.mstatus mstatusMPIE (bit h.m.mstatus mstatusMIE)
  let st := setBit st mstatusMIE false
  let st := setField st mstatusMPP 2 h.priv.code
  { h with m := { h.m with mepc := h.pc, mcause := causeWord interrupt code, mtval := tval, mstatus := st },
           priv := .machine, pc := trapEntry h.m.mtvec interrupt code }

/-- Trap entry into supervisor mode, for a delegated trap (60_exceptions:R801). -/
def Hart.trapToS (h : Hart) (interrupt : Bool) (code : Nat) (tval : Word) : Hart :=
  let st := setBit h.m.mstatus mstatusSPIE (bit h.m.mstatus mstatusSIE)
  let st := setBit st mstatusSIE false
  let st := setBit st mstatusSPP (h.priv == .supervisor)
  { h with sup := { h.sup with sepc := h.pc, scause := causeWord interrupt code, stval := tval },
           m := { h.m with mstatus := st },
           priv := .supervisor, pc := trapEntry h.sup.stvec interrupt code }

/-- An exception of this code is delegated to supervisor mode (60_exceptions:R791). -/
def Hart.delegated (h : Hart) (code : Nat) : Bool := h.priv != .machine && bit h.m.medeleg code

/-- The trap value of an exception (60_exceptions:R790): the address or the instruction code it was raised with for the
codes 1, 2, 4, 6, 12, 13, 15, and 0 for the others. -/
def trapValue (code : Nat) (info : Word) : Word :=
  match code with
  | 1 | 2 | 4 | 6 | 12 | 13 | 15 => info
  | _ => 0

/-- A page fault writes the virtual page number into `smeh` (21_mmu_pmp:R258). -/
def Hart.notePageFault (h : Hart) (code : Nat) (va : Word) : Hart :=
  match code with
  | 12 | 13 | 15 => { h with smmu := { h.smmu with smeh := setField h.smmu.smeh 19 27 (field va 12 27) } }
  | _ => h

/-- What the hart has fetched ahead is gone, and it fetches anew: after a trap, a return, a CSR instruction, an SFENCE, FENCE.I
or SYNC.I (20_memory:R224, 70_reset_and_hazards:R950). What an I-cache line holds stays. -/
def Hart.drain (h : Hart) : Hart := { h with fetched := [] }

/-- The hart after taking a synchronous exception (60_exceptions:R790, R791, R800 to R802). -/
def Hart.takeException (h : Hart) (code : Nat) (info : Word) : Hart :=
  let h' := ((h.tickCycles 1).notePageFault code info).drain
  if h.delegated code then h'.trapToS false code (trapValue code info)
  else h'.trapToM false code (trapValue code info)

/-- The running hart takes a synchronous exception: the one shared operation of every exception. -/
def State.raise (s : State) (code : Nat) (info : Word) : State := { s with me := s.me.takeException code info }

/-- The hart after taking an interrupt, as a step of its own before the next instruction (60_exceptions:R813). -/
def Hart.takeInterrupt (h : Hart) (code : Nat) : Hart :=
  let h' := (h.tickCycles 1).drain
  if bit h.m.mideleg code then h'.trapToS true code 0 else h'.trapToM true code 0

/-- The hart after MRET's return, the pipeline drained (40_rv64i:R396, 60_exceptions:R803, 70_reset_and_hazards:R950). -/
def Hart.returnM (h : Hart) : Hart :=
  let st := setBit h.m.mstatus mstatusMIE (bit h.m.mstatus mstatusMPIE)
  let st := setBit st mstatusMPIE true
  let st := setField st mstatusMPP 2 0
  { h with m := { h.m with mstatus := st }, priv := .ofCode (field h.m.mstatus mstatusMPP 2), pc := h.m.mepc, fetched := [] }

/-- The hart after SRET's return, the pipeline drained (40_rv64i:R395, 70_reset_and_hazards:R950). -/
def Hart.returnS (h : Hart) : Hart :=
  let st := setBit h.m.mstatus mstatusSIE (bit h.m.mstatus mstatusSPIE)
  let st := setBit st mstatusSPIE true
  let st := setBit st mstatusSPP false
  { h with m := { h.m with mstatus := st },
           priv := if bit h.m.mstatus mstatusSPP then .supervisor else .user, pc := h.sup.sepc, fetched := [] }

/-! ### How a part of an instruction ends -/

/-- The result of a part of an instruction: a value and the state it leaves, or what ends the instruction. A state in
`trap` differs from the one before the instruction only in hidden state: the TLBs, the count of free values. -/
inductive Res (α : Type) where
  | ok (v : α) (s : State)
  | trap (code : Nat) (info : Word) (s : State)
  | fault (r : Fault)
  | refused (r : Refusal)
  deriving DecidableEq, Repr

/-- Go on with a part's value and state, unless it ended the instruction. -/
def Res.andThen {α β : Type} (r : Res α) (k : α → State → Res β) : Res β :=
  match r with
  | .ok v s => k v s
  | .trap c i s => .trap c i s
  | .fault e => .fault e
  | .refused e => .refused e

/-- The end of an instruction: its next state, or that of the exception it takes. -/
def Res.finish (r : Res Unit) : Host.Outcome State Fault Refusal :=
  match r with
  | .ok _ s => .next s
  | .trap c i s => .next (s.raise c i)
  | .fault e => .fault e
  | .refused e => .refused e

/-- The illegal-instruction exception of an instruction whose code is `c` (60_exceptions:R783, R790). -/
def State.illegal (s : State) (c : Code) : State := s.raise 2 c.value

end Sys2Proof.Machine
end

