-- ==== Sys2Proof/Machine/Coherence.lean ====
section
/-! DEFINITION. Page attributes, the answers of the bus, the lines of the caches, and the byte an access finds: in the core's own
D-cache, by a snoop in the other's, in the L2 or in memory (20_memory:R183 to R187, R219, R220, log 41). -/

namespace Sys2Proof.Machine

/-! ### Attributes -/

/-- SO, C and SH of the five attribute bits SO, C, B, SH, Sec (20_memory:R183). -/
def strongOrder (attr : BitVec 5) : Bool := attr.getLsbD 4
def cacheable (attr : BitVec 5) : Bool := attr.getLsbD 3
def shareable (attr : BitVec 5) : Bool := attr.getLsbD 1

/-- The combinations of table 6.1: SO, C, B, SH = 011x, 0011, 1011, 1001 (20_memory:R183). -/
def attrLegal (attr : BitVec 5) : Bool :=
  match attr.toNat / 2 with
  | 6 | 7 | 3 | 11 | 9 => true
  | _ => false

/-- The region of a page among the regions from lower bound `lo` up, or the default (20_memory:R186). -/
def sysmapFrom (page : Nat) (lo : Nat) : List SysmapRegion → BitVec 5
  | [] => 0b01111
  | r :: rest => if lo ≤ page ∧ page < r.top.toNat then r.attr else sysmapFrom page r.top.toNat rest

/-- The attributes sysmap.h gives a physical address (20_memory:R186). -/
def Soc.attrOf (c : Soc) (pa : BitVec 40) : BitVec 5 := sysmapFrom (pa.toNat / 4096) 0 c.sysmap.toList

/-- The offset of an address in the device window. -/
def windowOffset (pa : BitVec 40) : Nat := pa.toNat % 2 ^ 27

/-- The address lies in the PLIC's range or in the CLINT's, from `APB_BASE` to `APB_BASE + 0x400FFFF` (61_clint_plic:R850). -/
def Soc.inWindow (c : Soc) (pa : BitVec 40) : Bool :=
  pa.toNat / 2 ^ 27 == c.apbHi.toNat && decide (windowOffset pa < 0x4010000)

/-- The address answers with a bus error (20_memory:R196). -/
def Soc.busError (c : Soc) (pa : BitVec 40) : Bool := c.busErrors.any fun r => decide (r.1 ≤ pa.toNat ∧ pa.toNat ≤ r.2)

/-! ### Lines of a cache -/

/-- The number of the 64-byte line of an address (48_thead_cache_sync:R690). -/
def lineOf (a : Nat) : Nat := a / 64

/-- The 64 bytes of line `n`, each as `f` has it, the lowest address first. -/
def lineData (f : Nat → Byte) (n : Nat) : List Byte := (List.range 64).map fun i => f (64 * n + i)

/-- The byte of a line at an address on it. -/
def CacheLine.byteAt (l : CacheLine) (a : Nat) : Byte := l.data.getD (a % 64) 0

/-- The line is not yet written back. -/
def CacheLine.dirty (l : CacheLine) : Bool := l.state == .dirty

/-- A broadcast of the other core is about to take the line out. -/
def CacheLine.leaving (l : CacheLine) : Bool := l.state == .leaving

/-- A line brought in from the next level, whose bytes `f` has. -/
def CacheLine.clean (f : Nat → Byte) (n : Nat) (way : Bool) : CacheLine := ⟨n, way, .clean, lineData f n⟩

/-- A line with other bytes from the address `a` up. -/
def CacheLine.patched (l : CacheLine) (a : Nat) (bs : List Byte) : CacheLine :=
  { l with data := lineData (fun q => if a ≤ q ∧ q < a + bs.length then bs.getD (q - a) 0 else l.byteAt q) l.line }

/-- A line with bytes stored in it, the first at the address `a`: it is dirty. -/
def CacheLine.stored (l : CacheLine) (a : Nat) (bs : List Byte) : CacheLine := { l.patched a bs with state := .dirty }

/-- The line with the number `n` in a cache. -/
def findLine (c : List CacheLine) (n : Nat) : Option CacheLine := c.find? fun l => l.line == n

/-- A cache holds line `n`. -/
def holds (c : List CacheLine) (n : Nat) : Bool := (findLine c n).isSome

/-- The byte a cache holds at an address. -/
def byteIn (c : List CacheLine) (a : Nat) : Option Byte := (findLine c (lineOf a)).map fun l => l.byteAt a

/-- The byte of a dirty line of a cache at an address. -/
def dirtyByte (c : List CacheLine) (a : Nat) : Option Byte :=
  (c.find? fun l => l.line == lineOf a && l.dirty).map fun l => l.byteAt a

/-- Which lines an operation takes: that with the number `n`. -/
def onLine (n : Nat) : CacheLine → Bool := fun l => l.line == n

/-- Every line. -/
def everyLine : CacheLine → Bool := fun _ => true

/-- The lines a set/way operand selects in a D-cache: bits 14:6 and 31 (48_thead_cache_sync:R714). -/
def inWay (setWay : Word) : CacheLine → Bool := fun l => l.line % 512 == field setWay 6 9 && l.way == bit setWay 31

/-! ### What an access sees -/

/-- The D-cache is enabled (12_csr_extended:R133). -/
def Hart.dcacheOn (h : Hart) : Bool := bit h.th.mhcr mhcrDE

/-- The core handles snoop requests: `msmpr.SMPEN` (12_csr_extended:R152, 62_pmu_debug_power:R926). -/
def Hart.snoops (h : Hart) : Bool := bit h.th.msmpr 0

/-- An access with these attributes snoops the other core: the page is cacheable and shareable, and the other core handles
snoop requests (20_memory:R219, 62_pmu_debug_power:R926). -/
def State.snooped (s : State) (attr : BitVec 5) : Bool := cacheable attr && shareable attr && s.other.snoops

/-- The byte below the L1 caches: the L2's, else that of memory (20_memory:R220). -/
def State.l2Byte (s : State) (a : Nat) : Byte := (byteIn s.l2 a).getD (Memory.read s.mem a)

/-- The byte that a cacheable access of the running hart finds outside its own L1 caches: a snoop finds a dirty line of the
other core's D-cache (20_memory:R187, R219). -/
def State.below (s : State) (attr : BitVec 5) (a : Nat) : Byte :=
  (if s.snooped attr then dirtyByte s.other.l1d a else none).getD (s.l2Byte a)

/-- The byte that an access of the running hart with these attributes finds at an address, looking into its own D-cache or not:
a non-cacheable one goes to memory past all caches (20_memory:R187, R219). -/
def State.sees (s : State) (attr : BitVec 5) (own : Bool) (a : Nat) : Byte :=
  if cacheable attr then (if own then byteIn s.me.l1d a else none).getD (s.below attr a) else Memory.read s.mem a

/-- The number that a data access of the running hart finds in the `n` bytes from `a` up, which lie on one line: one
indivisible access (20_memory:R181, R192). With the D-cache off it looks past its own D-cache (log 41). -/
def State.number (s : State) (attr : BitVec 5) (a n : Nat) : Nat := numberAt (s.sees attr s.me.dcacheOn) a n

end Sys2Proof.Machine
end

