-- ==== Sys2Proof/Machine/Mmu.lean ====
section
/-! DEFINITION. From the address an instruction computes to a physical address with its attributes: effective privilege,
Sv39 translation with the TLBs, the PMP check (21_mmu_pmp, 20_memory:R184, R185). -/

namespace Sys2Proof.Machine

/-- Kinds of access, as far as permissions and exception codes differ (21_mmu_pmp:R240, R260, 42_rv64a:R432). SC is a
store. -/
inductive Access where
  | fetch
  | load
  | store
  | lr
  | amo
  deriving DecidableEq, Repr

/-- The page-fault code of an access (21_mmu_pmp:R243). -/
def Access.pageFault : Access → Nat
  | .fetch => 12
  | .load => 13
  | .store | .lr | .amo => 15

/-- The access-fault code of an access (21_mmu_pmp:R264). -/
def Access.accessFault : Access → Nat
  | .fetch => 1
  | .load => 5
  | .store | .lr | .amo => 7

/-- The misaligned-address code of a data access (20_memory:R190, R191). -/
def Access.misaligned : Access → Nat
  | .fetch => 0
  | .load => 4
  | .store | .lr | .amo => 6

/-- The PMP permission bits an access needs, in the order X, W, R (21_mmu_pmp:R260). -/
def Access.pmpNeed : Access → Byte
  | .fetch => 4
  | .load | .lr => 1
  | .store => 2
  | .amo => 3

/-- The access writes (21_mmu_pmp:R240). -/
def Access.writes : Access → Bool
  | .fetch | .load | .lr => false
  | .store | .amo => true

/-- The access waits for data from the bus, so a bus error on them raises an exception (20_memory:R196). -/
def Access.reads : Access → Bool
  | .fetch | .load | .lr | .amo => true
  | .store => false

/-- Where an access goes: its physical address, its attributes, the privilege it is made with. -/
structure Place where
  pa   : BitVec 40
  attr : BitVec 5
  priv : Priv
  deriving DecidableEq, Repr

/-! ### Physical memory protection -/

/-- How many of the lowest bits of `v`, up to `n`, are 1 in a row. -/
def trailingOnes (v : Nat) : Nat → Nat
  | 0 => 0
  | n + 1 => if v % 2 = 1 then 1 + trailingOnes (v / 2) n else 0

/-- The address register of entry `i` as a number. -/
def Pmp.addrOf (p : Pmp) (i : Fin 8) : Nat := (p.addr[i]).toNat

/-- The lower bound of entry `i` in TOR mode, in 4 KB pages (21_mmu_pmp:R263). -/
def Pmp.torLow (p : Pmp) (i : Fin 8) : Nat :=
  if h : i.val = 0 then 0 else p.addrOf ⟨i.val - 1, by omega⟩ / 2 ^ 10

/-- Entry `i` contains a physical address (21_mmu_pmp:R261, R263; the reserved all-ones pattern contains none, log 12). -/
def Pmp.covers (p : Pmp) (i : Fin 8) (pa : BitVec 40) : Bool :=
  match (p.cfg[i]).toNat / 8 % 4 with
  | 1 => decide (p.torLow i ≤ pa.toNat / 4096 ∧ pa.toNat / 4096 < p.addrOf i / 2 ^ 10)
  | 3 =>
    let k := trailingOnes (p.addrOf i / 2 ^ 9) 29
    k != 29 && pa.toNat / 2 ^ (12 + k) == p.addrOf i / 2 ^ (10 + k)
  | _ => false

/-- The lowest-numbered entry that contains an address (21_mmu_pmp:R264). -/
def Pmp.entryOf (p : Pmp) (pa : BitVec 40) : Option (Fin 8) := ([0, 1, 2, 3, 4, 5, 6, 7] : List (Fin 8)).find? fun i => p.covers i pa

/-- The PMP allows an access that needs the permission bits `need` (21_mmu_pmp:R264, R265). -/
def Pmp.allows (p : Pmp) (priv : Priv) (need : Byte) (pa : BitVec 40) : Bool :=
  match p.entryOf pa with
  | none => priv == .machine
  | some i => (priv == .machine && !(p.cfg[i]).getLsbD 7) || (p.cfg[i] &&& need) == need

/-! ### Translation -/

/-- The effective privilege of an access (21_mmu_pmp:R231). -/
def Hart.effPriv (h : Hart) (k : Access) : Priv :=
  if k != .fetch && bit h.m.mstatus mstatusMPRV then .ofCode (field h.m.mstatus mstatusMPP 2) else h.priv

/-- Accesses of this privilege are translated (21_mmu_pmp:R230). -/
def Hart.translates (h : Hart) (p : Priv) : Bool := p != .machine && field h.sup.satp 60 4 == 8

/-- `satp.ASID` (11_csr_standard:R109). -/
def Hart.asid (h : Hart) : BitVec 16 := BitVec.ofNat 16 (field h.sup.satp 44 16)

/-- Bits 63:38 are all equal (21_mmu_pmp:R236). -/
def canonical (va : Word) : Bool := va.toNat / 2 ^ 38 == 0 || va.toNat / 2 ^ 38 == 2 ^ 26 - 1

/-- The virtual page number of an address (21_mmu_pmp:R232). -/
def vpnOf (va : Word) : BitVec 27 := BitVec.ofNat 27 (field va 12 27)

/-- The level a one-hot page size names: 4 KB is 0, 2 MB is 1, 1 GB is 2 (12_csr_extended:R167; log 43). -/
def pageLevel (size : BitVec 3) : Option Nat :=
  match size.toNat with
  | 1 => some 0
  | 2 => some 1
  | 4 => some 2
  | _ => none

/-- The one-hot page size of a level. -/
def pageSizeOf (level : Nat) : BitVec 3 := BitVec.ofNat 3 (2 ^ level)

/-- The jTLB set of a page (21_mmu_pmp:R255, log 43). -/
def tlbSet (vpn : BitVec 27) (level : Nat) : BitVec 8 := BitVec.ofNat 8 (vpn.toNat / 2 ^ (9 * level))

/-- A valid entry matches a page and an address space (21_mmu_pmp:R247). -/
def TlbEntry.hits (e : TlbEntry) (vpn : BitVec 27) (asid : BitVec 16) : Bool :=
  e.flags.getLsbD 0 &&
    (match pageLevel e.pageSize with
     | some l => e.vpn.toNat / 2 ^ (9 * l) == vpn.toNat / 2 ^ (9 * l)
     | none => false) &&
    (e.flags.getLsbD 5 || e.asid == asid)

/-- Two entries lie in the same place. -/
def TlbEntry.sameSlot (e : TlbEntry) (set : BitVec 8) (way : BitVec 2) : Bool := e.set == set && e.way == way

/-- The jTLB with an entry put in its place (21_mmu_pmp:R255). -/
def tlbInsert (e : TlbEntry) (tlb : List TlbEntry) : List TlbEntry := e :: tlb.filter fun o => !o.sameSlot e.set e.way

/-- The uTLB an access goes through: the I-uTLB for a fetch, else the D-uTLB (21_mmu_pmp:R245). -/
def Tlb.micro (t : Tlb) (k : Access) : List TlbEntry := if k = .fetch then t.fetch else t.data

/-- How many entries that uTLB has (21_mmu_pmp:R245). -/
def Access.microSize (k : Access) : Nat := if k = .fetch then 32 else 17

/-- The TLBs with another content of that uTLB. -/
def Tlb.setMicro (t : Tlb) (k : Access) (es : List TlbEntry) : Tlb :=
  if k = .fetch then { t with fetch := es } else { t with data := es }

/-- The TLBs without the entries a predicate selects. -/
def Tlb.drop (t : Tlb) (p : TlbEntry → Bool) : Tlb where
  joint := t.joint.filter fun e => !p e
  fetch := t.fetch.filter fun e => !p e
  data := t.data.filter fun e => !p e
  leaving := t.leaving.filter fun e => !p e

/-- The TLBs after a broadcast invalidation of the other core: the selected entries are on their way out
(21_mmu_pmp:R250, log 62). -/
def Tlb.expel (t : Tlb) (p : TlbEntry → Bool) : Tlb where
  joint := t.joint.filter fun e => !p e
  fetch := t.fetch.filter fun e => !p e
  data := t.data.filter fun e => !p e
  leaving := (t.joint ++ t.fetch ++ t.data).filter p ++ t.leaving

/-- The permission check of a leaf's flags (21_mmu_pmp:R239, R240, R241). -/
def Hart.leafAllows (h : Hart) (sumAllowsFetch : Bool) (k : Access) (p : Priv) (flags : BitVec 10) : Bool :=
  let readable := flags.getLsbD 1 || (bit h.m.mstatus mstatusMXR && flags.getLsbD 3)
  let user := flags.getLsbD 4
  let kindOk :=
    match k with
    | .fetch => flags.getLsbD 3
    | .load | .lr => readable
    | .store => flags.getLsbD 2
    | .amo => flags.getLsbD 2 && readable
  let userOk :=
    match p with
    | .user => user
    | .supervisor => !user || (bit h.m.mstatus mstatusSUM && (k != .fetch || sumAllowsFetch))
    | .machine => true
  kindOk && flags.getLsbD 6 && (!k.writes || flags.getLsbD 7) && userOk

/-- The 28-bit page number of a page-table entry (21_mmu_pmp:R237). -/
def ptePpn (pte : Word) : Nat := field pte 10 28

/-- A leaf found by the walk: its level, its entry, and whether the walk used a noted value that a broadcast SFENCE of the other core
has on its way out. -/
structure Leaf where
  level : Nat
  pte   : Word
  stale : Bool
  deriving DecidableEq, Repr

/-- The notes of earlier values of the 8 bytes at an address that the walker may still read (21_mmu_pmp:R242, log 61). -/
def Hart.notesAt (h : Hart) (a : Nat) : List OldPte := h.oldPtes.filter fun o => o.addr == a

/-- Those values. -/
def Hart.oldPtesAt (h : Hart) (a : Nat) : List Word := (h.notesAt a).map (·.word)

/-- The 8 bytes the walker reads: what a data access finds, or what stood there before a store of this hart since its last
SFENCE; a device register is not a table, so its bytes are a free value (21_mmu_pmp:R242, log 34, 61). With them, whether that older
value is on its way out (log 62). The walker brings no line into a cache (log 41). -/
def State.readPte (s : State) (pa : BitVec 40) : Word × Bool × State :=
  if s.soc.inWindow pa then (Config.freeWord s.draws, false, s.drawn)
  else
    let now := BitVec.ofNat 64 (s.number (s.soc.attrOf pa) pa.toNat 8)
    match s.me.notesAt pa.toNat with
    | [] => (now, false, s)
    | olds =>
      match olds[Config.freeChoice s.draws % (olds.length + 1)]? with
      | some o => (o.word, o.leaving, s.drawn)
      | none => (now, false, s.drawn)

/-- The same leaf, stale too where the way to it was. -/
def Leaf.after (l : Leaf) (stale : Bool) : Leaf := { l with stale := stale || l.stale }

/-- Steps 2 to 5 of the page-table walk from the table at `table`, `levels` levels to go (21_mmu_pmp:R234, R243). The walker's
reads take the attributes sysmap.h gives (20_memory:R184, 92_eei_decisions:D36). DESIGN CHOICE (log 21): attributes outside table
6.1 are refused for the walker's reads as for any access; the spec says so of no walk. -/
def State.walk (s : State) (k : Access) (va : Word) (table : Nat) : Nat → Res Leaf
  | 0 => .trap k.pageFault va s
  | i + 1 =>
    let pa := BitVec.ofNat 40 (table * 4096 + field va (12 + 9 * i) 9 * 8)
    if !s.me.pmp.allows .supervisor Access.load.pmpNeed pa then .trap k.accessFault va s
    else if !attrLegal (s.soc.attrOf pa) then .refused .undefinedAttributes
    else if s.soc.busError pa then .trap k.pageFault va s
    else
      let (pte, stale, s) := s.readPte pa
      if !bit pte 0 || (!bit pte 1 && bit pte 2) then .trap k.pageFault va s
      else if field pte 1 3 = 0 then (s.walk k va (ptePpn pte) i).andThen fun l s => .ok (l.after stale) s
      else if ptePpn pte % 2 ^ (9 * i) ≠ 0 then .trap k.pageFault va s
      else .ok ⟨i, pte, stale⟩ s

/-- The TLB entry of a leaf, in a way the hardware chooses (21_mmu_pmp:R234 step 7). DESIGN CHOICE (log 43): the entry of a
2 MB or 1 GB page holds all 27 bits of the page number that missed, so TLBR shows in `smeh` those below its level too; the
spec does not say which it holds (21_mmu_pmp:R254). -/
def Leaf.entry (l : Leaf) (va : Word) (asid : BitVec 16) (way : BitVec 2) : TlbEntry where
  set := tlbSet (vpnOf va) l.level
  way := way
  vpn := vpnOf va
  asid := asid
  pageSize := pageSizeOf l.level
  ppn := BitVec.ofNat 28 (ptePpn l.pte)
  flags := BitVec.ofNat 10 (field l.pte 0 10)
  attr := BitVec.ofNat 5 (field l.pte 59 5)

/-- The state with an entry brought into a uTLB; a full one loses an entry the hardware chooses (21_mmu_pmp:R245, R246). -/
def State.fillMicro (s : State) (k : Access) (e : TlbEntry) : State :=
  let es := s.me.tlb.micro k
  if es.length < k.microSize then { s with me := { s.me with tlb := s.me.tlb.setMicro k (e :: es) } }
  else
    let kept := es.eraseIdx (Config.freeChoice s.draws % es.length)
    { s.drawn with me := { s.me with tlb := s.me.tlb.setMicro k (e :: kept.take (k.microSize - 1)) } }

/-- The entry of a leaf that the state's walk for `va` found. -/
def State.leafEntry (s : State) (l : Leaf) (va : Word) : TlbEntry :=
  l.entry va s.me.asid (BitVec.ofNat 2 (Config.freeChoice s.draws))

/-- The TLBs with the entry of a leaf: in the jTLB (21_mmu_pmp:R234 step 7), or with those on their way out, where it comes from a
value that is on its way out itself (70_reset_and_hazards:R951, log 62). -/
def Tlb.take (t : Tlb) (stale : Bool) (e : TlbEntry) : Tlb :=
  if stale then { t with leaving := e :: t.leaving } else { t with joint := tlbInsert e t.joint }

/-- The state with a leaf brought into the TLBs. -/
def State.refill (s : State) (l : Leaf) (va : Word) : State :=
  { s.drawn with me := { s.me with tlb := s.me.tlb.take l.stale (s.leafEntry l va) } }

/-- The state after the refill of the TLBs on a miss: the uTLB of the access takes the entry of the jTLB too (21_mmu_pmp:R245). -/
def State.refillFor (s : State) (k : Access) (l : Leaf) (va : Word) : State :=
  if l.stale then s.refill l va else (s.refill l va).fillMicro k (s.leafEntry l va)

/-- The physical address a page maps an address to (21_mmu_pmp:R234 step 7). -/
def pageAddress (ppn : BitVec 28) (level : Nat) (va : Word) : BitVec 40 :=
  BitVec.ofNat 40 (ppn.toNat / 2 ^ (9 * level) * 2 ^ (12 + 9 * level) + va.toNat % 2 ^ (12 + 9 * level))

/-- The attributes of a translated access (20_memory:R184). -/
def State.pageAttr (s : State) (pteAttr : BitVec 5) (pa : BitVec 40) : BitVec 5 :=
  if bit s.me.th.mxstatus mxstatusMAEE then pteAttr else s.soc.attrOf pa

/-- The physical address and attributes through a TLB entry, its permissions checked (21_mmu_pmp:R246). DESIGN CHOICE (log 19): an
entry that software wrote with flags no leaf has (W without R), or with a page number that is not aligned to its large page,
translates like any other, the low bits of the page number dropped; the walk's page faults for these (R243) are not applied to
it, as R246 names the check of R240 alone. -/
def State.throughTlb (s : State) (k : Access) (p : Priv) (va : Word) (e : TlbEntry) : Res Place :=
  if s.me.leafAllows s.soc.sumAllowsFetch k p e.flags then
    let pa := pageAddress e.ppn ((pageLevel e.pageSize).getD 0) va
    .ok ⟨pa, s.pageAttr e.attr pa, p⟩ s
  else .trap k.pageFault va s

/-- The physical address and attributes through the page table, with the refill of the jTLB and of the uTLB
(21_mmu_pmp:R234). -/
def State.throughTable (s : State) (k : Access) (p : Priv) (va : Word) : Res Place :=
  (s.walk k va (field s.me.sup.satp 0 28) 3).andThen fun l s =>
    if s.me.leafAllows s.soc.sumAllowsFetch k p (BitVec.ofNat 10 (field l.pte 0 10)) then
      let pa := pageAddress (BitVec.ofNat 28 (ptePpn l.pte)) l.level va
      .ok ⟨pa, s.pageAttr (BitVec.ofNat 5 (field l.pte 59 5)) pa, p⟩ (s.refillFor k l va)
    else .trap k.pageFault va s

/-- The entries of a TLB that hit an address in the current address space (21_mmu_pmp:R247). -/
def Hart.hitsIn (h : Hart) (va : Word) (es : List TlbEntry) : List TlbEntry := es.filter fun e => e.hits (vpnOf va) h.asid

/-- Translation through the uTLB of the access, then the jTLB, then the page table (21_mmu_pmp:R234, R244, R245, R247). -/
def State.lookup (s : State) (k : Access) (p : Priv) (va : Word) : Res Place :=
  match s.me.hitsIn va (s.me.tlb.micro k) with
  | [e] => s.throughTlb k p va e
  | [] =>
    match s.me.hitsIn va s.me.tlb.joint with
    | [e] => (s.throughTlb k p va e).andThen fun pl s => .ok pl (s.fillMicro k e)
    | [] => if bit s.me.th.mxstatus mxstatusMHRD then .trap k.pageFault va s else s.throughTable k p va
    | _ => .refused .tlbMultipleHit
  | _ => .refused .tlbMultipleHit

/-- Translation through an entry that is on its way out, while the other core's broadcast is not complete, or as if it were
gone: a free choice (70_reset_and_hazards:R951, log 62). -/
def State.lookupLeaving (s : State) (k : Access) (p : Priv) (va : Word) : Res Place :=
  match s.me.hitsIn va s.me.tlb.leaving with
  | [] => s.lookup k p va
  | es =>
    match es[Config.freeChoice s.draws % (es.length + 1)]? with
    | some e => s.drawn.throughTlb k p va e
    | none => s.drawn.lookup k p va

/-- Step 2 of the access path: translation (20_memory:R185, 21_mmu_pmp:R230, R236, R246). -/
def State.translate (s : State) (k : Access) (va : Word) : Res Place :=
  let p := s.me.effPriv k
  if s.me.translates p then
    if canonical va then s.lookupLeaving k p va else .trap k.pageFault va s
  else if s.soc.highAddrFault && va.toNat / 2 ^ 40 != 0 then .trap k.accessFault va s
  else
    let pa := va.setWidth 40
    .ok ⟨pa, s.soc.attrOf pa, p⟩ s

/-- Step 3 of the access path and the answer of the bus, for a translated place: the PMP (20_memory:R185), attributes that the
spec defines (93_implementation_defined:U14), and no error response to a read (R196). DESIGN CHOICE (log 37): of an access of
several bytes the address of the first one decides whether it answers with a bus error; the spec gives `BUS_ERROR` no
granularity. -/
def State.checkPlace (s : State) (k : Access) (va : Word) (pl : Place) : Res Place :=
  if !s.me.pmp.allows pl.priv k.pmpNeed pl.pa then .trap k.accessFault va s
  else if !attrLegal pl.attr then .refused .undefinedAttributes
  else if k.reads && s.soc.busError pl.pa then .trap k.accessFault va s
  else .ok pl s

/-- Translation and the checks of the place it gives (20_memory:R185). -/
def State.resolve (s : State) (k : Access) (va : Word) : Res Place :=
  (s.translate k va).andThen fun pl s => s.checkPlace k va pl

/-- A translation brought into the jTLB ahead of its use, if the walk finds one (21_mmu_pmp:R246, the input
`tlbPrefetch`). -/
def State.prefetchTlb (s : State) (va : Word) : State :=
  if s.me.translates .supervisor && canonical va && !bit s.me.th.mxstatus mxstatusMHRD &&
      (s.me.hitsIn va s.me.tlb.joint).isEmpty then
    match s.walk .load va (field s.me.sup.satp 0 28) 3 with
    | .ok l s => s.refill l va
    | _ => s
  else s

end Sys2Proof.Machine
end

