-- ==== Sys2Proof/Machine/Cache.lean ====
section
/-! DEFINITION. What data accesses, fetches and the cache, synchronisation and TLB instructions do to the caches: which lines they
bring in, write back and take out (20_memory:R219 to R224, 48_thead_cache_sync:R689(b), log 41, 42). -/

namespace Sys2Proof.Machine

/-! ### Writing back and taking out -/

/-- A cache after the dirty ones among some lines of the level above are written back to it. In a legal state it holds them
already: the L2 includes the D-caches (20_memory:R220). -/
def writeBack : List CacheLine → List CacheLine → List CacheLine
  | [], c => c
  | l :: rest, c =>
    let c := writeBack rest c
    if l.dirty then ⟨l.line, false, .dirty, l.data⟩ :: c.filter fun m => m.line != l.line else c

/-- Memory after the dirty ones among some lines of the L2 are written back to it. -/
def spill : List CacheLine → List Host.Cell → List Host.Cell
  | [], m => m
  | l :: rest, m =>
    let m := spill rest m
    if l.dirty then Memory.writeBytes (64 * l.line) (lineData l.byteAt l.line) m else m

/-- The selected lines are clean, and stay valid. -/
def cleaned (sel : CacheLine → Bool) (c : List CacheLine) : List CacheLine :=
  c.map fun l => if sel l && l.dirty then { l with state := .clean } else l

/-- The selected lines are gone. -/
def without (sel : CacheLine → Bool) (c : List CacheLine) : List CacheLine := c.filter fun l => !sel l

/-- A broadcast invalidation of the selected lines has reached a cache, and takes effect at the latest when the issuing core
synchronises (70_reset_and_hazards:R951, log 62). -/
def expelled (sel : CacheLine → Bool) (c : List CacheLine) : List CacheLine :=
  c.map fun l => if sel l then { l with state := .leaving } else l

/-- The running hart with another L1 D-cache. -/
def State.setMyL1 (s : State) (c : List CacheLine) : State := { s with me := { s.me with l1d := c } }

/-- The other hart with another L1 D-cache. -/
def State.setOtherL1 (s : State) (c : List CacheLine) : State := { s with other := { s.other with l1d := c } }

/-- Write back the selected lines of the running hart's L1 D-cache; they stay valid (48_thead_cache_sync:R693). -/
def State.cleanMine (s : State) (sel : CacheLine → Bool) : State :=
  ({ s with l2 := writeBack (s.me.l1d.filter sel) s.l2 }).setMyL1 (cleaned sel s.me.l1d)

/-- Write back the selected lines of the other hart's L1 D-cache: at once (log 62). DESIGN CHOICE (log 18): a broadcast cache
operation reaches the other core whatever its `msmpr.SMPEN` is; 12_csr_extended:R152 speaks of snoop requests and does not say
whether it is one. -/
def State.cleanOther (s : State) (sel : CacheLine → Bool) : State :=
  ({ s with l2 := writeBack (s.other.l1d.filter sel) s.l2 }).setOtherL1 (cleaned sel s.other.l1d)

/-- Invalidate, without writing back, the selected lines of the running hart's L1 D-cache (48_thead_cache_sync:R705). -/
def State.invalMine (s : State) (sel : CacheLine → Bool) : State := s.setMyL1 (without sel s.me.l1d)

/-- Invalidate, without writing back, the selected lines of the other hart's L1 D-cache: they are on their way out
(48_thead_cache_sync:R702, log 62), whatever its SMPEN is (log 18). -/
def State.invalOther (s : State) (sel : CacheLine → Bool) : State := s.setOtherL1 (expelled sel s.other.l1d)

/-- Write back and invalidate the selected lines of the running hart's L1 D-cache (48_thead_cache_sync:R694). -/
def State.flushMine (s : State) (sel : CacheLine → Bool) : State := (s.cleanMine sel).invalMine sel

/-- Write back and invalidate the selected lines of the other hart's L1 D-cache: they are on their way out
(48_thead_cache_sync:R695, log 62), whatever its SMPEN is (log 18). -/
def State.flushOther (s : State) (sel : CacheLine → Bool) : State :=
  (s.cleanOther sel).setOtherL1 (expelled sel (s.cleanOther sel).other.l1d)

/-- Write back and take out the selected lines of the other hart's L1 D-cache at once: a snoop, or a line that leaves the L2
(20_memory:R219, R220). -/
def State.claimOther (s : State) (sel : CacheLine → Bool) : State :=
  (s.cleanOther sel).setOtherL1 (without sel (s.cleanOther sel).other.l1d)

/-- Write back the selected lines of the L2; they stay valid (48_thead_cache_sync:R710). -/
def State.cleanL2 (s : State) (sel : CacheLine → Bool) : State :=
  { s with mem := spill (s.l2.filter sel) s.mem, l2 := cleaned sel s.l2 }

/-- Invalidate, without writing back, the selected lines of the L2 (48_thead_cache_sync:R712). -/
def State.invalL2 (s : State) (sel : CacheLine → Bool) : State := { s with l2 := without sel s.l2 }

/-- Write back and invalidate the selected lines of the L2 (48_thead_cache_sync:R711). -/
def State.flushL2 (s : State) (sel : CacheLine → Bool) : State := (s.cleanL2 sel).invalL2 sel

/-- Clean lines in both L1 D-caches (48_thead_cache_sync:R699). DESIGN CHOICE (log 41): a line that is dirty in both is written back
from the own one first, so that the other core's bytes stay; the spec gives no order. -/
def State.cleanBoth (s : State) (sel : CacheLine → Bool) : State := (s.cleanMine sel).cleanOther sel

/-- Clean and invalidate lines in both L1 D-caches, in the order of `State.cleanBoth`. -/
def State.flushBoth (s : State) (sel : CacheLine → Bool) : State := (s.flushMine sel).flushOther sel

/-- Clean lines in both L1 D-caches and the L2 (48_thead_cache_sync:R698). -/
def State.cleanAll (s : State) (sel : CacheLine → Bool) : State := (s.cleanBoth sel).cleanL2 sel

/-- Clean and invalidate lines in both L1 D-caches and the L2 (48_thead_cache_sync:R695). -/
def State.flushAll (s : State) (sel : CacheLine → Bool) : State := (s.flushBoth sel).flushL2 sel

/-- Invalidate lines in both L1 D-caches and the L2 (48_thead_cache_sync:R702). -/
def State.invalAll (s : State) (sel : CacheLine → Bool) : State := ((s.invalMine sel).invalOther sel).invalL2 sel

/-- Lines leave the L2, and with it both L1 D-caches, which it includes, written back to memory (20_memory:R220). -/
def State.evictL2 (s : State) (sel : CacheLine → Bool) : State := ((s.flushMine sel).claimOther sel).flushL2 sel

/-- The other core's D-cache holds the line and keeps it. -/
def State.otherKeeps (s : State) (l : CacheLine) : Bool := s.other.l1d.any fun m => m.line == l.line && !m.leaving

/-- The selected lines hold what memory holds. -/
def renewed (m : List Host.Cell) (sel : CacheLine → Bool) (c : List CacheLine) : List CacheLine :=
  c.map fun l => if sel l then CacheLine.clean (Memory.read m) l.line l.way else l

/-- The L2 gives up the selected lines while the other core's D-cache is left alone (48_thead_cache_sync:R692): one that stays there
comes back from memory at once, since the L2 includes it (20_memory:R220). DESIGN CHOICE (log 41): the spec does not say how the L2
stays inclusive then. -/
def State.renewL2 (s : State) (sel : CacheLine → Bool) : State :=
  { s with l2 := renewed s.mem sel (without (fun l => sel l && !s.otherKeeps l) s.l2) }

/-! ### Bringing a line in -/

/-- One of a core's L1 caches is on. -/
def Hart.cachesOn (h : Hart) : Bool := h.dcacheOn || bit h.th.mhcr mhcrIE

/-- The L2 has room for line `n` in its set: there are 1024 sets of 16 ways (00_scope:R1, 20_memory:R220). -/
def roomFor (c : List CacheLine) (n : Nat) : Bool := decide ((c.filter fun l => l.line % 1024 == n % 1024).length < 16)

/-- The L2 holds line `n` after a data access of the running hart: it held it, or it refills on the miss, with `mccr2.RFE` set and
an L1 cache of the core on (20_memory:R220, 12_csr_extended:R137). -/
def State.l2Takes (s : State) (n : Nat) : Bool := holds s.l2 n || (bit s.mccr2 mccr2RFE && s.me.cachesOn)

/-- The line that leaves a full set of the L2 for line `n`: `k` chooses among them. -/
def l2Victim (c : List CacheLine) (n k : Nat) : Option CacheLine :=
  let set := c.filter fun l => l.line % 1024 == n % 1024
  set[k % set.length]?

/-- The set of line `n` has room: a full one loses a line. DESIGN CHOICE (log 41): the spec names no replacement of the L2, so which
line leaves it is a free choice. -/
def State.makeRoom (s : State) (n : Nat) : State :=
  if roomFor s.l2 n then s
  else
    match l2Victim s.l2 n (Config.freeChoice s.draws) with
    | some v => s.drawn.evictL2 (onLine v.line)
    | none => s

/-- Line `n` as memory has it, in the L2. -/
def State.takeL2 (s : State) (n : Nat) : State := { s with l2 := CacheLine.clean (Memory.read s.mem) n false :: s.l2 }

/-- The L2 holds line `n` (20_memory:R220, 12_csr_extended:R137). -/
def State.fillL2 (s : State) (n : Nat) : State := if holds s.l2 n then s else (s.makeRoom n).takeL2 n

/-- The lines of a D-cache in the set of line `n`: there are 512 sets (48_thead_cache_sync:R714). -/
def setOf (c : List CacheLine) (n : Nat) : List CacheLine := c.filter fun l => l.line % 512 == n % 512

/-- The way that line `n` goes to: a free one, else that of the line brought in first (20_memory:R219, FIFO). DESIGN CHOICE
(log 41): of two free ways it is way 0; the spec does not say which, and DCACHE.*SW tells them apart. -/
def wayFor (c : List CacheLine) (n : Nat) : Bool :=
  if (setOf c n).all fun l => l.way then false
  else if (setOf c n).all fun l => !l.way then true
  else
    match (setOf c n).getLast? with
    | some l => l.way
    | none => false

/-- The running hart's L1 D-cache holds line `n`; the line that stood in its place is written back (20_memory:R219). The L2
includes it (R220). -/
def State.fill (s : State) (n : Nat) : State :=
  if holds s.me.l1d n then s
  else
    let s := s.fillL2 n
    let way := wayFor s.me.l1d n
    let s := s.flushMine fun l => l.line % 512 == n % 512 && l.way == way
    s.setMyL1 (CacheLine.clean s.l2Byte n way :: s.me.l1d)

/-- What a read at an address does to the caches: a snoop makes the other core write back a dirty line; the L2 takes the line
(`State.l2Takes`), and then, where it is on, the D-cache (20_memory:R219, R220, 12_csr_extended:R137). -/
def State.touch (s : State) (attr : BitVec 5) (a : Nat) : State :=
  if !cacheable attr || (s.me.dcacheOn && holds s.me.l1d (lineOf a)) then s
  else
    let s := if s.snooped attr then s.cleanOther (onLine (lineOf a)) else s
    if !s.l2Takes (lineOf a) then s
    else if s.me.dcacheOn then s.fill (lineOf a) else s.fillL2 (lineOf a)

/-! ### Stores -/

/-- A cache with bytes stored in line `n`, which it holds. -/
def storeIn (c : List CacheLine) (n a : Nat) (bs : List Byte) : List CacheLine :=
  c.map fun l => if l.line == n then l.stored a bs else l

/-- `mhcr.WA`: a store that misses the D-cache brings the line in (12_csr_extended:R133). -/
def Hart.writeAllocate (h : Hart) : Bool := bit h.th.mhcr mhcrWA

/-- A cache with other bytes from `a` up in the line there, if it holds it; a dirty line stays dirty and a clean one clean. -/
def patchedIn (c : List CacheLine) (a : Nat) (bs : List Byte) : List CacheLine :=
  c.map fun l => if l.line == lineOf a then l.patched a bs else l

/-- The running hart with other bytes in its D-cache, where that holds their line. -/
def State.patchMine (s : State) (a : Nat) (bs : List Byte) : State := s.setMyL1 (patchedIn s.me.l1d a bs)

/-- A line of the own D-cache on its way out leaves it: a store waits for that (log 62). -/
def State.yieldLine (s : State) (n : Nat) : State := s.invalMine fun l => l.line == n && l.leaving

/-- Where a cacheable store goes, once no other copy is in the way: to the own D-cache, where that is on and holds the line or
takes it (`mhcr.WA`, with the L2); else to the L2, where that holds or takes it; else to memory (20_memory:R219, R220,
12_csr_extended:R133, R137). One that goes past a line of the own D-cache, which is off, changes the bytes there too, so that a
fetch after FENCE.I finds them (20_memory:R224, log 42). -/
def State.storeCached (s : State) (a : Nat) (bs : List Byte) : State :=
  let n := lineOf a
  let s := s.yieldLine n
  if s.me.dcacheOn && (holds s.me.l1d n || (s.me.writeAllocate && s.l2Takes n)) then
    (s.fill n).setMyL1 (storeIn (s.fill n).me.l1d n a bs)
  else
    (if s.l2Takes n then { s.fillL2 n with l2 := storeIn (s.fillL2 n).l2 n a bs }
     else { s with mem := Memory.writeBytes a bs s.mem }).patchMine a bs

/-- A non-cacheable store goes to memory past all caches; it changes the bytes in the lines it goes past too, of the own D-cache, of
the L2 and, where the other core handles snoops, of its D-cache, so that a fetch after FENCE.I finds them (20_memory:R187, R224,
log 42). -/
def State.storePast (s : State) (a : Nat) (bs : List Byte) : State :=
  (({ s with mem := Memory.writeBytes a bs s.mem, l2 := patchedIn s.l2 a bs }).patchMine a bs).setOtherL1
    (if s.other.snoops then patchedIn s.other.l1d a bs else s.other.l1d)

/-- The running hart stores bytes on one line, in one indivisible access: a snoop takes the line out of the other core's D-cache;
without one the copy there stays as it is (20_memory:R187, R192, R219). -/
def State.storeData (s : State) (attr : BitVec 5) (a : Nat) (bs : List Byte) : State :=
  if !cacheable attr then s.storePast a bs
  else (if s.snooped attr then s.claimOther (onLine (lineOf a)) else s).storeCached a bs

/-- A hart's monitors after another hart's store to an address: the local one is reached by a snoop (20_memory:R215, R217,
62_pmu_debug_power:R926). -/
def Hart.snoopStore (h : Hart) (a : Nat) : Hart :=
  { h with lmon := h.lmon.filter fun r => !h.snoops || lineOf r.addr.toNat != lineOf a,
           gmon := h.gmon.filter fun r => lineOf r.addr.toNat != lineOf a }

/-- What a store to an address tells the other hart's monitors (20_memory:R215). -/
def State.announce (s : State) (a : Nat) : State := { s with other := s.other.snoopStore a }

/-- The old value of the aligned 8-byte word around an address, noted before the running hart stores there
(21_mmu_pmp:R242, log 61). -/
def State.notePte (s : State) (attr : BitVec 5) (a : Nat) : State :=
  let word := a / 8 * 8
  let old := ⟨word, BitVec.ofNat 64 (s.number attr word 8), false⟩
  { s with me := { s.me with oldPtes := old :: s.me.oldPtes.filter fun o => o != old } }

/-! ### The fetch units -/

/-- The byte a fetch finds below the D-caches, or with `mxstatus.INSDE` clear by a snoop of them: a cacheable one as a read does,
any other in a dirty line of the own D-cache or of the L2, else in memory (20_memory:R223, R224, 12_csr_extended:R130,
log 42). -/
def State.fetchByte (s : State) (attr : BitVec 5) (a : Nat) : Byte :=
  match cacheable attr, bit s.me.th.mxstatus mxstatusINSDE with
  | true, false => s.sees attr true a
  | true, true => s.l2Byte a
  | false, false => ((dirtyByte s.me.l1d a).or (dirtyByte s.l2 a)).getD (Memory.read s.mem a)
  | false, true => (dirtyByte s.l2 a).getD (Memory.read s.mem a)

/-- The I-cache is enabled (12_csr_extended:R133). -/
def Hart.icacheOn (h : Hart) : Bool := bit h.th.mhcr mhcrIE

/-- The set of the I-cache that a virtual address selects, by bits 14:6: 64 KB in two ways (00_scope:R1, 20_memory:R222). -/
def codeSet (va : Word) : Nat := field va 6 9

/-- The line `n` stands in the set `set` of the I-cache. -/
def CodeLine.at (e : CodeLine) (set n : Nat) : Bool := e.set == set && e.line.line == n

/-- The line of an address in the I-cache, where it stands in the set of the virtual one (20_memory:R222). -/
def Hart.codeLine (h : Hart) (va : Word) (a : Nat) : Option CacheLine :=
  (h.icache.find? fun e => e.at (codeSet va) (lineOf a)).map (·.line)

/-- An I-cache with room for one more line in a set of two ways: the line brought in first leaves a full one (20_memory:R222,
FIFO). -/
def codeRoom (c : List CodeLine) (set : Nat) : List CodeLine :=
  if (c.filter fun e => e.set == set).length < 2 then c else (c.reverse.eraseP fun e => e.set == set).reverse

/-- The fetch of a page goes through the I-cache: it is on and the page is cacheable (20_memory:R222). -/
def State.throughIcache (s : State) (attr : BitVec 5) : Bool := s.me.icacheOn && cacheable attr

/-- The running hart's I-cache holds the line of an address, where fetches go through it (20_memory:R222). -/
def State.fillIcache (s : State) (attr : BitVec 5) (va : Word) (a : Nat) : State :=
  if s.throughIcache attr && (s.me.codeLine va a).isNone then
    { s with me := { s.me with icache :=
        ⟨codeSet va, CacheLine.clean (s.fetchByte attr) (lineOf a) false⟩ :: codeRoom s.me.icache (codeSet va) } }
  else s

/-- The byte a fetch finds: in the I-cache, where that is on and holds the line, even a stale one (20_memory:R222, R223). -/
def State.codeByteAt (s : State) (attr : BitVec 5) (va : Word) (a : Nat) : Byte :=
  match if s.throughIcache attr then s.me.codeLine va a else none with
  | some l => l.byteAt a
  | none => s.fetchByte attr a

/-- A parcel from its two bytes in memory (20_memory:R181). -/
def State.parcelAt (s : State) (attr : BitVec 5) (va : Word) (a : Nat) : BitVec 16 :=
  parcel (s.codeByteAt attr va a) (s.codeByteAt attr va (a + 1))

/-- The parcel the fetch unit delivers: one fetched ahead of its use, if there is one, else that of the I-cache or of memory
(20_memory:R189, R223, R224). -/
def State.fetchedParcel (s : State) (attr : BitVec 5) (va : Word) (a : Nat) : BitVec 16 :=
  match s.me.fetched.find? fun f => f.addr == a with
  | some f => f.parcel
  | none => s.parcelAt attr va a

/-- The I-cache after that: a parcel not fetched ahead comes through it. -/
def State.afterFetch (s : State) (attr : BitVec 5) (va : Word) (a : Nat) : State :=
  if s.me.fetched.any fun f => f.addr == a then s else s.fillIcache attr va a

/-- The running hart fetches a parcel ahead of its use (20_memory:R189, R224). -/
def State.fetchEarly (s : State) (attr : BitVec 5) (va : Word) (a : Nat) : State :=
  let p := s.fetchedParcel attr va a
  let s := s.afterFetch attr va a
  { s with me := { s.me with fetched := ⟨a, p⟩ :: s.me.fetched.filter fun f => f.addr != a } }

/-- The selected lines of an I-cache are on their way out by a broadcast (log 62). -/
def expelledCode (sel : CodeLine → Bool) (c : List CodeLine) : List CodeLine :=
  c.map fun e => if sel e then { e with line := { e.line with state := .leaving } } else e

/-- Invalidate lines of the running hart's I-cache, and of the other one's where the operation is broadcast, whatever its SMPEN is
(log 18); what has been fetched ahead stays until the hart fetches anew (48_thead_cache_sync:R689(c), R706 to R709). -/
def State.invalIcache (s : State) (sel : CodeLine → Bool) (broadcast : Bool) : State :=
  { s with me := { s.me with icache := s.me.icache.filter fun e => !sel e },
           other := if broadcast then { s.other with icache := expelledCode sel s.other.icache } else s.other }

/-! ### Synchronisation -/

/-- A hart on which the other one's broadcasts have taken effect (48_thead_cache_sync:R717, 21_mmu_pmp:R250,
70_reset_and_hazards:R951, log 62). -/
def Hart.settle (h : Hart) : Hart :=
  { h with l1d := without CacheLine.leaving h.l1d, icache := h.icache.filter fun e => !e.line.leaving,
           tlb := { h.tlb with leaving := [] }, oldPtes := h.oldPtes.filter fun o => !o.leaving }

/-- The broadcasts of the running hart are complete. -/
def State.complete (s : State) : State := { s with other := s.other.settle }

/-- The broadcasts of the other hart take effect on the running one. -/
def State.settleMe (s : State) : State := { s with me := s.me.settle }

/-- The running hart fetches anew (48_thead_cache_sync:R718). -/
def State.refetchMine (s : State) : State := { s with me := s.me.drain }

/-- The other hart fetches anew (48_thead_cache_sync:R719). -/
def State.refetchOther (s : State) : State := { s with other := s.other.drain }

/-- The effect of FENCE.I: later fetches of this hart see all its earlier stores, its broadcasts are complete, and the other
hart's I-cache is invalidated, unless the broadcast is off (20_memory:R224, 40_rv64i:R385, 12_csr_extended:R140). Where a fetch
does not look into the D-cache, the D-cache is written back first. -/
def State.fenceI (s : State) : State :=
  let s := if bit s.me.th.mxstatus mxstatusINSDE then s.cleanMine everyLine else s
  let s := { s with me := { s.me with icache := [], fetched := [] } }
  if bit s.me.th.mhint mhintFenceiBroadDis then s
  else { s with other := { s.other.settle with icache := [] } }

/-! ### TLB invalidation -/

/-- The entries an SFENCE with these register numbers and values removes (21_mmu_pmp:R249). DESIGN CHOICE (log 61): bits 63:39 of
the address and bits 63:16 of the ASID operand are ignored, as an entry holds no more; the spec does not speak of them. -/
def fenceHits (rs1 rs2 : Reg) (va asid : Word) (e : TlbEntry) : Bool :=
  let hitsVa :=
    match pageLevel e.pageSize with
    | some l => e.vpn.toNat / 2 ^ (9 * l) == (vpnOf va).toNat / 2 ^ (9 * l)
    | none => false
  let hitsAsid := !e.flags.getLsbD 5 && e.asid == asid.setWidth 16
  (rs1 == 0 || hitsVa) && (rs2 == 0 || hitsAsid)

/-- A hart's TLBs without the entries a predicate selects. -/
def Hart.dropTlb (h : Hart) (p : TlbEntry → Bool) : Hart := { h with tlb := h.tlb.drop p }

/-- A hart that a broadcast SFENCE of the other one has reached (21_mmu_pmp:R250, 70_reset_and_hazards:R951, log 62). -/
def Hart.expelTlb (h : Hart) (p : TlbEntry → Bool) : Hart :=
  { h with tlb := h.tlb.expel p, oldPtes := h.oldPtes.map fun o => { o with leaving := true } }

/-- SFENCE: entries removed from the running hart's TLBs, and where it is broadcast on their way out of the other one's; the
running hart's later walks see all its earlier stores, and it fetches anew (21_mmu_pmp:R249, R250, 70_reset_and_hazards:R950).
What the other hart's walker held of page tables is on its way out too (R951). DESIGN CHOICE (log 62): the spec says only that the
broadcast is complete after the issuing core's SYNC.IS; until then the other core may use such an entry or not. -/
def State.fenceTlb (s : State) (rs1 rs2 : Reg) (broadcast : Bool) : State :=
  let p := fenceHits rs1 rs2 (s.getX rs1) (s.getX rs2)
  { s with me := { s.me.dropTlb p with oldPtes := [], fetched := [] },
           other := if broadcast then s.other.expelTlb p else s.other }

end Sys2Proof.Machine
end

