-- ==== Sys2Proof/Machine/Devices.lean ====
section
/-! DEFINITION. The CLINT and the PLIC: their registers, the interrupt requests they raise, and the pending interrupts of
the running hart (61_clint_plic). -/

namespace Sys2Proof.Machine

/-- The four interrupt targets of the PLIC (61_clint_plic:R870). -/
inductive Target where
  | h0m
  | h0s
  | h1m
  | h1s
  deriving DecidableEq, Repr

/-- A register of the device window (61_clint_plic:R853, R871). -/
inductive DevReg where
  | prio (n : Nat)
  | pending (x : Nat)
  | enable (t : Target) (x : Nat)
  | permission
  | threshold (t : Target)
  | claim (t : Target)
  | msip (h : HartId)
  | ssip (h : HartId)
  | mtimecmp (h : HartId) (high : Bool)
  | stimecmp (h : HartId) (high : Bool)
  | reserved
  deriving DecidableEq, Repr

/-- The target with number `k` in the register map. -/
def Target.ofIndex : Nat → Target
  | 0 => .h0m
  | 1 => .h0s
  | 2 => .h1m
  | _ => .h1s

/-- The target serves a machine mode. -/
def Target.isM : Target → Bool
  | .h0m | .h1m => true
  | .h0s | .h1s => false

/-- The core with number `k` in the register map. -/
def hartOf (k : Nat) : HartId := if k = 0 then .core0 else .core1

/-- The PLIC register at a word-aligned offset below 0x4000000 (61_clint_plic:R871; sources 1 to 144, D26). -/
def plicReg (off : Nat) : DevReg :=
  if 4 ≤ off ∧ off < 0x1000 then (if off / 4 ≤ 144 then .prio (off / 4) else .reserved)
  else if 0x1000 ≤ off ∧ off < 0x1080 then .pending ((off - 0x1000) / 4)
  else if 0x2000 ≤ off ∧ off < 0x2200 then .enable (Target.ofIndex ((off - 0x2000) / 0x80)) ((off - 0x2000) % 0x80 / 4)
  else if off = 0x1ffffc then .permission
  else if 0x200000 ≤ off ∧ off < 0x204000 then
    (if off % 0x1000 = 0 then .threshold (Target.ofIndex ((off - 0x200000) / 0x1000))
     else if off % 0x1000 = 4 then .claim (Target.ofIndex ((off - 0x200000) / 0x1000))
     else .reserved)
  else .reserved

/-- The CLINT register at a word-aligned offset from 0x4000000 up (61_clint_plic:R853). -/
def clintReg (off : Nat) : DevReg :=
  if off < 0x4000008 then .msip (hartOf ((off - 0x4000000) / 4))
  else if 0x4004000 ≤ off ∧ off < 0x4004010 then .mtimecmp (hartOf ((off - 0x4004000) / 8)) (off % 8 == 4)
  else if 0x400c000 ≤ off ∧ off < 0x400c008 then .ssip (hartOf ((off - 0x400c000) / 4))
  else if 0x400d000 ≤ off ∧ off < 0x400d010 then .stimecmp (hartOf ((off - 0x400d000) / 8)) (off % 8 == 4)
  else .reserved

/-- The register at a word-aligned offset of the device window (61_clint_plic:R850). -/
def devReg (off : Nat) : DevReg := if off < 0x4000000 then plicReg off else clintReg off

/-- The access rights of a privilege mode (61_clint_plic:R852, R875). -/
def devAllowed (p : Priv) (per : Bool) (r : DevReg) : Bool :=
  match p with
  | .machine => true
  | .user => false
  | .supervisor =>
    match r with
    | .ssip _ | .stimecmp _ _ => true
    | .msip _ | .mtimecmp _ _ => false
    | .permission => false
    | .prio _ | .pending _ | .enable _ _ => per
    | .threshold t | .claim t => per || !t.isM
    | .reserved => true

/-! ### The PLIC -/

/-- The sources that exist: 1 to 144 (D26). -/
def Plic.live : BitVec 1024 := BitVec.ofNat 1024 (2 ^ 145 - 2)

/-- The registers of a target. -/
def Plic.target (p : Plic) : Target → PlicTarget
  | .h0m => p.h0m
  | .h0s => p.h0s
  | .h1m => p.h1m
  | .h1s => p.h1s

/-- The PLIC with the registers of a target replaced. -/
def Plic.setTarget (p : Plic) (t : Target) (v : PlicTarget) : Plic :=
  match t with
  | .h0m => { p with h0m := v }
  | .h0s => { p with h0s := v }
  | .h1m => { p with h1m := v }
  | .h1s => { p with h1s := v }

/-- The priority of a source; 0 for a source that does not exist (61_clint_plic:R872). -/
def Plic.priority (p : Plic) (n : Nat) : Nat := if h : 0 < n ∧ n < 145 then (p.prio[n]'h.2).toNat else 0

/-- Bit `n` of a 1024-bit vector set to `b`. -/
def setSource (v : BitVec 1024) (n : Nat) (b : Bool) : BitVec 1024 :=
  if b then v ||| (1#1024 <<< n) else v &&& ~~~(1#1024 <<< n)

/-- The winner among the sources up to `n`: pending, enabled, of the highest priority above 0, the smaller id first
(61_clint_plic:R877). -/
def Plic.winnerUpTo (p : Plic) (t : Target) : Nat → Nat
  | 0 => 0
  | n + 1 =>
    let w := p.winnerUpTo t n
    if p.ip.getLsbD (n + 1) && (p.target t).enable.getLsbD (n + 1) && decide (p.priority w < p.priority (n + 1)) then n + 1
    else w

/-- `winner(t)`: what the claim register of a target holds (61_clint_plic:R877). -/
def Plic.winner (p : Plic) (t : Target) : Nat := p.winnerUpTo t 144

/-- The target's interrupt request (61_clint_plic:R876). -/
def Plic.request (p : Plic) (t : Target) : Bool :=
  let w := p.winner t
  w != 0 && decide ((p.target t).threshold.toNat < p.priority w)

/-- Level lines that are not masked set their pending bits (61_clint_plic:R880). -/
def Plic.sample (p : Plic) : Plic := { p with ip := p.ip ||| (p.lines &&& ~~~p.masked &&& Plic.live) }

/-- A line changes level (61_clint_plic:R880). -/
def Plic.setLine (p : Plic) (n : Nat) (level : Bool) : Plic := { p with lines := setSource p.lines n level &&& Plic.live }.sample

/-- A pulse arrives; it is lost while the source is in service (61_clint_plic:R880). -/
def Plic.pulse (p : Plic) (n : Nat) : Plic :=
  if p.masked.getLsbD n then p else { p with ip := setSource p.ip n true &&& Plic.live }

/-- Word `x` of a 1024-bit vector. -/
def sourceWord (v : BitVec 1024) (x : Nat) : Nat := v.toNat / 2 ^ (32 * x) % 2 ^ 32

/-- A 1024-bit vector with word `x` replaced; the bits of sources that do not exist become 0. -/
def setSourceWord (v : BitVec 1024) (x w : Nat) : BitVec 1024 :=
  let mask := BitVec.ofNat 1024 ((2 ^ 32 - 1) * 2 ^ (32 * x))
  (v &&& ~~~mask) ||| (BitVec.ofNat 1024 (w * 2 ^ (32 * x)) &&& mask &&& Plic.live)

/-- A claim of source `n` (61_clint_plic:R878). -/
def Plic.claimed (p : Plic) (n : Nat) : Plic :=
  if n = 0 then p else { p with ip := setSource p.ip n false, masked := setSource p.masked n true }

/-- Completion of source `n`, the `CLAIM_ID` of the value written: its bits 9:0 (61_clint_plic:R878, R879, D41). DESIGN CHOICE
(log 65): the other bits are ignored, as writes of reserved bits are (93_implementation_defined:U37). -/
def Plic.completed (p : Plic) (n : Nat) : Plic := { p with masked := setSource p.masked n false }.sample

/-! ### Registers of the window -/

/-- The CLINT registers of a core. -/
def State.clint (s : State) : HartId → ClintRegs
  | .core0 => s.clint0
  | .core1 => s.clint1

/-- The state with the CLINT registers of a core replaced. -/
def State.setClint (s : State) (h : HartId) (c : ClintRegs) : State :=
  match h with
  | .core0 => { s with clint0 := c }
  | .core1 => { s with clint1 := c }

/-- One half of a 64-bit compare register (61_clint_plic:R861). -/
def halfOf (w : Word) (high : Bool) : Nat := if high then field w 32 32 else field w 0 32

/-- A 64-bit compare register with one half written (61_clint_plic:R861). -/
def setHalf (w : Word) (high : Bool) (v : Nat) : Word := if high then setField w 32 32 v else setField w 0 32 v

/-- An allowed word read of a device register, with its effect (61_clint_plic:R853 to R878). -/
def State.devReadReg (s : State) (r : DevReg) : Nat × State :=
  match r with
  | .prio n => (s.plic.priority n, s)
  | .pending x => (sourceWord s.plic.ip x, s)
  | .enable t x => (sourceWord (s.plic.target t).enable x, s)
  | .permission => (s.plic.per.toNat, s)
  | .threshold t => ((s.plic.target t).threshold.toNat, s)
  | .claim t => (s.plic.winner t, { s with plic := s.plic.claimed (s.plic.winner t) })
  | .msip h => ((s.clint h).msip.toNat, s)
  | .ssip h => ((s.clint h).ssip.toNat, s)
  | .mtimecmp h hi => (halfOf (s.clint h).mtimecmp hi, s)
  | .stimecmp h hi => (halfOf (s.clint h).stimecmp hi, s)
  | .reserved => (0, s)

/-- A hart after its software interrupt bit becomes `b`: the latch of `mip.SSIP` follows, but only a write of `mip` or `sip`
(`latch`) sets it (log 36). -/
def Hart.noteSsip (h : Hart) (id : HartId) (b latch : Bool) : Hart :=
  if h.id = id then { h with m := { h.m with ssipLatch := b && (latch || h.m.ssipLatch) } } else h

/-- The supervisor software interrupt bit of a core is written, in the CLINT or in `mip` (`latch`): one storage bit
(92_eei_decisions:D9); `mip` shows a request of the CLINT under `mxstatus.CLINTEE` alone (11_csr_standard:R84, log 36). -/
def State.setSsip (s : State) (id : HartId) (b latch : Bool) : State :=
  let s := s.setClint id { s.clint id with ssip := b }
  { s with me := s.me.noteSsip id b latch, other := s.other.noteSsip id b latch }

/-- An allowed word write of a device register (61_clint_plic:R853 to R879). -/
def State.devWriteReg (s : State) (r : DevReg) (v : Nat) : State :=
  match r with
  | .prio n => { s with plic := { s.plic with prio := s.plic.prio.setIfInBounds n (BitVec.ofNat 5 v) } }
  | .pending x => { s with plic := { s.plic with ip := setSourceWord s.plic.ip x v }.sample }
  | .enable t x =>
    let e := s.plic.target t
    { s with plic := s.plic.setTarget t { e with enable := setSourceWord e.enable x v } }
  | .permission => { s with plic := { s.plic with per := v % 2 == 1 } }
  | .threshold t => { s with plic := s.plic.setTarget t { s.plic.target t with threshold := BitVec.ofNat 5 v } }
  | .claim _ => { s with plic := s.plic.completed (v % 1024) }
  | .msip h => s.setClint h { s.clint h with msip := v % 2 == 1 }
  | .ssip h => s.setSsip h (v % 2 == 1) false
  | .mtimecmp h hi => s.setClint h { s.clint h with mtimecmp := setHalf (s.clint h).mtimecmp hi v }
  | .stimecmp h hi => s.setClint h { s.clint h with stimecmp := setHalf (s.clint h).stimecmp hi v }
  | .reserved => s

/-- A word read at an offset of the window by a privilege mode; a denied read gives 0 (93_implementation_defined:U31). -/
def State.devRead (s : State) (p : Priv) (off : Nat) : Nat × State :=
  if devAllowed p s.plic.per (devReg off) then s.devReadReg (devReg off) else (0, s)

/-- A word write at an offset of the window by a privilege mode; a denied write is ignored
(93_implementation_defined:U31). -/
def State.devWrite (s : State) (p : Priv) (off v : Nat) : State :=
  if devAllowed p s.plic.per (devReg off) then s.devWriteReg (devReg off) v else s

/-! ### Pending interrupts -/

/-- The machine-mode and the supervisor-mode target of a core. -/
def HartId.targetM : HartId → Target
  | .core0 => .h0m
  | .core1 => .h1m
def HartId.targetS : HartId → Target
  | .core0 => .h0s
  | .core1 => .h1s

/-- `mip` bit `c` of a hart: its source asserts its request (60_exceptions:R806, R810, 11_csr_standard:R84). -/
def State.pendingOf (s : State) (h : Hart) (c : Nat) : Bool :=
  let clintee := bit h.th.mxstatus mxstatusCLINTEE
  match c with
  | 1 => h.m.ssipLatch || ((s.clint h.id).ssip && clintee)
  | 3 => (s.clint h.id).msip
  | 5 => clintee && decide ((s.clint h.id).stimecmp.toNat ≤ s.mtime.toNat)
  | 7 => decide ((s.clint h.id).mtimecmp.toNat ≤ s.mtime.toNat)
  | 9 => s.plic.request h.id.targetS
  | 11 => s.plic.request h.id.targetM
  | 17 => h.th.mcounterof &&& h.th.mcounterinten != 0
  | _ => false

/-- `mip` bit `c` of the running hart. -/
def State.pending (s : State) (c : Nat) : Bool := s.pendingOf s.me c

/-- The interrupt numbers that exist (60_exceptions:R806). -/
def interruptCodes : List Nat := [1, 3, 5, 7, 9, 11, 17]

/-- A register with the bits of a predicate over the interrupt numbers. -/
def wordOfCodes (p : Nat → Bool) : List Nat → Word
  | [] => 0
  | c :: rest => setBit (wordOfCodes p rest) c (p c)

/-- The value of `mip` (11_csr_standard:R84). -/
def State.mip (s : State) : Word := wordOfCodes s.pending interruptCodes

/-- Interrupt `c` is pending and enabled (60_exceptions:R812). -/
def State.candidate (s : State) (c : Nat) : Bool := bit s.me.m.mie c && s.pending c

/-- Some interrupt is pending and enabled: what ends a WFI wait (62_pmu_debug_power:R920, D28). -/
def State.wakeUp (s : State) : Bool := interruptCodes.any s.candidate

/-- Candidate `c` is taken in machine mode (60_exceptions:R812). -/
def State.takenInM (s : State) (c : Nat) : Bool :=
  s.candidate c && !bit s.me.m.mideleg c && (s.me.priv != .machine || bit s.me.m.mstatus mstatusMIE)

/-- Candidate `c` is taken in supervisor mode (60_exceptions:R812). -/
def State.takenInS (s : State) (c : Nat) : Bool :=
  s.candidate c && bit s.me.m.mideleg c &&
    (s.me.priv == .user || (s.me.priv == .supervisor && bit s.me.m.mstatus mstatusSIE))

/-- The interrupt to take before the next instruction, by the order of 60_exceptions:R807. -/
def State.interrupt? (s : State) : Option Nat :=
  ([11, 3, 7, 9, 1, 5, 17].find? s.takenInM).or ([9, 1, 5, 17].find? s.takenInS)

end Sys2Proof.Machine
end

