-- ==== Sys2Proof/Machine/Access.lean ====
section
/-! DEFINITION. Data accesses and instruction fetch: the whole path of 20_memory:R185, R189, R190. -/

namespace Sys2Proof.Machine

/-- One indivisible part of an access (20_memory:R190, R192). -/
structure Part where
  place : Place
  size  : Nat
  deriving DecidableEq, Repr

/-- `mxstatus.MM`: misaligned accesses are handled by hardware (20_memory:R190). -/
def Hart.misalignedOk (h : Hart) : Bool := bit h.th.mxstatus mxstatusMM

/-- The parts of a misaligned access that starts at `start`: byte by byte, each on its own; device memory does not allow it,
but the device window answers any access (20_memory:R190, 93_implementation_defined:U16, 61_clint_plic:R851). That an access
is misaligned comes before what the PMP denies (60_exceptions:R788). -/
def State.planBytes (s : State) (k : Access) (start : Word) (va : Word) : Nat → Res (List Part)
  | 0 => .ok [] s
  | n + 1 =>
    (s.translate k va).andThen fun pl s =>
      if strongOrder pl.attr && attrLegal pl.attr && !s.soc.inWindow pl.pa then .trap k.misaligned start s
      else (s.checkPlace k va pl).andThen fun pl s =>
        (s.planBytes k start (va + 1) n).andThen fun ps s => .ok (⟨pl, 1⟩ :: ps) s

/-- Steps 1 to 3 of an access of `n` bytes at `va` and the answer of the bus: where its parts go (20_memory:R185, R190, R191);
the first part that fails decides the exception (60_exceptions:R788). -/
def State.plan (s : State) (k : Access) (atomic : Bool) (va : Word) (n : Nat) : Res (List Part) :=
  if va.toNat % n = 0 then (s.resolve k va).andThen fun pl s => .ok [⟨pl, n⟩] s
  else if atomic || !s.me.misalignedOk then .trap k.misaligned va s
  else s.planBytes k va va n

/-- Read one part: from the caches and memory in one indivisible access, or from a device register by an aligned word; any other
read of the window gives a free value (20_memory:R185, R192, 61_clint_plic:R851). -/
def State.readPart (s : State) (k : Access) (p : Part) : Nat × State :=
  if s.soc.inWindow p.place.pa then
    if k = .load ∧ p.size = 4 then s.devRead p.place.priv (windowOffset p.place.pa)
    else ((Config.freeWord s.draws).toNat % 2 ^ (8 * p.size), s.drawn)
  else (s.number p.place.attr p.place.pa.toNat p.size, s.touch p.place.attr p.place.pa.toNat)

/-- Read the parts of an access, the lowest first, into one little-endian number (20_memory:R181). -/
def State.readParts (s : State) (k : Access) : List Part → Nat × State
  | [] => (0, s)
  | p :: rest =>
    let (v, s) := s.readPart k p
    let (w, s) := s.readParts k rest
    (v + 2 ^ (8 * p.size) * w, s)

/-- Write one part: to the caches and memory, or to a device register by a plain aligned word; a bus error is ignored, and so is any other
write of the window (20_memory:R185, R196, 61_clint_plic:R851). Wherever it goes, the other core's monitors learn of it (R215,
R217). -/
def State.writePart (s : State) (plain : Bool) (p : Part) (v : Nat) : State :=
  let s := s.announce p.place.pa.toNat
  if s.soc.busError p.place.pa then s
  else if s.soc.inWindow p.place.pa then
    if plain && p.size == 4 then s.devWrite p.place.priv (windowOffset p.place.pa) (v % 2 ^ 32) else s
  else
    (s.notePte p.place.attr p.place.pa.toNat).storeData p.place.attr p.place.pa.toNat (bytesLe v p.size)

/-- Write the parts of an access, the lowest first (20_memory:R181). -/
def State.writeParts (s : State) (plain : Bool) : List Part → Nat → State
  | [], _ => s
  | p :: rest, v => (s.writePart plain p v).writeParts plain rest (v / 2 ^ (8 * p.size))

/-- `MemRead` of a load (20_memory:R185). -/
def State.memRead (s : State) (va : Word) (n : Nat) : Res Nat :=
  (s.plan .load false va n).andThen fun ps s => .ok (s.readParts .load ps).1 (s.readParts .load ps).2

/-- `MemWrite` of a store (20_memory:R185). -/
def State.memWrite (s : State) (va : Word) (n : Nat) (v : Nat) : Res Unit :=
  (s.plan .store false va n).andThen fun ps s => .ok () (s.writeParts true ps v)

/-- Two reads of `n` bytes, at `va` and just after (20_memory:R182, 47_thead_mem:R621). DESIGN CHOICE (log 32): all checks of
both halves, bus errors among them, come before either is read; 47_thead_mem:R621(e) says so of writes only. The lower half
that fails decides the exception (60_exceptions:R788). -/
def State.memReadPair (s : State) (va : Word) (n : Nat) : Res (Nat × Nat) :=
  (s.plan .load false va n).andThen fun ps s =>
    (s.plan .load false (va + BitVec.ofNat 64 n) n).andThen fun qs s =>
      let (v, s) := s.readParts .load ps
      let (w, s) := s.readParts .load qs
      .ok (v, w) s

/-- Two writes of `n` bytes, at `va` and just after, all checks before any write (20_memory:R182, 47_thead_mem:R621). -/
def State.memWritePair (s : State) (va : Word) (n : Nat) (v w : Nat) : Res Unit :=
  (s.plan .store false va n).andThen fun ps s =>
    (s.plan .store false (va + BitVec.ofNat 64 n) n).andThen fun qs s =>
      .ok () ((s.writeParts true ps v).writeParts true qs w)

/-! ### Atomic accesses -/

/-- A non-cacheable place of a SoC without an exclusive monitor (20_memory:R218). -/
def State.unmonitored (s : State) (p : Part) : Bool :=
  !cacheable p.place.attr && !s.soc.exclusiveMonitor && !s.soc.inWindow p.place.pa

/-- A read-modify-write of `n` bytes: the old value, and memory with `f` of it (42_rv64a:R434, 20_memory:R218). -/
def State.memAmo (s : State) (va : Word) (n : Nat) (f : Nat → Nat) : Res Nat :=
  (s.plan .amo true va n).andThen fun ps s =>
    if ps.any s.unmonitored then .fault .unpredictableAtomic
    else
      let (v, s) := s.readParts .amo ps
      .ok v (s.writeParts false ps (f v))

/-- The read of LR: the value, and the monitors set (20_memory:R213, R217, R218). -/
def State.memLr (s : State) (va : Word) (n : Nat) : Res Nat :=
  (s.plan .lr true va n).andThen fun ps s =>
    if ps.any s.unmonitored then .trap 7 va s
    else
      let (v, s) := s.readParts .lr ps
      match ps with
      | p :: _ =>
        .ok v { s with me := { s.me with lmon := some ⟨p.place.pa, n⟩,
                                         gmon := if cacheable p.place.attr then s.me.gmon else some ⟨p.place.pa, n⟩ } }
      | [] => .ok v s

/-- The monitors let SC to this place succeed (20_memory:R214, R217, R218). -/
def State.scPasses (s : State) (p : Part) : Bool :=
  s.me.dcacheOn && s.me.lmon == some ⟨p.place.pa, p.size⟩ &&
    (cacheable p.place.attr || (s.soc.exclusiveMonitor && s.me.gmon == some ⟨p.place.pa, p.size⟩))

/-- The write of SC: whether it happened; the local monitor, and for non-cacheable memory the global one, go back to IDLE
(20_memory:R214, R217). -/
def State.memSc (s : State) (va : Word) (n : Nat) (v : Nat) : Res Bool :=
  (s.plan .store true va n).andThen fun ps s =>
    match ps with
    | p :: _ =>
      let ok := s.scPasses p
      let s := if ok then s.writePart false p v else s
      .ok ok { s with me := { s.me with lmon := none, gmon := if cacheable p.place.attr then s.me.gmon else none } }
    | [] => .ok false s

/-! ### Instruction fetch -/

/-- Fetch the 16-bit parcel at an address (20_memory:R189, R196; the device window is no code, 93_implementation_defined:U30). -/
def State.fetchParcel (s : State) (va : Word) : Res (BitVec 16) :=
  (s.resolve .fetch va).andThen fun pl s =>
    if s.soc.inWindow pl.pa then .trap 1 va s
    else .ok (s.fetchedParcel pl.attr va pl.pa.toNat) (s.afterFetch pl.attr va pl.pa.toNat)

/-- Fetch the instruction at the program counter (30_encoding:R280, R281). -/
def State.fetch (s : State) : Res Code :=
  (s.fetchParcel s.me.pc).andThen fun p0 s =>
    if isFull p0 then (s.fetchParcel (s.me.pc + 2)).andThen fun p1 s => .ok (.full (joinParcels p0 p1)) s
    else .ok (.half p0) s

/-! ### Cache operations by address -/

/-- The line a cache operation by virtual address acts on and whether it is shareable; `none` where the address is denied by
the PMP or answers with a bus error, and the operation does nothing (48_thead_cache_sync:R692,
93_implementation_defined:U28). -/
def State.cacheLine (s : State) (va : Word) : Res (Option (Nat × Bool)) :=
  match s.translate .load va with
  | .ok pl s =>
    if s.me.pmp.allows pl.priv Access.load.pmpNeed pl.pa && !s.soc.busError pl.pa then .ok (some (pl.pa.toNat, shareable pl.attr)) s
    else .ok none s
  | .trap c i s => if c = 13 then .trap c i s else .ok none s
  | .fault r => .fault r
  | .refused r => .refused r

end Sys2Proof.Machine
end

