-- ==== Sys2Proof/Machine/Csr.lean ====
section
/-! DEFINITION. The control and status registers: their addresses, who may access them, what a read returns and what a
write does (10_state:R32, R33, 11_csr_standard, 12_csr_extended). -/

namespace Sys2Proof.Machine

/-- The control and status registers (10_state:R33). Counter and selector `k` is number `k + 3`. -/
inductive Csr where
  | fflags | frm | fcsr | fxcr
  | sstatus | sie | stvec | scounteren | sscratch | sepc | scause | stval | sip | satp
  | mstatus | misa | medeleg | mideleg | mie | mtvec | mcounteren | mcountinhibit
  | mscratch | mepc | mcause | mtval | mip | pmpcfg0
  | pmpaddr (i : Fin 8)
  | mhpmevent (k : Fin 29)
  | sxstatus | shcr | scounterinten | scounterof | scycle | sinstret
  | shpmcounter (k : Fin 29)
  | mxstatus | mhcr | mcor | mccr2 | mhint | mrvbr | mcounterwen | mcounterinten | mcounterof
  | mcins | mcindex | mcdata0 | mcdata1 | msmpr
  | smir | smel | smeh | smcir
  | mcycle | minstret
  | mhpmcounter (k : Fin 29)
  | cycle | time | instret
  | hpmcounter (k : Fin 29)
  | mvendorid | marchid | mimpid | mhartid | mcpuid | mapbaddr
  deriving DecidableEq, Repr

/-- One register of a run of `n` registers, `off` from its first. -/
def csrRun (n off : Nat) (c : Fin n → Csr) : Option Csr := if h : off < n then some (c ⟨off, h⟩) else none

/-- The register at an address; every other address is unimplemented (10_state:R33, 93_implementation_defined:U38). -/
def csrOf (a : Nat) : Option Csr :=
  if 0x323 ≤ a ∧ a ≤ 0x33f then csrRun 29 (a - 0x323) .mhpmevent
  else if 0x3b0 ≤ a ∧ a ≤ 0x3b7 then csrRun 8 (a - 0x3b0) .pmpaddr
  else if 0x5e3 ≤ a ∧ a ≤ 0x5ff then csrRun 29 (a - 0x5e3) .shpmcounter
  else if 0xb03 ≤ a ∧ a ≤ 0xb1f then csrRun 29 (a - 0xb03) .mhpmcounter
  else if 0xc03 ≤ a ∧ a ≤ 0xc1f then csrRun 29 (a - 0xc03) .hpmcounter
  else
    match a with
    | 0x001 => some .fflags
    | 0x002 => some .frm
    | 0x003 => some .fcsr
    | 0x100 => some .sstatus
    | 0x104 => some .sie
    | 0x105 => some .stvec
    | 0x106 => some .scounteren
    | 0x140 => some .sscratch
    | 0x141 => some .sepc
    | 0x142 => some .scause
    | 0x143 => some .stval
    | 0x144 => some .sip
    | 0x180 => some .satp
    | 0x300 => some .mstatus
    | 0x301 => some .misa
    | 0x302 => some .medeleg
    | 0x303 => some .mideleg
    | 0x304 => some .mie
    | 0x305 => some .mtvec
    | 0x306 => some .mcounteren
    | 0x320 => some .mcountinhibit
    | 0x340 => some .mscratch
    | 0x341 => some .mepc
    | 0x342 => some .mcause
    | 0x343 => some .mtval
    | 0x344 => some .mip
    | 0x3a0 => some .pmpcfg0
    | 0x5c0 => some .sxstatus
    | 0x5c1 => some .shcr
    | 0x5c4 => some .scounterinten
    | 0x5c5 => some .scounterof
    | 0x5e0 => some .scycle
    | 0x5e2 => some .sinstret
    | 0x7c0 => some .mxstatus
    | 0x7c1 => some .mhcr
    | 0x7c2 => some .mcor
    | 0x7c3 => some .mccr2
    | 0x7c5 => some .mhint
    | 0x7c7 => some .mrvbr
    | 0x7c9 => some .mcounterwen
    | 0x7ca => some .mcounterinten
    | 0x7cb => some .mcounterof
    | 0x7d2 => some .mcins
    | 0x7d3 => some .mcindex
    | 0x7d4 => some .mcdata0
    | 0x7d5 => some .mcdata1
    | 0x7f3 => some .msmpr
    | 0x800 => some .fxcr
    | 0x9c0 => some .smir
    | 0x9c1 => some .smel
    | 0x9c2 => some .smeh
    | 0x9c3 => some .smcir
    | 0xb00 => some .mcycle
    | 0xb02 => some .minstret
    | 0xc00 => some .cycle
    | 0xc01 => some .time
    | 0xc02 => some .instret
    | 0xf11 => some .mvendorid
    | 0xf12 => some .marchid
    | 0xf13 => some .mimpid
    | 0xf14 => some .mhartid
    | 0xfc0 => some .mcpuid
    | 0xfc1 => some .mapbaddr
    | _ => none

/-! ### Who may access a register -/

/-- The lowest mode that may access a register (10_state:R33). -/
def Csr.level : Csr → Priv
  | .fflags | .frm | .fcsr | .fxcr | .cycle | .time | .instret | .hpmcounter _ => .user
  | .sstatus | .sie | .stvec | .scounteren | .sscratch | .sepc | .scause | .stval | .sip | .satp | .sxstatus | .shcr
  | .scounterinten | .scounterof | .scycle | .sinstret | .shpmcounter _ | .smir | .smel | .smeh | .smcir => .supervisor
  | .mstatus | .misa | .medeleg | .mideleg | .mie | .mtvec | .mcounteren | .mcountinhibit | .mscratch | .mepc | .mcause
  | .mtval | .mip | .pmpcfg0 | .pmpaddr _ | .mhpmevent _ | .mxstatus | .mhcr | .mcor | .mccr2 | .mhint | .mrvbr
  | .mcounterwen | .mcounterinten | .mcounterof | .mcins | .mcindex | .mcdata0 | .mcdata1 | .msmpr | .mcycle | .minstret
  | .mhpmcounter _ | .mvendorid | .marchid | .mimpid | .mhartid | .mcpuid | .mapbaddr => .machine

/-- Registers no instruction may write (10_state:R32, R33, 12_csr_extended:R161). -/
def Csr.readOnly : Csr → Bool
  | .shcr | .mrvbr | .cycle | .time | .instret | .hpmcounter _ | .mvendorid | .marchid | .mimpid | .mhartid | .mcpuid
  | .mapbaddr => true
  | _ => false

/-- The bit of the counter-enable registers that governs a user counter (11_csr_standard:R78, R123, R124). -/
def Csr.userCounter : Csr → Option Nat
  | .cycle => some 0
  | .time => some 1
  | .instret => some 2
  | .hpmcounter k => some (k.val + 3)
  | _ => none

/-- The bit of `mcounterwen` that governs a supervisor counter (12_csr_extended:R144, R164). -/
def Csr.supervisorCounter : Csr → Option Nat
  | .scycle => some 0
  | .sinstret => some 2
  | .shpmcounter k => some (k.val + 3)
  | _ => none

/-- The floating-point registers (11_csr_standard:R66). -/
def Csr.isFp : Csr → Bool
  | .fflags | .frm | .fcsr | .fxcr => true
  | _ => false

/-- The counter-enable registers let a mode read counter `n` (11_csr_standard:R123). -/
def Hart.counterEnabled (h : Hart) (n : Nat) : Bool :=
  match h.priv with
  | .machine => true
  | .supervisor => bit h.m.mcounteren n
  | .user => bit h.m.mcounteren n && bit h.sup.scounteren n

/-- The access is legal (10_state:R32 and the condition of each register). -/
def Hart.csrAllowed (h : Hart) (c : Csr) (write : Bool) : Bool :=
  decide (c.level.code ≤ h.priv.code) && !(write && c.readOnly) &&
    (!c.isFp || h.fpOn) &&
    (match c.userCounter with
     | some n => h.counterEnabled n
     | none => true) &&
    (match c.supervisorCounter with
     | some n => !write || h.priv == .machine || bit h.th.mcounterwen n
     | none => true) &&
    !(c == .satp && h.priv == .supervisor && bit h.m.mstatus mstatusTVM)

/-! ### Masks of writable bits -/

/-- A mask with the listed bits set. -/
def bitsMask : List Nat → Word
  | [] => 0
  | n :: rest => (1#64 <<< n) ||| bitsMask rest

/-- `mstatus`, less MPP (11_csr_standard:R64). -/
def mstatusMask : Word := bitsMask [1, 3, 5, 7, 8, 13, 14, 17, 18, 19, 20, 21, 22]
/-- `sstatus` (11_csr_standard:R100). -/
def sstatusMask : Word := bitsMask [1, 5, 8, 13, 14, 18, 19]
/-- The fields `sstatus` shows, UXL among them (11_csr_standard:R100). -/
def sstatusView : Word := sstatusMask ||| maskOf 32 2
/-- `mie` (11_csr_standard:R76). -/
def mieMask : Word := bitsMask [1, 3, 5, 7, 9, 11, 17]
/-- `mideleg`, and the bits `sie` and `sip` can show (11_csr_standard:R75, R101). -/
def midelegMask : Word := bitsMask [1, 5, 9, 17]
/-- `mcountinhibit`, `mcounterwen`, `mcounterinten`, `mcounterof` (11_csr_standard:R79, 12_csr_extended:R144 to R146). -/
def counterMask : Word := 0xfffffffd
/-- `mxstatus` (12_csr_extended:R130). -/
def mxstatusMask : Word := bitsMask [10, 11, 13, 14, 15, 16, 17, 18, 19, 21, 22]
/-- `mhcr` (12_csr_extended:R133). -/
def mhcrMask : Word := bitsMask [0, 1, 2, 4, 5, 6, 7, 12]
/-- `mccr2` (12_csr_extended:R137). -/
def mccr2Mask : Word := bitsMask [0, 16, 17, 18, 19, 22, 23, 24, 25, 29, 30, 31]
/-- `mhint` (12_csr_extended:R139). -/
def mhintMask : Word := bitsMask [2, 3, 4, 8, 9, 10, 11, 13, 14, 15, 16, 17, 18, 19, 21, 22, 23]
/-- `mcindex` (12_csr_extended:R148). -/
def mcindexMask : Word := 0xf1ffffff
/-- `smir` (12_csr_extended:R166). -/
def smirMask : Word := bitsMask [30, 31] ||| maskOf 0 10
/-- `smeh` (12_csr_extended:R167). -/
def smehMask : Word := maskOf 0 46
/-- `smel` (12_csr_extended:R168). -/
def smelMask : Word := maskOf 0 38 ||| maskOf 59 5

/-! ### Reading -/

/-- `mstatus` with SD (11_csr_standard:R64). -/
def Hart.mstatusRead (h : Hart) : Word := setBit h.m.mstatus 63 (field h.m.mstatus mstatusFS 2 == 3)

/-- `pmpcfg0` (11_csr_standard:R85). -/
def Pmp.cfgRead (p : Pmp) : Word := BitVec.ofNat 64 (ofBytesLe p.cfg.toList)

/-- `mxstatus` with PM (12_csr_extended:R130). -/
def Hart.mxstatusRead (h : Hart) : Word := setField h.th.mxstatus 30 2 h.priv.code

/-- `fxcr` (12_csr_extended:R170). -/
def FpCsr.fxcrRead (f : FpCsr) : Word :=
  BitVec.ofNat 64 (f.fflags.toNat + f.fe.toNat * 2 ^ 5 + f.dqNaN.toNat * 2 ^ 23 + f.frm.toNat * 2 ^ 24)

/-- The hart number (11_csr_standard:R63). -/
def Soc.hartid (c : Soc) : HartId → Word
  | .core0 => c.hartid0
  | .core1 => c.hartid1

/-- The base of the device window (12_csr_extended:R151). -/
def Soc.apbBase (c : Soc) : Word := BitVec.ofNat 64 (c.apbHi.toNat * 2 ^ 27)

/-- The value a read of a register returns. -/
def State.csrRead (s : State) (c : Csr) : Word :=
  let h := s.me
  match c with
  | .fflags => h.fp.fflags.zeroExtend 64
  | .frm => h.fp.frm.zeroExtend 64
  | .fcsr => BitVec.ofNat 64 (h.fp.fflags.toNat + h.fp.frm.toNat * 2 ^ 5)
  | .fxcr => h.fp.fxcrRead
  | .sstatus => setBit (h.m.mstatus &&& sstatusView) 63 (field h.m.mstatus mstatusFS 2 == 3)
  | .sie => h.m.mie &&& h.m.mideleg &&& midelegMask
  | .stvec => h.sup.stvec
  | .scounteren => h.sup.scounteren
  | .sscratch => h.sup.sscratch
  | .sepc => h.sup.sepc
  | .scause => h.sup.scause
  | .stval => h.sup.stval
  | .sip => s.mip &&& h.m.mideleg &&& midelegMask
  | .satp => h.sup.satp
  | .mstatus => h.mstatusRead
  | .misa => 0x800000000094112d
  | .medeleg => h.m.medeleg
  | .mideleg => h.m.mideleg
  | .mie => h.m.mie
  | .mtvec => h.m.mtvec
  | .mcounteren => h.m.mcounteren
  | .mcountinhibit => h.m.mcountinhibit
  | .mscratch => h.m.mscratch
  | .mepc => h.m.mepc
  | .mcause => h.m.mcause
  | .mtval => h.m.mtval
  | .mip => s.mip
  | .pmpcfg0 => h.pmp.cfgRead
  | .pmpaddr i => (h.pmp.addr[i]).zeroExtend 64
  | .mhpmevent k => h.pmu.event[k]
  | .sxstatus => h.mxstatusRead
  | .shcr => h.th.mhcr
  | .scounterinten => h.th.mcounterinten &&& h.th.mcounterwen
  | .scounterof => h.th.mcounterof &&& h.th.mcounterwen
  | .scycle => h.pmu.mcycle
  | .sinstret => h.pmu.minstret
  | .shpmcounter k => h.pmu.hpm[k]
  | .mxstatus => h.mxstatusRead
  | .mhcr => h.th.mhcr
  | .mcor => h.th.mcor
  | .mccr2 => s.mccr2
  | .mhint => h.th.mhint
  | .mrvbr => s.soc.mrvbr h.id
  | .mcounterwen => h.th.mcounterwen
  | .mcounterinten => h.th.mcounterinten
  | .mcounterof => h.th.mcounterof
  | .mcins => 0
  | .mcindex => h.th.mcindex
  | .mcdata0 => h.th.mcdata0
  | .mcdata1 => h.th.mcdata1
  | .msmpr => h.th.msmpr
  | .smir => h.smmu.smir
  | .smel => h.smmu.smel
  | .smeh => h.smmu.smeh
  | .smcir => h.smmu.smcir
  | .mcycle => h.pmu.mcycle
  | .minstret => h.pmu.minstret
  | .mhpmcounter k => h.pmu.hpm[k]
  | .cycle => h.pmu.mcycle
  | .time => s.mtime
  | .instret => h.pmu.minstret
  | .hpmcounter k => h.pmu.hpm[k]
  | .mvendorid => 0
  | .marchid => s.soc.marchid
  | .mimpid => 0
  | .mhartid => s.soc.hartid h.id
  | .mcpuid => s.soc.mcpuid
  | .mapbaddr => s.soc.apbBase

/-! ### Writing -/

/-- `mstatus.FS` becomes Dirty (11_csr_standard:R66). -/
def Hart.dirtyFp (h : Hart) : Hart := { h with m := { h.m with mstatus := setField h.m.mstatus mstatusFS 2 3 } }

/-- The new `mstatus` of a write; the reserved MPP value 2 keeps the old field (11_csr_standard:R64, log 10). -/
def mstatusWritten (old new : Word) : Word :=
  let w := blend mstatusMask old new
  if field new mstatusMPP 2 = 2 then w else blend (maskOf mstatusMPP 2) w new

/-- The new configuration byte of a PMP entry: a locked entry keeps its own, A = 2 keeps the old A
(11_csr_standard:R85, log 12). -/
def pmpCfgWritten (old new : Byte) : Byte :=
  if old.getLsbD 7 then old
  else if new.toNat / 8 % 4 = 2 then (new &&& 0x87) ||| (old &&& 0x18)
  else new &&& 0x9f

/-- The eight configuration bytes after a write of `pmpcfg0` (11_csr_standard:R85). -/
def Pmp.cfgWrite (p : Pmp) (v : Word) : Pmp :=
  { p with cfg := Vector.ofFn fun i : Fin 8 => pmpCfgWritten (p.cfg[i]) (BitVec.ofNat 8 (field v (8 * i.val) 8)) }

/-- The address register of entry `i` is locked (11_csr_standard:R85). -/
def Pmp.addrLocked (p : Pmp) (i : Fin 8) : Bool :=
  (p.cfg[i]).getLsbD 7 ||
    (if h : i.val + 1 < 8 then (p.cfg[i.val + 1]'h).getLsbD 7 && (p.cfg[i.val + 1]'h).toNat / 8 % 4 == 1 else false)

/-- The PMP after a write of an address register (11_csr_standard:R86). -/
def Pmp.addrWrite (p : Pmp) (i : Fin 8) (v : Word) : Pmp :=
  if p.addrLocked i then p else { p with addr := p.addr.set i.val (v.setWidth 38) i.isLt }

/-- The new `satp`; a write with another MODE than 0 or 8 is ignored (11_csr_standard:R109, log 15). -/
def satpWritten (old new : Word) : Word :=
  if field new 60 4 = 0 ∨ field new 60 4 = 8 then new else old

/-- The effect of a write of `mcor`: the operations complete at once (12_csr_extended:R135, R136, log 40). -/
def State.mcorWrite (s : State) (v : Word) : State :=
  let inv := bit v 4
  let clr := bit v 5
  let s :=
    if bit v 1 then
      if clr && inv then s.flushMine everyLine else if clr then s.cleanMine everyLine
      else if inv then s.invalMine everyLine else s
    else s
  let s := if bit v 0 && inv then s.invalIcache (fun _ => true) false else s
  { s with me := { s.me with th := { s.me.th with mcor := v &&& 3 } } }

/-- A read request to the cache RAMs: the spec does not say which line and which of its bytes an INDEX names, so the data are free
values (12_csr_extended:R147, R148, 93_implementation_defined:U10, log 17). -/
def State.mcinsWrite (s : State) (v : Word) : State :=
  if bit v 0 then
    { s with me := { s.me with th := { s.me.th with mcdata0 := Config.freeWord s.draws,
                                                    mcdata1 := Config.freeWord (s.draws + 1) } },
             draws := s.draws + 2 }
  else s

/-! ### The TLB operations of smcir (12_csr_extended:R165, 21_mmu_pmp:R253 to R257) -/

/-- The page number, page size and ASID fields of `smeh` (12_csr_extended:R167). -/
def smehVpn (w : Word) : BitVec 27 := BitVec.ofNat 27 (field w 19 27)
def smehSize (w : Word) : BitVec 3 := BitVec.ofNat 3 (field w 16 3)
def smehAsid (w : Word) : BitVec 16 := BitVec.ofNat 16 (field w 0 16)

/-- The `smeh` and `smel` values that describe an entry (12_csr_extended:R167, R168). -/
def TlbEntry.smeh (e : TlbEntry) : Word :=
  BitVec.ofNat 64 (e.vpn.toNat * 2 ^ 19 + e.pageSize.toNat * 2 ^ 16 + e.asid.toNat)
def TlbEntry.smel (e : TlbEntry) : Word :=
  BitVec.ofNat 64 (e.attr.toNat * 2 ^ 59 + e.ppn.toNat * 2 ^ 10 + e.flags.toNat)

/-- The entry that `smeh` and `smel` describe, at a place (21_mmu_pmp:R255). -/
def TlbCsr.entry (r : TlbCsr) (set : BitVec 8) (way : BitVec 2) : TlbEntry where
  set := set
  way := way
  vpn := smehVpn r.smeh
  asid := smehAsid r.smeh
  pageSize := smehSize r.smeh
  ppn := BitVec.ofNat 28 (field r.smel 10 28)
  flags := BitVec.ofNat 10 (field r.smel 0 10)
  attr := BitVec.ofNat 5 (field r.smel 59 5)

/-- The set and the way of `smir.Index` (21_mmu_pmp:R255). -/
def smirSet (w : Word) : BitVec 8 := BitVec.ofNat 8 (field w 0 8)
def smirWay (w : Word) : BitVec 2 := BitVec.ofNat 2 (field w 8 2)

/-- TLBP: probe the jTLB with `smeh` (21_mmu_pmp:R253, log 19). DESIGN CHOICE (log 19): a global entry matches whatever ASID `smeh`
has, as it does in a lookup (R247); R253 does not speak of global entries. -/
def Hart.tlbProbe (h : Hart) : Hart :=
  let found := h.tlb.joint.filter fun e => e.hits (smehVpn h.smmu.smeh) (smehAsid h.smmu.smeh) && e.pageSize == smehSize h.smmu.smeh
  let r :=
    match found with
    | [] => setBit (setBit h.smmu.smir 31 true) 30 false
    | [e] => setField (setBit (setBit h.smmu.smir 31 false) 30 false) 0 10 (e.way.toNat * 256 + e.set.toNat)
    | _ => setBit (setBit h.smmu.smir 31 false) 30 true
  { h with smmu := { h.smmu with smir := r } }

/-- TLBR: read the entry at `smir.Index`; a place that holds no entry reads as not valid, its other fields free
(21_mmu_pmp:R254, log 19). -/
def State.tlbRead (s : State) : State :=
  let r := s.me.smmu
  match s.me.tlb.joint.find? fun e => e.sameSlot (smirSet r.smir) (smirWay r.smir) with
  | some e => { s with me := { s.me with smmu := { r with smeh := e.smeh, smel := e.smel } } }
  | none =>
    { s with me := { s.me with smmu := { r with smeh := Config.freeWord s.draws &&& smehMask,
                                                smel := setBit (Config.freeWord (s.draws + 1) &&& smelMask) 0 false } },
             draws := s.draws + 2 }

/-- The hart with an entry put in its place of the jTLB; copies in the uTLBs stay (21_mmu_pmp:R245, R255). -/
def Hart.tlbPut (h : Hart) (e : TlbEntry) : Hart := { h with tlb := { h.tlb with joint := tlbInsert e h.tlb.joint } }

/-- TLBWI: write the entry at `smir.Index` (21_mmu_pmp:R255). -/
def Hart.tlbWriteIndexed (h : Hart) : Hart := h.tlbPut (h.smmu.entry (smirSet h.smmu.smir) (smirWay h.smmu.smir))

/-- TLBWR: write an entry of the set of `smeh.VPN`, in a way the hardware chooses (21_mmu_pmp:R256). -/
def State.tlbWriteRandom (s : State) : State :=
  let r := s.me.smmu
  let set := tlbSet (smehVpn r.smeh) ((pageLevel (smehSize r.smeh)).getD 0)
  let e := r.entry set (BitVec.ofNat 2 (Config.freeChoice s.draws))
  { s.drawn with me := s.me.tlbPut e }

/-- TLBIASID, TLBIALL, TLBII: on the jTLB and the uTLBs (21_mmu_pmp:R257). TLBIASID spares no global entry: the rule says all
entries matching the ASID. TLBII takes the copies of the entry at `smir.Index` out of the uTLBs too (log 43). -/
def Hart.tlbInvalAsid (h : Hart) (asid : Nat) : Hart := h.dropTlb fun e => e.asid.toNat == asid
def Hart.tlbInvalAll (h : Hart) : Hart := h.dropTlb fun _ => true
def Hart.tlbInvalIndexed (h : Hart) : Hart :=
  let es := h.tlb.joint.filter fun e => e.sameSlot (smirSet h.smmu.smir) (smirWay h.smmu.smir)
  h.dropTlb es.contains

/-- The running hart changed where a condition holds. -/
def State.onMe (s : State) (b : Bool) (f : Hart → Hart) : State := if b then { s with me := f s.me } else s

/-- The effect of a write of `smcir`: the operations in the order of 93_implementation_defined:U12. -/
def State.smcirWrite (s : State) (v : Word) : State :=
  let s := s.onMe true fun h => { h with smmu := { h.smmu with smcir := v &&& 0xffff } }
  let s := s.onMe (bit v 31) Hart.tlbProbe
  let s := if bit v 30 then s.tlbRead else s
  let s := s.onMe (bit v 29) Hart.tlbWriteIndexed
  let s := if bit v 28 then s.tlbWriteRandom else s
  let s := s.onMe (bit v 27) fun h => h.tlbInvalAsid (field v 0 16)
  let s := s.onMe (bit v 26) Hart.tlbInvalAll
  s.onMe (bit v 25) Hart.tlbInvalIndexed

/-- The running hart with part of it replaced. -/
def State.setM (s : State) (m : MachineCsr) : State := { s with me := { s.me with m := m } }
def State.setSup (s : State) (r : SupervisorCsr) : State := { s with me := { s.me with sup := r } }
def State.setTh (s : State) (r : TheadCsr) : State := { s with me := { s.me with th := r } }
def State.setPmu (s : State) (r : Pmu) : State := { s with me := { s.me with pmu := r } }
def State.setSmmu (s : State) (r : TlbCsr) : State := { s with me := { s.me with smmu := r } }

/-- An event counter initialised by a CSR instruction (11_csr_standard:R91). -/
def Pmu.init (p : Pmu) (k : Fin 29) (v : Word) : Pmu :=
  { p with hpm := p.hpm.set k.val v k.isLt, inited := p.inited.set k.val true k.isLt }

/-- A write of a floating-point register makes the unit dirty (11_csr_standard:R66). -/
def State.setFp (s : State) (r : FpCsr) : State := { s with me := { s.me with fp := r }.dirtyFp }

/-- What a legal write of a register does. A read-only register is never written (10_state:R32). -/
def State.csrWrite (s : State) (c : Csr) (v : Word) : State :=
  let m := s.me.m
  let r := s.me.sup
  let t := s.me.th
  let p := s.me.pmu
  let u := s.me.smmu
  let f := s.me.fp
  match c with
  | .fflags => s.setFp { f with fflags := v.setWidth 5 }
  | .frm => s.setFp { f with frm := v.setWidth 3 }
  | .fcsr => s.setFp { f with fflags := v.setWidth 5, frm := BitVec.ofNat 3 (field v 5 3) }
  | .fxcr =>
    s.setFp { fflags := v.setWidth 5, frm := BitVec.ofNat 3 (field v 24 3), fe := bit v 5, dqNaN := bit v 23 }
  | .sstatus => s.setM { m with mstatus := blend sstatusMask m.mstatus v }
  | .sie => s.setM { m with mie := blend (m.mideleg &&& midelegMask) m.mie v }
  | .stvec => s.setSup { r with stvec := v }
  | .scounteren => s.setSup { r with scounteren := v &&& maskOf 0 32 }
  | .sscratch => s.setSup { r with sscratch := v }
  | .sepc => s.setSup { r with sepc := v &&& ~~~1#64 }
  | .scause => s.setSup { r with scause := v }
  | .stval => s.setSup { r with stval := v }
  | .sip => if bit m.mideleg 1 then s.setSsip s.me.id (bit v 1) true else s
  | .satp => s.setSup { r with satp := satpWritten r.satp v }
  | .mstatus => s.setM { m with mstatus := mstatusWritten m.mstatus v }
  | .misa => s
  | .medeleg => s.setM { m with medeleg := v &&& maskOf 0 16 }
  | .mideleg => s.setM { m with mideleg := v &&& midelegMask }
  | .mie => s.setM { m with mie := v &&& mieMask }
  | .mtvec => s.setM { m with mtvec := v }
  | .mcounteren => s.setM { m with mcounteren := v &&& maskOf 0 32 }
  | .mcountinhibit => s.setM { m with mcountinhibit := v &&& counterMask }
  | .mscratch => s.setM { m with mscratch := v }
  | .mepc => s.setM { m with mepc := v &&& ~~~1#64 }
  | .mcause => s.setM { m with mcause := v }
  | .mtval => s.setM { m with mtval := v }
  | .mip => s.setSsip s.me.id (bit v 1) true
  | .pmpcfg0 => { s with me := { s.me with pmp := s.me.pmp.cfgWrite v } }
  | .pmpaddr i => { s with me := { s.me with pmp := s.me.pmp.addrWrite i v } }
  | .mhpmevent k => s.setPmu { p with event := p.event.set k.val v k.isLt }
  | .sxstatus => s.setTh { t with mxstatus := setBit t.mxstatus mxstatusMM (bit v mxstatusMM) }
  | .shcr => s
  | .scounterinten => s.setTh { t with mcounterinten := blend t.mcounterwen t.mcounterinten v }
  | .scounterof => s.setTh { t with mcounterof := blend t.mcounterwen t.mcounterof v }
  | .scycle => s.setPmu { p with mcycle := v }
  | .sinstret => s.setPmu { p with minstret := v }
  | .shpmcounter k => s.setPmu (p.init k v)
  | .mxstatus => s.setTh { t with mxstatus := v &&& mxstatusMask }
  | .mhcr => s.setTh { t with mhcr := blend mhcrMask t.mhcr v }
  | .mcor => s.mcorWrite v
  | .mccr2 => { s with mccr2 := blend mccr2Mask s.mccr2 v }
  | .mhint => s.setTh { t with mhint := v &&& mhintMask }
  | .mrvbr => s
  | .mcounterwen => s.setTh { t with mcounterwen := v &&& counterMask }
  | .mcounterinten => s.setTh { t with mcounterinten := v &&& counterMask }
  | .mcounterof => s.setTh { t with mcounterof := v &&& counterMask }
  | .mcins => s.mcinsWrite v
  | .mcindex => s.setTh { t with mcindex := v &&& mcindexMask }
  | .mcdata0 => s.setTh { t with mcdata0 := v }
  | .mcdata1 => s.setTh { t with mcdata1 := v }
  | .msmpr => s.setTh { t with msmpr := v &&& 1 }
  | .smir => s.setSmmu { u with smir := v &&& smirMask }
  | .smel => s.setSmmu { u with smel := v &&& smelMask }
  | .smeh => s.setSmmu { u with smeh := v &&& smehMask }
  | .smcir => s.smcirWrite v
  | .mcycle => s.setPmu { p with mcycle := v }
  | .minstret => s.setPmu { p with minstret := v }
  | .mhpmcounter k => s.setPmu (p.init k v)
  | .cycle | .time | .instret | .hpmcounter _ => s
  | .mvendorid | .marchid | .mimpid | .mhartid | .mcpuid | .mapbaddr => s

end Sys2Proof.Machine
end

