-- ==== Sys2Proof/Machine/Operands.lean ====
section
/-! DEFINITION. Operand forms and the shapes of instructions: immediates, effective addresses, sign and zero extension of a
loaded value, and one operation for each shape (read the sources, compute, write the destination, go on), over which each
instruction's meaning is one line. -/

namespace Sys2Proof.Machine

/-- What an instruction answers. -/
abbrev Result := Host.Outcome State Fault Refusal

/-! ### Immediates and extensions -/

/-- `sext_64` of a 12-bit immediate (40_rv64i:R333). -/
def imm12Word (i : BitVec 12) : Word := i.signExtend 64

/-- `sext_64(imm20 << 12)` (40_rv64i:R363). -/
def imm20Word (i : BitVec 20) : Word := (i ++ 0#12).signExtend 64

/-- A branch offset: `off[12:1]` with bit 0 clear (40_rv64i:R365). -/
def branchOffset (off : BitVec 12) : Word := (off ++ 0#1).signExtend 64

/-- The offset of JAL: `off[20:1]` with bit 0 clear (40_rv64i:R371). -/
def jalOffset (off : BitVec 20) : Word := (off ++ 0#1).signExtend 64

/-- `sext` of the 6-bit immediate of a compressed instruction (45_rv64c:R543). -/
def imm6Word (i : BitVec 6) : Word := i.signExtend 64

/-- The low 32 bits of a register (40_rv64i:R332). -/
def low32 (w : Word) : BitVec 32 := w.setWidth 32

/-- `sext_64(tmp[31:0])` (40_rv64i:R332). -/
def sext32 (w : BitVec 32) : Word := w.signExtend 64

/-- A loaded value of `n` bytes, sign-extended (40_rv64i:R373). -/
def signedLoad (n v : Nat) : Word := (BitVec.ofNat (8 * n) v).signExtend 64

/-- A loaded value, zero-extended (40_rv64i:R374). -/
def unsignedLoad (v : Nat) : Word := BitVec.ofNat 64 v

/-- A value of `n` bytes as the load named by `signed` writes it. -/
def loadWord (signed : Bool) (n v : Nat) : Word := if signed then signedLoad n v else unsignedLoad v

/-- A single-precision pattern with its NaN box (10_state:R27). -/
def boxed (width v : Nat) : Word := BitVec.ofNat 64 (v % 2 ^ width + (2 ^ 64 - 2 ^ width))

/-! ### Effective addresses -/

/-- `x[rs1] + sext_64(imm12)`, modulo 2^64 (40_rv64i:R333). -/
def State.addrImm (s : State) (rs1 : Reg) (imm : BitVec 12) : Word := s.getX rs1 + imm12Word imm

/-- `x[rs1] + zext(uimm << k)` of the compressed forms (45_rv64c:R553). -/
def State.addrUimm {w : Nat} (s : State) (rs1 : Reg) (uimm : BitVec w) (k : Nat) : Word :=
  s.getX rs1 + (uimm.setWidth 64 <<< k)

/-- The indexed address `x[rs1] + (x[rs2] << imm2)` (47_thead_mem:R621(a)). -/
def State.addrIndexed (s : State) (rs1 rs2 : Reg) (imm2 : BitVec 2) : Word := s.getX rs1 + (s.getX rs2 <<< imm2.toNat)

/-- The indexed address with a 32-bit unsigned index (47_thead_mem:R621(a)). -/
def State.addrIndexedU (s : State) (rs1 rs2 : Reg) (imm2 : BitVec 2) : Word :=
  s.getX rs1 + ((low32 (s.getX rs2)).setWidth 64 <<< imm2.toNat)

/-- The step of a base-update form: `sext_64(imm5) << imm2` (47_thead_mem:R621(b)). -/
def updateStep (imm5 : BitVec 5) (imm2 : BitVec 2) : Word := imm5.signExtend 64 <<< imm2.toNat

/-! ### Shapes: integer computation and control transfer -/

/-- A register is written and the next instruction follows, `len` bytes on (40_rv64i:R331). -/
def State.writeX (s : State) (len : Nat) (rd : Reg) (v : Word) : Result := .next ((s.setX rd v).retire len)

/-- Register and register (40_rv64i:R331). -/
def State.aluReg (s : State) (f : Word → Word → Word) (rd rs1 rs2 : Reg) : Result :=
  s.writeX 4 rd (f (s.getX rs1) (s.getX rs2))

/-- Register and 12-bit immediate (40_rv64i:R336). -/
def State.aluImm (s : State) (f : Word → Word → Word) (rd rs1 : Reg) (imm : BitVec 12) : Result :=
  s.writeX 4 rd (f (s.getX rs1) (imm12Word imm))

/-- A 32-bit operation on the low halves of two values (40_rv64i:R332). -/
def onLow (f : BitVec 32 → BitVec 32 → BitVec 32) : Word → Word → Word := fun a b => sext32 (f (low32 a) (low32 b))

/-- A conditional branch (40_rv64i:R365). -/
def State.branch (s : State) (taken : Word → Word → Bool) (rs1 rs2 : Reg) (off : BitVec 12) : Result :=
  if taken (s.getX rs1) (s.getX rs2) then .next (s.jump (s.me.pc + branchOffset off)) else .next (s.retire 4)

/-- A jump of an instruction of `len` bytes that writes the link register (40_rv64i:R371, R372). -/
def State.link (s : State) (len : Nat) (rd : Reg) (target : Word) : Result :=
  .next ((s.setX rd (s.me.pc + BitVec.ofNat 64 len)).jump target)

/-- A jump target with bit 0 cleared (40_rv64i:R372). -/
def evenTarget (w : Word) : Word := w &&& ~~~1#64

/-! ### Shapes: memory -/

/-- A load of `n` bytes at `va` into `x[rd]`, by an instruction of `len` bytes; one that raises an exception writes no register
(40_rv64i:R333). DESIGN CHOICE (log 37): after a bus error too, where 60_exceptions:R797 calls the destination register
unspecified. -/
def State.loadX (s : State) (len : Nat) (signed : Bool) (n : Nat) (rd : Reg) (va : Word) : Result :=
  ((s.memRead va n).andThen fun v s => .ok () ((s.setX rd (loadWord signed n v)).retire len)).finish

/-- A store of the `n` low bytes of `v` at `va`, by an instruction of `len` bytes (40_rv64i:R333). -/
def State.storeV (s : State) (len : Nat) (n : Nat) (v : Word) (va : Word) : Result :=
  ((s.memWrite va n v.toNat).andThen fun _ s => .ok () (s.retire len)).finish

/-! ### Gates -/

/-- A floating-point instruction with code `c` runs only with the unit on (10_state:R29, 43_rv64f:R460). -/
def State.fpGate (s : State) (c : Code) (k : Result) : Result := if s.me.fpOn then k else .next (s.illegal c)

/-- A T-Head instruction with code `c` runs only with `mxstatus.THEADISAEE` set (30_encoding:R288). -/
def State.theadGate (s : State) (c : Code) (k : Result) : Result := if s.me.theadOn then k else .next (s.illegal c)

/-- After a floating-point instruction the unit is dirty (43_rv64f:R460). -/
def State.fpDirty (s : State) : State := { s with me := s.me.dirtyFp }

/-- A load of `n` bytes at `va` into `f[fd]`, NaN-boxed (43_rv64f:R480); one that raises an exception writes no register (log 37). -/
def State.loadF (s : State) (len n : Nat) (fd : Reg) (va : Word) : Result :=
  ((s.memRead va n).andThen fun v s =>
    .ok () (((s.setF fd (boxed (8 * n) v)).fpDirty).retire len)).finish

/-- A store of the `n` low bytes of `f[fs2]` at `va` (43_rv64f:R495). -/
def State.storeF (s : State) (len n : Nat) (fs2 : Reg) (va : Word) : Result :=
  ((s.memWrite va n (s.getF fs2).toNat).andThen fun _ s => .ok () (s.fpDirty.retire len)).finish

end Sys2Proof.Machine
end

