-- ==== Sys2Proof/Machine/Alu.lean ====
section
/-! DEFINITION. Integer computation (40_rv64i section 2). -/

namespace Sys2Proof.Machine

/-- Zeros shifted in on the right (40_rv64i:R347). -/
def shiftLeft {w : Nat} (a : BitVec w) (n : Nat) : BitVec w := a <<< n

/-- Zeros shifted in on the left (40_rv64i:R351). -/
def shiftRight {w : Nat} (a : BitVec w) (n : Nat) : BitVec w := a >>> n

/-- Copies of the sign bit shifted in on the left (40_rv64i:R355). -/
def shiftArith {w : Nat} (a : BitVec w) (n : Nat) : BitVec w := a.sshiftRight n

/-- A shift count in a register: bits 5:0 (40_rv64i:R347). -/
def shamt6 (w : Word) : Nat := w.toNat % 64

/-- The shift count of a 32-bit shift: bits 4:0 (40_rv64i:R350). -/
def shamt5 (w : Word) : Nat := w.toNat % 32

/-- A comparison's result (40_rv64i:R359). -/
def boolWord (b : Bool) : Word := if b then 1 else 0

/-- `add` (40_rv64i:R335). -/
def execAdd (rd rs1 rs2 : Reg) (s : State) : Result := s.aluReg (· + ·) rd rs1 rs2

/-- `addi` (40_rv64i:R336). -/
def execAddi (rd rs1 : Reg) (imm12 : BitVec 12) (s : State) : Result := s.aluImm (· + ·) rd rs1 imm12

/-- `addiw` (40_rv64i:R337). -/
def execAddiw (rd rs1 : Reg) (imm12 : BitVec 12) (s : State) : Result := s.aluImm (onLow (· + ·)) rd rs1 imm12

/-- `addw` (40_rv64i:R338). -/
def execAddw (rd rs1 rs2 : Reg) (s : State) : Result := s.aluReg (onLow (· + ·)) rd rs1 rs2

/-- `sub` (40_rv64i:R339). -/
def execSub (rd rs1 rs2 : Reg) (s : State) : Result := s.aluReg (· - ·) rd rs1 rs2

/-- `subw` (40_rv64i:R340). -/
def execSubw (rd rs1 rs2 : Reg) (s : State) : Result := s.aluReg (onLow (· - ·)) rd rs1 rs2

/-- `and` (40_rv64i:R341). -/
def execAnd (rd rs1 rs2 : Reg) (s : State) : Result := s.aluReg (· &&& ·) rd rs1 rs2

/-- `andi` (40_rv64i:R342). -/
def execAndi (rd rs1 : Reg) (imm12 : BitVec 12) (s : State) : Result := s.aluImm (· &&& ·) rd rs1 imm12

/-- `or` (40_rv64i:R343). -/
def execOr (rd rs1 rs2 : Reg) (s : State) : Result := s.aluReg (· ||| ·) rd rs1 rs2

/-- `ori` (40_rv64i:R344). -/
def execOri (rd rs1 : Reg) (imm12 : BitVec 12) (s : State) : Result := s.aluImm (· ||| ·) rd rs1 imm12

/-- `xor` (40_rv64i:R345). -/
def execXor (rd rs1 rs2 : Reg) (s : State) : Result := s.aluReg (· ^^^ ·) rd rs1 rs2

/-- `xori` (40_rv64i:R346). -/
def execXori (rd rs1 : Reg) (imm12 : BitVec 12) (s : State) : Result := s.aluImm (· ^^^ ·) rd rs1 imm12

/-- `sll` (40_rv64i:R347). -/
def execSll (rd rs1 rs2 : Reg) (s : State) : Result := s.aluReg (fun a b => shiftLeft a (shamt6 b)) rd rs1 rs2

/-- `slli` (40_rv64i:R348). -/
def execSlli (rd rs1 : Reg) (shamt : BitVec 6) (s : State) : Result := s.writeX 4 rd (shiftLeft (s.getX rs1) shamt.toNat)

/-- `slliw` (40_rv64i:R349). -/
def execSlliw (rd rs1 : Reg) (shamt : BitVec 5) (s : State) : Result :=
  s.writeX 4 rd (sext32 (shiftLeft (low32 (s.getX rs1)) shamt.toNat))

/-- `sllw` (40_rv64i:R350). -/
def execSllw (rd rs1 rs2 : Reg) (s : State) : Result :=
  s.aluReg (fun a b => sext32 (shiftLeft (low32 a) (shamt5 b))) rd rs1 rs2

/-- `srl` (40_rv64i:R351). -/
def execSrl (rd rs1 rs2 : Reg) (s : State) : Result := s.aluReg (fun a b => shiftRight a (shamt6 b)) rd rs1 rs2

/-- `srli` (40_rv64i:R352). -/
def execSrli (rd rs1 : Reg) (shamt : BitVec 6) (s : State) : Result := s.writeX 4 rd (shiftRight (s.getX rs1) shamt.toNat)

/-- `srliw` (40_rv64i:R353). -/
def execSrliw (rd rs1 : Reg) (shamt : BitVec 5) (s : State) : Result :=
  s.writeX 4 rd (sext32 (shiftRight (low32 (s.getX rs1)) shamt.toNat))

/-- `srlw` (40_rv64i:R354). -/
def execSrlw (rd rs1 rs2 : Reg) (s : State) : Result :=
  s.aluReg (fun a b => sext32 (shiftRight (low32 a) (shamt5 b))) rd rs1 rs2

/-- `sra` (40_rv64i:R355). -/
def execSra (rd rs1 rs2 : Reg) (s : State) : Result := s.aluReg (fun a b => shiftArith a (shamt6 b)) rd rs1 rs2

/-- `srai` (40_rv64i:R356). -/
def execSrai (rd rs1 : Reg) (shamt : BitVec 6) (s : State) : Result := s.writeX 4 rd (shiftArith (s.getX rs1) shamt.toNat)

/-- `sraiw` (40_rv64i:R357). -/
def execSraiw (rd rs1 : Reg) (shamt : BitVec 5) (s : State) : Result :=
  s.writeX 4 rd (sext32 (shiftArith (low32 (s.getX rs1)) shamt.toNat))

/-- `sraw` (40_rv64i:R358). -/
def execSraw (rd rs1 rs2 : Reg) (s : State) : Result :=
  s.aluReg (fun a b => sext32 (shiftArith (low32 a) (shamt5 b))) rd rs1 rs2

/-- `slt` (40_rv64i:R359). -/
def execSlt (rd rs1 rs2 : Reg) (s : State) : Result := s.aluReg (fun a b => boolWord (a.slt b)) rd rs1 rs2

/-- `sltu` (40_rv64i:R360). -/
def execSltu (rd rs1 rs2 : Reg) (s : State) : Result := s.aluReg (fun a b => boolWord (a.ult b)) rd rs1 rs2

/-- `slti` (40_rv64i:R361). -/
def execSlti (rd rs1 : Reg) (imm12 : BitVec 12) (s : State) : Result :=
  s.aluImm (fun a b => boolWord (a.slt b)) rd rs1 imm12

/-- `sltiu` (40_rv64i:R362): the immediate is sign-extended (90_conflicts). -/
def execSltiu (rd rs1 : Reg) (imm12 : BitVec 12) (s : State) : Result :=
  s.aluImm (fun a b => boolWord (a.ult b)) rd rs1 imm12

/-- `lui` (40_rv64i:R363). -/
def execLui (rd : Reg) (imm20 : BitVec 20) (s : State) : Result := s.writeX 4 rd (imm20Word imm20)

/-- `auipc` (40_rv64i:R364). -/
def execAuipc (rd : Reg) (imm20 : BitVec 20) (s : State) : Result := s.writeX 4 rd (s.me.pc + imm20Word imm20)

end Sys2Proof.Machine
end

