-- ==== Sys2Proof/Machine/Atomic.lean ====
section
/-! DEFINITION. Atomic instructions (42_rv64a). Accesses happen one at a time in program order, so `aq` and `rl` add no order
(42_rv64a:R433, log 48). -/

namespace Sys2Proof.Machine

/-- The shape of an AMO of `n` bytes: the old value goes to `x[rd]`, sign-extended, and `f` of it and of the low bytes of
`x[rs2]` to memory (42_rv64a:R434). -/
def State.amo (s : State) (n : Nat) (f : BitVec (8 * n) → BitVec (8 * n) → BitVec (8 * n)) (rd rs2 rs1 : Reg) : Result :=
  ((s.memAmo (s.getX rs1) n fun t => (f (BitVec.ofNat _ t) ((s.getX rs2).setWidth _)).toNat).andThen fun t s =>
    .ok () ((s.setX rd (signedLoad n t)).retire 4)).finish

def maxSigned {w : Nat} (a b : BitVec w) : BitVec w := if a.slt b then b else a
def minSigned {w : Nat} (a b : BitVec w) : BitVec w := if b.slt a then b else a
def maxUnsigned {w : Nat} (a b : BitVec w) : BitVec w := if a.ult b then b else a
def minUnsigned {w : Nat} (a b : BitVec w) : BitVec w := if b.ult a then b else a

/-- LR of `n` bytes (42_rv64a:R456). -/
def State.loadReserved (s : State) (n : Nat) (rd rs1 : Reg) : Result :=
  ((s.memLr (s.getX rs1) n).andThen fun v s => .ok () ((s.setX rd (signedLoad n v)).retire 4)).finish

/-- SC of `n` bytes: 0 for success, 1 for failure (42_rv64a:R458). -/
def State.storeConditional (s : State) (n : Nat) (rd rs2 rs1 : Reg) : Result :=
  ((s.memSc (s.getX rs1) n ((s.getX rs2).toNat % 2 ^ (8 * n))).andThen fun ok s =>
    .ok () ((s.setX rd (if ok then 0 else 1)).retire 4)).finish

/-- `amoadd.d` (42_rv64a:R438). -/
def execAmoaddD (rd rs2 rs1 : Reg) (_aq _rl : BitVec 1) (s : State) : Result := s.amo 8 (· + ·) rd rs2 rs1

/-- `amoadd.w` (42_rv64a:R439). -/
def execAmoaddW (rd rs2 rs1 : Reg) (_aq _rl : BitVec 1) (s : State) : Result := s.amo 4 (· + ·) rd rs2 rs1

/-- `amoand.d` (42_rv64a:R440). -/
def execAmoandD (rd rs2 rs1 : Reg) (_aq _rl : BitVec 1) (s : State) : Result := s.amo 8 (· &&& ·) rd rs2 rs1

/-- `amoand.w` (42_rv64a:R441). -/
def execAmoandW (rd rs2 rs1 : Reg) (_aq _rl : BitVec 1) (s : State) : Result := s.amo 4 (· &&& ·) rd rs2 rs1

/-- `amomax.d` (42_rv64a:R442). -/
def execAmomaxD (rd rs2 rs1 : Reg) (_aq _rl : BitVec 1) (s : State) : Result := s.amo 8 maxSigned rd rs2 rs1

/-- `amomax.w` (42_rv64a:R443). -/
def execAmomaxW (rd rs2 rs1 : Reg) (_aq _rl : BitVec 1) (s : State) : Result := s.amo 4 maxSigned rd rs2 rs1

/-- `amomaxu.d` (42_rv64a:R444). -/
def execAmomaxuD (rd rs2 rs1 : Reg) (_aq _rl : BitVec 1) (s : State) : Result := s.amo 8 maxUnsigned rd rs2 rs1

/-- `amomaxu.w` (42_rv64a:R445). -/
def execAmomaxuW (rd rs2 rs1 : Reg) (_aq _rl : BitVec 1) (s : State) : Result := s.amo 4 maxUnsigned rd rs2 rs1

/-- `amomin.d` (42_rv64a:R446). -/
def execAmominD (rd rs2 rs1 : Reg) (_aq _rl : BitVec 1) (s : State) : Result := s.amo 8 minSigned rd rs2 rs1

/-- `amomin.w` (42_rv64a:R447). -/
def execAmominW (rd rs2 rs1 : Reg) (_aq _rl : BitVec 1) (s : State) : Result := s.amo 4 minSigned rd rs2 rs1

/-- `amominu.d` (42_rv64a:R448). -/
def execAmominuD (rd rs2 rs1 : Reg) (_aq _rl : BitVec 1) (s : State) : Result := s.amo 8 minUnsigned rd rs2 rs1

/-- `amominu.w` (42_rv64a:R449). -/
def execAmominuW (rd rs2 rs1 : Reg) (_aq _rl : BitVec 1) (s : State) : Result := s.amo 4 minUnsigned rd rs2 rs1

/-- `amoor.d` (42_rv64a:R450). -/
def execAmoorD (rd rs2 rs1 : Reg) (_aq _rl : BitVec 1) (s : State) : Result := s.amo 8 (· ||| ·) rd rs2 rs1

/-- `amoor.w` (42_rv64a:R451). -/
def execAmoorW (rd rs2 rs1 : Reg) (_aq _rl : BitVec 1) (s : State) : Result := s.amo 4 (· ||| ·) rd rs2 rs1

/-- `amoswap.d` (42_rv64a:R452). -/
def execAmoswapD (rd rs2 rs1 : Reg) (_aq _rl : BitVec 1) (s : State) : Result := s.amo 8 (fun _ v => v) rd rs2 rs1

/-- `amoswap.w` (42_rv64a:R453). -/
def execAmoswapW (rd rs2 rs1 : Reg) (_aq _rl : BitVec 1) (s : State) : Result := s.amo 4 (fun _ v => v) rd rs2 rs1

/-- `amoxor.d` (42_rv64a:R454). -/
def execAmoxorD (rd rs2 rs1 : Reg) (_aq _rl : BitVec 1) (s : State) : Result := s.amo 8 (· ^^^ ·) rd rs2 rs1

/-- `amoxor.w` (42_rv64a:R455). -/
def execAmoxorW (rd rs2 rs1 : Reg) (_aq _rl : BitVec 1) (s : State) : Result := s.amo 4 (· ^^^ ·) rd rs2 rs1

/-- `lr.d` (42_rv64a:R456). -/
def execLrD (rd rs1 : Reg) (_aq _rl : BitVec 1) (s : State) : Result := s.loadReserved 8 rd rs1

/-- `lr.w` (42_rv64a:R457). -/
def execLrW (rd rs1 : Reg) (_aq _rl : BitVec 1) (s : State) : Result := s.loadReserved 4 rd rs1

/-- `sc.d` (42_rv64a:R458). -/
def execScD (rd rs2 rs1 : Reg) (_aq _rl : BitVec 1) (s : State) : Result := s.storeConditional 8 rd rs2 rs1

/-- `sc.w` (42_rv64a:R459). -/
def execScW (rd rs2 rs1 : Reg) (_aq _rl : BitVec 1) (s : State) : Result := s.storeConditional 4 rd rs2 rs1

end Sys2Proof.Machine
end

