-- ==== Sys2Proof/Machine/Branch.lean ====
section
/-! DEFINITION. Control transfer (40_rv64i section 3). No target is misaligned (40_rv64i:R334). -/

namespace Sys2Proof.Machine

/-- `beq` (40_rv64i:R365). -/
def execBeq (rs1 rs2 : Reg) (off : BitVec 12) (s : State) : Result := s.branch (fun a b => a == b) rs1 rs2 off

/-- `bne` (40_rv64i:R366). -/
def execBne (rs1 rs2 : Reg) (off : BitVec 12) (s : State) : Result := s.branch (fun a b => a != b) rs1 rs2 off

/-- `blt` (40_rv64i:R367). -/
def execBlt (rs1 rs2 : Reg) (off : BitVec 12) (s : State) : Result := s.branch (fun a b => a.slt b) rs1 rs2 off

/-- `bge` (40_rv64i:R368). -/
def execBge (rs1 rs2 : Reg) (off : BitVec 12) (s : State) : Result := s.branch (fun a b => !a.slt b) rs1 rs2 off

/-- `bltu` (40_rv64i:R369). -/
def execBltu (rs1 rs2 : Reg) (off : BitVec 12) (s : State) : Result := s.branch (fun a b => a.ult b) rs1 rs2 off

/-- `bgeu` (40_rv64i:R370). -/
def execBgeu (rs1 rs2 : Reg) (off : BitVec 12) (s : State) : Result := s.branch (fun a b => !a.ult b) rs1 rs2 off

/-- `jal` (40_rv64i:R371). -/
def execJal (rd : Reg) (off : BitVec 20) (s : State) : Result := s.link 4 rd (s.me.pc + jalOffset off)

/-- `jalr` (40_rv64i:R372): the target uses the old `x[rs1]`. -/
def execJalr (rd rs1 : Reg) (imm12 : BitVec 12) (s : State) : Result := s.link 4 rd (evenTarget (s.addrImm rs1 imm12))

end Sys2Proof.Machine
end

