-- ==== Sys2Proof/Machine/Compressed.lean ====
section
/-! DEFINITION. Compressed instructions (45_rv64c): each does what the 32-bit instruction of its rule does, two bytes long. -/

namespace Sys2Proof.Machine

/-- Register and register of the 3-bit fields (45_rv64c:R547). -/
def State.aluC (s : State) (f : Word → Word → Word) (rd rs2 : Reg') : Result :=
  s.writeX 2 (creg rd) (f (s.getX (creg rd)) (s.getX (creg rs2)))

/-- A compressed branch (45_rv64c:R550). -/
def State.branchC (s : State) (taken : Word → Bool) (rs1 : Reg') (off : BitVec 8) : Result :=
  if taken (s.getX (creg rs1)) then .next (s.jump (s.me.pc + (off ++ 0#1).signExtend 64)) else .next (s.retire 2)

/-- `c.add` (45_rv64c:R542). -/
def execCAdd (rd rs2 : Reg) (s : State) : Result := s.writeX 2 rd (s.getX rd + s.getX rs2)

/-- `c.addi` (45_rv64c:R543). -/
def execCAddi (rd : Reg) (imm6 : BitVec 6) (s : State) : Result := s.writeX 2 rd (s.getX rd + imm6Word imm6)

/-- `c.addiw` (45_rv64c:R544). -/
def execCAddiw (rd : Reg) (imm6 : BitVec 6) (s : State) : Result :=
  s.writeX 2 rd (onLow (· + ·) (s.getX rd) (imm6Word imm6))

/-- `c.addi4spn` (45_rv64c:R545). -/
def execCAddi4spn (rd : BitVec 3) (uimm8 : BitVec 8) (s : State) : Result := s.writeX 2 (creg rd) (s.addrUimm 2 uimm8 2)

/-- `c.addi16sp` (45_rv64c:R546). -/
def execCAddi16sp (imm6 : BitVec 6) (s : State) : Result := s.writeX 2 2 (s.getX 2 + (imm6Word imm6 <<< 4))

/-- `c.addw` (45_rv64c:R547). -/
def execCAddw (rd rs2 : BitVec 3) (s : State) : Result := s.aluC (onLow (· + ·)) rd rs2

/-- `c.and` (45_rv64c:R548). -/
def execCAnd (rd rs2 : BitVec 3) (s : State) : Result := s.aluC (· &&& ·) rd rs2

/-- `c.andi` (45_rv64c:R549). -/
def execCAndi (rd : BitVec 3) (imm6 : BitVec 6) (s : State) : Result :=
  s.writeX 2 (creg rd) (s.getX (creg rd) &&& imm6Word imm6)

/-- `c.beqz` (45_rv64c:R550). -/
def execCBeqz (rs1 : BitVec 3) (off : BitVec 8) (s : State) : Result := s.branchC (fun a => a == 0) rs1 off

/-- `c.bnez` (45_rv64c:R551). -/
def execCBnez (rs1 : BitVec 3) (off : BitVec 8) (s : State) : Result := s.branchC (fun a => a != 0) rs1 off

/-- `c.ebreak` (45_rv64c:R552). -/
def execCEbreak (s : State) : Result := .next (s.raise 3 0)

/-- `c.fld` (45_rv64c:R553). -/
def execCFld (fd rs1 : BitVec 3) (uimm5 : BitVec 5) (s : State) : Result :=
  s.fpGate (encode (.cFld fd rs1 uimm5)) (s.loadF 2 8 (creg fd) (s.addrUimm (creg rs1) uimm5 3))

/-- `c.fldsp` (45_rv64c:R554). -/
def execCFldsp (fd : Reg) (uimm6 : BitVec 6) (s : State) : Result :=
  s.fpGate (encode (.cFldsp fd uimm6)) (s.loadF 2 8 fd (s.addrUimm 2 uimm6 3))

/-- `c.fsd` (45_rv64c:R555). -/
def execCFsd (fs2 rs1 : BitVec 3) (uimm5 : BitVec 5) (s : State) : Result :=
  s.fpGate (encode (.cFsd fs2 rs1 uimm5)) (s.storeF 2 8 (creg fs2) (s.addrUimm (creg rs1) uimm5 3))

/-- `c.fsdsp` (45_rv64c:R556). -/
def execCFsdsp (fs2 : Reg) (uimm6 : BitVec 6) (s : State) : Result :=
  s.fpGate (encode (.cFsdsp fs2 uimm6)) (s.storeF 2 8 fs2 (s.addrUimm 2 uimm6 3))

/-- `c.j` (45_rv64c:R557). -/
def execCJ (off : BitVec 11) (s : State) : Result := .next (s.jump (s.me.pc + (off ++ 0#1).signExtend 64))

/-- `c.jalr` (45_rv64c:R558). -/
def execCJalr (rs1 : Reg) (s : State) : Result := s.link 2 1 (evenTarget (s.getX rs1))

/-- `c.jr` (45_rv64c:R559). -/
def execCJr (rs1 : Reg) (s : State) : Result := .next (s.jump (evenTarget (s.getX rs1)))

/-- `c.ld` (45_rv64c:R560). -/
def execCLd (rd rs1 : BitVec 3) (uimm5 : BitVec 5) (s : State) : Result :=
  s.loadX 2 true 8 (creg rd) (s.addrUimm (creg rs1) uimm5 3)

/-- `c.ldsp` (45_rv64c:R561). -/
def execCLdsp (rd : Reg) (uimm6 : BitVec 6) (s : State) : Result := s.loadX 2 true 8 rd (s.addrUimm 2 uimm6 3)

/-- `c.li` (45_rv64c:R562). -/
def execCLi (rd : Reg) (imm6 : BitVec 6) (s : State) : Result := s.writeX 2 rd (imm6Word imm6)

/-- `c.lui` (45_rv64c:R563). -/
def execCLui (rd : Reg) (imm6 : BitVec 6) (s : State) : Result := s.writeX 2 rd (imm6Word imm6 <<< 12)

/-- `c.lw` (45_rv64c:R564). -/
def execCLw (rd rs1 : BitVec 3) (uimm5 : BitVec 5) (s : State) : Result :=
  s.loadX 2 true 4 (creg rd) (s.addrUimm (creg rs1) uimm5 2)

/-- `c.lwsp` (45_rv64c:R565). -/
def execCLwsp (rd : Reg) (uimm6 : BitVec 6) (s : State) : Result := s.loadX 2 true 4 rd (s.addrUimm 2 uimm6 2)

/-- `c.mv` (45_rv64c:R566). -/
def execCMv (rd rs2 : Reg) (s : State) : Result := s.writeX 2 rd (s.getX rs2)

/-- `c.nop` (45_rv64c:R567). -/
def execCNop (s : State) : Result := .next (s.retire 2)

/-- `c.or` (45_rv64c:R568). -/
def execCOr (rd rs2 : BitVec 3) (s : State) : Result := s.aluC (· ||| ·) rd rs2

/-- `c.sd` (45_rv64c:R569). -/
def execCSd (rs2 rs1 : BitVec 3) (uimm5 : BitVec 5) (s : State) : Result :=
  s.storeV 2 8 (s.getX (creg rs2)) (s.addrUimm (creg rs1) uimm5 3)

/-- `c.sdsp` (45_rv64c:R570). -/
def execCSdsp (rs2 : Reg) (uimm6 : BitVec 6) (s : State) : Result := s.storeV 2 8 (s.getX rs2) (s.addrUimm 2 uimm6 3)

/-- `c.slli` (45_rv64c:R571). -/
def execCSlli (rd : Reg) (shamt : BitVec 6) (s : State) : Result := s.writeX 2 rd (shiftLeft (s.getX rd) shamt.toNat)

/-- `c.srai` (45_rv64c:R572). -/
def execCSrai (rd : BitVec 3) (shamt : BitVec 6) (s : State) : Result :=
  s.writeX 2 (creg rd) (shiftArith (s.getX (creg rd)) shamt.toNat)

/-- `c.srli` (45_rv64c:R573). -/
def execCSrli (rd : BitVec 3) (shamt : BitVec 6) (s : State) : Result :=
  s.writeX 2 (creg rd) (shiftRight (s.getX (creg rd)) shamt.toNat)

/-- `c.sw` (45_rv64c:R574). -/
def execCSw (rs2 rs1 : BitVec 3) (uimm5 : BitVec 5) (s : State) : Result :=
  s.storeV 2 4 (s.getX (creg rs2)) (s.addrUimm (creg rs1) uimm5 2)

/-- `c.swsp` (45_rv64c:R575). -/
def execCSwsp (rs2 : Reg) (uimm6 : BitVec 6) (s : State) : Result := s.storeV 2 4 (s.getX rs2) (s.addrUimm 2 uimm6 2)

/-- `c.sub` (45_rv64c:R576). -/
def execCSub (rd rs2 : BitVec 3) (s : State) : Result := s.aluC (· - ·) rd rs2

/-- `c.subw` (45_rv64c:R577). -/
def execCSubw (rd rs2 : BitVec 3) (s : State) : Result := s.aluC (onLow (· - ·)) rd rs2

/-- `c.xor` (45_rv64c:R578). -/
def execCXor (rd rs2 : BitVec 3) (s : State) : Result := s.aluC (· ^^^ ·) rd rs2

end Sys2Proof.Machine
end

