-- ==== Sys2Proof/Machine/Flags.lean ====
section
/-! DEFINITION. The only flags of the machine: the five accrued floating-point exceptions with their summary bit, and the
rounding mode (10_state:R30, 43_rv64f:R461, R462). -/

namespace Sys2Proof.Machine

/-- Flags raised by one operation, in the order of `fflags`: NV, DZ, OF, UF, NX from bit 4 down (11_csr_standard:R120). -/
abbrev Flags := BitVec 5

def flagNV : Flags := 0b10000
def flagDZ : Flags := 0b01000
def flagOF : Flags := 0b00100
def flagUF : Flags := 0b00010
def flagNX : Flags := 0b00001

/-- A flag, if its condition holds. -/
def flagIf (c : Bool) (f : Flags) : Flags := if c then f else 0

/-- The raised flags are ORed into `fcsr`, `fxcr.FE` is set with any of them, and the unit becomes dirty
(43_rv64f:R460, R462, D13). -/
def State.accrue (s : State) (fl : Flags) : State :=
  State.fpDirty { s with me := { s.me with fp := { s.me.fp with fflags := s.me.fp.fflags ||| fl,
                                                                fe := s.me.fp.fe || fl != 0 } } }

/-- Rounding modes (43_rv64f:R461). -/
inductive Rounding where
  /-- to nearest, ties to even -/
  | rne
  /-- toward zero -/
  | rtz
  /-- toward minus infinity -/
  | rdn
  /-- toward plus infinity -/
  | rup
  /-- to nearest, ties to the larger magnitude -/
  | rmm
  deriving DecidableEq, Repr

/-- The rounding mode of a code; 5, 6 and 7 name none (43_rv64f:R461). -/
def Rounding.ofCode : Nat → Option Rounding
  | 0 => some .rne
  | 1 => some .rtz
  | 2 => some .rdn
  | 3 => some .rup
  | 4 => some .rmm
  | _ => none

/-- The rounding mode of an instruction: its own, or with code 7 that of `fcsr` (43_rv64f:R461). -/
def State.rounding (s : State) (rm : BitVec 3) : Option Rounding :=
  if rm = 7 then Rounding.ofCode s.me.fp.frm.toNat else Rounding.ofCode rm.toNat

/-- An instruction with code `c` and a rounding mode runs with the unit on and a mode that exists
(43_rv64f:R461, 93_implementation_defined:U8). -/
def State.roundGate (s : State) (c : Code) (rm : BitVec 3) (k : Rounding → Result) : Result :=
  s.fpGate c
    (match s.rounding rm with
     | some r => k r
     | none => .next (s.illegal c))

end Sys2Proof.Machine
end

