-- ==== Sys2Proof/Machine/Float.lean ====
section
/-! DEFINITION. Floating-point arithmetic of the three formats: exact values, one rounding, the flags of each operation
(43_rv64f:R460 to R464, R496 to R498, 49_thead_fp16:R730, R731). A pattern is held as a number below `2 ^ width`. -/

namespace Sys2Proof.Machine

/-- A binary format: the widths of its exponent and fraction fields. -/
structure Fmt where
  ew : Nat
  mw : Nat
  deriving DecidableEq, Repr

/-- binary16 (49_thead_fp16:R730). -/
def Fmt.half : Fmt := ⟨5, 10⟩
/-- binary32 (43_rv64f:R460). -/
def Fmt.single : Fmt := ⟨8, 23⟩
/-- binary64 (44_rv64d:R500). -/
def Fmt.double : Fmt := ⟨11, 52⟩

/-- The width of a pattern. -/
def Fmt.width (f : Fmt) : Nat := f.ew + f.mw + 1

/-- The pattern of plus infinity, which bounds the finite magnitudes. -/
def Fmt.infBits (f : Fmt) : Nat := (2 ^ f.ew - 1) * 2 ^ f.mw

/-- The largest finite magnitude. -/
def Fmt.maxBits (f : Fmt) : Nat := f.infBits - 1

/-- The sign bit set or clear. -/
def Fmt.signBits (f : Fmt) (neg : Bool) : Nat := if neg then 2 ^ (f.ew + f.mw) else 0

/-- The canonical quiet NaN (43_rv64f:R463). -/
def Fmt.nanBits (f : Fmt) : Nat := f.infBits + 2 ^ (f.mw - 1)

/-- The exponent of the smallest subnormal. -/
def Fmt.minExp (f : Fmt) : Int := 2 - 2 ^ (f.ew - 1) - f.mw

/-- The sign of a pattern. -/
def Fmt.neg (f : Fmt) (b : Nat) : Bool := b / 2 ^ (f.ew + f.mw) % 2 == 1

/-- The magnitude bits of a pattern. -/
def Fmt.mag (f : Fmt) (b : Nat) : Nat := b % 2 ^ (f.ew + f.mw)

def Fmt.isInf (f : Fmt) (b : Nat) : Bool := f.mag b == f.infBits
def Fmt.isZero (f : Fmt) (b : Nat) : Bool := f.mag b == 0
def Fmt.isNan (f : Fmt) (b : Nat) : Bool := decide (f.infBits < f.mag b)

/-- A signalling NaN: the top fraction bit is clear. -/
def Fmt.isSnan (f : Fmt) (b : Nat) : Bool := f.isNan b && b / 2 ^ (f.mw - 1) % 2 == 0

/-- The significand of a finite pattern. -/
def Fmt.sig (f : Fmt) (b : Nat) : Nat := if f.mag b < 2 ^ f.mw then f.mag b else 2 ^ f.mw + f.mag b % 2 ^ f.mw

/-- The exponent of a finite pattern, so that the magnitude is `sig * 2 ^ exp`. -/
def Fmt.exp (f : Fmt) (b : Nat) : Int := f.minExp + (f.mag b / 2 ^ f.mw - 1 : Nat)

/-- A pattern with its sign flipped where `flip` holds. -/
def Fmt.flip (f : Fmt) (flip : Bool) (b : Nat) : Nat := if flip then f.signBits (!f.neg b) + f.mag b else b

/-- An exact non-zero value before rounding: its sign and its magnitude `m * 2 ^ e`. -/
structure Exact where
  neg : Bool
  m   : Nat
  e   : Int
  deriving DecidableEq, Repr

/-- The exact value of a finite pattern. -/
def Fmt.exact (f : Fmt) (b : Nat) : Exact := ⟨f.neg b, f.sig b, f.exp b⟩

/-- A result: a pattern, or a NaN that `fxcr.DQNaN` settles (43_rv64f:R463); and the flags raised. -/
structure FpOut where
  bits  : Option Nat
  flags : Flags
  deriving DecidableEq, Repr

/-- A NaN result. -/
def FpOut.nan (flags : Flags) : FpOut := ⟨none, flags⟩

/-- An exact result. -/
def FpOut.of (b : Nat) : FpOut := ⟨some b, 0⟩

/-! ### Rounding -/

/-- How many bits a number has. -/
def bitLength (n : Nat) : Nat := if n = 0 then 0 else Nat.log2 n + 1

/-- `m / 2 ^ d` rounded to an integer, and whether it was inexact (43_rv64f:R461). -/
def roundShift (r : Rounding) (neg : Bool) (m d : Nat) : Nat × Bool :=
  let q := m / 2 ^ d
  let rest := m % 2 ^ d
  let up :=
    match r with
    | .rne => decide (2 ^ d < 2 * rest) || (2 * rest == 2 ^ d && q % 2 == 1)
    | .rtz => false
    | .rdn => neg && rest != 0
    | .rup => !neg && rest != 0
    | .rmm => decide (2 ^ d ≤ 2 * rest)
  (if up then q + 1 else q, rest != 0)

/-- `m * 2 ^ e` rounded to a multiple of `2 ^ q`, as that multiple. -/
def roundTo (r : Rounding) (v : Exact) (q : Int) : Nat × Bool :=
  if q ≤ v.e then (v.m * 2 ^ (v.e - q).toNat, false) else roundShift r v.neg v.m (q - v.e).toNat

/-- The pattern of an overflowed result (43_rv64f:R462). -/
def Fmt.overflow (f : Fmt) (r : Rounding) (neg : Bool) : Nat :=
  let toInf :=
    match r with
    | .rne | .rmm => true
    | .rtz => false
    | .rdn => neg
    | .rup => !neg
  f.signBits neg + (if toInf then f.infBits else f.maxBits)

/-- The IEEE 754 rounding of an exact value with its flags; tininess is detected after rounding (43_rv64f:R462, R498). -/
def Fmt.round (f : Fmt) (r : Rounding) (v : Exact) : FpOut :=
  let q₀ := v.e + bitLength v.m - (f.mw + 1)
  let q := max q₀ f.minExp
  let (n, inexact) := roundTo r v q
  let tiny := decide (q₀ < f.minExp) && !((roundTo r v q₀).1 == 2 ^ (f.mw + 1) && q₀ + 1 == f.minExp)
  let bits := (q - f.minExp).toNat * 2 ^ f.mw + n
  if f.infBits ≤ bits then ⟨some (f.overflow r v.neg), flagOF ||| flagNX⟩
  else ⟨some (f.signBits v.neg + bits), flagIf (tiny && inexact) flagUF ||| flagIf inexact flagNX⟩

/-- The rounding of an exact value that may be zero, whose sign is then `zeroNeg`. -/
def Fmt.roundOrZero (f : Fmt) (r : Rounding) (v : Exact) (zeroNeg : Bool) : FpOut :=
  if v.m = 0 then .of (f.signBits zeroNeg) else f.round r v

/-! ### Arithmetic -/

/-- A signed exact value as a multiple of `2 ^ e`, for an `e` not above its own. -/
def Exact.scaled (v : Exact) (e : Int) : Int :=
  let m : Int := v.m * 2 ^ (v.e - e).toNat
  if v.neg then -m else m

/-- An exact sum, and the sign it has if it is zero: that of both addends, or minus only when rounding down
(43_rv64f:R494). -/
def Fmt.sum (f : Fmt) (r : Rounding) (a b : Exact) : FpOut :=
  let e := min a.e b.e
  let s := a.scaled e + b.scaled e
  f.roundOrZero r ⟨decide (s < 0), s.natAbs, e⟩ (if a.neg == b.neg then a.neg else r == .rdn)

/-- NV for a signalling NaN among the operands. -/
def Fmt.snanFlag (f : Fmt) (bs : List Nat) : Flags := flagIf (bs.any f.isSnan) flagNV

/-- `a + b` (43_rv64f:R466). -/
def Fmt.add (f : Fmt) (r : Rounding) (a b : Nat) : FpOut :=
  if f.isNan a || f.isNan b then .nan (f.snanFlag [a, b])
  else if f.isInf a then (if f.isInf b && f.neg a != f.neg b then .nan flagNV else .of a)
  else if f.isInf b then .of b
  else f.sum r (f.exact a) (f.exact b)

/-- `a - b` (43_rv64f:R494). -/
def Fmt.sub (f : Fmt) (r : Rounding) (a b : Nat) : FpOut :=
  if f.isNan b then .nan (f.snanFlag [a, b]) else f.add r a (f.flip true b)

/-- The exact product of two finite values. -/
def Exact.mul (a b : Exact) : Exact := ⟨a.neg != b.neg, a.m * b.m, a.e + b.e⟩

/-- `a * b` (43_rv64f:R485). -/
def Fmt.mul (f : Fmt) (r : Rounding) (a b : Nat) : FpOut :=
  let neg := f.neg a != f.neg b
  if f.isNan a || f.isNan b then .nan (f.snanFlag [a, b])
  else if f.isInf a || f.isInf b then
    (if f.isZero a || f.isZero b then .nan flagNV else .of (f.signBits neg + f.infBits))
  else f.roundOrZero r ((f.exact a).mul (f.exact b)) neg

/-- An exact quotient or root cut to enough bits, with a last bit that says whether anything was cut: rounding it gives what
rounding the exact value would. -/
def sticky (q : Nat) (inexact : Bool) : Nat := 2 * q + inexact.toNat

/-- `a / b` (43_rv64f:R476). -/
def Fmt.div (f : Fmt) (r : Rounding) (a b : Nat) : FpOut :=
  let neg := f.neg a != f.neg b
  if f.isNan a || f.isNan b then .nan (f.snanFlag [a, b])
  else if f.isInf a then (if f.isInf b then .nan flagNV else .of (f.signBits neg + f.infBits))
  else if f.isInf b then .of (f.signBits neg)
  else if f.isZero b then
    (if f.isZero a then .nan flagNV else ⟨some (f.signBits neg + f.infBits), flagDZ⟩)
  else if f.isZero a then .of (f.signBits neg)
  else
    let k := 2 * f.mw + 4
    let m := f.sig a * 2 ^ k
    f.round r ⟨neg, sticky (m / f.sig b) (m % f.sig b != 0), f.exp a - f.exp b - k - 1⟩

/-- The integer square root of `n`, found bit by bit from bit `i - 1` down. -/
def isqrtFrom (n : Nat) : Nat → Nat → Nat
  | 0, root => root
  | i + 1, root => isqrtFrom n i (if (root + 2 ^ i) * (root + 2 ^ i) ≤ n then root + 2 ^ i else root)

/-- The integer square root. -/
def isqrt (n : Nat) : Nat := isqrtFrom n (bitLength n) 0

/-- The square root (43_rv64f:R493). -/
def Fmt.sqrt (f : Fmt) (r : Rounding) (a : Nat) : FpOut :=
  if f.isNan a then .nan (f.snanFlag [a])
  else if f.isZero a then .of a
  else if f.neg a then .nan flagNV
  else if f.isInf a then .of a
  else
    let odd := (f.exp a % 2).toNat
    let k := f.mw + 3
    let n := f.sig a * 2 ^ (odd + 2 * k)
    let root := isqrt n
    f.round r ⟨false, sticky root (root * root != n), (f.exp a - odd) / 2 - k - 1⟩

/-- `(a * b, negated where negProd) + (c, negated where negAdd)` with one rounding (43_rv64f:R481, R484, R488, R489, R498). -/
def Fmt.fma (f : Fmt) (r : Rounding) (negProd negAdd : Bool) (a b c : Nat) : FpOut :=
  let neg := (f.neg a != f.neg b) != negProd
  let badProduct := (f.isInf a && f.isZero b) || (f.isZero a && f.isInf b)
  if f.isNan a || f.isNan b || f.isNan c then .nan (f.snanFlag [a, b, c] ||| flagIf badProduct flagNV)
  else if badProduct then .nan flagNV
  else
    let d := f.flip negAdd c
    if f.isInf a || f.isInf b then
      (if f.isInf d && f.neg d != neg then .nan flagNV else .of (f.signBits neg + f.infBits))
    else if f.isInf d then .of d
    else f.sum r { (f.exact a).mul (f.exact b) with neg := neg } (f.exact d)

/-! ### Comparison, minimum and maximum, classification, sign injection -/

/-- The order of non-NaN patterns as a number: the two zeros are equal (43_rv64f:R477). -/
def Fmt.key (f : Fmt) (b : Nat) : Int := if f.neg b then -(f.mag b : Int) else f.mag b

/-- A comparison: false on a NaN; NV for any NaN where it signals, else for a signalling NaN (43_rv64f:R477 to R479). -/
def Fmt.compare (f : Fmt) (signals : Bool) (rel : Int → Int → Bool) (a b : Nat) : Bool × Flags :=
  if f.isNan a || f.isNan b then (false, if signals then flagNV else f.snanFlag [a, b])
  else (rel (f.key a) (f.key b), 0)

/-- `a >= b` of FMIN and FMAX, with -0 below +0 where `zeroOrdered` (43_rv64f:R497). -/
def Fmt.atLeast (f : Fmt) (zeroOrdered : Bool) (a b : Nat) : Bool :=
  if zeroOrdered && f.isZero a && f.isZero b then !f.neg a || f.neg b else decide (f.key b ≤ f.key a)

/-- FMIN or FMAX (43_rv64f:R497). -/
def Fmt.minMax (f : Fmt) (zeroOrdered isMax : Bool) (a b : Nat) : FpOut :=
  let fl := f.snanFlag [a, b]
  if f.isNan a && f.isNan b then .nan fl
  else if f.isNan a then ⟨some b, fl⟩
  else if f.isNan b then ⟨some a, fl⟩
  else .of (if f.atLeast zeroOrdered a b == isMax then a else b)

/-- The class of a pattern as a one-hot word (43_rv64f:R467). -/
def Fmt.classify (f : Fmt) (b : Nat) : Word :=
  if f.isSnan b then 0x100
  else if f.isNan b then 0x200
  else if f.isInf b then (if f.neg b then 0x1 else 0x80)
  else if f.isZero b then (if f.neg b then 0x8 else 0x10)
  else if f.mag b < 2 ^ f.mw then (if f.neg b then 0x4 else 0x20)
  else if f.neg b then 0x2
  else 0x40

/-- The magnitude of one pattern with a given sign (43_rv64f:R490). -/
def Fmt.withSign (f : Fmt) (neg : Bool) (b : Nat) : Nat := f.signBits neg + f.mag b

/-! ### Conversions -/

/-- The integer types of the conversions. -/
inductive IntType where
  | w
  | wu
  | l
  | lu
  deriving DecidableEq, Repr

/-- The least and the greatest value of a type (43_rv64f:R496). -/
def IntType.lo : IntType → Int
  | .w => -2 ^ 31
  | .l => -2 ^ 63
  | .wu | .lu => 0
def IntType.hi : IntType → Int
  | .w => 2 ^ 31 - 1
  | .wu => 2 ^ 32 - 1
  | .l => 2 ^ 63 - 1
  | .lu => 2 ^ 64 - 1

/-- A result of the type as a register holds it: 32-bit results are sign-extended, WU among them (43_rv64f:R496). -/
def IntType.toWord (t : IntType) (v : Int) : Word :=
  match t with
  | .w | .wu => sext32 (BitVec.ofInt 32 v)
  | .l | .lu => BitVec.ofInt 64 v

/-- The value a register holds for a type (43_rv64f:R470 to R473). -/
def IntType.ofWord (t : IntType) (w : Word) : Int :=
  match t with
  | .w => (low32 w).toInt
  | .wu => (low32 w).toNat
  | .l => w.toInt
  | .lu => w.toNat

/-- Float to integer (43_rv64f:R496). -/
def Fmt.toInt (f : Fmt) (r : Rounding) (t : IntType) (b : Nat) : Word × Flags :=
  if f.isNan b then (t.toWord t.hi, flagNV)
  else if f.isInf b then (t.toWord (if f.neg b then t.lo else t.hi), flagNV)
  else
    let (n, inexact) := roundTo r (f.exact b) 0
    let v : Int := if f.neg b then -n else n
    if v < t.lo then (t.toWord t.lo, flagNV)
    else if t.hi < v then (t.toWord t.hi, flagNV)
    else (t.toWord v, flagIf inexact flagNX)

/-- Integer to float (43_rv64f:R470). -/
def Fmt.ofInt (f : Fmt) (r : Rounding) (v : Int) : FpOut := f.roundOrZero r ⟨decide (v < 0), v.natAbs, 0⟩ false

/-- One format to another, rounding (44_rv64d:R510) or exact where the other is wider (44_rv64d:R505); a signalling NaN
raises NV where `snanNv` holds. -/
def Fmt.convert (src dst : Fmt) (r : Rounding) (snanNv : Bool) (b : Nat) : FpOut :=
  if src.isNan b then .nan (if snanNv then src.snanFlag [b] else 0)
  else if src.isInf b then .of (dst.signBits (src.neg b) + dst.infBits)
  else dst.roundOrZero r (src.exact b) (src.neg b)

/-! ### Registers -/

/-- The operand a register holds: a value that is not boxed reads as the canonical NaN (43_rv64f:R464,
49_thead_fp16:R731). -/
def Fmt.unbox (f : Fmt) (w : Word) : Nat :=
  if w.toNat / 2 ^ f.width = 2 ^ (64 - f.width) - 1 then w.toNat % 2 ^ f.width else f.nanBits

/-- The operand in `f[r]` (43_rv64f:R464, 49_thead_fp16:R731). -/
def State.operand (s : State) (f : Fmt) (r : Reg) : Nat := f.unbox (s.getF r)

/-- The pattern of a result and the state after choosing it: with `fxcr.DQNaN` set a NaN is any quiet NaN
(43_rv64f:R463, 93_implementation_defined:U13). -/
def State.resultBits (s : State) (f : Fmt) (out : FpOut) : Nat × State :=
  match out.bits with
  | some b => (b, s)
  | none =>
    if s.me.fp.dqNaN then
      let w := (Config.freeWord s.draws).toNat
      (f.signBits (f.neg w) + (f.nanBits + w % 2 ^ (f.mw - 1)), s.drawn)
    else (f.nanBits, s)

/-! ### Shapes of floating-point instructions -/

/-- A floating-point result is written to `f[fd]`, boxed, and the flags accrue (43_rv64f:R462, R464). -/
def State.writeF (s : State) (f : Fmt) (fd : Reg) (out : FpOut) : Result :=
  let (b, s) := s.resultBits f out
  .next (((s.setF fd (boxed f.width b)).accrue out.flags).retire 4)

/-- An integer result of a floating-point instruction is written to `x[rd]`, and the flags accrue (43_rv64f:R462). -/
def State.writeXF (s : State) (rd : Reg) (v : Word) (flags : Flags) : Result :=
  .next (((s.setX rd v).accrue flags).retire 4)

/-- Two operands, rounded: FADD, FSUB, FMUL, FDIV. -/
def State.fp2 (s : State) (c : Code) (f : Fmt) (op : Rounding → Nat → Nat → FpOut) (fd fs1 fs2 : Reg) (rm : BitVec 3) :
    Result :=
  s.roundGate c rm fun r => s.writeF f fd (op r (s.operand f fs1) (s.operand f fs2))

/-- FSQRT. -/
def State.fpSqrt (s : State) (c : Code) (f : Fmt) (fd fs1 : Reg) (rm : BitVec 3) : Result :=
  s.roundGate c rm fun r => s.writeF f fd (f.sqrt r (s.operand f fs1))

/-- The fused multiply-adds (43_rv64f:R498). -/
def State.fp3 (s : State) (c : Code) (f : Fmt) (negProd negAdd : Bool) (fd fs1 fs2 fs3 : Reg) (rm : BitVec 3) : Result :=
  s.roundGate c rm fun r =>
    s.writeF f fd (f.fma r negProd negAdd (s.operand f fs1) (s.operand f fs2) (s.operand f fs3))

/-- FMIN and FMAX (43_rv64f:R497). -/
def State.fpMinMax (s : State) (c : Code) (f : Fmt) (isMax : Bool) (fd fs1 fs2 : Reg) : Result :=
  s.fpGate c (s.writeF f fd (f.minMax s.soc.fminmaxZeroOrdered isMax (s.operand f fs1) (s.operand f fs2)))

/-- FEQ, FLT, FLE (43_rv64f:R477 to R479). -/
def State.fpCompare (s : State) (c : Code) (f : Fmt) (signals : Bool) (rel : Int → Int → Bool) (rd fs1 fs2 : Reg) : Result :=
  s.fpGate c
    (let (b, fl) := f.compare signals rel (s.operand f fs1) (s.operand f fs2)
     s.writeXF rd (BitVec.ofNat 64 b.toNat) fl)

/-- FCLASS (43_rv64f:R467). -/
def State.fpClass (s : State) (c : Code) (f : Fmt) (rd fs1 : Reg) : Result :=
  s.fpGate c (s.writeXF rd (f.classify (s.operand f fs1)) 0)

/-- FSGNJ, FSGNJN, FSGNJX: the sign is a function of the two signs (43_rv64f:R490). -/
def State.fpSign (s : State) (c : Code) (f : Fmt) (sign : Bool → Bool → Bool) (fd fs1 fs2 : Reg) : Result :=
  s.fpGate c
    (let a := s.operand f fs1
     s.writeF f fd (.of (f.withSign (sign (f.neg a) (f.neg (s.operand f fs2))) a)))

/-- Float to integer (43_rv64f:R496). -/
def State.fpToInt (s : State) (c : Code) (f : Fmt) (t : IntType) (rd fs1 : Reg) (rm : BitVec 3) : Result :=
  s.roundGate c rm fun r =>
    let (v, fl) := f.toInt r t (s.operand f fs1)
    s.writeXF rd v fl

/-- Integer to float (43_rv64f:R470). -/
def State.fpOfInt (s : State) (c : Code) (f : Fmt) (t : IntType) (fd rs1 : Reg) (rm : BitVec 3) : Result :=
  s.roundGate c rm fun r => s.writeF f fd (f.ofInt r (t.ofWord (s.getX rs1)))

/-- A narrowing conversion between formats (44_rv64d:R510, 49_thead_fp16:R738). -/
def State.fpNarrow (s : State) (c : Code) (src dst : Fmt) (fd fs1 : Reg) (rm : BitVec 3) : Result :=
  s.roundGate c rm fun r => s.writeF dst fd (src.convert dst r true (s.operand src fs1))

/-- A widening conversion between formats (44_rv64d:R505, 93_implementation_defined:U23). -/
def State.fpWiden (s : State) (c : Code) (src dst : Fmt) (fd fs1 : Reg) (rm : BitVec 3) : Result :=
  s.roundGate c rm fun r => s.writeF dst fd (src.convert dst r s.soc.fcvtWidenSnanNv (s.operand src fs1))

/-- Bits moved from `x[rs1]` to `f[fd]`, boxed (43_rv64f:R486). -/
def State.fpMoveIn (s : State) (c : Code) (f : Fmt) (fd rs1 : Reg) : Result :=
  s.fpGate c (s.writeF f fd (.of ((s.getX rs1).toNat % 2 ^ f.width)))

/-- The low bits of `f[fs1]`, sign-extended, moved to `x[rd]`; the box is not checked (43_rv64f:R487). -/
def State.fpMoveOut (s : State) (c : Code) (f : Fmt) (rd fs1 : Reg) : Result :=
  s.fpGate c (s.writeXF rd ((BitVec.ofNat f.width (s.getF fs1).toNat).signExtend 64) 0)

end Sys2Proof.Machine
end

