-- ==== Sys2Proof/Machine/FloatD.lean ====
section
/-! DEFINITION. Double-precision instructions (44_rv64d). -/

namespace Sys2Proof.Machine

/-- `fadd.d` (44_rv64d:R501). -/
def execFaddD (fd fs1 fs2 : Reg) (rm : BitVec 3) (s : State) : Result :=
  s.fp2 (encode (.faddD fd fs1 fs2 rm)) .double (Fmt.add .double) fd fs1 fs2 rm

/-- `fclass.d` (44_rv64d:R502). -/
def execFclassD (rd fs1 : Reg) (s : State) : Result := s.fpClass (encode (.fclassD rd fs1)) .double rd fs1

/-- `fcvt.d.l` (44_rv64d:R503). -/
def execFcvtDL (fd rs1 : Reg) (rm : BitVec 3) (s : State) : Result :=
  s.fpOfInt (encode (.fcvtDL fd rs1 rm)) .double .l fd rs1 rm

/-- `fcvt.d.lu` (44_rv64d:R504). -/
def execFcvtDLu (fd rs1 : Reg) (rm : BitVec 3) (s : State) : Result :=
  s.fpOfInt (encode (.fcvtDLu fd rs1 rm)) .double .lu fd rs1 rm

/-- `fcvt.d.s` (44_rv64d:R505). -/
def execFcvtDS (fd fs1 : Reg) (rm : BitVec 3) (s : State) : Result :=
  s.fpWiden (encode (.fcvtDS fd fs1 rm)) .single .double fd fs1 rm

/-- `fcvt.d.w` (44_rv64d:R506). -/
def execFcvtDW (fd rs1 : Reg) (rm : BitVec 3) (s : State) : Result :=
  s.fpOfInt (encode (.fcvtDW fd rs1 rm)) .double .w fd rs1 rm

/-- `fcvt.d.wu` (44_rv64d:R507). -/
def execFcvtDWu (fd rs1 : Reg) (rm : BitVec 3) (s : State) : Result :=
  s.fpOfInt (encode (.fcvtDWu fd rs1 rm)) .double .wu fd rs1 rm

/-- `fcvt.l.d` (44_rv64d:R508). -/
def execFcvtLD (rd fs1 : Reg) (rm : BitVec 3) (s : State) : Result :=
  s.fpToInt (encode (.fcvtLD rd fs1 rm)) .double .l rd fs1 rm

/-- `fcvt.lu.d` (44_rv64d:R509). -/
def execFcvtLuD (rd fs1 : Reg) (rm : BitVec 3) (s : State) : Result :=
  s.fpToInt (encode (.fcvtLuD rd fs1 rm)) .double .lu rd fs1 rm

/-- `fcvt.s.d` (44_rv64d:R510). -/
def execFcvtSD (fd fs1 : Reg) (rm : BitVec 3) (s : State) : Result :=
  s.fpNarrow (encode (.fcvtSD fd fs1 rm)) .double .single fd fs1 rm

/-- `fcvt.w.d` (44_rv64d:R511). -/
def execFcvtWD (rd fs1 : Reg) (rm : BitVec 3) (s : State) : Result :=
  s.fpToInt (encode (.fcvtWD rd fs1 rm)) .double .w rd fs1 rm

/-- `fcvt.wu.d` (44_rv64d:R512). -/
def execFcvtWuD (rd fs1 : Reg) (rm : BitVec 3) (s : State) : Result :=
  s.fpToInt (encode (.fcvtWuD rd fs1 rm)) .double .wu rd fs1 rm

/-- `fdiv.d` (44_rv64d:R513). -/
def execFdivD (fd fs1 fs2 : Reg) (rm : BitVec 3) (s : State) : Result :=
  s.fp2 (encode (.fdivD fd fs1 fs2 rm)) .double (Fmt.div .double) fd fs1 fs2 rm

/-- `feq.d` (44_rv64d:R514). -/
def execFeqD (rd fs1 fs2 : Reg) (s : State) : Result :=
  s.fpCompare (encode (.feqD rd fs1 fs2)) .double false (fun a b => a == b) rd fs1 fs2

/-- `fld` (44_rv64d:R515). -/
def execFld (fd rs1 : Reg) (imm12 : BitVec 12) (s : State) : Result :=
  s.fpGate (encode (.fld fd rs1 imm12)) (s.loadF 4 8 fd (s.addrImm rs1 imm12))

/-- `fle.d` (44_rv64d:R516). -/
def execFleD (rd fs1 fs2 : Reg) (s : State) : Result :=
  s.fpCompare (encode (.fleD rd fs1 fs2)) .double true (fun a b => decide (a ≤ b)) rd fs1 fs2

/-- `flt.d` (44_rv64d:R517). -/
def execFltD (rd fs1 fs2 : Reg) (s : State) : Result :=
  s.fpCompare (encode (.fltD rd fs1 fs2)) .double true (fun a b => decide (a < b)) rd fs1 fs2

/-- `fmadd.d` (44_rv64d:R518). -/
def execFmaddD (fd fs1 fs2 fs3 : Reg) (rm : BitVec 3) (s : State) : Result :=
  s.fp3 (encode (.fmaddD fd fs1 fs2 fs3 rm)) .double false false fd fs1 fs2 fs3 rm

/-- `fmax.d` (44_rv64d:R519). -/
def execFmaxD (fd fs1 fs2 : Reg) (s : State) : Result := s.fpMinMax (encode (.fmaxD fd fs1 fs2)) .double true fd fs1 fs2

/-- `fmin.d` (44_rv64d:R520). -/
def execFminD (fd fs1 fs2 : Reg) (s : State) : Result := s.fpMinMax (encode (.fminD fd fs1 fs2)) .double false fd fs1 fs2

/-- `fmsub.d` (44_rv64d:R521). -/
def execFmsubD (fd fs1 fs2 fs3 : Reg) (rm : BitVec 3) (s : State) : Result :=
  s.fp3 (encode (.fmsubD fd fs1 fs2 fs3 rm)) .double false true fd fs1 fs2 fs3 rm

/-- `fmul.d` (44_rv64d:R522). -/
def execFmulD (fd fs1 fs2 : Reg) (rm : BitVec 3) (s : State) : Result :=
  s.fp2 (encode (.fmulD fd fs1 fs2 rm)) .double (Fmt.mul .double) fd fs1 fs2 rm

/-- `fmv.d.x` (44_rv64d:R523). -/
def execFmvDX (fd rs1 : Reg) (s : State) : Result := s.fpMoveIn (encode (.fmvDX fd rs1)) .double fd rs1

/-- `fmv.x.d` (44_rv64d:R524). -/
def execFmvXD (rd fs1 : Reg) (s : State) : Result := s.fpMoveOut (encode (.fmvXD rd fs1)) .double rd fs1

/-- `fnmadd.d` (44_rv64d:R525). -/
def execFnmaddD (fd fs1 fs2 fs3 : Reg) (rm : BitVec 3) (s : State) : Result :=
  s.fp3 (encode (.fnmaddD fd fs1 fs2 fs3 rm)) .double true true fd fs1 fs2 fs3 rm

/-- `fnmsub.d` (44_rv64d:R526). -/
def execFnmsubD (fd fs1 fs2 fs3 : Reg) (rm : BitVec 3) (s : State) : Result :=
  s.fp3 (encode (.fnmsubD fd fs1 fs2 fs3 rm)) .double true false fd fs1 fs2 fs3 rm

/-- `fsd` (44_rv64d:R527). -/
def execFsd (fs2 rs1 : Reg) (imm12 : BitVec 12) (s : State) : Result :=
  s.fpGate (encode (.fsd fs2 rs1 imm12)) (s.storeF 4 8 fs2 (s.addrImm rs1 imm12))

/-- `fsgnj.d` (44_rv64d:R528). -/
def execFsgnjD (fd fs1 fs2 : Reg) (s : State) : Result :=
  s.fpSign (encode (.fsgnjD fd fs1 fs2)) .double (fun _ b => b) fd fs1 fs2

/-- `fsgnjn.d` (44_rv64d:R529). -/
def execFsgnjnD (fd fs1 fs2 : Reg) (s : State) : Result :=
  s.fpSign (encode (.fsgnjnD fd fs1 fs2)) .double (fun _ b => !b) fd fs1 fs2

/-- `fsgnjx.d` (44_rv64d:R530). -/
def execFsgnjxD (fd fs1 fs2 : Reg) (s : State) : Result :=
  s.fpSign (encode (.fsgnjxD fd fs1 fs2)) .double (fun a b => a != b) fd fs1 fs2

/-- `fsqrt.d` (44_rv64d:R531). -/
def execFsqrtD (fd fs1 : Reg) (rm : BitVec 3) (s : State) : Result :=
  s.fpSqrt (encode (.fsqrtD fd fs1 rm)) .double fd fs1 rm

/-- `fsub.d` (44_rv64d:R532). -/
def execFsubD (fd fs1 fs2 : Reg) (rm : BitVec 3) (s : State) : Result :=
  s.fp2 (encode (.fsubD fd fs1 fs2 rm)) .double (Fmt.sub .double) fd fs1 fs2 rm

end Sys2Proof.Machine
end

