-- ==== Sys2Proof/Machine/FloatH.lean ====
section
/-! DEFINITION. Half-precision instructions (49_thead_fp16). -/

namespace Sys2Proof.Machine

/-- `fadd.h` (49_thead_fp16:R735). -/
def execFaddH (fd fs1 fs2 : Reg) (rm : BitVec 3) (s : State) : Result :=
  s.fp2 (encode (.faddH fd fs1 fs2 rm)) .half (Fmt.add .half) fd fs1 fs2 rm

/-- `fclass.h` (49_thead_fp16:R736). -/
def execFclassH (rd fs1 : Reg) (s : State) : Result := s.fpClass (encode (.fclassH rd fs1)) .half rd fs1

/-- `fcvt.d.h` (49_thead_fp16:R737). -/
def execFcvtDH (fd fs1 : Reg) (rm : BitVec 3) (s : State) : Result :=
  s.fpWiden (encode (.fcvtDH fd fs1 rm)) .half .double fd fs1 rm

/-- `fcvt.h.d` (49_thead_fp16:R738). -/
def execFcvtHD (fd fs1 : Reg) (rm : BitVec 3) (s : State) : Result :=
  s.fpNarrow (encode (.fcvtHD fd fs1 rm)) .double .half fd fs1 rm

/-- `fcvt.h.l` (49_thead_fp16:R739). -/
def execFcvtHL (fd rs1 : Reg) (rm : BitVec 3) (s : State) : Result :=
  s.fpOfInt (encode (.fcvtHL fd rs1 rm)) .half .l fd rs1 rm

/-- `fcvt.h.lu` (49_thead_fp16:R740). -/
def execFcvtHLu (fd rs1 : Reg) (rm : BitVec 3) (s : State) : Result :=
  s.fpOfInt (encode (.fcvtHLu fd rs1 rm)) .half .lu fd rs1 rm

/-- `fcvt.h.s` (49_thead_fp16:R741). -/
def execFcvtHS (fd fs1 : Reg) (rm : BitVec 3) (s : State) : Result :=
  s.fpNarrow (encode (.fcvtHS fd fs1 rm)) .single .half fd fs1 rm

/-- `fcvt.h.w` (49_thead_fp16:R742). -/
def execFcvtHW (fd rs1 : Reg) (rm : BitVec 3) (s : State) : Result :=
  s.fpOfInt (encode (.fcvtHW fd rs1 rm)) .half .w fd rs1 rm

/-- `fcvt.h.wu` (49_thead_fp16:R743). -/
def execFcvtHWu (fd rs1 : Reg) (rm : BitVec 3) (s : State) : Result :=
  s.fpOfInt (encode (.fcvtHWu fd rs1 rm)) .half .wu fd rs1 rm

/-- `fcvt.l.h` (49_thead_fp16:R744). -/
def execFcvtLH (rd fs1 : Reg) (rm : BitVec 3) (s : State) : Result :=
  s.fpToInt (encode (.fcvtLH rd fs1 rm)) .half .l rd fs1 rm

/-- `fcvt.lu.h` (49_thead_fp16:R745). -/
def execFcvtLuH (rd fs1 : Reg) (rm : BitVec 3) (s : State) : Result :=
  s.fpToInt (encode (.fcvtLuH rd fs1 rm)) .half .lu rd fs1 rm

/-- `fcvt.s.h` (49_thead_fp16:R746). -/
def execFcvtSH (fd fs1 : Reg) (rm : BitVec 3) (s : State) : Result :=
  s.fpWiden (encode (.fcvtSH fd fs1 rm)) .half .single fd fs1 rm

/-- `fcvt.w.h` (49_thead_fp16:R747). -/
def execFcvtWH (rd fs1 : Reg) (rm : BitVec 3) (s : State) : Result :=
  s.fpToInt (encode (.fcvtWH rd fs1 rm)) .half .w rd fs1 rm

/-- `fcvt.wu.h` (49_thead_fp16:R748). -/
def execFcvtWuH (rd fs1 : Reg) (rm : BitVec 3) (s : State) : Result :=
  s.fpToInt (encode (.fcvtWuH rd fs1 rm)) .half .wu rd fs1 rm

/-- `fdiv.h` (49_thead_fp16:R749). -/
def execFdivH (fd fs1 fs2 : Reg) (rm : BitVec 3) (s : State) : Result :=
  s.fp2 (encode (.fdivH fd fs1 fs2 rm)) .half (Fmt.div .half) fd fs1 fs2 rm

/-- `feq.h` (49_thead_fp16:R750). -/
def execFeqH (rd fs1 fs2 : Reg) (s : State) : Result :=
  s.fpCompare (encode (.feqH rd fs1 fs2)) .half false (fun a b => a == b) rd fs1 fs2

/-- `fle.h` (49_thead_fp16:R751). -/
def execFleH (rd fs1 fs2 : Reg) (s : State) : Result :=
  s.fpCompare (encode (.fleH rd fs1 fs2)) .half true (fun a b => decide (a ≤ b)) rd fs1 fs2

/-- `flh` (49_thead_fp16:R752). -/
def execFlh (fd rs1 : Reg) (imm12 : BitVec 12) (s : State) : Result :=
  s.fpGate (encode (.flh fd rs1 imm12)) (s.loadF 4 2 fd (s.addrImm rs1 imm12))

/-- `flt.h` (49_thead_fp16:R753). -/
def execFltH (rd fs1 fs2 : Reg) (s : State) : Result :=
  s.fpCompare (encode (.fltH rd fs1 fs2)) .half true (fun a b => decide (a < b)) rd fs1 fs2

/-- `fmadd.h` (49_thead_fp16:R754). -/
def execFmaddH (fd fs1 fs2 fs3 : Reg) (rm : BitVec 3) (s : State) : Result :=
  s.fp3 (encode (.fmaddH fd fs1 fs2 fs3 rm)) .half false false fd fs1 fs2 fs3 rm

/-- `fmax.h` (49_thead_fp16:R755). -/
def execFmaxH (fd fs1 fs2 : Reg) (s : State) : Result := s.fpMinMax (encode (.fmaxH fd fs1 fs2)) .half true fd fs1 fs2

/-- `fmin.h` (49_thead_fp16:R756). -/
def execFminH (fd fs1 fs2 : Reg) (s : State) : Result := s.fpMinMax (encode (.fminH fd fs1 fs2)) .half false fd fs1 fs2

/-- `fmsub.h` (49_thead_fp16:R757). -/
def execFmsubH (fd fs1 fs2 fs3 : Reg) (rm : BitVec 3) (s : State) : Result :=
  s.fp3 (encode (.fmsubH fd fs1 fs2 fs3 rm)) .half false true fd fs1 fs2 fs3 rm

/-- `fmul.h` (49_thead_fp16:R758). -/
def execFmulH (fd fs1 fs2 : Reg) (rm : BitVec 3) (s : State) : Result :=
  s.fp2 (encode (.fmulH fd fs1 fs2 rm)) .half (Fmt.mul .half) fd fs1 fs2 rm

/-- `fmv.h.x` (49_thead_fp16:R759). -/
def execFmvHX (fd rs1 : Reg) (s : State) : Result := s.fpMoveIn (encode (.fmvHX fd rs1)) .half fd rs1

/-- `fmv.x.h` (49_thead_fp16:R760). -/
def execFmvXH (rd fs1 : Reg) (s : State) : Result := s.fpMoveOut (encode (.fmvXH rd fs1)) .half rd fs1

/-- `fnmadd.h` (49_thead_fp16:R761). -/
def execFnmaddH (fd fs1 fs2 fs3 : Reg) (rm : BitVec 3) (s : State) : Result :=
  s.fp3 (encode (.fnmaddH fd fs1 fs2 fs3 rm)) .half true true fd fs1 fs2 fs3 rm

/-- `fnmsub.h` (49_thead_fp16:R762). -/
def execFnmsubH (fd fs1 fs2 fs3 : Reg) (rm : BitVec 3) (s : State) : Result :=
  s.fp3 (encode (.fnmsubH fd fs1 fs2 fs3 rm)) .half true false fd fs1 fs2 fs3 rm

/-- `fsgnj.h` (49_thead_fp16:R763). -/
def execFsgnjH (fd fs1 fs2 : Reg) (s : State) : Result :=
  s.fpSign (encode (.fsgnjH fd fs1 fs2)) .half (fun _ b => b) fd fs1 fs2

/-- `fsgnjn.h` (49_thead_fp16:R764). -/
def execFsgnjnH (fd fs1 fs2 : Reg) (s : State) : Result :=
  s.fpSign (encode (.fsgnjnH fd fs1 fs2)) .half (fun _ b => !b) fd fs1 fs2

/-- `fsgnjx.h` (49_thead_fp16:R765). -/
def execFsgnjxH (fd fs1 fs2 : Reg) (s : State) : Result :=
  s.fpSign (encode (.fsgnjxH fd fs1 fs2)) .half (fun a b => a != b) fd fs1 fs2

/-- `fsh` (49_thead_fp16:R766). -/
def execFsh (fs2 rs1 : Reg) (imm12 : BitVec 12) (s : State) : Result :=
  s.fpGate (encode (.fsh fs2 rs1 imm12)) (s.storeF 4 2 fs2 (s.addrImm rs1 imm12))

/-- `fsqrt.h` (49_thead_fp16:R767). -/
def execFsqrtH (fd fs1 : Reg) (rm : BitVec 3) (s : State) : Result :=
  s.fpSqrt (encode (.fsqrtH fd fs1 rm)) .half fd fs1 rm

/-- `fsub.h` (49_thead_fp16:R768). -/
def execFsubH (fd fs1 fs2 : Reg) (rm : BitVec 3) (s : State) : Result :=
  s.fp2 (encode (.fsubH fd fs1 fs2 rm)) .half (Fmt.sub .half) fd fs1 fs2 rm

end Sys2Proof.Machine
end

