-- ==== Sys2Proof/Machine/FloatS.lean ====
section
/-! DEFINITION. Single-precision instructions (43_rv64f). -/

namespace Sys2Proof.Machine

/-- `fadd.s` (43_rv64f:R466). -/
def execFaddS (fd fs1 fs2 : Reg) (rm : BitVec 3) (s : State) : Result :=
  s.fp2 (encode (.faddS fd fs1 fs2 rm)) .single (Fmt.add .single) fd fs1 fs2 rm

/-- `fclass.s` (43_rv64f:R467). -/
def execFclassS (rd fs1 : Reg) (s : State) : Result := s.fpClass (encode (.fclassS rd fs1)) .single rd fs1

/-- `fcvt.l.s` (43_rv64f:R468). -/
def execFcvtLS (rd fs1 : Reg) (rm : BitVec 3) (s : State) : Result :=
  s.fpToInt (encode (.fcvtLS rd fs1 rm)) .single .l rd fs1 rm

/-- `fcvt.lu.s` (43_rv64f:R469). -/
def execFcvtLuS (rd fs1 : Reg) (rm : BitVec 3) (s : State) : Result :=
  s.fpToInt (encode (.fcvtLuS rd fs1 rm)) .single .lu rd fs1 rm

/-- `fcvt.s.l` (43_rv64f:R470). -/
def execFcvtSL (fd rs1 : Reg) (rm : BitVec 3) (s : State) : Result :=
  s.fpOfInt (encode (.fcvtSL fd rs1 rm)) .single .l fd rs1 rm

/-- `fcvt.s.lu` (43_rv64f:R471). -/
def execFcvtSLu (fd rs1 : Reg) (rm : BitVec 3) (s : State) : Result :=
  s.fpOfInt (encode (.fcvtSLu fd rs1 rm)) .single .lu fd rs1 rm

/-- `fcvt.s.w` (43_rv64f:R472). -/
def execFcvtSW (fd rs1 : Reg) (rm : BitVec 3) (s : State) : Result :=
  s.fpOfInt (encode (.fcvtSW fd rs1 rm)) .single .w fd rs1 rm

/-- `fcvt.s.wu` (43_rv64f:R473). -/
def execFcvtSWu (fd rs1 : Reg) (rm : BitVec 3) (s : State) : Result :=
  s.fpOfInt (encode (.fcvtSWu fd rs1 rm)) .single .wu fd rs1 rm

/-- `fcvt.w.s` (43_rv64f:R474). -/
def execFcvtWS (rd fs1 : Reg) (rm : BitVec 3) (s : State) : Result :=
  s.fpToInt (encode (.fcvtWS rd fs1 rm)) .single .w rd fs1 rm

/-- `fcvt.wu.s` (43_rv64f:R475). -/
def execFcvtWuS (rd fs1 : Reg) (rm : BitVec 3) (s : State) : Result :=
  s.fpToInt (encode (.fcvtWuS rd fs1 rm)) .single .wu rd fs1 rm

/-- `fdiv.s` (43_rv64f:R476). -/
def execFdivS (fd fs1 fs2 : Reg) (rm : BitVec 3) (s : State) : Result :=
  s.fp2 (encode (.fdivS fd fs1 fs2 rm)) .single (Fmt.div .single) fd fs1 fs2 rm

/-- `feq.s` (43_rv64f:R477). -/
def execFeqS (rd fs1 fs2 : Reg) (s : State) : Result :=
  s.fpCompare (encode (.feqS rd fs1 fs2)) .single false (fun a b => a == b) rd fs1 fs2

/-- `fle.s` (43_rv64f:R478). -/
def execFleS (rd fs1 fs2 : Reg) (s : State) : Result :=
  s.fpCompare (encode (.fleS rd fs1 fs2)) .single true (fun a b => decide (a ≤ b)) rd fs1 fs2

/-- `flt.s` (43_rv64f:R479). -/
def execFltS (rd fs1 fs2 : Reg) (s : State) : Result :=
  s.fpCompare (encode (.fltS rd fs1 fs2)) .single true (fun a b => decide (a < b)) rd fs1 fs2

/-- `flw` (43_rv64f:R480). -/
def execFlw (fd rs1 : Reg) (imm12 : BitVec 12) (s : State) : Result :=
  s.fpGate (encode (.flw fd rs1 imm12)) (s.loadF 4 4 fd (s.addrImm rs1 imm12))

/-- `fmadd.s` (43_rv64f:R481). -/
def execFmaddS (fd fs1 fs2 fs3 : Reg) (rm : BitVec 3) (s : State) : Result :=
  s.fp3 (encode (.fmaddS fd fs1 fs2 fs3 rm)) .single false false fd fs1 fs2 fs3 rm

/-- `fmax.s` (43_rv64f:R482). -/
def execFmaxS (fd fs1 fs2 : Reg) (s : State) : Result := s.fpMinMax (encode (.fmaxS fd fs1 fs2)) .single true fd fs1 fs2

/-- `fmin.s` (43_rv64f:R483). -/
def execFminS (fd fs1 fs2 : Reg) (s : State) : Result := s.fpMinMax (encode (.fminS fd fs1 fs2)) .single false fd fs1 fs2

/-- `fmsub.s` (43_rv64f:R484). -/
def execFmsubS (fd fs1 fs2 fs3 : Reg) (rm : BitVec 3) (s : State) : Result :=
  s.fp3 (encode (.fmsubS fd fs1 fs2 fs3 rm)) .single false true fd fs1 fs2 fs3 rm

/-- `fmul.s` (43_rv64f:R485). -/
def execFmulS (fd fs1 fs2 : Reg) (rm : BitVec 3) (s : State) : Result :=
  s.fp2 (encode (.fmulS fd fs1 fs2 rm)) .single (Fmt.mul .single) fd fs1 fs2 rm

/-- `fmv.w.x` (43_rv64f:R486). -/
def execFmvWX (fd rs1 : Reg) (s : State) : Result := s.fpMoveIn (encode (.fmvWX fd rs1)) .single fd rs1

/-- `fmv.x.w` (43_rv64f:R487). -/
def execFmvXW (rd fs1 : Reg) (s : State) : Result := s.fpMoveOut (encode (.fmvXW rd fs1)) .single rd fs1

/-- `fnmadd.s` (43_rv64f:R488). -/
def execFnmaddS (fd fs1 fs2 fs3 : Reg) (rm : BitVec 3) (s : State) : Result :=
  s.fp3 (encode (.fnmaddS fd fs1 fs2 fs3 rm)) .single true true fd fs1 fs2 fs3 rm

/-- `fnmsub.s` (43_rv64f:R489). -/
def execFnmsubS (fd fs1 fs2 fs3 : Reg) (rm : BitVec 3) (s : State) : Result :=
  s.fp3 (encode (.fnmsubS fd fs1 fs2 fs3 rm)) .single true false fd fs1 fs2 fs3 rm

/-- `fsgnj.s` (43_rv64f:R490). -/
def execFsgnjS (fd fs1 fs2 : Reg) (s : State) : Result :=
  s.fpSign (encode (.fsgnjS fd fs1 fs2)) .single (fun _ b => b) fd fs1 fs2

/-- `fsgnjn.s` (43_rv64f:R491). -/
def execFsgnjnS (fd fs1 fs2 : Reg) (s : State) : Result :=
  s.fpSign (encode (.fsgnjnS fd fs1 fs2)) .single (fun _ b => !b) fd fs1 fs2

/-- `fsgnjx.s` (43_rv64f:R492). -/
def execFsgnjxS (fd fs1 fs2 : Reg) (s : State) : Result :=
  s.fpSign (encode (.fsgnjxS fd fs1 fs2)) .single (fun a b => a != b) fd fs1 fs2

/-- `fsqrt.s` (43_rv64f:R493). -/
def execFsqrtS (fd fs1 : Reg) (rm : BitVec 3) (s : State) : Result :=
  s.fpSqrt (encode (.fsqrtS fd fs1 rm)) .single fd fs1 rm

/-- `fsub.s` (43_rv64f:R494). -/
def execFsubS (fd fs1 fs2 : Reg) (rm : BitVec 3) (s : State) : Result :=
  s.fp2 (encode (.fsubS fd fs1 fs2 rm)) .single (Fmt.sub .single) fd fs1 fs2 rm

/-- `fsw` (43_rv64f:R495). -/
def execFsw (fs2 rs1 : Reg) (imm12 : BitVec 12) (s : State) : Result :=
  s.fpGate (encode (.fsw fs2 rs1 imm12)) (s.storeF 4 4 fs2 (s.addrImm rs1 imm12))

end Sys2Proof.Machine
end

