-- ==== Sys2Proof/Machine/LoadStore.lean ====
section
/-! DEFINITION. Integer loads and stores (40_rv64i section 4). -/

namespace Sys2Proof.Machine

/-- `lb` (40_rv64i:R373). -/
def execLb (rd rs1 : Reg) (imm12 : BitVec 12) (s : State) : Result := s.loadX 4 true 1 rd (s.addrImm rs1 imm12)

/-- `lbu` (40_rv64i:R374). -/
def execLbu (rd rs1 : Reg) (imm12 : BitVec 12) (s : State) : Result := s.loadX 4 false 1 rd (s.addrImm rs1 imm12)

/-- `lh` (40_rv64i:R375). -/
def execLh (rd rs1 : Reg) (imm12 : BitVec 12) (s : State) : Result := s.loadX 4 true 2 rd (s.addrImm rs1 imm12)

/-- `lhu` (40_rv64i:R376). -/
def execLhu (rd rs1 : Reg) (imm12 : BitVec 12) (s : State) : Result := s.loadX 4 false 2 rd (s.addrImm rs1 imm12)

/-- `lw` (40_rv64i:R377). -/
def execLw (rd rs1 : Reg) (imm12 : BitVec 12) (s : State) : Result := s.loadX 4 true 4 rd (s.addrImm rs1 imm12)

/-- `lwu` (40_rv64i:R378). -/
def execLwu (rd rs1 : Reg) (imm12 : BitVec 12) (s : State) : Result := s.loadX 4 false 4 rd (s.addrImm rs1 imm12)

/-- `ld` (40_rv64i:R379). -/
def execLd (rd rs1 : Reg) (imm12 : BitVec 12) (s : State) : Result := s.loadX 4 true 8 rd (s.addrImm rs1 imm12)

/-- `sb` (40_rv64i:R380). -/
def execSb (rs2 rs1 : Reg) (imm12 : BitVec 12) (s : State) : Result := s.storeV 4 1 (s.getX rs2) (s.addrImm rs1 imm12)

/-- `sh` (40_rv64i:R381). -/
def execSh (rs2 rs1 : Reg) (imm12 : BitVec 12) (s : State) : Result := s.storeV 4 2 (s.getX rs2) (s.addrImm rs1 imm12)

/-- `sw` (40_rv64i:R382). -/
def execSw (rs2 rs1 : Reg) (imm12 : BitVec 12) (s : State) : Result := s.storeV 4 4 (s.getX rs2) (s.addrImm rs1 imm12)

/-- `sd` (40_rv64i:R383). -/
def execSd (rs2 rs1 : Reg) (imm12 : BitVec 12) (s : State) : Result := s.storeV 4 8 (s.getX rs2) (s.addrImm rs1 imm12)

end Sys2Proof.Machine
end

