-- ==== Sys2Proof/Machine/MulDiv.lean ====
section
/-! DEFINITION. Multiplication and division (41_rv64m). -/

namespace Sys2Proof.Machine

/-- Bits 127:64 of an exact product (41_rv64m:R416). -/
def highPart (p : Int) : Word := BitVec.ofInt 64 (p / 2 ^ 64)

/-- Truncating signed division: a divisor of 0 gives -1, the overflow gives the dividend (41_rv64m:R411). -/
def divSigned {w : Nat} (a b : BitVec w) : BitVec w := if b = 0 then BitVec.allOnes w else BitVec.ofInt w (a.toInt.tdiv b.toInt)

/-- Unsigned division: a divisor of 0 gives all ones (41_rv64m:R412). -/
def divUnsigned {w : Nat} (a b : BitVec w) : BitVec w := if b = 0 then BitVec.allOnes w else BitVec.ofNat w (a.toNat / b.toNat)

/-- Signed remainder with the sign of the dividend: a divisor of 0 gives the dividend (41_rv64m:R420). -/
def remSigned {w : Nat} (a b : BitVec w) : BitVec w := if b = 0 then a else BitVec.ofInt w (a.toInt.tmod b.toInt)

/-- Unsigned remainder: a divisor of 0 gives the dividend (41_rv64m:R421). -/
def remUnsigned {w : Nat} (a b : BitVec w) : BitVec w := if b = 0 then a else BitVec.ofNat w (a.toNat % b.toNat)

/-- `div` (41_rv64m:R411). -/
def execDiv (rd rs1 rs2 : Reg) (s : State) : Result := s.aluReg divSigned rd rs1 rs2

/-- `divu` (41_rv64m:R412). -/
def execDivu (rd rs1 rs2 : Reg) (s : State) : Result := s.aluReg divUnsigned rd rs1 rs2

/-- `divuw` (41_rv64m:R413). -/
def execDivuw (rd rs1 rs2 : Reg) (s : State) : Result := s.aluReg (onLow divUnsigned) rd rs1 rs2

/-- `divw` (41_rv64m:R414). -/
def execDivw (rd rs1 rs2 : Reg) (s : State) : Result := s.aluReg (onLow divSigned) rd rs1 rs2

/-- `mul` (41_rv64m:R415). -/
def execMul (rd rs1 rs2 : Reg) (s : State) : Result := s.aluReg (· * ·) rd rs1 rs2

/-- `mulh` (41_rv64m:R416). -/
def execMulh (rd rs1 rs2 : Reg) (s : State) : Result := s.aluReg (fun a b => highPart (a.toInt * b.toInt)) rd rs1 rs2

/-- `mulhsu` (41_rv64m:R417). -/
def execMulhsu (rd rs1 rs2 : Reg) (s : State) : Result := s.aluReg (fun a b => highPart (a.toInt * b.toNat)) rd rs1 rs2

/-- `mulhu` (41_rv64m:R418). -/
def execMulhu (rd rs1 rs2 : Reg) (s : State) : Result := s.aluReg (fun a b => highPart (a.toNat * b.toNat)) rd rs1 rs2

/-- `mulw` (41_rv64m:R419). -/
def execMulw (rd rs1 rs2 : Reg) (s : State) : Result := s.aluReg (onLow (· * ·)) rd rs1 rs2

/-- `rem` (41_rv64m:R420). -/
def execRem (rd rs1 rs2 : Reg) (s : State) : Result := s.aluReg remSigned rd rs1 rs2

/-- `remu` (41_rv64m:R421). -/
def execRemu (rd rs1 rs2 : Reg) (s : State) : Result := s.aluReg remUnsigned rd rs1 rs2

/-- `remuw` (41_rv64m:R422). -/
def execRemuw (rd rs1 rs2 : Reg) (s : State) : Result := s.aluReg (onLow remUnsigned) rd rs1 rs2

/-- `remw` (41_rv64m:R423). -/
def execRemw (rd rs1 rs2 : Reg) (s : State) : Result := s.aluReg (onLow remSigned) rd rs1 rs2

end Sys2Proof.Machine
end

