-- ==== Sys2Proof/Machine/System.lean ====
section
/-! DEFINITION. FENCE, FENCE.I, the CSR instructions and the privileged instructions (40_rv64i sections 5 and 6). -/

namespace Sys2Proof.Machine

/-- The register is `minstret` (11_csr_standard:R90, 12_csr_extended:R164). -/
def Csr.isInstret : Csr → Bool
  | .minstret | .sinstret => true
  | _ => false

/-- A CSR instruction completes that writes the register `c`: one that writes `minstret` does not count there
(93_implementation_defined:U5, 62_pmu_debug_power:R905). -/
def State.retireInto (s : State) (c : Csr) : State :=
  if c.isInstret then ({ s with me := s.me.tickCycles 1 } : State).setPc (s.me.pc + 4) else s.retire 4

/-- The shape of the CSR instructions: the old value is read, the instruction counts as retired, the register is written if
the instruction would write, and `x[rd]` gets the old value; the pipeline is drained (70_reset_and_hazards:R950); an access that
is not legal raises illegal instruction (40_rv64i:R386, R392, 10_state:R32). An instruction that writes `minstret` does not count in
it (93_implementation_defined:U5). DESIGN CHOICE (log 13): another counter that this very
instruction makes wrap sets its bit of `mcounterof` before the write, so a write of `mcounterof` or `scounterof`, whose value
comes from the old one, overwrites that bit; the spec does not say which comes first (62_pmu_debug_power:R905). -/
def State.csrOp (s : State) (code : Code) (csr : BitVec 12) (write : Bool) (f : Word → Word) (rd : Reg) : Result :=
  match csrOf csr.toNat with
  | none => .next (s.illegal code)
  | some c =>
    if s.me.csrAllowed c write then
      let t := s.csrRead c
      .next (((if write then (s.retireInto c).csrWrite c (f t) else s.retire 4).refetchMine).setX rd t)
    else .next (s.illegal code)

/-- The environment-call code of the current mode (40_rv64i:R393). -/
def State.ecallCode (s : State) : Nat :=
  match s.me.priv with
  | .user => 8
  | .supervisor => 9
  | .machine => 11

/-- Machine mode, or supervisor mode with the trapping bit of `mstatus` clear: TSR for SRET, TVM for SFENCE
(40_rv64i:R395, R397). -/
def State.mayFenceOrReturn (s : State) (trapBit : Nat) : Bool :=
  match s.me.priv with
  | .user => false
  | .supervisor => !bit s.me.m.mstatus trapBit
  | .machine => true

/-- The state after MRET's return. -/
def State.returnM (s : State) : State := { s with me := s.me.returnM }

/-- The state after SRET's return. -/
def State.returnS (s : State) : State := { s with me := s.me.returnS }

/-- The running hart waits for an interrupt (62_pmu_debug_power:R920). -/
def State.sleep (s : State) : State := { s with me := { s.me with lowPower := true } }

/-- `fence` (40_rv64i:R384): in a model that performs accesses one at a time in program order, its order holds already (log 48). -/
def execFence (_fm _pred _succ : BitVec 4) (_rs1 _rd : Reg) (s : State) : Result := .next (s.retire 4)

/-- `fence.i` (40_rv64i:R385). -/
def execFenceI (_imm12 : BitVec 12) (_rs1 _rd : Reg) (s : State) : Result := .next (s.fenceI.retire 4)

/-- `csrrw` (40_rv64i:R386). -/
def execCsrrw (rd : Reg) (csr : BitVec 12) (rs1 : Reg) (s : State) : Result :=
  s.csrOp (encode (.csrrw rd csr rs1)) csr true (fun _ => s.getX rs1) rd

/-- `csrrs` (40_rv64i:R387). -/
def execCsrrs (rd : Reg) (csr : BitVec 12) (rs1 : Reg) (s : State) : Result :=
  s.csrOp (encode (.csrrs rd csr rs1)) csr (rs1 != 0) (fun t => t ||| s.getX rs1) rd

/-- `csrrc` (40_rv64i:R388). -/
def execCsrrc (rd : Reg) (csr : BitVec 12) (rs1 : Reg) (s : State) : Result :=
  s.csrOp (encode (.csrrc rd csr rs1)) csr (rs1 != 0) (fun t => t &&& ~~~s.getX rs1) rd

/-- `csrrwi` (40_rv64i:R389). -/
def execCsrrwi (rd : Reg) (csr : BitVec 12) (uimm5 : BitVec 5) (s : State) : Result :=
  s.csrOp (encode (.csrrwi rd csr uimm5)) csr true (fun _ => uimm5.setWidth 64) rd

/-- `csrrsi` (40_rv64i:R390). -/
def execCsrrsi (rd : Reg) (csr : BitVec 12) (uimm5 : BitVec 5) (s : State) : Result :=
  s.csrOp (encode (.csrrsi rd csr uimm5)) csr (uimm5 != 0) (fun t => t ||| uimm5.setWidth 64) rd

/-- `csrrci` (40_rv64i:R391). -/
def execCsrrci (rd : Reg) (csr : BitVec 12) (uimm5 : BitVec 5) (s : State) : Result :=
  s.csrOp (encode (.csrrci rd csr uimm5)) csr (uimm5 != 0) (fun t => t &&& ~~~uimm5.setWidth 64) rd

/-- `ecall` (40_rv64i:R393). -/
def execEcall (s : State) : Result := .next (s.raise s.ecallCode 0)

/-- `ebreak` (40_rv64i:R394): debug mode is out of scope (62_pmu_debug_power:R910). -/
def execEbreak (s : State) : Result := .next (s.raise 3 0)

/-- `sret` (40_rv64i:R395). -/
def execSret (s : State) : Result :=
  if s.mayFenceOrReturn mstatusTSR then .next s.tick.returnS else .next (s.illegal (encode .sret))

/-- `mret` (40_rv64i:R396). -/
def execMret (s : State) : Result :=
  if s.me.priv = .machine then .next s.tick.returnM else .next (s.illegal (encode .mret))

/-- `sfence.vma` (40_rv64i:R397). -/
def execSfenceVma (rs1 rs2 : Reg) (s : State) : Result :=
  if s.mayFenceOrReturn mstatusTVM then .next ((s.fenceTlb rs1 rs2 (!bit s.me.th.mhint mhintTlbBroadDis)).retire 4)
  else .next (s.illegal (encode (.sfenceVma rs1 rs2)))

/-- `wfi` (40_rv64i:R399): the hart waits until an interrupt is pending and enabled (D28, log 46). -/
def execWfi (s : State) : Result :=
  if s.me.priv = .supervisor ∧ bit s.me.m.mstatus mstatusTW = true then .next (s.illegal (encode .wfi))
  else .next (s.retire 4).sleep

end Sys2Proof.Machine
end

