-- ==== Sys2Proof/Machine/TheadArith.lean ====
section
/-! DEFINITION. T-Head arithmetic and bit operations (46_thead_arith_bit). -/

namespace Sys2Proof.Machine

/-- The forms that read `x[rd]` as a third source (46_thead_arith_bit:R590). -/
def State.accumulate (s : State) (f : Word → Word → Word → Word) (rd rs1 rs2 : Reg) : Result :=
  s.writeX 4 rd (f (s.getX rd) (s.getX rs1) (s.getX rs2))

/-- The signed product of two low halfwords, as 32 bits (46_thead_arith_bit:R593). -/
def product16 (a b : Word) : BitVec 32 := (a.setWidth 16).signExtend 32 * (b.setWidth 16).signExtend 32

/-- Bits `msb:lsb` of a word, extended (46_thead_arith_bit:R602). -/
def bitField (signed : Bool) (w : Word) (msb lsb : Nat) : Word :=
  let v := BitVec.ofNat (msb - lsb + 1) (w.toNat / 2 ^ lsb)
  if signed then v.signExtend 64 else v.setWidth 64

/-- EXT and EXTU; with `msb < lsb` the result is a free value (93_implementation_defined:U25). -/
def State.extract (s : State) (signed : Bool) (rd rs1 : Reg) (msb lsb : Nat) : Result :=
  if msb < lsb then s.drawn.writeX 4 rd (Config.freeWord s.draws) else s.writeX 4 rd (bitField signed (s.getX rs1) msb lsb)

/-- The number of leading zero bits (46_thead_arith_bit:R605). -/
def leadingZeros (w : Word) : Word := if w = 0 then 64 else BitVec.ofNat 64 (63 - Nat.log2 w.toNat)

/-- The low `n` bytes in reverse order (46_thead_arith_bit:R606). -/
def reverseBytes (n : Nat) (w : Word) : Word := BitVec.ofNat 64 (ofBytesLe (bytesLe w.toNat n).reverse)

/-- All ones in each byte that is zero, all zeros in the others (46_thead_arith_bit:R609). -/
def zeroByteMask (w : Word) : Word :=
  BitVec.ofNat 64 (ofBytesLe ((bytesLe w.toNat 8).map fun b => if b = 0 then 0xff else 0))

/-- `addsl` (46_thead_arith_bit:R591). -/
def execAddsl (rd rs1 rs2 : Reg) (imm2 : BitVec 2) (s : State) : Result :=
  s.theadGate (encode (.addsl rd rs1 rs2 imm2)) (s.aluReg (fun a b => a + (b <<< imm2.toNat)) rd rs1 rs2)

/-- `mula` (46_thead_arith_bit:R592). -/
def execMula (rd rs1 rs2 : Reg) (s : State) : Result :=
  s.theadGate (encode (.mula rd rs1 rs2)) (s.accumulate (fun t a b => t + a * b) rd rs1 rs2)

/-- `mulah` (46_thead_arith_bit:R593): signed operands (93_implementation_defined:U24). -/
def execMulah (rd rs1 rs2 : Reg) (s : State) : Result :=
  s.theadGate (encode (.mulah rd rs1 rs2)) (s.accumulate (fun t a b => sext32 (low32 t + product16 a b)) rd rs1 rs2)

/-- `mulaw` (46_thead_arith_bit:R594). -/
def execMulaw (rd rs1 rs2 : Reg) (s : State) : Result :=
  s.theadGate (encode (.mulaw rd rs1 rs2)) (s.accumulate (fun t a b => sext32 (low32 t + low32 a * low32 b)) rd rs1 rs2)

/-- `muls` (46_thead_arith_bit:R595). -/
def execMuls (rd rs1 rs2 : Reg) (s : State) : Result :=
  s.theadGate (encode (.muls rd rs1 rs2)) (s.accumulate (fun t a b => t - a * b) rd rs1 rs2)

/-- `mulsh` (46_thead_arith_bit:R596): signed operands (93_implementation_defined:U24). -/
def execMulsh (rd rs1 rs2 : Reg) (s : State) : Result :=
  s.theadGate (encode (.mulsh rd rs1 rs2)) (s.accumulate (fun t a b => sext32 (low32 t - product16 a b)) rd rs1 rs2)

/-- `mulsw` (46_thead_arith_bit:R597). -/
def execMulsw (rd rs1 rs2 : Reg) (s : State) : Result :=
  s.theadGate (encode (.mulsw rd rs1 rs2)) (s.accumulate (fun t a b => sext32 (low32 t - low32 a * low32 b)) rd rs1 rs2)

/-- `mveqz` (46_thead_arith_bit:R598). -/
def execMveqz (rd rs1 rs2 : Reg) (s : State) : Result :=
  s.theadGate (encode (.mveqz rd rs1 rs2)) (s.accumulate (fun t a b => if b = 0 then a else t) rd rs1 rs2)

/-- `mvnez` (46_thead_arith_bit:R599). -/
def execMvnez (rd rs1 rs2 : Reg) (s : State) : Result :=
  s.theadGate (encode (.mvnez rd rs1 rs2)) (s.accumulate (fun t a b => if b ≠ 0 then a else t) rd rs1 rs2)

/-- `srri` (46_thead_arith_bit:R600). -/
def execSrri (rd rs1 : Reg) (imm6 : BitVec 6) (s : State) : Result :=
  s.theadGate (encode (.srri rd rs1 imm6)) (s.writeX 4 rd ((s.getX rs1).rotateRight imm6.toNat))

/-- `srriw` (46_thead_arith_bit:R601). -/
def execSrriw (rd rs1 : Reg) (imm5 : BitVec 5) (s : State) : Result :=
  s.theadGate (encode (.srriw rd rs1 imm5)) (s.writeX 4 rd (sext32 ((low32 (s.getX rs1)).rotateRight imm5.toNat)))

/-- `ext` (46_thead_arith_bit:R602). -/
def execExt (rd rs1 : Reg) (msb lsb : BitVec 6) (s : State) : Result :=
  s.theadGate (encode (.ext rd rs1 msb lsb)) (s.extract true rd rs1 msb.toNat lsb.toNat)

/-- `extu` (46_thead_arith_bit:R603). -/
def execExtu (rd rs1 : Reg) (msb lsb : BitVec 6) (s : State) : Result :=
  s.theadGate (encode (.extu rd rs1 msb lsb)) (s.extract false rd rs1 msb.toNat lsb.toNat)

/-- `ff0` (46_thead_arith_bit:R604). -/
def execFf0 (rd rs1 : Reg) (s : State) : Result :=
  s.theadGate (encode (.ff0 rd rs1)) (s.writeX 4 rd (leadingZeros (~~~s.getX rs1)))

/-- `ff1` (46_thead_arith_bit:R605). -/
def execFf1 (rd rs1 : Reg) (s : State) : Result :=
  s.theadGate (encode (.ff1 rd rs1)) (s.writeX 4 rd (leadingZeros (s.getX rs1)))

/-- `rev` (46_thead_arith_bit:R606). -/
def execRev (rd rs1 : Reg) (s : State) : Result :=
  s.theadGate (encode (.rev rd rs1)) (s.writeX 4 rd (reverseBytes 8 (s.getX rs1)))

/-- `revw` (46_thead_arith_bit:R607). -/
def execRevw (rd rs1 : Reg) (s : State) : Result :=
  s.theadGate (encode (.revw rd rs1)) (s.writeX 4 rd (sext32 ((reverseBytes 4 (s.getX rs1)).setWidth 32)))

/-- `tst` (46_thead_arith_bit:R608). -/
def execTst (rd rs1 : Reg) (imm6 : BitVec 6) (s : State) : Result :=
  s.theadGate (encode (.tst rd rs1 imm6)) (s.writeX 4 rd (boolWord (bit (s.getX rs1) imm6.toNat)))

/-- `tstnbz` (46_thead_arith_bit:R609). -/
def execTstnbz (rd rs1 : Reg) (s : State) : Result :=
  s.theadGate (encode (.tstnbz rd rs1)) (s.writeX 4 rd (zeroByteMask (s.getX rs1)))

end Sys2Proof.Machine
end

