-- ==== Sys2Proof/Machine/TheadCache.lean ====
section
/-! DEFINITION. T-Head cache and synchronisation instructions (48_thead_cache_sync). -/

namespace Sys2Proof.Machine

/-- `mxstatus.UCME` (48_thead_cache_sync:R691). -/
def Hart.userCacheOps (h : Hart) : Bool := bit h.th.mxstatus mxstatusUCME

/-- The gates of the cache instructions and SFENCE.VMAS: THEADISAEE, and in user mode `userOk` (48_thead_cache_sync:R690,
R691). -/
def State.cacheGate (s : State) (c : Code) (userOk : Bool) (k : Result) : Result :=
  s.theadGate c (if s.me.priv = .user ∧ userOk = false then .next (s.illegal c) else k)

/-- The line of a physical address operand: bits 39:0 (48_thead_cache_sync:R692). -/
def physicalLine (w : Word) : CacheLine → Bool := onLine (lineOf (w.setWidth 40).toNat)

/-- Clean a line in this core's L1, the other one's where it is shareable, and the L2 (48_thead_cache_sync:R700). -/
def State.cleanVa (s : State) (sel : CacheLine → Bool) (shared : Bool) : State :=
  (if shared then s.cleanBoth sel else s.cleanMine sel).cleanL2 sel

/-- Clean and invalidate a line in this core's L1, the other one's where it is shareable, and the L2
(48_thead_cache_sync:R692, R697). -/
def State.flushVa (s : State) (sel : CacheLine → Bool) (shared : Bool) : State :=
  if shared then s.flushAll sel else ((s.flushMine sel).cleanL2 sel).renewL2 sel

/-- Clean a line in the L1 D-caches alone (48_thead_cache_sync:R701). -/
def State.cleanVaL1 (s : State) (sel : CacheLine → Bool) (shared : Bool) : State :=
  if shared then s.cleanBoth sel else s.cleanMine sel

/-- Invalidate a line in this core's L1, the other one's where it is shareable, and the L2 (48_thead_cache_sync:R692, R704). -/
def State.invalVa (s : State) (sel : CacheLine → Bool) (shared : Bool) : State :=
  if shared then s.invalAll sel else (s.invalMine sel).renewL2 sel

/-- An operation on the line of a virtual address (48_thead_cache_sync:R692). -/
def State.onVirtualLine (s : State) (rs1 : Reg) (act : State → (CacheLine → Bool) → Bool → State) : Result :=
  ((s.cacheLine (s.getX rs1)).andThen fun line s =>
    .ok ()
      ((match line with
        | some (pa, shared) => act s (onLine (lineOf pa)) shared
        | none => s).retire 4)).finish

/-- `dcache.call` (48_thead_cache_sync:R693). -/
def execDcacheCall (s : State) : Result :=
  s.cacheGate (encode .dcacheCall) false (.next ((s.cleanMine everyLine).retire 4))

/-- `dcache.ciall` (48_thead_cache_sync:R694). -/
def execDcacheCiall (s : State) : Result :=
  s.cacheGate (encode .dcacheCiall) false (.next ((s.flushMine everyLine).retire 4))

/-- `dcache.cipa` (48_thead_cache_sync:R695). -/
def execDcacheCipa (rs1 : Reg) (s : State) : Result :=
  s.cacheGate (encode (.dcacheCipa rs1)) false (.next ((s.flushAll (physicalLine (s.getX rs1))).retire 4))

/-- `dcache.cisw` (48_thead_cache_sync:R696). -/
def execDcacheCisw (rs1 : Reg) (s : State) : Result :=
  s.cacheGate (encode (.dcacheCisw rs1)) false (.next ((s.flushMine (inWay (s.getX rs1))).retire 4))

/-- `dcache.civa` (48_thead_cache_sync:R697). -/
def execDcacheCiva (rs1 : Reg) (s : State) : Result :=
  s.cacheGate (encode (.dcacheCiva rs1)) s.me.userCacheOps (s.onVirtualLine rs1 State.flushVa)

/-- `dcache.cpa` (48_thead_cache_sync:R698). -/
def execDcacheCpa (rs1 : Reg) (s : State) : Result :=
  s.cacheGate (encode (.dcacheCpa rs1)) false (.next ((s.cleanAll (physicalLine (s.getX rs1))).retire 4))

/-- `dcache.cpal1` (48_thead_cache_sync:R699). -/
def execDcacheCpal1 (rs1 : Reg) (s : State) : Result :=
  s.cacheGate (encode (.dcacheCpal1 rs1)) false (.next ((s.cleanBoth (physicalLine (s.getX rs1))).retire 4))

/-- `dcache.cva` (48_thead_cache_sync:R700). -/
def execDcacheCva (rs1 : Reg) (s : State) : Result :=
  s.cacheGate (encode (.dcacheCva rs1)) false (s.onVirtualLine rs1 State.cleanVa)

/-- `dcache.cval1` (48_thead_cache_sync:R701). -/
def execDcacheCval1 (rs1 : Reg) (s : State) : Result :=
  s.cacheGate (encode (.dcacheCval1 rs1)) s.me.userCacheOps (s.onVirtualLine rs1 State.cleanVaL1)

/-- `dcache.ipa` (48_thead_cache_sync:R702). -/
def execDcacheIpa (rs1 : Reg) (s : State) : Result :=
  s.cacheGate (encode (.dcacheIpa rs1)) false (.next ((s.invalAll (physicalLine (s.getX rs1))).retire 4))

/-- `dcache.isw` (48_thead_cache_sync:R703). -/
def execDcacheIsw (rs1 : Reg) (s : State) : Result :=
  s.cacheGate (encode (.dcacheIsw rs1)) false (.next ((s.invalMine (inWay (s.getX rs1))).retire 4))

/-- `dcache.iva` (48_thead_cache_sync:R704). -/
def execDcacheIva (rs1 : Reg) (s : State) : Result :=
  s.cacheGate (encode (.dcacheIva rs1)) false (s.onVirtualLine rs1 State.invalVa)

/-- `dcache.iall` (48_thead_cache_sync:R705). -/
def execDcacheIall (s : State) : Result :=
  s.cacheGate (encode .dcacheIall) false (.next ((s.invalMine everyLine).retire 4))

/-- `icache.iall` (48_thead_cache_sync:R706). -/
def execIcacheIall (s : State) : Result :=
  s.cacheGate (encode .icacheIall) false (.next ((s.invalIcache (fun _ => true) false).retire 4))

/-- `icache.ialls` (48_thead_cache_sync:R707). -/
def execIcacheIalls (s : State) : Result :=
  s.cacheGate (encode .icacheIalls) false (.next ((s.invalIcache (fun _ => true) true).retire 4))

/-- `icache.ipa` (48_thead_cache_sync:R708). -/
def execIcacheIpa (rs1 : Reg) (s : State) : Result :=
  s.cacheGate (encode (.icacheIpa rs1)) false (.next ((s.invalIcache (fun e => physicalLine (s.getX rs1) e.line) true).retire 4))

/-- `icache.iva` (48_thead_cache_sync:R709): the line in the set of the virtual address; in another set, through an alias, it stays
(log 42). -/
def execIcacheIva (rs1 : Reg) (s : State) : Result :=
  s.cacheGate (encode (.icacheIva rs1)) s.me.userCacheOps
    (s.onVirtualLine rs1 fun t sel => t.invalIcache fun e => e.set == codeSet (s.getX rs1) && sel e.line)

/-- `l2cache.call` (48_thead_cache_sync:R710). -/
def execL2cacheCall (s : State) : Result :=
  s.cacheGate (encode .l2cacheCall) false (.next ((s.cleanAll everyLine).retire 4))

/-- `l2cache.ciall` (48_thead_cache_sync:R711). -/
def execL2cacheCiall (s : State) : Result :=
  s.cacheGate (encode .l2cacheCiall) false (.next ((s.flushAll everyLine).retire 4))

/-- `l2cache.iall` (48_thead_cache_sync:R712). DESIGN CHOICE (log 41): the rule speaks of the L2's entries alone; both L1 D-caches,
which the L2 includes (20_memory:R220), lose their lines with it, and their dirty data without a write-back. -/
def execL2cacheIall (s : State) : Result :=
  s.cacheGate (encode .l2cacheIall) false (.next ((s.invalAll everyLine).retire 4))

/-- `dcache.csw` (48_thead_cache_sync:R713). -/
def execDcacheCsw (rs1 : Reg) (s : State) : Result :=
  s.cacheGate (encode (.dcacheCsw rs1)) false (.next ((s.cleanMine (inWay (s.getX rs1))).retire 4))

/-- `sfence.vmas` (48_thead_cache_sync:R715): it always broadcasts (R715, 21_mmu_pmp:R250). DESIGN CHOICE (log 64):
12_csr_extended:R140 lets `mhint.TLB_BROAD_DIS` confine it too, and no ruling of the spec decides; the parameter
`Soc.vmasObeysBroadDis` says which, and its default follows R715. -/
def execSfenceVmas (rs1 rs2 : Reg) (s : State) : Result :=
  s.cacheGate (encode (.sfenceVmas rs1 rs2)) false
    (if s.me.priv = .supervisor ∧ bit s.me.m.mstatus mstatusTVM = true then .next (s.illegal (encode (.sfenceVmas rs1 rs2)))
     else .next ((s.fenceTlb rs1 rs2 (!(s.soc.vmasObeysBroadDis && bit s.me.th.mhint mhintTlbBroadDis))).retire 4))

/-- The gates of the four SYNC instructions: THEADISAEE. DESIGN CHOICE (log 63): their own rules and R690 let them run in user
mode, 30_encoding:R290 only under `mxstatus.UCME`; the parameter `Soc.syncNeedsUcme` says which, and its default follows
R716. -/
def State.syncGate (s : State) (c : Code) (k : Result) : Result :=
  s.cacheGate c (!s.soc.syncNeedsUcme || s.me.userCacheOps) k

/-- `sync` (48_thead_cache_sync:R716): see log 48. -/
def execSync (s : State) : Result := s.syncGate (encode .sync) (.next (s.retire 4))

/-- `sync.s` (48_thead_cache_sync:R717). -/
def execSyncS (s : State) : Result := s.syncGate (encode .syncS) (.next (s.complete.retire 4))

/-- `sync.i` (48_thead_cache_sync:R718). -/
def execSyncI (s : State) : Result := s.syncGate (encode .syncI) (.next (s.refetchMine.retire 4))

/-- `sync.is` (48_thead_cache_sync:R719). -/
def execSyncIs (s : State) : Result :=
  s.syncGate (encode .syncIs) (.next (s.complete.refetchMine.refetchOther.retire 4))

end Sys2Proof.Machine
end

