-- ==== Sys2Proof/Machine/TheadMem.lean ====
section
/-! DEFINITION. T-Head memory accesses (47_thead_mem). -/

namespace Sys2Proof.Machine

/-- A base-update load: with `after` the access is at the old base, else at the new one; the access comes first, so a fault
leaves both registers; `rd = rs1` is illegal (47_thead_mem:R621(b), (e)). DESIGN CHOICE (log 37): R621(e) and
92_eei_decisions:D21 are followed after a bus error too, where 60_exceptions:R797 calls `x[rd]` unspecified. -/
def State.loadUpdate (s : State) (c : Code) (signed : Bool) (n : Nat) (after : Bool) (rd rs1 : Reg) (step : Word) : Result :=
  if rd = rs1 then .next (s.illegal c)
  else
    let base := s.getX rs1
    ((s.memRead (if after then base else base + step) n).andThen fun v s =>
      .ok () (((s.setX rs1 (base + step)).setX rd (loadWord signed n v)).retire 4)).finish

/-- A base-update store; the data are read before the base is written (47_thead_mem:R621(b), (e)). -/
def State.storeUpdate (s : State) (n : Nat) (after : Bool) (rs2 rs1 : Reg) (step : Word) : Result :=
  let base := s.getX rs1
  ((s.memWrite (if after then base else base + step) n (s.getX rs2).toNat).andThen fun _ s =>
    .ok () ((s.setX rs1 (base + step)).retire 4)).finish

/-- A pair load; equal registers are illegal (47_thead_mem:R621(c), 93_implementation_defined:U26). After a bus error: log 37. -/
def State.loadPair (s : State) (c : Code) (signed : Bool) (n : Nat) (rd1 rd2 rs1 : Reg) (va : Word) : Result :=
  if distinct3 rd1 rd2 rs1 then
    ((s.memReadPair va n).andThen fun v s =>
      .ok () (((s.setX rd1 (loadWord signed n v.1)).setX rd2 (loadWord signed n v.2)).retire 4)).finish
  else .next (s.illegal c)

/-- A pair store (47_thead_mem:R621(c), (e)). -/
def State.storePair (s : State) (n : Nat) (rd1 rd2 : Reg) (va : Word) : Result :=
  ((s.memWritePair va n (s.getX rd1).toNat (s.getX rd2).toNat).andThen fun _ s => .ok () (s.retire 4)).finish

/-- `flrd` (47_thead_mem:R622). -/
def execFlrd (fd rs1 rs2 : Reg) (imm2 : BitVec 2) (s : State) : Result :=
  s.theadGate (encode (.flrd fd rs1 rs2 imm2)) (s.fpGate (encode (.flrd fd rs1 rs2 imm2)) (s.loadF 4 8 fd (s.addrIndexed rs1 rs2 imm2)))

/-- `flrw` (47_thead_mem:R623). -/
def execFlrw (fd rs1 rs2 : Reg) (imm2 : BitVec 2) (s : State) : Result :=
  s.theadGate (encode (.flrw fd rs1 rs2 imm2)) (s.fpGate (encode (.flrw fd rs1 rs2 imm2)) (s.loadF 4 4 fd (s.addrIndexed rs1 rs2 imm2)))

/-- `flurd` (47_thead_mem:R624). -/
def execFlurd (fd rs1 rs2 : Reg) (imm2 : BitVec 2) (s : State) : Result :=
  s.theadGate (encode (.flurd fd rs1 rs2 imm2)) (s.fpGate (encode (.flurd fd rs1 rs2 imm2)) (s.loadF 4 8 fd (s.addrIndexedU rs1 rs2 imm2)))

/-- `flurw` (47_thead_mem:R625). -/
def execFlurw (fd rs1 rs2 : Reg) (imm2 : BitVec 2) (s : State) : Result :=
  s.theadGate (encode (.flurw fd rs1 rs2 imm2)) (s.fpGate (encode (.flurw fd rs1 rs2 imm2)) (s.loadF 4 4 fd (s.addrIndexedU rs1 rs2 imm2)))

/-- `fsrd` (47_thead_mem:R626). -/
def execFsrd (fd rs1 rs2 : Reg) (imm2 : BitVec 2) (s : State) : Result :=
  s.theadGate (encode (.fsrd fd rs1 rs2 imm2)) (s.fpGate (encode (.fsrd fd rs1 rs2 imm2)) (s.storeF 4 8 fd (s.addrIndexed rs1 rs2 imm2)))

/-- `fsrw` (47_thead_mem:R627). -/
def execFsrw (fd rs1 rs2 : Reg) (imm2 : BitVec 2) (s : State) : Result :=
  s.theadGate (encode (.fsrw fd rs1 rs2 imm2)) (s.fpGate (encode (.fsrw fd rs1 rs2 imm2)) (s.storeF 4 4 fd (s.addrIndexed rs1 rs2 imm2)))

/-- `fsurd` (47_thead_mem:R628). -/
def execFsurd (fd rs1 rs2 : Reg) (imm2 : BitVec 2) (s : State) : Result :=
  s.theadGate (encode (.fsurd fd rs1 rs2 imm2)) (s.fpGate (encode (.fsurd fd rs1 rs2 imm2)) (s.storeF 4 8 fd (s.addrIndexedU rs1 rs2 imm2)))

/-- `fsurw` (47_thead_mem:R629). -/
def execFsurw (fd rs1 rs2 : Reg) (imm2 : BitVec 2) (s : State) : Result :=
  s.theadGate (encode (.fsurw fd rs1 rs2 imm2)) (s.fpGate (encode (.fsurw fd rs1 rs2 imm2)) (s.storeF 4 4 fd (s.addrIndexedU rs1 rs2 imm2)))

/-- `lbia` (47_thead_mem:R630). -/
def execLbia (rd rs1 : Reg) (imm5 : BitVec 5) (imm2 : BitVec 2) (s : State) : Result :=
  s.theadGate (encode (.lbia rd rs1 imm5 imm2)) (s.loadUpdate (encode (.lbia rd rs1 imm5 imm2)) true 1 true rd rs1 (updateStep imm5 imm2))

/-- `lbib` (47_thead_mem:R631). -/
def execLbib (rd rs1 : Reg) (imm5 : BitVec 5) (imm2 : BitVec 2) (s : State) : Result :=
  s.theadGate (encode (.lbib rd rs1 imm5 imm2)) (s.loadUpdate (encode (.lbib rd rs1 imm5 imm2)) true 1 false rd rs1 (updateStep imm5 imm2))

/-- `lbuia` (47_thead_mem:R632). -/
def execLbuia (rd rs1 : Reg) (imm5 : BitVec 5) (imm2 : BitVec 2) (s : State) : Result :=
  s.theadGate (encode (.lbuia rd rs1 imm5 imm2)) (s.loadUpdate (encode (.lbuia rd rs1 imm5 imm2)) false 1 true rd rs1 (updateStep imm5 imm2))

/-- `lbuib` (47_thead_mem:R633). -/
def execLbuib (rd rs1 : Reg) (imm5 : BitVec 5) (imm2 : BitVec 2) (s : State) : Result :=
  s.theadGate (encode (.lbuib rd rs1 imm5 imm2)) (s.loadUpdate (encode (.lbuib rd rs1 imm5 imm2)) false 1 false rd rs1 (updateStep imm5 imm2))

/-- `ldd` (47_thead_mem:R634). -/
def execLdd (rd1 rd2 rs1 : Reg) (imm2 : BitVec 2) (s : State) : Result :=
  s.theadGate (encode (.ldd rd1 rd2 rs1 imm2)) (s.loadPair (encode (.ldd rd1 rd2 rs1 imm2)) true 8 rd1 rd2 rs1 (s.addrUimm rs1 imm2 4))

/-- `ldia` (47_thead_mem:R635). -/
def execLdia (rd rs1 : Reg) (imm5 : BitVec 5) (imm2 : BitVec 2) (s : State) : Result :=
  s.theadGate (encode (.ldia rd rs1 imm5 imm2)) (s.loadUpdate (encode (.ldia rd rs1 imm5 imm2)) true 8 true rd rs1 (updateStep imm5 imm2))

/-- `ldib` (47_thead_mem:R636). -/
def execLdib (rd rs1 : Reg) (imm5 : BitVec 5) (imm2 : BitVec 2) (s : State) : Result :=
  s.theadGate (encode (.ldib rd rs1 imm5 imm2)) (s.loadUpdate (encode (.ldib rd rs1 imm5 imm2)) true 8 false rd rs1 (updateStep imm5 imm2))

/-- `lhia` (47_thead_mem:R637). -/
def execLhia (rd rs1 : Reg) (imm5 : BitVec 5) (imm2 : BitVec 2) (s : State) : Result :=
  s.theadGate (encode (.lhia rd rs1 imm5 imm2)) (s.loadUpdate (encode (.lhia rd rs1 imm5 imm2)) true 2 true rd rs1 (updateStep imm5 imm2))

/-- `lhib` (47_thead_mem:R638). -/
def execLhib (rd rs1 : Reg) (imm5 : BitVec 5) (imm2 : BitVec 2) (s : State) : Result :=
  s.theadGate (encode (.lhib rd rs1 imm5 imm2)) (s.loadUpdate (encode (.lhib rd rs1 imm5 imm2)) true 2 false rd rs1 (updateStep imm5 imm2))

/-- `lhuia` (47_thead_mem:R639). -/
def execLhuia (rd rs1 : Reg) (imm5 : BitVec 5) (imm2 : BitVec 2) (s : State) : Result :=
  s.theadGate (encode (.lhuia rd rs1 imm5 imm2)) (s.loadUpdate (encode (.lhuia rd rs1 imm5 imm2)) false 2 true rd rs1 (updateStep imm5 imm2))

/-- `lhuib` (47_thead_mem:R640). -/
def execLhuib (rd rs1 : Reg) (imm5 : BitVec 5) (imm2 : BitVec 2) (s : State) : Result :=
  s.theadGate (encode (.lhuib rd rs1 imm5 imm2)) (s.loadUpdate (encode (.lhuib rd rs1 imm5 imm2)) false 2 false rd rs1 (updateStep imm5 imm2))

/-- `lrb` (47_thead_mem:R641). -/
def execLrb (rd rs1 rs2 : Reg) (imm2 : BitVec 2) (s : State) : Result :=
  s.theadGate (encode (.lrb rd rs1 rs2 imm2)) (s.loadX 4 true 1 rd (s.addrIndexed rs1 rs2 imm2))

/-- `lrbu` (47_thead_mem:R642). -/
def execLrbu (rd rs1 rs2 : Reg) (imm2 : BitVec 2) (s : State) : Result :=
  s.theadGate (encode (.lrbu rd rs1 rs2 imm2)) (s.loadX 4 false 1 rd (s.addrIndexed rs1 rs2 imm2))

/-- `lrd` (47_thead_mem:R643). -/
def execLrd (rd rs1 rs2 : Reg) (imm2 : BitVec 2) (s : State) : Result :=
  s.theadGate (encode (.lrd rd rs1 rs2 imm2)) (s.loadX 4 true 8 rd (s.addrIndexed rs1 rs2 imm2))

/-- `lrh` (47_thead_mem:R644). -/
def execLrh (rd rs1 rs2 : Reg) (imm2 : BitVec 2) (s : State) : Result :=
  s.theadGate (encode (.lrh rd rs1 rs2 imm2)) (s.loadX 4 true 2 rd (s.addrIndexed rs1 rs2 imm2))

/-- `lrhu` (47_thead_mem:R645). -/
def execLrhu (rd rs1 rs2 : Reg) (imm2 : BitVec 2) (s : State) : Result :=
  s.theadGate (encode (.lrhu rd rs1 rs2 imm2)) (s.loadX 4 false 2 rd (s.addrIndexed rs1 rs2 imm2))

/-- `lrw` (47_thead_mem:R646). -/
def execLrw (rd rs1 rs2 : Reg) (imm2 : BitVec 2) (s : State) : Result :=
  s.theadGate (encode (.lrw rd rs1 rs2 imm2)) (s.loadX 4 true 4 rd (s.addrIndexed rs1 rs2 imm2))

/-- `lrwu` (47_thead_mem:R647). -/
def execLrwu (rd rs1 rs2 : Reg) (imm2 : BitVec 2) (s : State) : Result :=
  s.theadGate (encode (.lrwu rd rs1 rs2 imm2)) (s.loadX 4 false 4 rd (s.addrIndexed rs1 rs2 imm2))

/-- `lurb` (47_thead_mem:R648). -/
def execLurb (rd rs1 rs2 : Reg) (imm2 : BitVec 2) (s : State) : Result :=
  s.theadGate (encode (.lurb rd rs1 rs2 imm2)) (s.loadX 4 true 1 rd (s.addrIndexedU rs1 rs2 imm2))

/-- `lurbu` (47_thead_mem:R649). -/
def execLurbu (rd rs1 rs2 : Reg) (imm2 : BitVec 2) (s : State) : Result :=
  s.theadGate (encode (.lurbu rd rs1 rs2 imm2)) (s.loadX 4 false 1 rd (s.addrIndexedU rs1 rs2 imm2))

/-- `lurd` (47_thead_mem:R650). -/
def execLurd (rd rs1 rs2 : Reg) (imm2 : BitVec 2) (s : State) : Result :=
  s.theadGate (encode (.lurd rd rs1 rs2 imm2)) (s.loadX 4 true 8 rd (s.addrIndexedU rs1 rs2 imm2))

/-- `lurh` (47_thead_mem:R651). -/
def execLurh (rd rs1 rs2 : Reg) (imm2 : BitVec 2) (s : State) : Result :=
  s.theadGate (encode (.lurh rd rs1 rs2 imm2)) (s.loadX 4 true 2 rd (s.addrIndexedU rs1 rs2 imm2))

/-- `lurhu` (47_thead_mem:R652). -/
def execLurhu (rd rs1 rs2 : Reg) (imm2 : BitVec 2) (s : State) : Result :=
  s.theadGate (encode (.lurhu rd rs1 rs2 imm2)) (s.loadX 4 false 2 rd (s.addrIndexedU rs1 rs2 imm2))

/-- `lurw` (47_thead_mem:R653). -/
def execLurw (rd rs1 rs2 : Reg) (imm2 : BitVec 2) (s : State) : Result :=
  s.theadGate (encode (.lurw rd rs1 rs2 imm2)) (s.loadX 4 true 4 rd (s.addrIndexedU rs1 rs2 imm2))

/-- `lurwu` (47_thead_mem:R654). -/
def execLurwu (rd rs1 rs2 : Reg) (imm2 : BitVec 2) (s : State) : Result :=
  s.theadGate (encode (.lurwu rd rs1 rs2 imm2)) (s.loadX 4 false 4 rd (s.addrIndexedU rs1 rs2 imm2))

/-- `lwd` (47_thead_mem:R655). -/
def execLwd (rd1 rd2 rs1 : Reg) (imm2 : BitVec 2) (s : State) : Result :=
  s.theadGate (encode (.lwd rd1 rd2 rs1 imm2)) (s.loadPair (encode (.lwd rd1 rd2 rs1 imm2)) true 4 rd1 rd2 rs1 (s.addrUimm rs1 imm2 3))

/-- `lwia` (47_thead_mem:R656). -/
def execLwia (rd rs1 : Reg) (imm5 : BitVec 5) (imm2 : BitVec 2) (s : State) : Result :=
  s.theadGate (encode (.lwia rd rs1 imm5 imm2)) (s.loadUpdate (encode (.lwia rd rs1 imm5 imm2)) true 4 true rd rs1 (updateStep imm5 imm2))

/-- `lwib` (47_thead_mem:R657). -/
def execLwib (rd rs1 : Reg) (imm5 : BitVec 5) (imm2 : BitVec 2) (s : State) : Result :=
  s.theadGate (encode (.lwib rd rs1 imm5 imm2)) (s.loadUpdate (encode (.lwib rd rs1 imm5 imm2)) true 4 false rd rs1 (updateStep imm5 imm2))

/-- `lwud` (47_thead_mem:R658). -/
def execLwud (rd1 rd2 rs1 : Reg) (imm2 : BitVec 2) (s : State) : Result :=
  s.theadGate (encode (.lwud rd1 rd2 rs1 imm2)) (s.loadPair (encode (.lwud rd1 rd2 rs1 imm2)) false 4 rd1 rd2 rs1 (s.addrUimm rs1 imm2 3))

/-- `lwuia` (47_thead_mem:R659). -/
def execLwuia (rd rs1 : Reg) (imm5 : BitVec 5) (imm2 : BitVec 2) (s : State) : Result :=
  s.theadGate (encode (.lwuia rd rs1 imm5 imm2)) (s.loadUpdate (encode (.lwuia rd rs1 imm5 imm2)) false 4 true rd rs1 (updateStep imm5 imm2))

/-- `lwuib` (47_thead_mem:R660). -/
def execLwuib (rd rs1 : Reg) (imm5 : BitVec 5) (imm2 : BitVec 2) (s : State) : Result :=
  s.theadGate (encode (.lwuib rd rs1 imm5 imm2)) (s.loadUpdate (encode (.lwuib rd rs1 imm5 imm2)) false 4 false rd rs1 (updateStep imm5 imm2))

/-- `sbia` (47_thead_mem:R661). -/
def execSbia (rs2 rs1 : Reg) (imm5 : BitVec 5) (imm2 : BitVec 2) (s : State) : Result :=
  s.theadGate (encode (.sbia rs2 rs1 imm5 imm2)) (s.storeUpdate 1 true rs2 rs1 (updateStep imm5 imm2))

/-- `sbib` (47_thead_mem:R662). -/
def execSbib (rs2 rs1 : Reg) (imm5 : BitVec 5) (imm2 : BitVec 2) (s : State) : Result :=
  s.theadGate (encode (.sbib rs2 rs1 imm5 imm2)) (s.storeUpdate 1 false rs2 rs1 (updateStep imm5 imm2))

/-- `sdd` (47_thead_mem:R663). -/
def execSdd (rd1 rd2 rs1 : Reg) (imm2 : BitVec 2) (s : State) : Result :=
  s.theadGate (encode (.sdd rd1 rd2 rs1 imm2)) (s.storePair 8 rd1 rd2 (s.addrUimm rs1 imm2 4))

/-- `sdia` (47_thead_mem:R664). -/
def execSdia (rs2 rs1 : Reg) (imm5 : BitVec 5) (imm2 : BitVec 2) (s : State) : Result :=
  s.theadGate (encode (.sdia rs2 rs1 imm5 imm2)) (s.storeUpdate 8 true rs2 rs1 (updateStep imm5 imm2))

/-- `sdib` (47_thead_mem:R665). -/
def execSdib (rs2 rs1 : Reg) (imm5 : BitVec 5) (imm2 : BitVec 2) (s : State) : Result :=
  s.theadGate (encode (.sdib rs2 rs1 imm5 imm2)) (s.storeUpdate 8 false rs2 rs1 (updateStep imm5 imm2))

/-- `shia` (47_thead_mem:R666). -/
def execShia (rs2 rs1 : Reg) (imm5 : BitVec 5) (imm2 : BitVec 2) (s : State) : Result :=
  s.theadGate (encode (.shia rs2 rs1 imm5 imm2)) (s.storeUpdate 2 true rs2 rs1 (updateStep imm5 imm2))

/-- `shib` (47_thead_mem:R667). -/
def execShib (rs2 rs1 : Reg) (imm5 : BitVec 5) (imm2 : BitVec 2) (s : State) : Result :=
  s.theadGate (encode (.shib rs2 rs1 imm5 imm2)) (s.storeUpdate 2 false rs2 rs1 (updateStep imm5 imm2))

/-- `srb` (47_thead_mem:R668). -/
def execSrb (rs rs1 rs2 : Reg) (imm2 : BitVec 2) (s : State) : Result :=
  s.theadGate (encode (.srb rs rs1 rs2 imm2)) (s.storeV 4 1 (s.getX rs) (s.addrIndexed rs1 rs2 imm2))

/-- `srd` (47_thead_mem:R669). -/
def execSrd (rs rs1 rs2 : Reg) (imm2 : BitVec 2) (s : State) : Result :=
  s.theadGate (encode (.srd rs rs1 rs2 imm2)) (s.storeV 4 8 (s.getX rs) (s.addrIndexed rs1 rs2 imm2))

/-- `srh` (47_thead_mem:R670). -/
def execSrh (rs rs1 rs2 : Reg) (imm2 : BitVec 2) (s : State) : Result :=
  s.theadGate (encode (.srh rs rs1 rs2 imm2)) (s.storeV 4 2 (s.getX rs) (s.addrIndexed rs1 rs2 imm2))

/-- `srw` (47_thead_mem:R671). -/
def execSrw (rs rs1 rs2 : Reg) (imm2 : BitVec 2) (s : State) : Result :=
  s.theadGate (encode (.srw rs rs1 rs2 imm2)) (s.storeV 4 4 (s.getX rs) (s.addrIndexed rs1 rs2 imm2))

/-- `surb` (47_thead_mem:R672). -/
def execSurb (rs rs1 rs2 : Reg) (imm2 : BitVec 2) (s : State) : Result :=
  s.theadGate (encode (.surb rs rs1 rs2 imm2)) (s.storeV 4 1 (s.getX rs) (s.addrIndexedU rs1 rs2 imm2))

/-- `surd` (47_thead_mem:R673). -/
def execSurd (rs rs1 rs2 : Reg) (imm2 : BitVec 2) (s : State) : Result :=
  s.theadGate (encode (.surd rs rs1 rs2 imm2)) (s.storeV 4 8 (s.getX rs) (s.addrIndexedU rs1 rs2 imm2))

/-- `surh` (47_thead_mem:R674). -/
def execSurh (rs rs1 rs2 : Reg) (imm2 : BitVec 2) (s : State) : Result :=
  s.theadGate (encode (.surh rs rs1 rs2 imm2)) (s.storeV 4 2 (s.getX rs) (s.addrIndexedU rs1 rs2 imm2))

/-- `surw` (47_thead_mem:R675). -/
def execSurw (rs rs1 rs2 : Reg) (imm2 : BitVec 2) (s : State) : Result :=
  s.theadGate (encode (.surw rs rs1 rs2 imm2)) (s.storeV 4 4 (s.getX rs) (s.addrIndexedU rs1 rs2 imm2))

/-- `swia` (47_thead_mem:R676). -/
def execSwia (rs2 rs1 : Reg) (imm5 : BitVec 5) (imm2 : BitVec 2) (s : State) : Result :=
  s.theadGate (encode (.swia rs2 rs1 imm5 imm2)) (s.storeUpdate 4 true rs2 rs1 (updateStep imm5 imm2))

/-- `swib` (47_thead_mem:R677). -/
def execSwib (rs2 rs1 : Reg) (imm5 : BitVec 5) (imm2 : BitVec 2) (s : State) : Result :=
  s.theadGate (encode (.swib rs2 rs1 imm5 imm2)) (s.storeUpdate 4 false rs2 rs1 (updateStep imm5 imm2))

/-- `swd` (47_thead_mem:R678). -/
def execSwd (rd1 rd2 rs1 : Reg) (imm2 : BitVec 2) (s : State) : Result :=
  s.theadGate (encode (.swd rd1 rd2 rs1 imm2)) (s.storePair 4 rd1 rd2 (s.addrUimm rs1 imm2 3))

end Sys2Proof.Machine
end

