-- ==== Sys2Proof/Machine/Dispatch.lean ====
section
/-! DEFINITION. One arm per instruction, in the order of the opcode table. -/

namespace Sys2Proof.Machine

def exec (i : Instr) (s : State) : Host.Outcome State Fault Refusal :=
  match i with
  -- 40_rv64i
  | .add rd rs1 rs2 => Sys2Proof.Machine.execAdd rd rs1 rs2 s
  | .addi rd rs1 imm12 => Sys2Proof.Machine.execAddi rd rs1 imm12 s
  | .addiw rd rs1 imm12 => Sys2Proof.Machine.execAddiw rd rs1 imm12 s
  | .addw rd rs1 rs2 => Sys2Proof.Machine.execAddw rd rs1 rs2 s
  | .sub rd rs1 rs2 => Sys2Proof.Machine.execSub rd rs1 rs2 s
  | .subw rd rs1 rs2 => Sys2Proof.Machine.execSubw rd rs1 rs2 s
  | .and rd rs1 rs2 => Sys2Proof.Machine.execAnd rd rs1 rs2 s
  | .andi rd rs1 imm12 => Sys2Proof.Machine.execAndi rd rs1 imm12 s
  | .or rd rs1 rs2 => Sys2Proof.Machine.execOr rd rs1 rs2 s
  | .ori rd rs1 imm12 => Sys2Proof.Machine.execOri rd rs1 imm12 s
  | .xor rd rs1 rs2 => Sys2Proof.Machine.execXor rd rs1 rs2 s
  | .xori rd rs1 imm12 => Sys2Proof.Machine.execXori rd rs1 imm12 s
  | .sll rd rs1 rs2 => Sys2Proof.Machine.execSll rd rs1 rs2 s
  | .slli rd rs1 shamt => Sys2Proof.Machine.execSlli rd rs1 shamt s
  | .slliw rd rs1 shamt => Sys2Proof.Machine.execSlliw rd rs1 shamt s
  | .sllw rd rs1 rs2 => Sys2Proof.Machine.execSllw rd rs1 rs2 s
  | .srl rd rs1 rs2 => Sys2Proof.Machine.execSrl rd rs1 rs2 s
  | .srli rd rs1 shamt => Sys2Proof.Machine.execSrli rd rs1 shamt s
  | .srliw rd rs1 shamt => Sys2Proof.Machine.execSrliw rd rs1 shamt s
  | .srlw rd rs1 rs2 => Sys2Proof.Machine.execSrlw rd rs1 rs2 s
  | .sra rd rs1 rs2 => Sys2Proof.Machine.execSra rd rs1 rs2 s
  | .srai rd rs1 shamt => Sys2Proof.Machine.execSrai rd rs1 shamt s
  | .sraiw rd rs1 shamt => Sys2Proof.Machine.execSraiw rd rs1 shamt s
  | .sraw rd rs1 rs2 => Sys2Proof.Machine.execSraw rd rs1 rs2 s
  | .slt rd rs1 rs2 => Sys2Proof.Machine.execSlt rd rs1 rs2 s
  | .sltu rd rs1 rs2 => Sys2Proof.Machine.execSltu rd rs1 rs2 s
  | .slti rd rs1 imm12 => Sys2Proof.Machine.execSlti rd rs1 imm12 s
  | .sltiu rd rs1 imm12 => Sys2Proof.Machine.execSltiu rd rs1 imm12 s
  | .lui rd imm20 => Sys2Proof.Machine.execLui rd imm20 s
  | .auipc rd imm20 => Sys2Proof.Machine.execAuipc rd imm20 s
  | .beq rs1 rs2 off => Sys2Proof.Machine.execBeq rs1 rs2 off s
  | .bne rs1 rs2 off => Sys2Proof.Machine.execBne rs1 rs2 off s
  | .blt rs1 rs2 off => Sys2Proof.Machine.execBlt rs1 rs2 off s
  | .bge rs1 rs2 off => Sys2Proof.Machine.execBge rs1 rs2 off s
  | .bltu rs1 rs2 off => Sys2Proof.Machine.execBltu rs1 rs2 off s
  | .bgeu rs1 rs2 off => Sys2Proof.Machine.execBgeu rs1 rs2 off s
  | .jal rd off => Sys2Proof.Machine.execJal rd off s
  | .jalr rd rs1 imm12 => Sys2Proof.Machine.execJalr rd rs1 imm12 s
  | .lb rd rs1 imm12 => Sys2Proof.Machine.execLb rd rs1 imm12 s
  | .lbu rd rs1 imm12 => Sys2Proof.Machine.execLbu rd rs1 imm12 s
  | .lh rd rs1 imm12 => Sys2Proof.Machine.execLh rd rs1 imm12 s
  | .lhu rd rs1 imm12 => Sys2Proof.Machine.execLhu rd rs1 imm12 s
  | .lw rd rs1 imm12 => Sys2Proof.Machine.execLw rd rs1 imm12 s
  | .lwu rd rs1 imm12 => Sys2Proof.Machine.execLwu rd rs1 imm12 s
  | .ld rd rs1 imm12 => Sys2Proof.Machine.execLd rd rs1 imm12 s
  | .sb rs2 rs1 imm12 => Sys2Proof.Machine.execSb rs2 rs1 imm12 s
  | .sh rs2 rs1 imm12 => Sys2Proof.Machine.execSh rs2 rs1 imm12 s
  | .sw rs2 rs1 imm12 => Sys2Proof.Machine.execSw rs2 rs1 imm12 s
  | .sd rs2 rs1 imm12 => Sys2Proof.Machine.execSd rs2 rs1 imm12 s
  | .fence fm pred succ rs1 rd => Sys2Proof.Machine.execFence fm pred succ rs1 rd s
  | .fenceI imm12 rs1 rd => Sys2Proof.Machine.execFenceI imm12 rs1 rd s
  | .csrrw rd csr rs1 => Sys2Proof.Machine.execCsrrw rd csr rs1 s
  | .csrrs rd csr rs1 => Sys2Proof.Machine.execCsrrs rd csr rs1 s
  | .csrrc rd csr rs1 => Sys2Proof.Machine.execCsrrc rd csr rs1 s
  | .csrrwi rd csr uimm5 => Sys2Proof.Machine.execCsrrwi rd csr uimm5 s
  | .csrrsi rd csr uimm5 => Sys2Proof.Machine.execCsrrsi rd csr uimm5 s
  | .csrrci rd csr uimm5 => Sys2Proof.Machine.execCsrrci rd csr uimm5 s
  | .ecall => Sys2Proof.Machine.execEcall s
  | .ebreak => Sys2Proof.Machine.execEbreak s
  | .sret => Sys2Proof.Machine.execSret s
  | .mret => Sys2Proof.Machine.execMret s
  | .sfenceVma rs1 rs2 => Sys2Proof.Machine.execSfenceVma rs1 rs2 s
  | .wfi => Sys2Proof.Machine.execWfi s
  -- 41_rv64m
  | .div rd rs1 rs2 => Sys2Proof.Machine.execDiv rd rs1 rs2 s
  | .divu rd rs1 rs2 => Sys2Proof.Machine.execDivu rd rs1 rs2 s
  | .divuw rd rs1 rs2 => Sys2Proof.Machine.execDivuw rd rs1 rs2 s
  | .divw rd rs1 rs2 => Sys2Proof.Machine.execDivw rd rs1 rs2 s
  | .mul rd rs1 rs2 => Sys2Proof.Machine.execMul rd rs1 rs2 s
  | .mulh rd rs1 rs2 => Sys2Proof.Machine.execMulh rd rs1 rs2 s
  | .mulhsu rd rs1 rs2 => Sys2Proof.Machine.execMulhsu rd rs1 rs2 s
  | .mulhu rd rs1 rs2 => Sys2Proof.Machine.execMulhu rd rs1 rs2 s
  | .mulw rd rs1 rs2 => Sys2Proof.Machine.execMulw rd rs1 rs2 s
  | .rem rd rs1 rs2 => Sys2Proof.Machine.execRem rd rs1 rs2 s
  | .remu rd rs1 rs2 => Sys2Proof.Machine.execRemu rd rs1 rs2 s
  | .remuw rd rs1 rs2 => Sys2Proof.Machine.execRemuw rd rs1 rs2 s
  | .remw rd rs1 rs2 => Sys2Proof.Machine.execRemw rd rs1 rs2 s
  -- 42_rv64a
  | .amoaddD rd rs2 rs1 aq rl => Sys2Proof.Machine.execAmoaddD rd rs2 rs1 aq rl s
  | .amoaddW rd rs2 rs1 aq rl => Sys2Proof.Machine.execAmoaddW rd rs2 rs1 aq rl s
  | .amoandD rd rs2 rs1 aq rl => Sys2Proof.Machine.execAmoandD rd rs2 rs1 aq rl s
  | .amoandW rd rs2 rs1 aq rl => Sys2Proof.Machine.execAmoandW rd rs2 rs1 aq rl s
  | .amomaxD rd rs2 rs1 aq rl => Sys2Proof.Machine.execAmomaxD rd rs2 rs1 aq rl s
  | .amomaxW rd rs2 rs1 aq rl => Sys2Proof.Machine.execAmomaxW rd rs2 rs1 aq rl s
  | .amomaxuD rd rs2 rs1 aq rl => Sys2Proof.Machine.execAmomaxuD rd rs2 rs1 aq rl s
  | .amomaxuW rd rs2 rs1 aq rl => Sys2Proof.Machine.execAmomaxuW rd rs2 rs1 aq rl s
  | .amominD rd rs2 rs1 aq rl => Sys2Proof.Machine.execAmominD rd rs2 rs1 aq rl s
  | .amominW rd rs2 rs1 aq rl => Sys2Proof.Machine.execAmominW rd rs2 rs1 aq rl s
  | .amominuD rd rs2 rs1 aq rl => Sys2Proof.Machine.execAmominuD rd rs2 rs1 aq rl s
  | .amominuW rd rs2 rs1 aq rl => Sys2Proof.Machine.execAmominuW rd rs2 rs1 aq rl s
  | .amoorD rd rs2 rs1 aq rl => Sys2Proof.Machine.execAmoorD rd rs2 rs1 aq rl s
  | .amoorW rd rs2 rs1 aq rl => Sys2Proof.Machine.execAmoorW rd rs2 rs1 aq rl s
  | .amoswapD rd rs2 rs1 aq rl => Sys2Proof.Machine.execAmoswapD rd rs2 rs1 aq rl s
  | .amoswapW rd rs2 rs1 aq rl => Sys2Proof.Machine.execAmoswapW rd rs2 rs1 aq rl s
  | .amoxorD rd rs2 rs1 aq rl => Sys2Proof.Machine.execAmoxorD rd rs2 rs1 aq rl s
  | .amoxorW rd rs2 rs1 aq rl => Sys2Proof.Machine.execAmoxorW rd rs2 rs1 aq rl s
  | .lrD rd rs1 aq rl => Sys2Proof.Machine.execLrD rd rs1 aq rl s
  | .lrW rd rs1 aq rl => Sys2Proof.Machine.execLrW rd rs1 aq rl s
  | .scD rd rs2 rs1 aq rl => Sys2Proof.Machine.execScD rd rs2 rs1 aq rl s
  | .scW rd rs2 rs1 aq rl => Sys2Proof.Machine.execScW rd rs2 rs1 aq rl s
  -- 43_rv64f
  | .faddS fd fs1 fs2 rm => Sys2Proof.Machine.execFaddS fd fs1 fs2 rm s
  | .fclassS rd fs1 => Sys2Proof.Machine.execFclassS rd fs1 s
  | .fcvtLS rd fs1 rm => Sys2Proof.Machine.execFcvtLS rd fs1 rm s
  | .fcvtLuS rd fs1 rm => Sys2Proof.Machine.execFcvtLuS rd fs1 rm s
  | .fcvtSL fd rs1 rm => Sys2Proof.Machine.execFcvtSL fd rs1 rm s
  | .fcvtSLu fd rs1 rm => Sys2Proof.Machine.execFcvtSLu fd rs1 rm s
  | .fcvtSW fd rs1 rm => Sys2Proof.Machine.execFcvtSW fd rs1 rm s
  | .fcvtSWu fd rs1 rm => Sys2Proof.Machine.execFcvtSWu fd rs1 rm s
  | .fcvtWS rd fs1 rm => Sys2Proof.Machine.execFcvtWS rd fs1 rm s
  | .fcvtWuS rd fs1 rm => Sys2Proof.Machine.execFcvtWuS rd fs1 rm s
  | .fdivS fd fs1 fs2 rm => Sys2Proof.Machine.execFdivS fd fs1 fs2 rm s
  | .feqS rd fs1 fs2 => Sys2Proof.Machine.execFeqS rd fs1 fs2 s
  | .fleS rd fs1 fs2 => Sys2Proof.Machine.execFleS rd fs1 fs2 s
  | .fltS rd fs1 fs2 => Sys2Proof.Machine.execFltS rd fs1 fs2 s
  | .flw fd rs1 imm12 => Sys2Proof.Machine.execFlw fd rs1 imm12 s
  | .fmaddS fd fs1 fs2 fs3 rm => Sys2Proof.Machine.execFmaddS fd fs1 fs2 fs3 rm s
  | .fmaxS fd fs1 fs2 => Sys2Proof.Machine.execFmaxS fd fs1 fs2 s
  | .fminS fd fs1 fs2 => Sys2Proof.Machine.execFminS fd fs1 fs2 s
  | .fmsubS fd fs1 fs2 fs3 rm => Sys2Proof.Machine.execFmsubS fd fs1 fs2 fs3 rm s
  | .fmulS fd fs1 fs2 rm => Sys2Proof.Machine.execFmulS fd fs1 fs2 rm s
  | .fmvWX fd rs1 => Sys2Proof.Machine.execFmvWX fd rs1 s
  | .fmvXW rd fs1 => Sys2Proof.Machine.execFmvXW rd fs1 s
  | .fnmaddS fd fs1 fs2 fs3 rm => Sys2Proof.Machine.execFnmaddS fd fs1 fs2 fs3 rm s
  | .fnmsubS fd fs1 fs2 fs3 rm => Sys2Proof.Machine.execFnmsubS fd fs1 fs2 fs3 rm s
  | .fsgnjS fd fs1 fs2 => Sys2Proof.Machine.execFsgnjS fd fs1 fs2 s
  | .fsgnjnS fd fs1 fs2 => Sys2Proof.Machine.execFsgnjnS fd fs1 fs2 s
  | .fsgnjxS fd fs1 fs2 => Sys2Proof.Machine.execFsgnjxS fd fs1 fs2 s
  | .fsqrtS fd fs1 rm => Sys2Proof.Machine.execFsqrtS fd fs1 rm s
  | .fsubS fd fs1 fs2 rm => Sys2Proof.Machine.execFsubS fd fs1 fs2 rm s
  | .fsw fs2 rs1 imm12 => Sys2Proof.Machine.execFsw fs2 rs1 imm12 s
  -- 44_rv64d
  | .faddD fd fs1 fs2 rm => Sys2Proof.Machine.execFaddD fd fs1 fs2 rm s
  | .fclassD rd fs1 => Sys2Proof.Machine.execFclassD rd fs1 s
  | .fcvtDL fd rs1 rm => Sys2Proof.Machine.execFcvtDL fd rs1 rm s
  | .fcvtDLu fd rs1 rm => Sys2Proof.Machine.execFcvtDLu fd rs1 rm s
  | .fcvtDS fd fs1 rm => Sys2Proof.Machine.execFcvtDS fd fs1 rm s
  | .fcvtDW fd rs1 rm => Sys2Proof.Machine.execFcvtDW fd rs1 rm s
  | .fcvtDWu fd rs1 rm => Sys2Proof.Machine.execFcvtDWu fd rs1 rm s
  | .fcvtLD rd fs1 rm => Sys2Proof.Machine.execFcvtLD rd fs1 rm s
  | .fcvtLuD rd fs1 rm => Sys2Proof.Machine.execFcvtLuD rd fs1 rm s
  | .fcvtSD fd fs1 rm => Sys2Proof.Machine.execFcvtSD fd fs1 rm s
  | .fcvtWD rd fs1 rm => Sys2Proof.Machine.execFcvtWD rd fs1 rm s
  | .fcvtWuD rd fs1 rm => Sys2Proof.Machine.execFcvtWuD rd fs1 rm s
  | .fdivD fd fs1 fs2 rm => Sys2Proof.Machine.execFdivD fd fs1 fs2 rm s
  | .feqD rd fs1 fs2 => Sys2Proof.Machine.execFeqD rd fs1 fs2 s
  | .fld fd rs1 imm12 => Sys2Proof.Machine.execFld fd rs1 imm12 s
  | .fleD rd fs1 fs2 => Sys2Proof.Machine.execFleD rd fs1 fs2 s
  | .fltD rd fs1 fs2 => Sys2Proof.Machine.execFltD rd fs1 fs2 s
  | .fmaddD fd fs1 fs2 fs3 rm => Sys2Proof.Machine.execFmaddD fd fs1 fs2 fs3 rm s
  | .fmaxD fd fs1 fs2 => Sys2Proof.Machine.execFmaxD fd fs1 fs2 s
  | .fminD fd fs1 fs2 => Sys2Proof.Machine.execFminD fd fs1 fs2 s
  | .fmsubD fd fs1 fs2 fs3 rm => Sys2Proof.Machine.execFmsubD fd fs1 fs2 fs3 rm s
  | .fmulD fd fs1 fs2 rm => Sys2Proof.Machine.execFmulD fd fs1 fs2 rm s
  | .fmvDX fd rs1 => Sys2Proof.Machine.execFmvDX fd rs1 s
  | .fmvXD rd fs1 => Sys2Proof.Machine.execFmvXD rd fs1 s
  | .fnmaddD fd fs1 fs2 fs3 rm => Sys2Proof.Machine.execFnmaddD fd fs1 fs2 fs3 rm s
  | .fnmsubD fd fs1 fs2 fs3 rm => Sys2Proof.Machine.execFnmsubD fd fs1 fs2 fs3 rm s
  | .fsd fs2 rs1 imm12 => Sys2Proof.Machine.execFsd fs2 rs1 imm12 s
  | .fsgnjD fd fs1 fs2 => Sys2Proof.Machine.execFsgnjD fd fs1 fs2 s
  | .fsgnjnD fd fs1 fs2 => Sys2Proof.Machine.execFsgnjnD fd fs1 fs2 s
  | .fsgnjxD fd fs1 fs2 => Sys2Proof.Machine.execFsgnjxD fd fs1 fs2 s
  | .fsqrtD fd fs1 rm => Sys2Proof.Machine.execFsqrtD fd fs1 rm s
  | .fsubD fd fs1 fs2 rm => Sys2Proof.Machine.execFsubD fd fs1 fs2 rm s
  -- 45_rv64c
  | .cAdd rd rs2 => Sys2Proof.Machine.execCAdd rd rs2 s
  | .cAddi rd imm6 => Sys2Proof.Machine.execCAddi rd imm6 s
  | .cAddiw rd imm6 => Sys2Proof.Machine.execCAddiw rd imm6 s
  | .cAddi4spn rd uimm8 => Sys2Proof.Machine.execCAddi4spn rd uimm8 s
  | .cAddi16sp imm6 => Sys2Proof.Machine.execCAddi16sp imm6 s
  | .cAddw rd rs2 => Sys2Proof.Machine.execCAddw rd rs2 s
  | .cAnd rd rs2 => Sys2Proof.Machine.execCAnd rd rs2 s
  | .cAndi rd imm6 => Sys2Proof.Machine.execCAndi rd imm6 s
  | .cBeqz rs1 off => Sys2Proof.Machine.execCBeqz rs1 off s
  | .cBnez rs1 off => Sys2Proof.Machine.execCBnez rs1 off s
  | .cEbreak => Sys2Proof.Machine.execCEbreak s
  | .cFld fd rs1 uimm5 => Sys2Proof.Machine.execCFld fd rs1 uimm5 s
  | .cFldsp fd uimm6 => Sys2Proof.Machine.execCFldsp fd uimm6 s
  | .cFsd fs2 rs1 uimm5 => Sys2Proof.Machine.execCFsd fs2 rs1 uimm5 s
  | .cFsdsp fs2 uimm6 => Sys2Proof.Machine.execCFsdsp fs2 uimm6 s
  | .cJ off => Sys2Proof.Machine.execCJ off s
  | .cJalr rs1 => Sys2Proof.Machine.execCJalr rs1 s
  | .cJr rs1 => Sys2Proof.Machine.execCJr rs1 s
  | .cLd rd rs1 uimm5 => Sys2Proof.Machine.execCLd rd rs1 uimm5 s
  | .cLdsp rd uimm6 => Sys2Proof.Machine.execCLdsp rd uimm6 s
  | .cLi rd imm6 => Sys2Proof.Machine.execCLi rd imm6 s
  | .cLui rd imm6 => Sys2Proof.Machine.execCLui rd imm6 s
  | .cLw rd rs1 uimm5 => Sys2Proof.Machine.execCLw rd rs1 uimm5 s
  | .cLwsp rd uimm6 => Sys2Proof.Machine.execCLwsp rd uimm6 s
  | .cMv rd rs2 => Sys2Proof.Machine.execCMv rd rs2 s
  | .cNop => Sys2Proof.Machine.execCNop s
  | .cOr rd rs2 => Sys2Proof.Machine.execCOr rd rs2 s
  | .cSd rs2 rs1 uimm5 => Sys2Proof.Machine.execCSd rs2 rs1 uimm5 s
  | .cSdsp rs2 uimm6 => Sys2Proof.Machine.execCSdsp rs2 uimm6 s
  | .cSlli rd shamt => Sys2Proof.Machine.execCSlli rd shamt s
  | .cSrai rd shamt => Sys2Proof.Machine.execCSrai rd shamt s
  | .cSrli rd shamt => Sys2Proof.Machine.execCSrli rd shamt s
  | .cSw rs2 rs1 uimm5 => Sys2Proof.Machine.execCSw rs2 rs1 uimm5 s
  | .cSwsp rs2 uimm6 => Sys2Proof.Machine.execCSwsp rs2 uimm6 s
  | .cSub rd rs2 => Sys2Proof.Machine.execCSub rd rs2 s
  | .cSubw rd rs2 => Sys2Proof.Machine.execCSubw rd rs2 s
  | .cXor rd rs2 => Sys2Proof.Machine.execCXor rd rs2 s
  -- 46_thead_arith_bit
  | .addsl rd rs1 rs2 imm2 => Sys2Proof.Machine.execAddsl rd rs1 rs2 imm2 s
  | .mula rd rs1 rs2 => Sys2Proof.Machine.execMula rd rs1 rs2 s
  | .mulah rd rs1 rs2 => Sys2Proof.Machine.execMulah rd rs1 rs2 s
  | .mulaw rd rs1 rs2 => Sys2Proof.Machine.execMulaw rd rs1 rs2 s
  | .muls rd rs1 rs2 => Sys2Proof.Machine.execMuls rd rs1 rs2 s
  | .mulsh rd rs1 rs2 => Sys2Proof.Machine.execMulsh rd rs1 rs2 s
  | .mulsw rd rs1 rs2 => Sys2Proof.Machine.execMulsw rd rs1 rs2 s
  | .mveqz rd rs1 rs2 => Sys2Proof.Machine.execMveqz rd rs1 rs2 s
  | .mvnez rd rs1 rs2 => Sys2Proof.Machine.execMvnez rd rs1 rs2 s
  | .srri rd rs1 imm6 => Sys2Proof.Machine.execSrri rd rs1 imm6 s
  | .srriw rd rs1 imm5 => Sys2Proof.Machine.execSrriw rd rs1 imm5 s
  | .ext rd rs1 msb lsb => Sys2Proof.Machine.execExt rd rs1 msb lsb s
  | .extu rd rs1 msb lsb => Sys2Proof.Machine.execExtu rd rs1 msb lsb s
  | .ff0 rd rs1 => Sys2Proof.Machine.execFf0 rd rs1 s
  | .ff1 rd rs1 => Sys2Proof.Machine.execFf1 rd rs1 s
  | .rev rd rs1 => Sys2Proof.Machine.execRev rd rs1 s
  | .revw rd rs1 => Sys2Proof.Machine.execRevw rd rs1 s
  | .tst rd rs1 imm6 => Sys2Proof.Machine.execTst rd rs1 imm6 s
  | .tstnbz rd rs1 => Sys2Proof.Machine.execTstnbz rd rs1 s
  -- 47_thead_mem
  | .flrd fd rs1 rs2 imm2 => Sys2Proof.Machine.execFlrd fd rs1 rs2 imm2 s
  | .flrw fd rs1 rs2 imm2 => Sys2Proof.Machine.execFlrw fd rs1 rs2 imm2 s
  | .flurd fd rs1 rs2 imm2 => Sys2Proof.Machine.execFlurd fd rs1 rs2 imm2 s
  | .flurw fd rs1 rs2 imm2 => Sys2Proof.Machine.execFlurw fd rs1 rs2 imm2 s
  | .fsrd fd rs1 rs2 imm2 => Sys2Proof.Machine.execFsrd fd rs1 rs2 imm2 s
  | .fsrw fd rs1 rs2 imm2 => Sys2Proof.Machine.execFsrw fd rs1 rs2 imm2 s
  | .fsurd fd rs1 rs2 imm2 => Sys2Proof.Machine.execFsurd fd rs1 rs2 imm2 s
  | .fsurw fd rs1 rs2 imm2 => Sys2Proof.Machine.execFsurw fd rs1 rs2 imm2 s
  | .lbia rd rs1 imm5 imm2 => Sys2Proof.Machine.execLbia rd rs1 imm5 imm2 s
  | .lbib rd rs1 imm5 imm2 => Sys2Proof.Machine.execLbib rd rs1 imm5 imm2 s
  | .lbuia rd rs1 imm5 imm2 => Sys2Proof.Machine.execLbuia rd rs1 imm5 imm2 s
  | .lbuib rd rs1 imm5 imm2 => Sys2Proof.Machine.execLbuib rd rs1 imm5 imm2 s
  | .ldd rd1 rd2 rs1 imm2 => Sys2Proof.Machine.execLdd rd1 rd2 rs1 imm2 s
  | .ldia rd rs1 imm5 imm2 => Sys2Proof.Machine.execLdia rd rs1 imm5 imm2 s
  | .ldib rd rs1 imm5 imm2 => Sys2Proof.Machine.execLdib rd rs1 imm5 imm2 s
  | .lhia rd rs1 imm5 imm2 => Sys2Proof.Machine.execLhia rd rs1 imm5 imm2 s
  | .lhib rd rs1 imm5 imm2 => Sys2Proof.Machine.execLhib rd rs1 imm5 imm2 s
  | .lhuia rd rs1 imm5 imm2 => Sys2Proof.Machine.execLhuia rd rs1 imm5 imm2 s
  | .lhuib rd rs1 imm5 imm2 => Sys2Proof.Machine.execLhuib rd rs1 imm5 imm2 s
  | .lrb rd rs1 rs2 imm2 => Sys2Proof.Machine.execLrb rd rs1 rs2 imm2 s
  | .lrbu rd rs1 rs2 imm2 => Sys2Proof.Machine.execLrbu rd rs1 rs2 imm2 s
  | .lrd rd rs1 rs2 imm2 => Sys2Proof.Machine.execLrd rd rs1 rs2 imm2 s
  | .lrh rd rs1 rs2 imm2 => Sys2Proof.Machine.execLrh rd rs1 rs2 imm2 s
  | .lrhu rd rs1 rs2 imm2 => Sys2Proof.Machine.execLrhu rd rs1 rs2 imm2 s
  | .lrw rd rs1 rs2 imm2 => Sys2Proof.Machine.execLrw rd rs1 rs2 imm2 s
  | .lrwu rd rs1 rs2 imm2 => Sys2Proof.Machine.execLrwu rd rs1 rs2 imm2 s
  | .lurb rd rs1 rs2 imm2 => Sys2Proof.Machine.execLurb rd rs1 rs2 imm2 s
  | .lurbu rd rs1 rs2 imm2 => Sys2Proof.Machine.execLurbu rd rs1 rs2 imm2 s
  | .lurd rd rs1 rs2 imm2 => Sys2Proof.Machine.execLurd rd rs1 rs2 imm2 s
  | .lurh rd rs1 rs2 imm2 => Sys2Proof.Machine.execLurh rd rs1 rs2 imm2 s
  | .lurhu rd rs1 rs2 imm2 => Sys2Proof.Machine.execLurhu rd rs1 rs2 imm2 s
  | .lurw rd rs1 rs2 imm2 => Sys2Proof.Machine.execLurw rd rs1 rs2 imm2 s
  | .lurwu rd rs1 rs2 imm2 => Sys2Proof.Machine.execLurwu rd rs1 rs2 imm2 s
  | .lwd rd1 rd2 rs1 imm2 => Sys2Proof.Machine.execLwd rd1 rd2 rs1 imm2 s
  | .lwia rd rs1 imm5 imm2 => Sys2Proof.Machine.execLwia rd rs1 imm5 imm2 s
  | .lwib rd rs1 imm5 imm2 => Sys2Proof.Machine.execLwib rd rs1 imm5 imm2 s
  | .lwud rd1 rd2 rs1 imm2 => Sys2Proof.Machine.execLwud rd1 rd2 rs1 imm2 s
  | .lwuia rd rs1 imm5 imm2 => Sys2Proof.Machine.execLwuia rd rs1 imm5 imm2 s
  | .lwuib rd rs1 imm5 imm2 => Sys2Proof.Machine.execLwuib rd rs1 imm5 imm2 s
  | .sbia rs2 rs1 imm5 imm2 => Sys2Proof.Machine.execSbia rs2 rs1 imm5 imm2 s
  | .sbib rs2 rs1 imm5 imm2 => Sys2Proof.Machine.execSbib rs2 rs1 imm5 imm2 s
  | .sdd rd1 rd2 rs1 imm2 => Sys2Proof.Machine.execSdd rd1 rd2 rs1 imm2 s
  | .sdia rs2 rs1 imm5 imm2 => Sys2Proof.Machine.execSdia rs2 rs1 imm5 imm2 s
  | .sdib rs2 rs1 imm5 imm2 => Sys2Proof.Machine.execSdib rs2 rs1 imm5 imm2 s
  | .shia rs2 rs1 imm5 imm2 => Sys2Proof.Machine.execShia rs2 rs1 imm5 imm2 s
  | .shib rs2 rs1 imm5 imm2 => Sys2Proof.Machine.execShib rs2 rs1 imm5 imm2 s
  | .srb rs rs1 rs2 imm2 => Sys2Proof.Machine.execSrb rs rs1 rs2 imm2 s
  | .srd rs rs1 rs2 imm2 => Sys2Proof.Machine.execSrd rs rs1 rs2 imm2 s
  | .srh rs rs1 rs2 imm2 => Sys2Proof.Machine.execSrh rs rs1 rs2 imm2 s
  | .srw rs rs1 rs2 imm2 => Sys2Proof.Machine.execSrw rs rs1 rs2 imm2 s
  | .surb rs rs1 rs2 imm2 => Sys2Proof.Machine.execSurb rs rs1 rs2 imm2 s
  | .surd rs rs1 rs2 imm2 => Sys2Proof.Machine.execSurd rs rs1 rs2 imm2 s
  | .surh rs rs1 rs2 imm2 => Sys2Proof.Machine.execSurh rs rs1 rs2 imm2 s
  | .surw rs rs1 rs2 imm2 => Sys2Proof.Machine.execSurw rs rs1 rs2 imm2 s
  | .swia rs2 rs1 imm5 imm2 => Sys2Proof.Machine.execSwia rs2 rs1 imm5 imm2 s
  | .swib rs2 rs1 imm5 imm2 => Sys2Proof.Machine.execSwib rs2 rs1 imm5 imm2 s
  | .swd rd1 rd2 rs1 imm2 => Sys2Proof.Machine.execSwd rd1 rd2 rs1 imm2 s
  -- 48_thead_cache_sync
  | .dcacheCall => Sys2Proof.Machine.execDcacheCall s
  | .dcacheCiall => Sys2Proof.Machine.execDcacheCiall s
  | .dcacheCipa rs1 => Sys2Proof.Machine.execDcacheCipa rs1 s
  | .dcacheCisw rs1 => Sys2Proof.Machine.execDcacheCisw rs1 s
  | .dcacheCiva rs1 => Sys2Proof.Machine.execDcacheCiva rs1 s
  | .dcacheCpa rs1 => Sys2Proof.Machine.execDcacheCpa rs1 s
  | .dcacheCpal1 rs1 => Sys2Proof.Machine.execDcacheCpal1 rs1 s
  | .dcacheCva rs1 => Sys2Proof.Machine.execDcacheCva rs1 s
  | .dcacheCval1 rs1 => Sys2Proof.Machine.execDcacheCval1 rs1 s
  | .dcacheIpa rs1 => Sys2Proof.Machine.execDcacheIpa rs1 s
  | .dcacheIsw rs1 => Sys2Proof.Machine.execDcacheIsw rs1 s
  | .dcacheIva rs1 => Sys2Proof.Machine.execDcacheIva rs1 s
  | .dcacheIall => Sys2Proof.Machine.execDcacheIall s
  | .icacheIall => Sys2Proof.Machine.execIcacheIall s
  | .icacheIalls => Sys2Proof.Machine.execIcacheIalls s
  | .icacheIpa rs1 => Sys2Proof.Machine.execIcacheIpa rs1 s
  | .icacheIva rs1 => Sys2Proof.Machine.execIcacheIva rs1 s
  | .l2cacheCall => Sys2Proof.Machine.execL2cacheCall s
  | .l2cacheCiall => Sys2Proof.Machine.execL2cacheCiall s
  | .l2cacheIall => Sys2Proof.Machine.execL2cacheIall s
  | .dcacheCsw rs1 => Sys2Proof.Machine.execDcacheCsw rs1 s
  | .sfenceVmas rs1 rs2 => Sys2Proof.Machine.execSfenceVmas rs1 rs2 s
  | .sync => Sys2Proof.Machine.execSync s
  | .syncS => Sys2Proof.Machine.execSyncS s
  | .syncI => Sys2Proof.Machine.execSyncI s
  | .syncIs => Sys2Proof.Machine.execSyncIs s
  -- 49_thead_fp16
  | .faddH fd fs1 fs2 rm => Sys2Proof.Machine.execFaddH fd fs1 fs2 rm s
  | .fclassH rd fs1 => Sys2Proof.Machine.execFclassH rd fs1 s
  | .fcvtDH fd fs1 rm => Sys2Proof.Machine.execFcvtDH fd fs1 rm s
  | .fcvtHD fd fs1 rm => Sys2Proof.Machine.execFcvtHD fd fs1 rm s
  | .fcvtHL fd rs1 rm => Sys2Proof.Machine.execFcvtHL fd rs1 rm s
  | .fcvtHLu fd rs1 rm => Sys2Proof.Machine.execFcvtHLu fd rs1 rm s
  | .fcvtHS fd fs1 rm => Sys2Proof.Machine.execFcvtHS fd fs1 rm s
  | .fcvtHW fd rs1 rm => Sys2Proof.Machine.execFcvtHW fd rs1 rm s
  | .fcvtHWu fd rs1 rm => Sys2Proof.Machine.execFcvtHWu fd rs1 rm s
  | .fcvtLH rd fs1 rm => Sys2Proof.Machine.execFcvtLH rd fs1 rm s
  | .fcvtLuH rd fs1 rm => Sys2Proof.Machine.execFcvtLuH rd fs1 rm s
  | .fcvtSH fd fs1 rm => Sys2Proof.Machine.execFcvtSH fd fs1 rm s
  | .fcvtWH rd fs1 rm => Sys2Proof.Machine.execFcvtWH rd fs1 rm s
  | .fcvtWuH rd fs1 rm => Sys2Proof.Machine.execFcvtWuH rd fs1 rm s
  | .fdivH fd fs1 fs2 rm => Sys2Proof.Machine.execFdivH fd fs1 fs2 rm s
  | .feqH rd fs1 fs2 => Sys2Proof.Machine.execFeqH rd fs1 fs2 s
  | .fleH rd fs1 fs2 => Sys2Proof.Machine.execFleH rd fs1 fs2 s
  | .flh fd rs1 imm12 => Sys2Proof.Machine.execFlh fd rs1 imm12 s
  | .fltH rd fs1 fs2 => Sys2Proof.Machine.execFltH rd fs1 fs2 s
  | .fmaddH fd fs1 fs2 fs3 rm => Sys2Proof.Machine.execFmaddH fd fs1 fs2 fs3 rm s
  | .fmaxH fd fs1 fs2 => Sys2Proof.Machine.execFmaxH fd fs1 fs2 s
  | .fminH fd fs1 fs2 => Sys2Proof.Machine.execFminH fd fs1 fs2 s
  | .fmsubH fd fs1 fs2 fs3 rm => Sys2Proof.Machine.execFmsubH fd fs1 fs2 fs3 rm s
  | .fmulH fd fs1 fs2 rm => Sys2Proof.Machine.execFmulH fd fs1 fs2 rm s
  | .fmvHX fd rs1 => Sys2Proof.Machine.execFmvHX fd rs1 s
  | .fmvXH rd fs1 => Sys2Proof.Machine.execFmvXH rd fs1 s
  | .fnmaddH fd fs1 fs2 fs3 rm => Sys2Proof.Machine.execFnmaddH fd fs1 fs2 fs3 rm s
  | .fnmsubH fd fs1 fs2 fs3 rm => Sys2Proof.Machine.execFnmsubH fd fs1 fs2 fs3 rm s
  | .fsgnjH fd fs1 fs2 => Sys2Proof.Machine.execFsgnjH fd fs1 fs2 s
  | .fsgnjnH fd fs1 fs2 => Sys2Proof.Machine.execFsgnjnH fd fs1 fs2 s
  | .fsgnjxH fd fs1 fs2 => Sys2Proof.Machine.execFsgnjxH fd fs1 fs2 s
  | .fsh fs2 rs1 imm12 => Sys2Proof.Machine.execFsh fs2 rs1 imm12 s
  | .fsqrtH fd fs1 rm => Sys2Proof.Machine.execFsqrtH fd fs1 rm s
  | .fsubH fd fs1 fs2 rm => Sys2Proof.Machine.execFsubH fd fs1 fs2 rm s

end Sys2Proof.Machine
end

