-- ==== Sys2Proof/Machine/Environment.lean ====
section
/-! DEFINITION. What the outside does between two instructions: time, events, interrupt lines, the hidden life of the TLB, the
reset inputs, and which hart runs (log 2). And what the fetch path sees of an instruction placed at the program counter. -/

namespace Sys2Proof.Machine

/-- MTIME advances (61_clint_plic:R858). -/
def State.passTime (s : State) (ticks : Nat) : State := { s with mtime := s.mtime + BitVec.ofNat 64 ticks }

/-- Clock cycles of the running hart; none while it waits in WFI or is held in reset (62_pmu_debug_power:R903). -/
def State.passCycles (s : State) (n : Nat) : State := if s.me.lowPower || s.me.inReset then s else { s with me := s.me.tickCycles n }

/-- Counter `k + 3` counts its event now: its selector holds its own index, one of the 26 events that exist, and a CSR
instruction has initialised it (11_csr_standard:R91, 62_pmu_debug_power:R902, R903). DESIGN CHOICE (log 14): the event 0x7 of
counter 9, which table 12.5 calls reserved, counts like the named ones. -/
def Hart.countsEvent (h : Hart) (k : Fin 29) : Bool :=
  decide (k.val < 26) && h.pmu.event[k] == BitVec.ofNat 64 (k.val + 1) && h.pmu.inited[k] && h.counting (k.val + 3) &&
    !h.lowPower && !h.inReset

/-- The event of a counter occurs `n` times (62_pmu_debug_power:R903, R905). -/
def State.countEvent (s : State) (k : Fin 29) (n : Nat) : State :=
  let h := s.me
  if h.countsEvent k then
    { s with me := { h with
        pmu := { h.pmu with hpm := h.pmu.hpm.set k.val (h.pmu.hpm[k] + BitVec.ofNat 64 n) k.isLt }
        th := { h.th with mcounterof := h.noteOverflow (k.val + 3) h.pmu.hpm[k] n } } }
  else s

/-- A jTLB entry is evicted (21_mmu_pmp:R246). -/
def State.evictTlb (s : State) (set : BitVec 8) (way : BitVec 2) : State :=
  { s with me := { s.me with tlb := { s.me.tlb with joint := s.me.tlb.joint.filter fun e => !e.sameSlot set way } } }

/-- A uTLB entry is evicted (21_mmu_pmp:R246). -/
def State.evictMicro (s : State) (k : Access) (index : Nat) : State :=
  { s with me := { s.me with tlb := s.me.tlb.setMicro k ((s.me.tlb.micro k).eraseIdx index) } }

/-- The running hart loses its reservation (93_implementation_defined:U18). -/
def State.loseReservation (s : State) : State := { s with me := { s.me with lmon := none, gmon := none } }

/-- The other hart becomes the current one (log 1). -/
def State.switchHart (s : State) : State := { s with me := s.other, other := s.me }

/-- A line is prefetched into the running hart's L1 D-cache: only ordinary cacheable memory that a load could read
(20_memory:R187, R225). -/
def State.prefetchData (s : State) (va : Word) : State :=
  match s.resolve .load va with
  | .ok pl t => if t.me.dcacheOn && !t.me.inReset then t.touch pl.attr pl.pa.toNat else s
  | _ => s

/-- A line is prefetched into the running hart's L1 I-cache (20_memory:R189, R225). -/
def State.prefetchCode (s : State) (va : Word) : State :=
  match s.resolve .fetch va with
  | .ok pl t => if strongOrder pl.attr || t.me.inReset then s else t.fillIcache pl.attr va pl.pa.toNat
  | _ => s

/-- A line is prefetched into the L2, for a load or for a fetch: only cacheable memory that such an access of the core could read,
and not while its L1 caches are off, where the L2 takes no line on a miss (20_memory:R187, R220, R225,
21_mmu_pmp:R266, 70_reset_and_hazards:R954). DESIGN CHOICE (log 41): the page's own attributes decide, as for any access; the spec
does not say which do. -/
def State.prefetchL2 (s : State) (fetch : Bool) (va : Word) : State :=
  match s.resolve (if fetch then .fetch else .load) va with
  | .ok pl t =>
    if cacheable pl.attr && !t.soc.inWindow pl.pa && t.me.cachesOn && !t.me.inReset then t.fillL2 (lineOf pl.pa.toNat)
    else s
  | _ => s

/-- The running hart fetches a parcel ahead of its use, from no device (20_memory:R187, R189). -/
def State.fetchAhead (s : State) (va : Word) : State :=
  match s.resolve .fetch va with
  | .ok pl t =>
    if strongOrder pl.attr || t.soc.inWindow pl.pa || bit va 0 || t.me.inReset then s else t.fetchEarly pl.attr va pl.pa.toNat
  | _ => s

/-- The line at a position of the running hart's L1 I-cache leaves it (20_memory:R222). -/
def State.evictCode (s : State) (index : Nat) : State := { s with me := { s.me with icache := s.me.icache.eraseIdx index } }

/-- The running hart is reset, and held there or released; what its caches held is lost (70_reset_and_hazards:R930, R931,
62_pmu_debug_power:R921). -/
def State.resetMe (s : State) (held : Bool) : State := { s with me := { Hart.reset s.soc s.me.id with inReset := held } }

/-- The other hart is reset, and held there or released (70_reset_and_hazards:R931). -/
def State.resetOther (s : State) (held : Bool) : State :=
  { s with other := { Hart.reset s.soc s.other.id with inReset := held } }

/-- The reset input of one core is asserted, and released again unless `held`. -/
def State.resetHart (s : State) (h : HartId) (held : Bool) : State :=
  if s.me.id = h then s.resetMe held else s.resetOther held

/-- The reset input of a core is released (70_reset_and_hazards:R932). -/
def Hart.release (x : Hart) (h : HartId) : Hart := if x.id = h then { x with inReset := false } else x

/-- All reset inputs together: both harts, and the top level with the L2, the CLINT and the PLIC (70_reset_and_hazards:R931,
D29); the cores of `CORES_RELEASED` then run (R932). Memory keeps what was written back; a level line still asserted is sampled
anew (61_clint_plic:R880). -/
def State.resetAll (s : State) : State :=
  let s := ((s.resetMe (!s.soc.released s.me.id)).resetOther (!s.soc.released s.other.id)).invalL2 everyLine
  { s with mtime := 0, clint0 := ClintRegs.reset, clint1 := ClintRegs.reset, plic := (Plic.reset s.plic.lines).sample, mccr2 := 8 }

/-- `core(x)_pad_lpmd_b` (62_pmu_debug_power:R927). -/
def Hart.lpmd (h : Hart) : BitVec 2 := if h.lowPower then 0 else 3

/-- A core is in low-power mode or powered off, its reset asserted (62_pmu_debug_power:R923, R924). -/
def Hart.idle (h : Hart) : Bool := h.lowPower || h.inReset

/-- `cpu_pad_no_op`: all cores are in low-power mode or off, and in a model of whole steps the L2 has no transfer open
(62_pmu_debug_power:R923, R924, R927). -/
def State.noOp (s : State) : Bool := s.me.idle && s.other.idle

/-- The environment's part of an input; `run` and `runHeld` have none. -/
def State.environment (s : State) (i : Input) : State :=
  match i with
  | .run | .runHeld => s
  | .switchHart => s.switchHart
  | .time ticks => s.passTime ticks
  | .cycles n => s.passCycles n
  | .event k n => s.countEvent k n
  | .line n level => { s with plic := s.plic.setLine n.val level }
  | .pulse n => { s with plic := s.plic.pulse n.val }
  | .tlbEvict set way => s.evictTlb set way
  | .tlbPrefetch va => s.prefetchTlb va
  | .loseReservation => s.loseReservation
  | .utlbEvict fetch index => s.evictMicro (if fetch then .fetch else .load) index
  | .dcacheEvict line => s.flushMine (onLine line)
  | .icacheEvict index => s.evictCode index
  | .l2Evict line => s.evictL2 (onLine line)
  | .l2Flush => s.evictL2 everyLine
  | .dcachePrefetch va => s.prefetchData va
  | .icachePrefetch va => s.prefetchCode va
  | .l2Prefetch fetch va => s.prefetchL2 fetch va
  | .fetchAhead va => s.fetchAhead va
  | .dropFetched => s.refetchMine
  | .settle => s.settleMe
  | .resetHart h => s.resetHart h false
  | .holdReset h => s.resetHart h true
  | .releaseReset h => { s with me := s.me.release h, other := s.other.release h }
  | .resetCluster => s.resetAll

/-- The running hart leaves WFI (62_pmu_debug_power:R920). -/
def State.wake (s : State) : State := { s with me := { s.me with lowPower := false } }

/-- The running hart takes an interrupt (60_exceptions:R813). -/
def State.takeInterrupt (s : State) (c : Nat) : State := { s with me := s.me.takeInterrupt c }

/-! ### Placing an instruction -/

/-- A hart whose every copy of a byte is as given, with nothing fetched ahead. -/
def Hart.placeByte (h : Hart) (a : Nat) (b : Byte) : Hart :=
  { h with oldPtes := h.oldPtes.filter fun o => o.addr != a / 8 * 8
           fetched := [], l1d := patchedIn h.l1d a [b]
           icache := h.icache.map fun e => if e.line.line == lineOf a then { e with line := e.line.patched a [b] } else e }

/-- A byte placed in physical memory from outside, so that every observer sees it. -/
def State.placeByte (s : State) (a : Nat) (b : Byte) : State :=
  { s with mem := Memory.write a b s.mem, l2 := patchedIn s.l2 a [b], me := s.me.placeByte a b, other := s.other.placeByte a b }

/-- Two bytes placed where the fetch of the parcel at a virtual address reads them. -/
def State.placeParcel (s : State) (va : Word) (lo hi : Byte) : State :=
  match s.resolve .fetch va with
  | .ok pl _ => (s.placeByte pl.pa.toNat lo).placeByte (pl.pa.toNat + 1) hi
  | _ => s

/-- Four bytes placed where the next fetch reads them. -/
def State.placeAtPc (s : State) (bs : List Byte) : State :=
  (s.placeParcel s.me.pc (bs.getD 0 0) (bs.getD 1 0)).placeParcel (s.me.pc + 2) (bs.getD 2 0) (bs.getD 3 0)

end Sys2Proof.Machine
end

