-- ==== Sys2Proof/Machine/Turn.lean ====
section
/-! DEFINITION. The turn of the running hart: waiting, an interrupt, or one instruction fetched, decoded and executed. -/

namespace Sys2Proof.Machine

noncomputable section

/-- Fetch, decode and execute one instruction; a code the decoder refuses raises illegal instruction (30_encoding:R287). -/
def State.runInstr (s : State) : Host.Outcome State Fault Refusal :=
  match s.fetch with
  | .ok code s' =>
    match decodeCode code with
    | .ok i => exec i s'
    | .error _ => .next (s'.illegal code)
  | .trap c info s' => .next (s'.raise c info)
  | .fault r => .fault r
  | .refused r => .refused r

/-- The running hart's turn: it is held in reset, or waits in WFI, or takes an interrupt (where `sample` says they are sampled), or runs one
instruction (60_exceptions:R813, 62_pmu_debug_power:R920). -/
def State.hartStep (s : State) (sample : Bool) : Host.Outcome State Fault Refusal :=
  if s.me.inReset || (s.me.lowPower && !s.wakeUp) then .next s
  else
    match if sample then s.wake.interrupt? else none with
    | some c => .next (s.wake.takeInterrupt c)
    | none => s.wake.runInstr

end

end Sys2Proof.Machine
end

