-- ==== Sys2Proof/Machine/Step.lean ====
section
/-! DEFINITION. One step of the machine: an input of the environment, or the turn of the running hart; and how an instruction
is placed for it. -/

namespace Sys2Proof.Machine

noncomputable section

/-- One step: the next input of the environment, or, when none is listed, the running hart's turn (log 2). -/
def step (s : State) : Host.Outcome State Fault Refusal :=
  match s.inputs with
  | [] => s.hartStep true
  | .run :: rest => State.hartStep { s with inputs := rest } true
  | .runHeld :: rest => State.hartStep { s with inputs := rest } false
  | i :: rest => .next (State.environment { s with inputs := rest } i)

/-- The state with an instruction placed where the next step fetches (log 3): no input waits, the hart neither waits in WFI nor
is held in reset, and the bytes stand in memory at the translated program counter. -/
def State.withFetchWord (s : State) (nbits w : Nat) : State :=
  ({ s with inputs := [], me := { s.me with inReset := false } }.wake).placeAtPc (tableBytes nbits w)

end

end Sys2Proof.Machine
end

