-- ==== Sys2Proof/Safety.lean ====
section
/-! DEFINITION. The legal states, what a safe run is, and the words in which the claims say what an instruction changes and
what it leaves: each of them names the next state's program counter, registers and bytes, and says that the rest is as
before. -/

namespace Sys2Proof.Machine

/-! ### Legal states -/

/-- A cache holds no line twice, and of each line all 64 bytes (20_memory:R219, R220, R222). -/
def Whole (c : List CacheLine) : Prop := (c.Pairwise fun l m => l.line ≠ m.line) ∧ ∀ l ∈ c, l.data.length = 64

/-- No two lines of a D-cache lie in the same way of a set (20_memory:R219, 48_thead_cache_sync:R714). -/
def Placed (c : List CacheLine) : Prop := c.Pairwise fun l m => ¬ (l.line % 512 = m.line % 512 ∧ l.way = m.way)

/-- An I-cache has at most two lines in a set, no line twice in one, and of each line all 64 bytes (20_memory:R222). -/
def CodeWhole (c : List CodeLine) : Prop :=
  (c.Pairwise fun e f => ¬ (e.set = f.set ∧ e.line.line = f.line.line)) ∧ (∀ e ∈ c, e.line.data.length = 64) ∧
    ∀ set, (c.filter fun e => e.set == set).length ≤ 2

/-- The L2 has at most 16 lines in each of its 1024 sets (00_scope:R1, 20_memory:R220). -/
def Fits (c : List CacheLine) : Prop := ∀ n, (c.filter fun l => l.line % 1024 == n).length ≤ 16

/-- The L2 holds every line of a D-cache, but for one that a broadcast is about to take out (20_memory:R220, log 62). -/
def Included (c l2 : List CacheLine) : Prop := ∀ l ∈ c, l.leaving = false → holds l2 l.line = true

/-- The legal contents of one core: even program counters (10_state:R23, 11_csr_standard:R81, R105), a privilege mode in
`mstatus.MPP` (11_csr_standard:R64), the read-only fields of `mstatus` at their values, a MODE of `satp` that exists
(11_csr_standard:R109), no bit outside the writable ones in the other masked registers, uTLBs of at most 32 and 17 entries
(21_mmu_pmp:R245), and the lines of its caches whole and in their places. -/
structure Hart.Inv (h : Hart) : Prop where
  pcEven     : h.pc.getLsbD 0 = false
  mepcEven   : h.m.mepc.getLsbD 0 = false
  sepcEven   : h.sup.sepc.getLsbD 0 = false
  mppLegal   : field h.m.mstatus mstatusMPP 2 ≠ 2
  mstatusFix : h.m.mstatus &&& ~~~(mstatusMask ||| maskOf mstatusMPP 2) = 0xa00000000
  satpMode   : field h.sup.satp 60 4 = 0 ∨ field h.sup.satp 60 4 = 8
  medeleg    : h.m.medeleg &&& ~~~maskOf 0 16 = 0
  mideleg    : h.m.mideleg &&& ~~~midelegMask = 0
  mie        : h.m.mie &&& ~~~mieMask = 0
  mxstatus   : h.th.mxstatus &&& ~~~mxstatusMask = 0
  pmpCfg     : ∀ i : Fin 8, (h.pmp.cfg[i]).toNat / 8 % 4 ≠ 2 ∧ h.pmp.cfg[i] &&& 0x60 = 0
  fetchTlb   : h.tlb.fetch.length ≤ 32
  dataTlb    : h.tlb.data.length ≤ 17
  l1d        : Whole h.l1d ∧ Placed h.l1d
  icache     : CodeWhole h.icache

/-- The legal states of the machine: both cores legal and different, memory in its canonical form, the L2 whole, of its size and
inclusive of both D-caches (20_memory:R220), no pending bit of a source that does not exist (61_clint_plic:R873). -/
structure State.Inv (s : State) : Prop where
  me       : s.me.Inv
  other    : s.other.Inv
  ids      : s.me.id ≠ s.other.id
  memory   : Memory.wf s.mem = true
  l2       : Whole s.l2 ∧ Fits s.l2
  included : Included s.me.l1d s.l2 ∧ Included s.other.l1d s.l2
  sources  : s.plic.ip &&& ~~~Plic.live = 0

/-! ### Safe runs -/

/-- A run of `n` steps stops with no fault and no refusal. -/
def SafeFor (n : Nat) (s : State) : Prop := ∃ t, Sys2Proof.core.run n s = .next t

/-- What keeps every step of a machine without translation from stopping: the SoC has an exclusive monitor
(20_memory:R218), every region of sysmap.h has a combination of attributes that table 6.1 names (20_memory:R183), and
the running core does not translate (21_mmu_pmp:R230). -/
structure State.Untranslated (s : State) : Prop where
  monitor : s.soc.exclusiveMonitor = true
  sysmap  : ∀ pa, attrLegal (s.soc.attrOf pa) = true
  satp    : field s.me.sup.satp 60 4 ≠ 8

/-! ### What an instruction changes -/

/-- Every byte is as before, for every access of the running core: with any attributes, looking into its D-cache or not. -/
def SameBytes (s t : State) : Prop := ∀ attr own a, t.sees attr own a = s.sees attr own a

/-- Integer register `q` after the writes `ws`, the first in the list that names `q` deciding; `x0` reads 0
(10_state:R21). -/
def regAfter (s : State) (ws : List (Reg × Word)) (q : Reg) : Word :=
  if q = 0 then 0
  else
    match ws.find? fun w => w.1 == q with
    | some w => w.2
    | none => s.getX q

/-- A number stored little-endian in `size` bytes from the address `base` (20_memory:R181). -/
structure Chunk where
  base  : Nat
  size  : Nat
  value : Nat
  deriving DecidableEq, Repr

/-- The byte that an access with these attributes finds at `a` after the chunks `cs` are stored, the first in the list that covers
`a` deciding. -/
def byteAfter (s : State) (attr : BitVec 5) (cs : List Chunk) (a : Nat) : Byte :=
  match cs.find? fun c => decide (c.base ≤ a ∧ a < c.base + c.size) with
  | some c => BitVec.ofNat 8 (c.value / 256 ^ (a - c.base))
  | none => s.sees attr s.me.dcacheOn a

/-- The hart `h` with the program counter and the counters of `t`: `mcycle`, `minstret` and their overflow bits run on with
every instruction (11_csr_standard:R89, R90). -/
def Hart.moved (h t : Hart) : Hart :=
  { h with pc := t.pc
           pmu := { h.pmu with mcycle := t.pmu.mcycle, minstret := t.pmu.minstret }
           th := { h.th with mcounterof := t.th.mcounterof } }

/-- The result `r` is a next state with this program counter and these integer registers written, and all else as before:
an instruction that computes. -/
def Computes (s : State) (r : Result) (pc : Word) (ws : List (Reg × Word)) : Prop :=
  ∃ t, r = .next t ∧ t.me.pc = pc ∧ (∀ q, t.getX q = regAfter s ws q) ∧
    t = { s with me := { s.me.moved t.me with x := t.me.x } } ∧ SameBytes s t

/-- `s'` differs from `s` at most in the TLBs and in how many free values are used up: what looking an address up may leave
(21_mmu_pmp:R246). -/
def Hidden (s s' : State) : Prop := s' = { s with me := { s.me with tlb := s'.me.tlb }, draws := s'.draws }

/-- A place is ordinary memory: no device register, no bus error. -/
def Plain (s : State) (pl : Place) : Prop := s.soc.inWindow pl.pa = false ∧ s.soc.busError pl.pa = false

/-- A plain access of `n` bytes at `va` goes to the parts `ps` of ordinary memory: one part where it is aligned, one for each
byte where the hardware splits it (20_memory:R185, R190). The state after the lookup is `s'`. -/
def Lands (s : State) (k : Access) (va : Word) (n : Nat) (ps : List Part) (s' : State) : Prop :=
  s.plan k false va n = .ok ps s' ∧ ∀ p ∈ ps, Plain s p.place

/-- Two accesses find their bytes alike: both cacheable or neither, both with a snoop of the other core or neither
(20_memory:R187, R219). -/
def State.Alike (s : State) (attr attr' : BitVec 5) : Prop :=
  cacheable attr = cacheable attr' ∧ s.snooped attr = s.snooped attr'

/-- Line `n` can leave every cache and take no byte with it, as cacheable accesses with these attributes see it: a dirty line of a
D-cache holds what they see, and where the other core is not snooped it has none dirty; with no D-cache dirty the L2 holds it, and
there memory, where the L2 is not dirty; and the own D-cache holds the line once. With the D-caches on, where all accesses snoop,
and to memory that is written through the caches alone, this is always so (20_memory:R219, R220). -/
def State.Backed (s : State) (attr : BitVec 5) (n : Nat) : Prop :=
  cacheable attr = true →
    (∀ l ∈ s.me.l1d, ∀ m ∈ s.me.l1d, l.line = n → m.line = n → l = m) ∧
    ∀ a, a / 64 = n →
      let seen := s.sees attr s.me.dcacheOn a
      (s.snooped attr = false → dirtyByte s.other.l1d a = none) ∧
      (∀ b, dirtyByte s.other.l1d a = some b ∨ dirtyByte s.me.l1d a = some b → b = seen) ∧
      (dirtyByte s.other.l1d a = none → dirtyByte s.me.l1d a = none → s.l2Byte a = seen) ∧
      (dirtyByte s.l2 a).getD (Memory.read s.mem a) = s.l2Byte a

/-- The address is one of the bytes of the part. -/
def Part.Covers (p : Part) (a : Nat) : Prop := p.place.pa.toNat ≤ a ∧ a < p.place.pa.toNat + p.size

/-- After accesses to the parts `ps` that store the chunks `cs`, every byte of memory is as before but for those of the chunks, as
accesses find it that find their bytes as all the parts do; but of a line that the caches may have displaced this is said only
where it is backed. The bytes of an access in one part are not displaced by it. -/
def Sees (s t : State) (ps : List Part) (cs : List Chunk) : Prop :=
  ∀ attr, (∀ p ∈ ps, s.Alike p.place.attr attr) →
    ∀ a, s.Backed attr (a / 64) ∨ (∃ p, ps = [p] ∧ p.Covers a) → t.sees attr s.me.dcacheOn a = byteAfter s attr cs a

/-- The parts of an access do not disturb one another: there is one alone, or the lines they lie on are backed. -/
def State.Apart (s : State) (ps : List Part) : Prop :=
  (∃ p, ps = [p]) ∨
    ∃ attr, (∀ p ∈ ps, s.Alike p.place.attr attr) ∧ ∀ p ∈ ps, ∀ a, p.Covers a → s.Backed attr (a / 64)

/-- An atomic access of `n` bytes at `va` goes to one place of memory that is cacheable, or whose SoC has an exclusive
monitor (20_memory:R191, R218). -/
def LandsAtomic (s : State) (k : Access) (va : Word) (n : Nat) (pl : Place) : Prop :=
  va.toNat % n = 0 ∧ (∃ s', s.resolve k va = .ok pl s') ∧ Plain s pl ∧
    (cacheable pl.attr = true ∨ s.soc.exclusiveMonitor = true)

/-- The number that the bytes of some parts hold, the lowest first (20_memory:R181). -/
def State.loaded (s : State) : List Part → Nat
  | [] => 0
  | p :: rest => s.number p.place.attr p.place.pa.toNat p.size + 2 ^ (8 * p.size) * s.loaded rest

/-- The chunks that storing a number in some parts writes, the lowest bytes in the first part; a later one is stored later. -/
def chunksOf : List Part → Nat → List Chunk
  | [], _ => []
  | p :: rest, v => chunksOf rest (v / 2 ^ (8 * p.size)) ++ [⟨p.place.pa.toNat, p.size, v⟩]

/-- A load from the parts `ps`: as `Computes`, but the TLBs may have taken a translation (21_mmu_pmp:R246), the caches lines, for
which others may have been written back or taken out (20_memory:R219, R220), and free values may be used up. -/
def Loads (s : State) (r : Result) (pc : Word) (ps : List Part) (ws : List (Reg × Word)) : Prop :=
  ∃ t, r = .next t ∧ t.me.pc = pc ∧ (∀ q, t.getX q = regAfter s ws q) ∧
    t = { s with me := { s.me.moved t.me with x := t.me.x, tlb := t.me.tlb, l1d := t.me.l1d },
                 other := { s.other with l1d := t.other.l1d }, mem := t.mem, l2 := t.l2, draws := t.draws } ∧ Sees s t ps []

/-- `mstatus` with FS = Dirty (11_csr_standard:R66). -/
def State.statusDirty (s : State) : Word := s.me.m.mstatus ||| 0x6000

/-- A load into `f[fd]`, which makes the unit dirty. -/
def LoadsF (s : State) (r : Result) (pc : Word) (ps : List Part) (fd : Reg) (v : Word) : Prop :=
  ∃ t, r = .next t ∧ t.me.pc = pc ∧ (∀ q, t.getF q = if q = fd then v else s.getF q) ∧ t.me.m.mstatus = s.statusDirty ∧
    t = { s with me := { s.me.moved t.me with f := t.me.f, tlb := t.me.tlb, l1d := t.me.l1d,
                                              m := { s.me.m with mstatus := t.me.m.mstatus } },
                 other := { s.other with l1d := t.other.l1d }, mem := t.mem, l2 := t.l2, draws := t.draws } ∧ Sees s t ps []

/-- A store of chunks in the parts `ps`, with integer registers written and `mstatus` after it. The lines of the caches, what the
walker may hold, the TLB, and the other core's monitors may change; all else is as before, and every byte but the stored
ones. -/
def Stores (s : State) (r : Result) (pc : Word) (ps : List Part) (cs : List Chunk) (ws : List (Reg × Word)) (status : Word) :
    Prop :=
  ∃ t, r = .next t ∧ t.me.pc = pc ∧ (∀ q, t.getX q = regAfter s ws q) ∧ Sees s t ps cs ∧ t.me.m.mstatus = status ∧
    t = { s with me := { s.me.moved t.me with x := t.me.x, tlb := t.me.tlb, l1d := t.me.l1d, oldPtes := t.me.oldPtes,
                                              m := { s.me.m with mstatus := t.me.m.mstatus } },
                 other := { s.other with l1d := t.other.l1d, lmon := t.other.lmon, gmon := t.other.gmon },
                 mem := t.mem, l2 := t.l2, draws := t.draws }

/-- The exceptions a load of `n` bytes may raise (40_rv64i:R333). -/
def loadCodes (n : Nat) : List Nat := if n = 1 then [5, 13] else [4, 5, 13]

/-- The exceptions a store of `n` bytes may raise (40_rv64i:R333). -/
def storeCodes (n : Nat) : List Nat := if n = 1 then [7, 15] else [6, 7, 15]

/-- A load whose access fails takes that exception, and has loaded nothing (40_rv64i:R333; after a bus error log 37). -/
def LoadTraps (s : State) (r : Result) (va : Word) (n : Nat) : Prop :=
  ∀ c info s', s.memRead va n = .trap c info s' → c ∈ loadCodes n ∧ Hidden s s' ∧ r = .next (s'.raise c info)

/-- A store whose access fails takes that exception and stores no byte (40_rv64i:R333). -/
def StoreTraps (s : State) (r : Result) (va : Word) (n v : Nat) : Prop :=
  ∀ c info s', s.memWrite va n v = .trap c info s' → c ∈ storeCodes n ∧ Hidden s s' ∧ r = .next (s'.raise c info)

/-- The rule of a load of `n` bytes at `va` that writes the registers of `ws`: what it loads is the number that the bytes of its
parts hold, unless one part displaces another's line that is not backed. -/
def LoadRule (s : State) (r : Result) (pc va : Word) (n : Nat) (ws : Nat → List (Reg × Word)) : Prop :=
  (∀ ps s', Lands s .load va n ps s' →
    Loads s r pc ps (ws (s'.readParts .load ps).1) ∧ (s.Apart ps → (s'.readParts .load ps).1 = s.loaded ps)) ∧
  LoadTraps s r va n

/-- The rule of a load of `n` bytes at `va` into `f[fd]`. -/
def LoadFRule (s : State) (r : Result) (pc va : Word) (n : Nat) (fd : Reg) : Prop :=
  (∀ ps s', Lands s .load va n ps s' →
    LoadsF s r pc ps fd (boxed (8 * n) (s'.readParts .load ps).1) ∧
      (s.Apart ps → (s'.readParts .load ps).1 = s.loaded ps)) ∧
  LoadTraps s r va n

/-- The rule of a store of the `n` low bytes of `v` at `va`. -/
def StoreRule (s : State) (r : Result) (pc va : Word) (n : Nat) (v : Word) (ws : List (Reg × Word)) (status : Word) : Prop :=
  (∀ ps s', Lands s .store va n ps s' → Stores s r pc ps (chunksOf ps v.toNat) ws status) ∧ StoreTraps s r va n v.toNat

/-- The rule of a pair load: two accesses of `n` bytes, one after the other (47_thead_mem:R621). Where one fails, no register
is written (log 32, 37). -/
def LoadPairRule (s : State) (r : Result) (va : Word) (n : Nat) (ws : Nat → Nat → List (Reg × Word)) : Prop :=
  (∀ ps s1 qs s2, Lands s .load va n ps s1 → Lands s1 .load (va + BitVec.ofNat 64 n) n qs s2 →
    let v := s2.readParts .load ps
    let w := v.2.readParts .load qs
    Loads s r (s.me.pc + 4) (ps ++ qs) (ws v.1 w.1) ∧ (s.Apart ps → v.1 = s.loaded ps) ∧
      (s.Apart (ps ++ qs) → w.1 = s.loaded qs)) ∧
  (∀ c info s', s.memReadPair va n = .trap c info s' → c ∈ loadCodes n ∧ Hidden s s' ∧ r = .next (s'.raise c info))

/-- The rule of a pair store. -/
def StorePairRule (s : State) (r : Result) (va : Word) (n : Nat) (v w : Word) : Prop :=
  (∀ ps s1 qs s2, Lands s .store va n ps s1 → Lands s1 .store (va + BitVec.ofNat 64 n) n qs s2 →
    Stores s r (s.me.pc + 4) (ps ++ qs) (chunksOf qs w.toNat ++ chunksOf ps v.toNat) [] s.me.m.mstatus) ∧
  (∀ c info s', s.memWritePair va n v.toNat w.toNat = .trap c info s' →
    c ∈ storeCodes n ∧ Hidden s s' ∧ r = .next (s'.raise c info))

/-- The rule of an AMO of `n` bytes on `x[rs1]`: `x[rd]` gets the old value, sign-extended, and memory `f` of it and of
`x[rs2]` (42_rv64a:R434); a failing access raises 6, 7 or 15 and changes nothing (42_rv64a:R432, R435). -/
def AmoRule (s : State) (r : Result) (n : Nat) (rd rs2 rs1 : Reg)
    (f : BitVec (8 * n) → BitVec (8 * n) → BitVec (8 * n)) : Prop :=
  (∀ pl, LandsAtomic s .amo (s.getX rs1) n pl →
    let old := BitVec.ofNat (8 * n) (s.number pl.attr pl.pa.toNat n)
    Stores s r (s.me.pc + 4) [⟨pl, n⟩] [⟨pl.pa.toNat, n, (f old ((s.getX rs2).setWidth (8 * n))).toNat⟩]
      [(rd, old.signExtend 64)] s.me.m.mstatus) ∧
  (∀ g c info s', s.memAmo (s.getX rs1) n g = .trap c info s' →
    c ∈ [6, 7, 15] ∧ Hidden s s' ∧ r = .next (s'.raise c info))

/-- LR and SC on a place: as a store, and this core's monitors are as given (20_memory:R213, R214). -/
def Reserves (s : State) (r : Result) (pl : Place) (n : Nat) (cs : List Chunk) (ws : List (Reg × Word))
    (lmon gmon : Option Reservation) : Prop :=
  ∃ t, r = .next t ∧ t.me.pc = s.me.pc + 4 ∧ (∀ q, t.getX q = regAfter s ws q) ∧ Sees s t [⟨pl, n⟩] cs ∧
    t.me.lmon = lmon ∧ t.me.gmon = gmon ∧
    t = { s with me := { s.me.moved t.me with x := t.me.x, tlb := t.me.tlb, l1d := t.me.l1d, oldPtes := t.me.oldPtes,
                                              lmon := t.me.lmon, gmon := t.me.gmon },
                 other := { s.other with l1d := t.other.l1d, lmon := t.other.lmon, gmon := t.other.gmon },
                 mem := t.mem, l2 := t.l2, draws := t.draws }

/-- The rule of LR of `n` bytes (42_rv64a:R456, R457, 20_memory:R213, R217): the value goes to `x[rd]`, sign-extended, the
local monitor holds the address and the size, and outside cacheable memory the global one too. -/
def LrRule (s : State) (r : Result) (n : Nat) (rd rs1 : Reg) : Prop :=
  (∀ pl, LandsAtomic s .lr (s.getX rs1) n pl →
    Reserves s r pl n [] [(rd, (BitVec.ofNat (8 * n) (s.number pl.attr pl.pa.toNat n)).signExtend 64)] (some ⟨pl.pa, n⟩)
      (if cacheable pl.attr then s.me.gmon else some ⟨pl.pa, n⟩)) ∧
  (∀ c info s', s.memLr (s.getX rs1) n = .trap c info s' → c ∈ [6, 7, 15] ∧ Hidden s s' ∧ r = .next (s'.raise c info))

/-- What SC asks of the monitors and the D-cache (20_memory:R214, R217). -/
def ScHolds (s : State) (pl : Place) (n : Nat) : Prop :=
  s.me.lmon = some ⟨pl.pa, n⟩ ∧ s.me.th.mhcr.getLsbD 1 = true ∧
    (cacheable pl.attr = true ∨ (s.soc.exclusiveMonitor = true ∧ s.me.gmon = some ⟨pl.pa, n⟩))

/-- The rule of SC of `n` bytes (42_rv64a:R458, R459, 20_memory:R214, R217). -/
def ScRule (s : State) (r : Result) (n : Nat) (rd rs2 rs1 : Reg) : Prop :=
  (∀ pl s', (s.getX rs1).toNat % n = 0 → s.resolve .store (s.getX rs1) = .ok pl s' → Plain s pl →
    (ScHolds s pl n → Reserves s r pl n [⟨pl.pa.toNat, n, (s.getX rs2).toNat⟩] [(rd, 0)] none
      (if cacheable pl.attr then s.me.gmon else none)) ∧
    (¬ ScHolds s pl n → Reserves s r pl n [] [(rd, 1)] none (if cacheable pl.attr then s.me.gmon else none))) ∧
  (∀ v c info s', s.memSc (s.getX rs1) n v = .trap c info s' →
    c ∈ [6, 7, 15] ∧ Hidden s s' ∧ r = .next (s'.raise c info))

/-! ### Floating point -/

/-- The pattern `b` is the result `out`: a NaN result is the canonical quiet NaN, or with `fxcr.DQNaN` set some quiet NaN
(43_rv64f:R463). -/
def ResultIs (s : State) (f : Fmt) (out : FpOut) (b : Nat) : Prop :=
  match out.bits with
  | some v => b = v
  | none =>
    if s.me.fp.dqNaN then f.isNan b = true ∧ f.isSnan b = false ∧ b < 2 ^ f.width
    else b = f.nanBits

/-- The floating-point registers and flags after an instruction: the flags `fl` are ORed into `fflags`, FE is set with any of
them, the unit is dirty (43_rv64f:R460, R462), and beside them only `x` and `f` may differ. -/
def FpFrame (s t : State) (fl : Flags) : Prop :=
  t.me.pc = s.me.pc + 4 ∧ t.me.fp.fflags = s.me.fp.fflags ||| fl ∧ t.me.fp.fe = (s.me.fp.fe || fl != 0) ∧
    t.me.m.mstatus = s.statusDirty ∧
    t = { s with me := { s.me.moved t.me with
                           x := t.me.x, f := t.me.f
                           fp := { s.me.fp with fflags := t.me.fp.fflags, fe := t.me.fp.fe }
                           m := { s.me.m with mstatus := t.me.m.mstatus } },
                 draws := t.draws } ∧ SameBytes s t

/-- An instruction that writes the result `out` of format `f` to `f[fd]`, NaN-boxed (43_rv64f:R464). -/
def WritesF (s : State) (r : Result) (f : Fmt) (fd : Reg) (out : FpOut) : Prop :=
  ∃ t b, r = .next t ∧ ResultIs s f out b ∧ (∀ q, t.getF q = if q = fd then boxed f.width b else s.getF q) ∧
    (∀ q, t.getX q = s.getX q) ∧ FpFrame s t out.flags

/-- A floating-point instruction that writes `x[rd]`. -/
def WritesXF (s : State) (r : Result) (rd : Reg) (v : Word) (fl : Flags) : Prop :=
  ∃ t, r = .next t ∧ (∀ q, t.getX q = regAfter s [(rd, v)] q) ∧ (∀ q, t.getF q = s.getF q) ∧ FpFrame s t fl

/-- A floating-point instruction with the code `w`: illegal with the unit off (43_rv64f:R460), else `k`. -/
def FpRule (s : State) (r : Result) (w : Word) (k : Prop) : Prop :=
  (s.me.fpOn = false → r = .next (s.raise 2 w)) ∧ (s.me.fpOn = true → k)

/-- A floating-point instruction with the code `w` and a rounding mode: illegal with the unit off or a reserved mode
(43_rv64f:R461), else `k` of the mode. -/
def RoundedRule (s : State) (r : Result) (w : Word) (rm : BitVec 3) (k : Rounding → Prop) : Prop :=
  (s.me.fpOn = false ∨ s.rounding rm = none → r = .next (s.raise 2 w)) ∧
    (∀ m, s.me.fpOn = true → s.rounding rm = some m → k m)

/-- The numbers `n * 2 ^ e` of at most `p` significant bits with an exponent `e` that `lo` admits. -/
def OnGrid (p : Nat) (lo : Int → Prop) (y : ℝ) : Prop := ∃ n e : Int, lo e ∧ |n| < 2 ^ p ∧ y = n * (2 : ℝ) ^ e

/-- `y` is `x` rounded in mode `r` to a number of the grid `g`; in a tie of RNE it is one of the grid `even`, whose numbers have
one bit less (43_rv64f:R461). -/
def Rounds (r : Rounding) (g even : ℝ → Prop) (x y : ℝ) : Prop :=
  g y ∧
    match r with
    | .rdn => y ≤ x ∧ ∀ z, g z → z ≤ x → z ≤ y
    | .rup => x ≤ y ∧ ∀ z, g z → x ≤ z → y ≤ z
    | .rtz => |y| ≤ |x| ∧ 0 ≤ x * y ∧ ∀ z, g z → 0 ≤ x * z → |z| ≤ |x| → |z| ≤ |y|
    | .rne => ∀ z, g z → |x - y| ≤ |x - z| ∧ (z ≠ y → |x - z| = |x - y| → even y)
    | .rmm => ∀ z, g z → |x - y| ≤ |x - z| ∧ (z ≠ y → |x - z| = |x - y| → |z| < |y|)

/-- The number that a finite pattern stands for (43_rv64f:R460). -/
noncomputable def Fmt.value (f : Fmt) (b : Nat) : ℝ := (if f.neg b then -1 else 1) * f.sig b * (2 : ℝ) ^ f.exp b

/-- Overflow in this mode and sign gives an infinity, not the largest finite number (43_rv64f:R462). -/
def ToInfinity (r : Rounding) (neg : Prop) : Prop := r = .rne ∨ r = .rmm ∨ (r = .rdn ∧ neg) ∨ (r = .rup ∧ ¬ neg)

/-- `out` is the exact result `x` rounded once in mode `r` (43_rv64f:R461, R462, R498): exactly 0 is a zero of the sign
`zeroNeg`, without a flag. Else let `y` be `x` rounded to the format's precision with no largest number, and `u` with no smallest
exponent either: from the format's limit on the result overflows, with OF and NX; below it the result is `y` with the sign of
`x`, NX says that `y` is not `x`, and UF that moreover `u` is below the normal numbers. -/
def RoundsTo (f : Fmt) (r : Rounding) (x : ℝ) (zeroNeg : Bool) (out : FpOut) : Prop :=
  (x = 0 → out = ⟨some (f.signBits zeroNeg), 0⟩) ∧
  (x ≠ 0 → ∃ y u,
    Rounds r (OnGrid (f.mw + 1) fun e => f.minExp ≤ e) (OnGrid f.mw fun e => f.minExp + 1 ≤ e) x y ∧
    Rounds r (OnGrid (f.mw + 1) fun _ => True) (OnGrid f.mw fun _ => True) x u ∧
    ((2 : ℝ) ^ (2 ^ (f.ew - 1) : Nat) ≤ |y| →
      out.flags = flagOF ||| flagNX ∧
        (ToInfinity r (x < 0) → ∀ neg : Bool, (neg = true ↔ x < 0) → out.bits = some (f.signBits neg + f.infBits)) ∧
        (¬ ToInfinity r (x < 0) → ∀ neg : Bool, (neg = true ↔ x < 0) → out.bits = some (f.signBits neg + f.infBits - 1))) ∧
    (|y| < (2 : ℝ) ^ (2 ^ (f.ew - 1) : Nat) →
      (∃ b, out.bits = some b ∧ b < 2 ^ f.width ∧ f.isNan b = false ∧ f.isInf b = false ∧ f.value b = y ∧
        (f.neg b = true ↔ x < 0)) ∧
      (out.flags.getLsbD 0 = true ↔ y ≠ x) ∧
      (out.flags.getLsbD 1 = true ↔ y ≠ x ∧ |u| < (2 : ℝ) ^ (f.minExp + f.mw)) ∧
      out.flags &&& 0b11100 = 0))

/-! ### Control and status registers -/

/-- The number of a register (10_state:R33). -/
def Csr.number : Csr → Nat
  | .fflags => 0x001 | .frm => 0x002 | .fcsr => 0x003 | .fxcr => 0x800
  | .sstatus => 0x100 | .sie => 0x104 | .stvec => 0x105 | .scounteren => 0x106 | .sscratch => 0x140 | .sepc => 0x141
  | .scause => 0x142 | .stval => 0x143 | .sip => 0x144 | .satp => 0x180
  | .mstatus => 0x300 | .misa => 0x301 | .medeleg => 0x302 | .mideleg => 0x303 | .mie => 0x304 | .mtvec => 0x305
  | .mcounteren => 0x306 | .mcountinhibit => 0x320 | .mscratch => 0x340 | .mepc => 0x341 | .mcause => 0x342 | .mtval => 0x343
  | .mip => 0x344 | .pmpcfg0 => 0x3a0 | .pmpaddr i => 0x3b0 + i.val | .mhpmevent k => 0x323 + k.val
  | .sxstatus => 0x5c0 | .shcr => 0x5c1 | .scounterinten => 0x5c4 | .scounterof => 0x5c5 | .scycle => 0x5e0
  | .sinstret => 0x5e2 | .shpmcounter k => 0x5e3 + k.val
  | .mxstatus => 0x7c0 | .mhcr => 0x7c1 | .mcor => 0x7c2 | .mccr2 => 0x7c3 | .mhint => 0x7c5 | .mrvbr => 0x7c7
  | .mcounterwen => 0x7c9 | .mcounterinten => 0x7ca | .mcounterof => 0x7cb | .mcins => 0x7d2 | .mcindex => 0x7d3
  | .mcdata0 => 0x7d4 | .mcdata1 => 0x7d5 | .msmpr => 0x7f3
  | .smir => 0x9c0 | .smel => 0x9c1 | .smeh => 0x9c2 | .smcir => 0x9c3
  | .mcycle => 0xb00 | .minstret => 0xb02 | .mhpmcounter k => 0xb03 + k.val
  | .cycle => 0xc00 | .time => 0xc01 | .instret => 0xc02 | .hpmcounter k => 0xc03 + k.val
  | .mvendorid => 0xf11 | .marchid => 0xf12 | .mimpid => 0xf13 | .mhartid => 0xf14 | .mcpuid => 0xfc0 | .mapbaddr => 0xfc1

/-- The registers of user level: `fflags`, `frm`, `fcsr`, `fxcr` and the user counters; those of supervisor level: 0x1xx, 0x5xx
and the MMU registers 0x9Cx; all others are of machine level (10_state:R33). -/
def UserCsr (n : Nat) : Prop := n ≤ 0x003 ∨ n = 0x800 ∨ (0xc00 ≤ n ∧ n ≤ 0xc1f)
def SupervisorCsrNo (n : Nat) : Prop := (0x100 ≤ n ∧ n ≤ 0x1ff) ∨ (0x500 ≤ n ∧ n ≤ 0x5ff) ∨ (0x9c0 ≤ n ∧ n ≤ 0x9cf)

/-- Who may access the register with the number `n` (10_state:R32, R33): the mode is not below its level; a write is not to a
read-only register (`shcr`, `mrvbr`, the user counters, the identification registers); the floating-point ones need
`mstatus.FS` (11_csr_standard:R120); `satp` in S mode needs TVM clear (R109); the user counters need their bit in
`mcounteren`, and in U mode in `scounteren` (R123); a write of a supervisor counter in S mode its bit in `mcounterwen`
(12_csr_extended:R164). -/
def Hart.MayAccess (h : Hart) (n : Nat) (write : Bool) : Prop :=
  (h.priv = .user → UserCsr n) ∧ (h.priv = .supervisor → UserCsr n ∨ SupervisorCsrNo n) ∧
  (write = true → n ≠ 0x5c1 ∧ n ≠ 0x7c7 ∧ n < 0xc00) ∧
  (n ≤ 0x003 ∨ n = 0x800 → field h.m.mstatus 13 2 ≠ 0) ∧
  (n = 0x180 → h.priv = .supervisor → h.m.mstatus.getLsbD 20 = false) ∧
  (0xc00 ≤ n → n ≤ 0xc1f →
    (h.priv ≠ .machine → h.m.mcounteren.getLsbD (n - 0xc00) = true) ∧
      (h.priv = .user → h.sup.scounteren.getLsbD (n - 0xc00) = true)) ∧
  (0x5e0 ≤ n → n ≤ 0x5ff → write = true → h.priv = .supervisor → h.th.mcounterwen.getLsbD (n - 0x5e0) = true)

/-- A CSR instruction: `x[rd]` gets the register's old value, and the register is written with `w` where there is one. The
rest is as the register's own rule says: `State.csrWrite`, after the instruction has counted as retired (log 13; in `minstret` not
where it writes that, 93_implementation_defined:U5), and the pipeline is drained (70_reset_and_hazards:R950). -/
def AccessesCsr (s : State) (r : Result) (rd : Reg) (c : Csr) (w : Option Word) : Prop :=
  ∃ t, r = .next t ∧ t.me.pc = s.me.pc + 4 ∧ (∀ q, t.getX q = regAfter s [(rd, s.csrRead c)] q) ∧
    t.me.f = s.me.f ∧ t.me.priv = s.me.priv ∧ (c ≠ .mcor → SameBytes s t) ∧
    t.me.fetched = [] ∧
    { t with me := { t.me with x := s.me.x } } =
      (match w with
       | some v => ((s.retireInto c).csrWrite c v).refetchMine
       | none => (s.retire 4).refetchMine)

/-- The rule of a CSR instruction with the code `w` on the register number `csr`, which writes where `write` holds, the new
value `f` of the old one (40_rv64i:R386 to R392, 10_state:R32). -/
def CsrRule (s : State) (r : Result) (w : BitVec 32) (csr : BitVec 12) (write : Bool) (rd : Reg) (f : Word → Word) : Prop :=
  (∀ c : Csr, c.number = csr.toNat → s.me.MayAccess csr.toNat write →
    AccessesCsr s r rd c (if write then some (f (s.csrRead c)) else none)) ∧
  ((∀ c : Csr, c.number ≠ csr.toNat) ∨ ¬ s.me.MayAccess csr.toNat write → r = .next (s.raise 2 (w.setWidth 64)))

/-! ### Translation fences -/

/-- A TLB entry an SFENCE with these operands removes (21_mmu_pmp:R249): it hits the address in `x[rs1]` and the ASID in
`x[rs2]`, where the register number is 0 each of them hits, and a global entry never hits by ASID. -/
def FenceHits (s : State) (rs1 rs2 : Reg) (e : TlbEntry) : Prop :=
  (rs1 = 0 ∨ ∃ l, pageLevel e.pageSize = some l ∧
    e.vpn.toNat / 2 ^ (9 * l) = (s.getX rs1).toNat / 2 ^ 12 % 2 ^ 27 / 2 ^ (9 * l)) ∧
  (rs2 = 0 ∨ (e.flags.getLsbD 5 = false ∧ e.asid = (s.getX rs2).setWidth 16))

/-- The rule of an SFENCE with the code `w` (40_rv64i:R397, 21_mmu_pmp:R250, 48_thead_cache_sync:R715). What a broadcast takes
out of the other core's TLBs, and of what its walker held, that core may still use until the issuing core synchronises
(log 62). -/
def FenceRule (s : State) (r : Result) (w : BitVec 32) (rs1 rs2 : Reg) (enabled broadcast : Bool) : Prop :=
  (enabled = true ∧ (s.me.priv = .machine ∨ (s.me.priv = .supervisor ∧ s.me.m.mstatus.getLsbD 20 = false)) →
    ∃ t, r = .next t ∧ t.me.pc = s.me.pc + 4 ∧
      (∀ part ∈ [Tlb.joint, Tlb.fetch, Tlb.data, Tlb.leaving], ∀ e,
        e ∈ part t.me.tlb ↔ e ∈ part s.me.tlb ∧ ¬ FenceHits s rs1 rs2 e) ∧
      (∀ part ∈ [Tlb.joint, Tlb.fetch, Tlb.data], ∀ e,
        e ∈ part t.other.tlb ↔ e ∈ part s.other.tlb ∧ ¬ (broadcast = true ∧ FenceHits s rs1 rs2 e)) ∧
      (∀ e, e ∈ t.other.tlb.leaving ↔ e ∈ s.other.tlb.leaving ∨
        (broadcast = true ∧ FenceHits s rs1 rs2 e ∧ ∃ part ∈ [Tlb.joint, Tlb.fetch, Tlb.data], e ∈ part s.other.tlb)) ∧
      t = { s with me := { s.me.moved t.me with tlb := t.me.tlb, oldPtes := [], fetched := [] },
                   other := { s.other with tlb := t.other.tlb, oldPtes := t.other.oldPtes } } ∧
      t.other.oldPtes = (if broadcast then s.other.oldPtes.map fun o => { o with leaving := true } else s.other.oldPtes) ∧
      SameBytes s t) ∧
  (enabled = false ∨ s.me.priv = .user ∨ (s.me.priv = .supervisor ∧ s.me.m.mstatus.getLsbD 20 = true) →
    r = .next (s.raise 2 (w.setWidth 64)))

/-! ### Caches -/

/-- A cache instruction on a virtual address answers `t`: only the lines of the caches, memory and the running core's TLBs may
differ from `s`. -/
def MaintainsVa (s : State) (r : Result) (t : State) : Prop :=
  r = .next t ∧ t.me.pc = s.me.pc + 4 ∧
    t = { s with me := { s.me.moved t.me with tlb := t.me.tlb, l1d := t.me.l1d, icache := t.me.icache },
                 other := { s.other with l1d := t.other.l1d, icache := t.other.icache },
                 mem := t.mem, l2 := t.l2, draws := t.draws }

/-- Any other cache instruction: the TLBs are as before too. -/
def Maintains (s : State) (r : Result) (t : State) : Prop := MaintainsVa s r t ∧ t.me.tlb = s.me.tlb

/-- The cache `c'` is `c` with the selected lines clean; they stay valid, with their bytes (48_thead_cache_sync:R690). -/
def CleanedTo (c c' : List CacheLine) (sel : CacheLine → Bool) : Prop :=
  c' = c.map fun l => if sel l && l.dirty then { l with state := .clean } else l

/-- The cache `c'` is `c` without the selected lines (48_thead_cache_sync:R690). -/
def EmptiedTo (c c' : List CacheLine) (sel : CacheLine → Bool) : Prop := c' = c.filter fun l => !sel l

/-- The cache `c'` is `c` with the selected lines on their way out by a broadcast of the other core (70_reset_and_hazards:R951,
log 62). -/
def ExpelledTo (c c' : List CacheLine) (sel : CacheLine → Bool) : Prop :=
  c' = c.map fun l => if sel l then { l with state := .leaving } else l

/-- The byte of a selected dirty line of a cache at an address. -/
def dirtyAt (c : List CacheLine) (sel : CacheLine → Bool) (a : Nat) : Option Byte :=
  (c.find? fun l => l.line == a / 64 && (sel l && l.dirty)).map fun l => l.byteAt a

/-- What the selected dirty lines of this core's D-cache, and with `both` of the other's, hold at an address. -/
def State.dirtyAbove (s : State) (sel : CacheLine → Bool) (both : Bool) (a : Nat) : Option Byte :=
  (if both then dirtyAt s.other.l1d sel a else none).or (dirtyAt s.me.l1d sel a)

/-- The selected dirty lines of this core's D-cache, and with `both` of the other's, are in the L2; nothing has gone to memory
(48_thead_cache_sync:R693, R699). -/
def WrittenToL2 (s t : State) (sel : CacheLine → Bool) (both : Bool) : Prop :=
  t.mem = s.mem ∧ ∀ a, byteIn t.l2 a = (s.dirtyAbove sel both a).or (byteIn s.l2 a)

/-- They, and the selected dirty lines of the L2, are in memory; the L2 then is as `after` says of what it held with those of the
D-caches (20_memory:R220, 48_thead_cache_sync:R695, R698, R710, R711). -/
def WrittenToMemory (s t : State) (sel : CacheLine → Bool) (both : Bool) (after : List CacheLine → Prop) : Prop :=
  (∀ a, Memory.read t.mem a = ((s.dirtyAbove sel both a).or (dirtyAt s.l2 sel a)).getD (Memory.read s.mem a)) ∧
    ∃ c, (∀ a, byteIn c a = (s.dirtyAbove sel both a).or (byteIn s.l2 a)) ∧ after c

/-- The fetch units are as before. -/
def SameCode (s t : State) : Prop := t.me.icache = s.me.icache ∧ t.other.icache = s.other.icache

/-- The selected lines have been written back from this core's L1 D-cache, with `both` from the other's, and with `l2` from the
L2 (48_thead_cache_sync:R693, R698 to R701). -/
def CleansLines (s t : State) (sel : CacheLine → Bool) (both l2 : Bool) : Prop :=
  SameCode s t ∧ CleanedTo s.me.l1d t.me.l1d sel ∧
    (if both then CleanedTo s.other.l1d t.other.l1d sel else t.other = s.other) ∧
    (if l2 then WrittenToMemory s t sel both (fun c => CleanedTo c t.l2 sel) else WrittenToL2 s t sel both)

/-- The other core after an operation that takes the selected lines out of this core's D-cache: with `broadcast` they are on their way
out there too; without, it is as before (48_thead_cache_sync:R692). -/
def OtherLoses (s t : State) (sel : CacheLine → Bool) (broadcast : Bool) : Prop :=
  if broadcast then ExpelledTo s.other.l1d t.other.l1d sel else t.other = s.other

/-- The L2 that held `c` has given up the selected lines. Without `broadcast` one that stays in the other core's D-cache has come back
from memory, since the L2 includes it (20_memory:R220, 48_thead_cache_sync:R692, log 41). -/
def L2Loses (s t : State) (sel : CacheLine → Bool) (broadcast : Bool) (c : List CacheLine) : Prop :=
  let stays := fun l : CacheLine => !broadcast && s.other.l1d.any fun m => m.line == l.line && m.state != .leaving
  t.l2 = (c.filter fun l => !(sel l && !stays l)).map fun l =>
    if sel l then CacheLine.clean (Memory.read t.mem) l.line l.way else l

/-- The selected lines have been written back as `CleansLines` says, and have left the caches (48_thead_cache_sync:R694 to R697). -/
def FlushesLines (s t : State) (sel : CacheLine → Bool) (both l2 : Bool) : Prop :=
  SameCode s t ∧ EmptiedTo s.me.l1d t.me.l1d sel ∧ OtherLoses s t sel both ∧
    (if l2 then WrittenToMemory s t sel both (L2Loses s t sel both) else WrittenToL2 s t sel both)

/-- The selected lines have left this core's L1 D-cache, with `both` the other's, and with `l2` the L2, with nothing written back:
what was dirty in them is lost (48_thead_cache_sync:R690, R702 to R705, R712). -/
def DropsLines (s t : State) (sel : CacheLine → Bool) (both l2 : Bool) : Prop :=
  SameCode s t ∧ EmptiedTo s.me.l1d t.me.l1d sel ∧ OtherLoses s t sel both ∧
    (if l2 then L2Loses s t sel both s.l2 else t.l2 = s.l2) ∧ t.mem = s.mem

/-- The selected lines have left the L2 and both D-caches, which it includes, at once, and what was dirty in them is in memory
(20_memory:R220). -/
def EvictsLines (s t : State) (sel : CacheLine → Bool) : Prop :=
  SameCode s t ∧ EmptiedTo s.me.l1d t.me.l1d sel ∧ EmptiedTo s.other.l1d t.other.l1d sel ∧
    WrittenToMemory s t sel true (fun c => EmptiedTo c t.l2 sel)

/-- Before the line of `pa` comes into the L2, its set has room: where it is `full`, a line of it has left, which one is free (log 41);
where it is not, nothing has changed (00_scope:R1, 20_memory:R220, 12_csr_extended:R137). -/
def MakesRoom (s u : State) (pa : Nat) (full : Prop) : Prop :=
  (¬ full → u = s) ∧
  (full →
    u = { s with me := { s.me with l1d := u.me.l1d }, other := { s.other with l1d := u.other.l1d }, mem := u.mem, l2 := u.l2,
                 draws := s.draws + 1 } ∧
      ∃ v ∈ s.l2, v.line % 1024 = pa / 64 % 1024 ∧ EvictsLines s u fun l => l.line == v.line)

/-- The selected lines have left this core's I-cache, and with `broadcast` are on their way out of the other one's; no data access
finds another byte (48_thead_cache_sync:R706 to R709, log 62). -/
def InvalidatesCode (s t : State) (sel : CodeLine → Bool) (broadcast : Bool) : Prop :=
  let leaves := fun e : CodeLine => if sel e then { e with line := { e.line with state := .leaving } } else e
  t.me.l1d = s.me.l1d ∧ t.l2 = s.l2 ∧ t.mem = s.mem ∧ SameBytes s t ∧ t.me.icache = (s.me.icache.filter fun e => !sel e) ∧
    t.other = (if broadcast then { s.other with icache := s.other.icache.map leaves } else s.other)

/-- The other hart after the running one has completed its broadcasts: no TLB entry, no line of its D-cache or I-cache and
nothing its walker held is on its way out any longer (48_thead_cache_sync:R717, 70_reset_and_hazards:R951, log 62). -/
def settled (h : Hart) : Hart :=
  { h with l1d := h.l1d.filter fun l => l.state != .leaving, icache := h.icache.filter fun e => e.line.state != .leaving,
           tlb := { h.tlb with leaving := [] }, oldPtes := h.oldPtes.filter fun o => !o.leaving }

/-- The gate of a cache instruction with the code `w`: THEADISAEE, and not in user mode, but for `userOk`
(48_thead_cache_sync:R690, R691). -/
def CacheRule (s : State) (r : Result) (w : BitVec 32) (userOk : Bool) (k : Prop) : Prop :=
  (s.me.theadOn = true ∧ (s.me.priv ≠ .user ∨ userOk = true) → k) ∧
    (s.me.theadOn = false ∨ (s.me.priv = .user ∧ userOk = false) → r = .next (s.raise 2 (w.setWidth 64)))

/-- A cache instruction on a virtual address goes on and leaves every line alone; the TLBs may have taken a translation. -/
def LeavesAlone (s : State) (r : Result) : Prop :=
  ∃ t, r = .next t ∧ t.me.pc = s.me.pc + 4 ∧
    t = { s with me := { s.me.moved t.me with tlb := t.me.tlb }, draws := t.draws } ∧ SameBytes s t

/-- An operation on the line of the virtual address `va` (48_thead_cache_sync:R692): it translates as a load and may page
fault; a line that the PMP denies or that answers with an error is left alone, as where the walk itself is denied; else `k` of
the physical address and of whether the page is shareable holds. -/
def LineRule (s : State) (r : Result) (va : Word) (k : State → Nat → Bool → Prop) : Prop :=
  (∀ pl s', s.translate .load va = .ok pl s' → s.me.pmp.allows pl.priv 1 pl.pa = true → s.soc.busError pl.pa = false →
    ∃ t, MaintainsVa s r t ∧ k t pl.pa.toNat (shareable pl.attr)) ∧
  (∀ pl s', s.translate .load va = .ok pl s' → (s.me.pmp.allows pl.priv 1 pl.pa = false ∨ s.soc.busError pl.pa = true) →
    LeavesAlone s r) ∧
  (∀ info s', s.translate .load va = .trap 5 info s' → LeavesAlone s r) ∧
  (∀ info s', s.translate .load va = .trap 13 info s' → Hidden s s' ∧ r = .next (s'.raise 13 info))

/-- The line is that of the physical address `pa` (48_thead_cache_sync:R690). -/
def lineAt (pa : Nat) (l : CacheLine) : Bool := l.line == pa / 64

/-- Any line. -/
def anyLine (_ : CacheLine) : Bool := true

/-- The lines that `x[rs1]` selects by set and way: set bits 14:6, way bit 31 (48_thead_cache_sync:R714). -/
def atWay (setWay : Word) (l : CacheLine) : Bool :=
  l.line % 512 == setWay.toNat / 64 % 512 && l.way == setWay.getLsbD 31

/-! ### Protection and translation -/

/-- Entry `i` of the PMP contains the physical address `a` (21_mmu_pmp:R261, R263): the range from the entry below to this
one in TOR mode, or a naturally aligned region of `2 ^ (12 + k)` bytes where `pmpaddr[37:9]` ends in a 0 and `k` ones; both
with a granularity of 4 KB. -/
def Pmp.Contains (p : Pmp) (i : Fin 8) (a : Nat) : Prop :=
  ((p.cfg[i]).toNat / 8 % 4 = 1 ∧
    (∀ h : i.val ≠ 0, p.addrOf ⟨i.val - 1, by omega⟩ * 4 / 4096 * 4096 ≤ a) ∧ a < p.addrOf i * 4 / 4096 * 4096) ∨
  ((p.cfg[i]).toNat / 8 % 4 = 3 ∧
    ∃ k, k ≤ 28 ∧ (∀ j, j < k → (p.addr[i]).getLsbD (9 + j) = true) ∧ (p.addr[i]).getLsbD (9 + k) = false ∧
      p.addrOf i / 2 ^ (10 + k) * 2 ^ (12 + k) ≤ a ∧ a < p.addrOf i / 2 ^ (10 + k) * 2 ^ (12 + k) + 2 ^ (12 + k))

/-- The address of the entry for level `i` of `va` in the table at page `table` (21_mmu_pmp:R234 step 2). -/
def pteAddress (va : Word) (i table : Nat) : BitVec 40 := BitVec.ofNat 40 (table * 4096 + va.toNat / 2 ^ (12 + 9 * i) % 512 * 8)

/-- The walker may read the entry `pte` for level `i` of `va` in the table at page `table`: PMP and bus allow it, and the attributes
sysmap.h gives are defined (21_mmu_pmp:R234 step 2, 20_memory:R184). With `sure` it reads this value and no other: the address is no
device register, no value is noted that a store since the last SFENCE has overwritten, and it is what a data access finds there.
Without, it may also be such an older value, or at a device register any (21_mmu_pmp:R242, log 34, 61). -/
def State.PteAt (s : State) (sure : Bool) (va : Word) (i table : Nat) (pte : Word) : Prop :=
  let pa := pteAddress va i table
  let now := BitVec.ofNat 64 (s.number (s.soc.attrOf pa) pa.toNat 8)
  s.me.pmp.allows .supervisor 1 pa = true ∧ attrLegal (s.soc.attrOf pa) = true ∧ s.soc.busError pa = false ∧
    (if sure then s.soc.inWindow pa = false ∧ s.me.oldPtesAt pa.toNat = [] ∧ pte = now
     else s.soc.inWindow pa = true ∨ pte = now ∨ pte ∈ s.me.oldPtesAt pa.toNat)

/-- An entry is valid and is no reserved combination (21_mmu_pmp:R234 step 3). -/
def PteValid (pte : Word) : Prop := pte.getLsbD 0 = true ∧ ¬ (pte.getLsbD 1 = false ∧ pte.getLsbD 2 = true)

/-- An entry points to a table: X = W = R = 0 (21_mmu_pmp:R234 step 4). -/
def PtePointer (pte : Word) : Prop := pte.getLsbD 1 = false ∧ pte.getLsbD 2 = false ∧ pte.getLsbD 3 = false

/-- The walk for `va` from the table at page `table`, with `n` levels to go, finds the leaf `pte` at level `l`, or without `sure` may
find it (21_mmu_pmp:R234). -/
def State.WalksTo (s : State) (sure : Bool) (va : Word) : Nat → Nat → Nat → Word → Prop
  | 0, _, _, _ => False
  | i + 1, table, l, pte =>
    ∃ e, s.PteAt sure va i table e ∧ PteValid e ∧
      ((¬ PtePointer e ∧ l = i ∧ pte = e) ∨ (PtePointer e ∧ s.WalksTo sure va i (ptePpn e) l pte))

/-- The walk ends, or may end, without a leaf (21_mmu_pmp:R234, R243): an entry that is not valid, or no leaf after three levels. -/
def State.WalkFails (s : State) (sure : Bool) (va : Word) : Nat → Nat → Prop
  | 0, _ => True
  | i + 1, table =>
    ∃ e, s.PteAt sure va i table e ∧ (¬ PteValid e ∨ (PteValid e ∧ PtePointer e ∧ s.WalkFails sure va i (ptePpn e)))

/-- The walk comes, or may come, to an entry at the physical address `pa` (21_mmu_pmp:R234). -/
def State.WalkMeets (s : State) (sure : Bool) (va : Word) (pa : BitVec 40) : Nat → Nat → Prop
  | 0, _ => False
  | i + 1, table =>
    pa = pteAddress va i table ∨
      ∃ e, s.PteAt sure va i table e ∧ PteValid e ∧ PtePointer e ∧ s.WalkMeets sure va pa i (ptePpn e)

/-- The entry `e` caches the leaf `pte` of level `l` for `va` in the current address space (21_mmu_pmp:R234 step 7, R245); it
holds all 27 bits of the page number (log 43), in any way of its set. -/
def CachesLeaf (s : State) (va : Word) (l : Nat) (pte : Word) (e : TlbEntry) : Prop :=
  e.vpn.toNat = va.toNat / 2 ^ 12 % 2 ^ 27 ∧ e.asid.toNat = s.me.sup.satp.toNat / 2 ^ 44 % 2 ^ 16 ∧
    e.pageSize.toNat = 2 ^ l ∧ e.ppn.toNat = pte.toNat / 2 ^ 10 % 2 ^ 28 ∧ e.flags.toNat = pte.toNat % 2 ^ 10 ∧
    e.attr.toNat = pte.toNat / 2 ^ 59 ∧ e.set.toNat = e.vpn.toNat / 2 ^ (9 * l) % 256

/-- The TLBs after the entry `e` has been brought into the uTLB of the access (21_mmu_pmp:R245): it stands there, every other
entry there stood there before, and where there was room all of them still stand there. -/
def FillsMicro (t t' : Tlb) (k : Access) (e : TlbEntry) : Prop :=
  let before := if k = .fetch then t.fetch else t.data
  let after := if k = .fetch then t'.fetch else t'.data
  let size := if k = .fetch then 32 else 17
  e ∈ after ∧ (∀ o ∈ after, o = e ∨ o ∈ before) ∧ (before.length < size → ∀ o ∈ before, o ∈ after) ∧
    after.length ≤ max size 1 ∧ t'.leaving = t.leaving ∧ (if k = .fetch then t'.data = t.data else t'.fetch = t.fetch)

/-- The flags of a leaf let the access through (21_mmu_pmp:R239, R240, R241). -/
def State.LeafPermits (s : State) (k : Access) (p : Priv) (flags : BitVec 10) : Prop :=
  let r := flags.getLsbD 1 = true ∨ (s.me.m.mstatus.getLsbD 19 = true ∧ flags.getLsbD 3 = true)
  (match k with
   | .fetch => flags.getLsbD 3 = true
   | .load | .lr => r
   | .store => flags.getLsbD 2 = true ∧ flags.getLsbD 7 = true
   | .amo => flags.getLsbD 2 = true ∧ flags.getLsbD 7 = true ∧ r) ∧
  flags.getLsbD 6 = true ∧
  (p = .user → flags.getLsbD 4 = true) ∧
  (p = .supervisor → flags.getLsbD 4 = true →
    s.me.m.mstatus.getLsbD 18 = true ∧ (k = .fetch → s.soc.sumAllowsFetch = true))

/-- The physical address of `va` in a page of level `l` with the page number `ppn` (21_mmu_pmp:R234 step 7). -/
def inPage (ppn l : Nat) (va : Word) : BitVec 40 :=
  BitVec.ofNat 40 (ppn / 2 ^ (9 * l) * 2 ^ (12 + 9 * l) + va.toNat % 2 ^ (12 + 9 * l))

/-- The physical address of the parcel at `pc + j`, without translation. -/
def State.codeAddress (s : State) (j : Nat) : BitVec 40 := (s.me.pc + BitVec.ofNat 64 j).setWidth 40

/-- The parcel at `pc + j` can be fetched: the PMP lets it be executed, its attributes are defined, and it is no device register
(20_memory:R189). -/
def State.Fetchable (s : State) (j : Nat) : Prop :=
  s.me.pmp.allows s.me.priv 4 (s.codeAddress j) = true ∧ attrLegal (s.soc.attrOf (s.codeAddress j)) = true ∧
    Plain s ⟨s.codeAddress j, 0, .machine⟩

/-- The byte at a physical address, that of the virtual one `va`, as the fetch unit reads it (20_memory:R222 to R224): the
I-cache's, where that is on and the page cacheable and the line stands in the set of `va`; else for a cacheable page with INSDE
clear what an access finds that looks into the D-caches, with INSDE set what the L2 or memory holds; else what a dirty line of the
L2, or with INSDE clear of the own D-cache, holds, or memory. -/
def State.codeByte (s : State) (attr : BitVec 5) (va : Word) (a : Nat) : Byte :=
  let c := attr.getLsbD 3
  let snoops := !s.me.th.mxstatus.getLsbD 19
  let held := s.me.icache.find? fun e => e.set == va.toNat / 64 % 512 && e.line.line == a / 64
  match if c && s.me.th.mhcr.getLsbD 0 then held else none with
  | some e => e.line.byteAt a
  | none =>
    if c then (if snoops then s.sees attr true a else (byteIn s.l2 a).getD (Memory.read s.mem a))
    else ((if snoops then dirtyByte s.me.l1d a else none).or (dirtyByte s.l2 a)).getD (Memory.read s.mem a)

/-- The parcel `p` is what the fetch unit delivers for `pc + j`: one fetched ahead of its use, or else the two bytes, the lower
address in the low bits (20_memory:R181, R224). -/
def State.Delivers (s : State) (j : Nat) (p : BitVec 16) : Prop :=
  let va := s.me.pc + BitVec.ofNat 64 j
  let a := (s.codeAddress j).toNat
  let attr := s.soc.attrOf (s.codeAddress j)
  p = ((s.me.fetched.find? fun f => f.addr == a).map fun f => f.parcel).getD (s.codeByte attr va (a + 1) ++ s.codeByte attr va a)

/-- What a fetch leaves: as `Hidden`, and the I-cache may have taken lines (20_memory:R222). -/
def Fetches (s s' : State) : Prop :=
  s' = { s with me := { s.me with tlb := s'.me.tlb, icache := s'.me.icache }, draws := s'.draws }

/-! ### Interrupts -/

/-- A source takes part in the arbitration for a target (61_clint_plic:R877). -/
def Plic.Qualifies (p : Plic) (t : Target) (n : Nat) : Prop :=
  1 ≤ n ∧ n ≤ 144 ∧ p.ip.getLsbD n = true ∧ (p.target t).enable.getLsbD n = true ∧ 0 < p.priority n

/-- Interrupt `c` can be taken now, in machine mode or in supervisor mode (60_exceptions:R812). -/
def State.Takes (s : State) (c : Nat) (inM : Bool) : Prop :=
  s.me.m.mie.getLsbD c = true ∧ s.mip.getLsbD c = true ∧
    (if inM then
       s.me.m.mideleg.getLsbD c = false ∧
         (s.me.priv ≠ .machine ∨ (s.me.priv = .machine ∧ s.me.m.mstatus.getLsbD 3 = true))
     else
       s.me.m.mideleg.getLsbD c = true ∧
         (s.me.priv = .user ∨ (s.me.priv = .supervisor ∧ s.me.m.mstatus.getLsbD 1 = true)))

/-- The order in which taken interrupts win: those for machine mode first (60_exceptions:R807). -/
def interruptOrder : List (Nat × Bool) :=
  [(11, true), (3, true), (7, true), (9, true), (1, true), (5, true), (17, true),
   (9, false), (1, false), (5, false), (17, false)]

/-! ### The device window -/

/-- The number of an interrupt target and of a core in the register map (61_clint_plic:R853, R871). -/
def Target.index : Target → Nat
  | .h0m => 0
  | .h0s => 1
  | .h1m => 2
  | .h1s => 3
def HartId.index : HartId → Nat
  | .core0 => 0
  | .core1 => 1

/-- The register stands at this offset of the window (61_clint_plic:R853, R871); sources 1 to 144 have one each (R870). -/
def DevReg.At : DevReg → Nat → Prop
  | .prio n, off => 1 ≤ n ∧ n ≤ 144 ∧ off = 4 * n
  | .pending x, off => x < 32 ∧ off = 0x1000 + 4 * x
  | .enable t x, off => x < 32 ∧ off = 0x2000 + 0x80 * t.index + 4 * x
  | .permission, off => off = 0x1ffffc
  | .threshold t, off => off = 0x200000 + 0x1000 * t.index
  | .claim t, off => off = 0x200004 + 0x1000 * t.index
  | .msip h, off => off = 0x4000000 + 4 * h.index
  | .mtimecmp h high, off => off = 0x4004000 + 8 * h.index + (if high then 4 else 0)
  | .ssip h, off => off = 0x400c000 + 4 * h.index
  | .stimecmp h high, off => off = 0x400d000 + 8 * h.index + (if high then 4 else 0)
  | .reserved, _ => False

/-- What a register of the window shows (61_clint_plic:R853 to R877); a reserved one shows 0 (R851). -/
def State.deviceValue (s : State) : DevReg → Nat
  | .prio n => s.plic.priority n
  | .pending x => s.plic.ip.toNat / 2 ^ (32 * x) % 2 ^ 32
  | .enable t x => (s.plic.target t).enable.toNat / 2 ^ (32 * x) % 2 ^ 32
  | .permission => if s.plic.per then 1 else 0
  | .threshold t => (s.plic.target t).threshold.toNat
  | .claim t => s.plic.winner t
  | .msip h => if (s.clint h).msip then 1 else 0
  | .ssip h => if (s.clint h).ssip then 1 else 0
  | .mtimecmp h high => (s.clint h).mtimecmp.toNat / (if high then 2 ^ 32 else 1) % 2 ^ 32
  | .stimecmp h high => (s.clint h).stimecmp.toNat / (if high then 2 ^ 32 else 1) % 2 ^ 32
  | .reserved => 0

/-- An access made with this privilege may touch the register (61_clint_plic:R852, R875): machine mode all of them, supervisor
mode SSIP, STIMECMP and its own targets' threshold and claim registers, and with PLIC_PER.S_PER the PLIC's others but PLIC_PER
itself. -/
def DevReg.MayTouch (r : DevReg) (p : Priv) (per : Bool) : Prop :=
  p = .machine ∨
    (p = .supervisor ∧
      match r with
      | .ssip _ | .stimecmp _ _ => True
      | .prio _ | .pending _ | .enable _ _ => per = true
      | .threshold t | .claim t => per = true ∨ t = .h0s ∨ t = .h1s
      | .msip _ | .mtimecmp _ _ | .permission | .reserved => False)

/-- The value a register holds after an allowed write of the word `v`, for those that hold what is written
(61_clint_plic:R853, R855, R856, R861, R872, R874, R875): its writable bits. -/
def DevReg.keeps (r : DevReg) (v : Nat) : Option Nat :=
  match r with
  | .prio n => if 1 ≤ n ∧ n ≤ 144 then some (v % 32) else none
  | .enable _ x => if x < 32 then some (v &&& ((2 ^ 145 - 2) / 2 ^ (32 * x) % 2 ^ 32)) else none
  | .permission | .msip _ | .ssip _ => some (v % 2)
  | .threshold _ => some (v % 32)
  | .mtimecmp _ _ | .stimecmp _ _ => some (v % 2 ^ 32)
  | .pending _ | .claim _ | .reserved => none

/-- The device registers after an access that leaves `t`: those of `u`, and with them the latch of `mip.SSIP` in both cores. The
TLBs may have taken the translation; all else is as in `s`. -/
def DeviceFrame (s t u : State) : Prop :=
  t = { s with me := { s.me.moved t.me with x := t.me.x, tlb := t.me.tlb, m := { s.me.m with ssipLatch := u.me.m.ssipLatch } },
               other := { s.other with m := { s.other.m with ssipLatch := u.other.m.ssipLatch } },
               plic := u.plic, clint0 := u.clint0, clint1 := u.clint1, draws := t.draws }

/-- The state `s` with the other core's monitors as in `t`: a store may return them to IDLE (20_memory:R215, R217). -/
def State.monitorsOf (s t : State) : State := { s with other := { s.other with lmon := t.other.lmon, gmon := t.other.gmon } }

/-- A word read of the register `r` with the privilege `p` gives `v` and leaves the device registers as in `u`: a claim register
claims; without the right to it the value is 0 (61_clint_plic:R852, R875, R878, 93_implementation_defined:U31, log 34). -/
def DeviceReads (s : State) (p : Priv) (r : DevReg) (v : Nat) (u : State) : Prop :=
  (r.MayTouch p s.plic.per → v = s.deviceValue r ∧ u = (s.devReadReg r).2 ∧ ((∀ c, r ≠ .claim c) → u = s)) ∧
    (¬ r.MayTouch p s.plic.per → v = 0 ∧ u = s)

/-- A word write of `v` to the register `r` leaves the device registers as in `u`: the register's write effect, or without the right
to it none. -/
def DeviceWrites (s : State) (p : Priv) (r : DevReg) (v : Nat) (u : State) : Prop :=
  (r.MayTouch p s.plic.per → u = s.devWriteReg r v) ∧ (¬ r.MayTouch p s.plic.per → u = s)

/-- The register at a physical address of the window. -/
def Place.register (pl : Place) : DevReg := devReg (pl.pa.toNat % 2 ^ 27)

/-- A load of an aligned word at `va` in the window goes on at `pc` and writes the registers that `ws` gives for the value
(61_clint_plic:R851). -/
def WindowLoads (s : State) (r : Result) (pc va : Word) (ws : BitVec 32 → List (Reg × Word)) : Prop :=
  ∀ pl s', va.toNat % 4 = 0 → s.resolve .load va = .ok pl s' → s.soc.inWindow pl.pa = true →
    ∃ t v u, r = .next t ∧ t.me.pc = pc ∧ (∀ q, t.getX q = regAfter s (ws (BitVec.ofNat 32 v)) q) ∧ SameBytes s t ∧
      DeviceReads s pl.priv pl.register v u ∧ DeviceFrame s t u

/-- A store of the low word of `x` at `va` in the window. -/
def WindowStores (s : State) (r : Result) (pc va x : Word) (ws : List (Reg × Word)) : Prop :=
  ∀ pl s', va.toNat % 4 = 0 → s.resolve .store va = .ok pl s' → s.soc.inWindow pl.pa = true → s.soc.busError pl.pa = false →
    ∃ t u, r = .next t ∧ t.me.pc = pc ∧ (∀ q, t.getX q = regAfter s ws q) ∧ SameBytes s t ∧
      DeviceWrites s pl.priv pl.register (x.toNat % 2 ^ 32) u ∧ DeviceFrame (s.monitorsOf t) t u

/-- Two loads of aligned words in the window, at `va` and just after it, the lower first. -/
def WindowLoadsPair (s : State) (r : Result) (va : Word) (ws : BitVec 32 → BitVec 32 → List (Reg × Word)) : Prop :=
  ∀ pl ql s1 s2, va.toNat % 4 = 0 → s.resolve .load va = .ok pl s1 → s1.resolve .load (va + 4) = .ok ql s2 →
    s.soc.inWindow pl.pa = true → s.soc.inWindow ql.pa = true →
    ∃ t v w u1 u2, r = .next t ∧ t.me.pc = s.me.pc + 4 ∧
      (∀ q, t.getX q = regAfter s (ws (BitVec.ofNat 32 v) (BitVec.ofNat 32 w)) q) ∧ SameBytes s t ∧
      DeviceReads s pl.priv pl.register v u1 ∧ DeviceReads u1 ql.priv ql.register w u2 ∧ DeviceFrame s t u2

/-- Two stores of aligned words in the window. -/
def WindowStoresPair (s : State) (r : Result) (va x y : Word) : Prop :=
  ∀ pl ql s1 s2, va.toNat % 4 = 0 → s.resolve .store va = .ok pl s1 → s1.resolve .store (va + 4) = .ok ql s2 →
    s.soc.inWindow pl.pa = true → s.soc.inWindow ql.pa = true → s.soc.busError pl.pa = false → s.soc.busError ql.pa = false →
    ∃ t u1 u2, r = .next t ∧ t.me.pc = s.me.pc + 4 ∧ (∀ q, t.getX q = s.getX q) ∧ SameBytes s t ∧
      DeviceWrites s pl.priv pl.register (x.toNat % 2 ^ 32) u1 ∧ DeviceWrites u1 ql.priv ql.register (y.toNat % 2 ^ 32) u2 ∧
      DeviceFrame (s.monitorsOf t) t u2

/-! ### Traps -/

/-- The machine trap registers after a trap into machine mode (60_exceptions:R800): `mepc`, `mcause` and `mtval` as given,
MPIE = the old MIE, MIE = 0, MPP = the old mode, nothing else of them changed. -/
def TrapsToM (h t : Hart) (cause tval : Word) : Prop :=
  t.priv = .machine ∧ t.sup = h.sup ∧
    t.m = { h.m with mepc := h.pc, mcause := cause, mtval := tval, mstatus := t.m.mstatus } ∧
    t.m.mstatus.getLsbD 7 = h.m.mstatus.getLsbD 3 ∧ t.m.mstatus.getLsbD 3 = false ∧
    field t.m.mstatus 11 2 = h.priv.code ∧
    (∀ n, n ∉ [3, 7, 11, 12] → t.m.mstatus.getLsbD n = h.m.mstatus.getLsbD n)

/-- The registers after a trap into supervisor mode (60_exceptions:R801). -/
def TrapsToS (h t : Hart) (cause tval : Word) : Prop :=
  t.priv = .supervisor ∧ t.m = { h.m with mstatus := t.m.mstatus } ∧
    t.sup = { h.sup with sepc := h.pc, scause := cause, stval := tval } ∧
    t.m.mstatus.getLsbD 5 = h.m.mstatus.getLsbD 1 ∧ t.m.mstatus.getLsbD 1 = false ∧
    t.m.mstatus.getLsbD 8 = (h.priv == .supervisor) ∧
    (∀ n, n ∉ [1, 5, 8] → t.m.mstatus.getLsbD n = h.m.mstatus.getLsbD n)

/-- What a trap leaves: all but the trap registers, the mode, the program counter, `mcycle` and `smeh` is as before; what has been
fetched ahead is gone (60_exceptions:R800, log 13, 42). -/
def TrapFrame (s t : State) : Prop :=
  t = { s with me := { s.me with pc := t.me.pc, priv := t.me.priv, m := t.me.m, sup := t.me.sup
                                 pmu := { s.me.pmu with mcycle := t.me.pmu.mcycle }
                                 th := { s.me.th with mcounterof := t.me.th.mcounterof }
                                 smmu := { s.me.smmu with smeh := t.me.smmu.smeh }, fetched := [] } }

/-! ### Storage behind the registers -/

/-- The storage a control and status register shows: registers of one group share it, or an operation on one writes the
others (11_csr_standard, 12_csr_extended). -/
def Csr.group : Csr → Nat × Nat
  | .fflags | .frm | .fcsr | .fxcr | .sstatus | .mstatus => (0, 0)
  | .sie | .mie | .mideleg | .sip | .mip | .mxstatus | .sxstatus | .scounterinten | .scounterof | .mcounterwen
  | .mcounterinten | .mcounterof => (1, 0)
  | .scycle | .mcycle | .cycle => (2, 0)
  | .sinstret | .minstret | .instret => (2, 2)
  | .shpmcounter k | .mhpmcounter k | .hpmcounter k => (2, k.val + 3)
  | .mhpmevent k => (3, k.val)
  | .pmpaddr i => (4, i.val)
  | .pmpcfg0 => (5, 0)
  | .mhcr | .shcr => (6, 0)
  | .mcins | .mcdata0 | .mcdata1 => (7, 0)
  | .smcir | .smir | .smel | .smeh => (8, 0)
  | .stvec => (9, 0)
  | .scounteren => (9, 1)
  | .sscratch => (9, 2)
  | .sepc => (9, 3)
  | .scause => (9, 4)
  | .stval => (9, 5)
  | .satp => (9, 6)
  | .medeleg => (10, 0)
  | .mtvec => (10, 1)
  | .mcounteren => (10, 2)
  | .mcountinhibit => (10, 3)
  | .mscratch => (10, 4)
  | .mepc => (10, 5)
  | .mcause => (10, 6)
  | .mtval => (10, 7)
  | .mcor => (11, 0)
  | .mccr2 => (11, 1)
  | .mhint => (11, 2)
  | .mcindex => (11, 3)
  | .msmpr => (11, 4)
  | .misa => (12, 0)
  | .mrvbr => (12, 1)
  | .time => (12, 2)
  | .mvendorid => (12, 3)
  | .marchid => (12, 4)
  | .mimpid => (12, 5)
  | .mhartid => (12, 6)
  | .mcpuid => (12, 7)
  | .mapbaddr => (12, 8)

/-! ### Instructions with a gate -/

/-- The instructions that need `mstatus.FS` not 00: the F, D and half-precision sets with their compressed and T-Head memory
forms (30_encoding:R289). -/
def needsFp : Instr → Bool
  | .faddS _ _ _ _ | .fclassS _ _ | .fcvtLS _ _ _ | .fcvtLuS _ _ _ | .fcvtSL _ _ _ | .fcvtSLu _ _ _ | .fcvtSW _ _ _
  | .fcvtSWu _ _ _ | .fcvtWS _ _ _ | .fcvtWuS _ _ _ | .fdivS _ _ _ _ | .feqS _ _ _ | .fleS _ _ _ | .fltS _ _ _
  | .flw _ _ _ | .fmaddS _ _ _ _ _ | .fmaxS _ _ _ | .fminS _ _ _ | .fmsubS _ _ _ _ _ | .fmulS _ _ _ _ | .fmvWX _ _
  | .fmvXW _ _ | .fnmaddS _ _ _ _ _ | .fnmsubS _ _ _ _ _ | .fsgnjS _ _ _ | .fsgnjnS _ _ _ | .fsgnjxS _ _ _
  | .fsqrtS _ _ _ | .fsubS _ _ _ _ | .fsw _ _ _ | .faddD _ _ _ _ | .fclassD _ _ | .fcvtDL _ _ _ | .fcvtDLu _ _ _
  | .fcvtDS _ _ _ | .fcvtDW _ _ _ | .fcvtDWu _ _ _ | .fcvtLD _ _ _ | .fcvtLuD _ _ _ | .fcvtSD _ _ _ | .fcvtWD _ _ _
  | .fcvtWuD _ _ _ | .fdivD _ _ _ _ | .feqD _ _ _ | .fld _ _ _ | .fleD _ _ _ | .fltD _ _ _ | .fmaddD _ _ _ _ _
  | .fmaxD _ _ _ | .fminD _ _ _ | .fmsubD _ _ _ _ _ | .fmulD _ _ _ _ | .fmvDX _ _ | .fmvXD _ _ | .fnmaddD _ _ _ _ _
  | .fnmsubD _ _ _ _ _ | .fsd _ _ _ | .fsgnjD _ _ _ | .fsgnjnD _ _ _ | .fsgnjxD _ _ _ | .fsqrtD _ _ _
  | .fsubD _ _ _ _ | .cFld _ _ _ | .cFldsp _ _ | .cFsd _ _ _ | .cFsdsp _ _ | .flrd _ _ _ _ | .flrw _ _ _ _
  | .flurd _ _ _ _ | .flurw _ _ _ _ | .fsrd _ _ _ _ | .fsrw _ _ _ _ | .fsurd _ _ _ _ | .fsurw _ _ _ _
  | .faddH _ _ _ _ | .fclassH _ _ | .fcvtDH _ _ _ | .fcvtHD _ _ _ | .fcvtHL _ _ _ | .fcvtHLu _ _ _ | .fcvtHS _ _ _
  | .fcvtHW _ _ _ | .fcvtHWu _ _ _ | .fcvtLH _ _ _ | .fcvtLuH _ _ _ | .fcvtSH _ _ _ | .fcvtWH _ _ _ | .fcvtWuH _ _ _
  | .fdivH _ _ _ _ | .feqH _ _ _ | .fleH _ _ _ | .flh _ _ _ | .fltH _ _ _ | .fmaddH _ _ _ _ _ | .fmaxH _ _ _
  | .fminH _ _ _ | .fmsubH _ _ _ _ _ | .fmulH _ _ _ _ | .fmvHX _ _ | .fmvXH _ _ | .fnmaddH _ _ _ _ _
  | .fnmsubH _ _ _ _ _ | .fsgnjH _ _ _ | .fsgnjnH _ _ _ | .fsgnjxH _ _ _ | .fsh _ _ _ | .fsqrtH _ _ _
  | .fsubH _ _ _ _ => true
  | _ => false

/-- The instructions that need `mxstatus.THEADISAEE`: the cache, synchronisation, arithmetic, bit and memory subsets
(30_encoding:R288). -/
def needsThead : Instr → Bool
  | .addsl _ _ _ _ | .mula _ _ _ | .mulah _ _ _ | .mulaw _ _ _ | .muls _ _ _ | .mulsh _ _ _ | .mulsw _ _ _
  | .mveqz _ _ _ | .mvnez _ _ _ | .srri _ _ _ | .srriw _ _ _ | .ext _ _ _ _ | .extu _ _ _ _ | .ff0 _ _ | .ff1 _ _
  | .rev _ _ | .revw _ _ | .tst _ _ _ | .tstnbz _ _ | .flrd _ _ _ _ | .flrw _ _ _ _ | .flurd _ _ _ _ | .flurw _ _ _ _
  | .fsrd _ _ _ _ | .fsrw _ _ _ _ | .fsurd _ _ _ _ | .fsurw _ _ _ _ | .lbia _ _ _ _ | .lbib _ _ _ _ | .lbuia _ _ _ _
  | .lbuib _ _ _ _ | .ldd _ _ _ _ | .ldia _ _ _ _ | .ldib _ _ _ _ | .lhia _ _ _ _ | .lhib _ _ _ _ | .lhuia _ _ _ _
  | .lhuib _ _ _ _ | .lrb _ _ _ _ | .lrbu _ _ _ _ | .lrd _ _ _ _ | .lrh _ _ _ _ | .lrhu _ _ _ _ | .lrw _ _ _ _
  | .lrwu _ _ _ _ | .lurb _ _ _ _ | .lurbu _ _ _ _ | .lurd _ _ _ _ | .lurh _ _ _ _ | .lurhu _ _ _ _ | .lurw _ _ _ _
  | .lurwu _ _ _ _ | .lwd _ _ _ _ | .lwia _ _ _ _ | .lwib _ _ _ _ | .lwud _ _ _ _ | .lwuia _ _ _ _ | .lwuib _ _ _ _
  | .sbia _ _ _ _ | .sbib _ _ _ _ | .sdd _ _ _ _ | .sdia _ _ _ _ | .sdib _ _ _ _ | .shia _ _ _ _ | .shib _ _ _ _
  | .srb _ _ _ _ | .srd _ _ _ _ | .srh _ _ _ _ | .srw _ _ _ _ | .surb _ _ _ _ | .surd _ _ _ _ | .surh _ _ _ _
  | .surw _ _ _ _ | .swia _ _ _ _ | .swib _ _ _ _ | .swd _ _ _ _ | .dcacheCall | .dcacheCiall | .dcacheCipa _
  | .dcacheCisw _ | .dcacheCiva _ | .dcacheCpa _ | .dcacheCpal1 _ | .dcacheCva _ | .dcacheCval1 _ | .dcacheIpa _
  | .dcacheIsw _ | .dcacheIva _ | .dcacheIall | .icacheIall | .icacheIalls | .icacheIpa _ | .icacheIva _
  | .l2cacheCall | .l2cacheCiall | .l2cacheIall | .dcacheCsw _ | .sfenceVmas _ _ | .sync | .syncS | .syncI | .syncIs => true
  | _ => false

end Sys2Proof.Machine
end

