-- ==== Sys2Proof/Certificates/Slice0/Obligations.lean ====
section
/-! DEFINITION. The statements for the provers: what each instruction does and leaves, and what holds of the whole machine. The
vocabulary is that of Sys2Proof/Safety.lean. -/

open Sys2Proof Sys2Proof.Machine

/-- Addition, subtraction and bitwise instructions: encoding, result, frame (40_rv64i:R335, 40_rv64i:R336, 40_rv64i:R337,
40_rv64i:R338, 40_rv64i:R339, 40_rv64i:R340, 40_rv64i:R341, 40_rv64i:R342, 40_rv64i:R343, 40_rv64i:R344,
40_rv64i:R345, 40_rv64i:R346). -/
def Obligations.AddAndLogic : Prop :=
  ∀ (s : State) (rd rs1 rs2 : Reg) (imm12 : BitVec 12), 
    (encode (.add rd rs1 rs2) = .full (0b0000000#7 ++ rs2 ++ rs1 ++ 0b000#3 ++ rd ++ 0b0110011#7) ∧
      Computes s (exec (.add rd rs1 rs2) s) (s.me.pc + 4) [(rd, s.getX rs1 + s.getX rs2)]) ∧
    (encode (.addi rd rs1 imm12) = .full (imm12 ++ rs1 ++ 0b000#3 ++ rd ++ 0b0010011#7) ∧
      Computes s (exec (.addi rd rs1 imm12) s) (s.me.pc + 4) [(rd, s.getX rs1 + imm12.signExtend 64)]) ∧
    (encode (.addiw rd rs1 imm12) = .full (imm12 ++ rs1 ++ 0b000#3 ++ rd ++ 0b0011011#7) ∧
      Computes s (exec (.addiw rd rs1 imm12) s) (s.me.pc + 4) [(rd, ((s.getX rs1).setWidth 32 + imm12.signExtend 32).signExtend 64)]) ∧
    (encode (.addw rd rs1 rs2) = .full (0b0000000#7 ++ rs2 ++ rs1 ++ 0b000#3 ++ rd ++ 0b0111011#7) ∧
      Computes s (exec (.addw rd rs1 rs2) s) (s.me.pc + 4) [(rd, ((s.getX rs1).setWidth 32 + (s.getX rs2).setWidth 32).signExtend 64)]) ∧
    (encode (.sub rd rs1 rs2) = .full (0b0100000#7 ++ rs2 ++ rs1 ++ 0b000#3 ++ rd ++ 0b0110011#7) ∧
      Computes s (exec (.sub rd rs1 rs2) s) (s.me.pc + 4) [(rd, s.getX rs1 - s.getX rs2)]) ∧
    (encode (.subw rd rs1 rs2) = .full (0b0100000#7 ++ rs2 ++ rs1 ++ 0b000#3 ++ rd ++ 0b0111011#7) ∧
      Computes s (exec (.subw rd rs1 rs2) s) (s.me.pc + 4) [(rd, ((s.getX rs1).setWidth 32 - (s.getX rs2).setWidth 32).signExtend 64)]) ∧
    (encode (.and rd rs1 rs2) = .full (0b0000000#7 ++ rs2 ++ rs1 ++ 0b111#3 ++ rd ++ 0b0110011#7) ∧
      Computes s (exec (.and rd rs1 rs2) s) (s.me.pc + 4) [(rd, s.getX rs1 &&& s.getX rs2)]) ∧
    (encode (.andi rd rs1 imm12) = .full (imm12 ++ rs1 ++ 0b111#3 ++ rd ++ 0b0010011#7) ∧
      Computes s (exec (.andi rd rs1 imm12) s) (s.me.pc + 4) [(rd, s.getX rs1 &&& imm12.signExtend 64)]) ∧
    (encode (.or rd rs1 rs2) = .full (0b0000000#7 ++ rs2 ++ rs1 ++ 0b110#3 ++ rd ++ 0b0110011#7) ∧
      Computes s (exec (.or rd rs1 rs2) s) (s.me.pc + 4) [(rd, s.getX rs1 ||| s.getX rs2)]) ∧
    (encode (.ori rd rs1 imm12) = .full (imm12 ++ rs1 ++ 0b110#3 ++ rd ++ 0b0010011#7) ∧
      Computes s (exec (.ori rd rs1 imm12) s) (s.me.pc + 4) [(rd, s.getX rs1 ||| imm12.signExtend 64)]) ∧
    (encode (.xor rd rs1 rs2) = .full (0b0000000#7 ++ rs2 ++ rs1 ++ 0b100#3 ++ rd ++ 0b0110011#7) ∧
      Computes s (exec (.xor rd rs1 rs2) s) (s.me.pc + 4) [(rd, s.getX rs1 ^^^ s.getX rs2)]) ∧
    (encode (.xori rd rs1 imm12) = .full (imm12 ++ rs1 ++ 0b100#3 ++ rd ++ 0b0010011#7) ∧
      Computes s (exec (.xori rd rs1 imm12) s) (s.me.pc + 4) [(rd, s.getX rs1 ^^^ imm12.signExtend 64)])

/-- Shift instructions: encoding, result, frame (40_rv64i:R347, 40_rv64i:R348, 40_rv64i:R350, 40_rv64i:R351,
40_rv64i:R352, 40_rv64i:R353, 40_rv64i:R354, 40_rv64i:R355, 40_rv64i:R356, 40_rv64i:R357, 40_rv64i:R358). -/
def Obligations.Shifts : Prop :=
  (∀ (s : State) (rd rs1 rs2 : Reg) (shamt : BitVec 6), 
    (encode (.sll rd rs1 rs2) = .full (0b0000000#7 ++ rs2 ++ rs1 ++ 0b001#3 ++ rd ++ 0b0110011#7) ∧
      Computes s (exec (.sll rd rs1 rs2) s) (s.me.pc + 4) [(rd, s.getX rs1 <<< ((s.getX rs2).toNat % 64))]) ∧
    (encode (.slli rd rs1 shamt) = .full (0b000000#6 ++ shamt ++ rs1 ++ 0b001#3 ++ rd ++ 0b0010011#7) ∧
      Computes s (exec (.slli rd rs1 shamt) s) (s.me.pc + 4) [(rd, s.getX rs1 <<< shamt.toNat)]) ∧
    (encode (.sllw rd rs1 rs2) = .full (0b0000000#7 ++ rs2 ++ rs1 ++ 0b001#3 ++ rd ++ 0b0111011#7) ∧
      Computes s (exec (.sllw rd rs1 rs2) s) (s.me.pc + 4) [(rd, ((s.getX rs1).setWidth 32 <<< ((s.getX rs2).toNat % 32)).signExtend 64)]) ∧
    (encode (.srl rd rs1 rs2) = .full (0b0000000#7 ++ rs2 ++ rs1 ++ 0b101#3 ++ rd ++ 0b0110011#7) ∧
      Computes s (exec (.srl rd rs1 rs2) s) (s.me.pc + 4) [(rd, s.getX rs1 >>> ((s.getX rs2).toNat % 64))]) ∧
    (encode (.srli rd rs1 shamt) = .full (0b000000#6 ++ shamt ++ rs1 ++ 0b101#3 ++ rd ++ 0b0010011#7) ∧
      Computes s (exec (.srli rd rs1 shamt) s) (s.me.pc + 4) [(rd, s.getX rs1 >>> shamt.toNat)])) ∧
  (∀ (s : State) (rd rs1 rs2 : Reg) (shamt : BitVec 5), 
    (encode (.srliw rd rs1 shamt) = .full (0b0000000#7 ++ shamt ++ rs1 ++ 0b101#3 ++ rd ++ 0b0011011#7) ∧
      Computes s (exec (.srliw rd rs1 shamt) s) (s.me.pc + 4) [(rd, ((s.getX rs1).setWidth 32 >>> shamt.toNat).signExtend 64)]) ∧
    (encode (.srlw rd rs1 rs2) = .full (0b0000000#7 ++ rs2 ++ rs1 ++ 0b101#3 ++ rd ++ 0b0111011#7) ∧
      Computes s (exec (.srlw rd rs1 rs2) s) (s.me.pc + 4) [(rd, ((s.getX rs1).setWidth 32 >>> ((s.getX rs2).toNat % 32)).signExtend 64)]) ∧
    (encode (.sra rd rs1 rs2) = .full (0b0100000#7 ++ rs2 ++ rs1 ++ 0b101#3 ++ rd ++ 0b0110011#7) ∧
      Computes s (exec (.sra rd rs1 rs2) s) (s.me.pc + 4) [(rd, (s.getX rs1).sshiftRight ((s.getX rs2).toNat % 64))])) ∧
  (∀ (s : State) (rd rs1 : Reg) (shamt : BitVec 6), 
    (encode (.srai rd rs1 shamt) = .full (0b010000#6 ++ shamt ++ rs1 ++ 0b101#3 ++ rd ++ 0b0010011#7) ∧
      Computes s (exec (.srai rd rs1 shamt) s) (s.me.pc + 4) [(rd, (s.getX rs1).sshiftRight shamt.toNat)])) ∧
  (∀ (s : State) (rd rs1 rs2 : Reg) (shamt : BitVec 5), 
    (encode (.sraiw rd rs1 shamt) = .full (0b0100000#7 ++ shamt ++ rs1 ++ 0b101#3 ++ rd ++ 0b0011011#7) ∧
      Computes s (exec (.sraiw rd rs1 shamt) s) (s.me.pc + 4) [(rd, (((s.getX rs1).setWidth 32).sshiftRight shamt.toNat).signExtend 64)]) ∧
    (encode (.sraw rd rs1 rs2) = .full (0b0100000#7 ++ rs2 ++ rs1 ++ 0b101#3 ++ rd ++ 0b0111011#7) ∧
      Computes s (exec (.sraw rd rs1 rs2) s) (s.me.pc + 4) [(rd, (((s.getX rs1).setWidth 32).sshiftRight ((s.getX rs2).toNat % 32)).signExtend 64)]) ∧
    (encode (.slliw rd rs1 shamt) = .full (0b0000000#7 ++ shamt ++ rs1 ++ 0b001#3 ++ rd ++ 0b0011011#7) ∧
      Computes s (exec (.slliw rd rs1 shamt) s) (s.me.pc + 4) [(rd, ((s.getX rs1).setWidth 32 <<< shamt.toNat).signExtend 64)]))

/-- Comparison and upper-immediate instructions: encoding, result, frame (40_rv64i:R359, 40_rv64i:R360, 40_rv64i:R361,
40_rv64i:R362, 40_rv64i:R363, 40_rv64i:R364). -/
def Obligations.CompareAndUpper : Prop :=
  ∀ (s : State) (rd rs1 rs2 : Reg) (imm12 : BitVec 12) (imm20 : BitVec 20), 
    (encode (.slt rd rs1 rs2) = .full (0b0000000#7 ++ rs2 ++ rs1 ++ 0b010#3 ++ rd ++ 0b0110011#7) ∧
      Computes s (exec (.slt rd rs1 rs2) s) (s.me.pc + 4) [(rd, if (s.getX rs1).toInt < (s.getX rs2).toInt then 1 else 0)]) ∧
    (encode (.sltu rd rs1 rs2) = .full (0b0000000#7 ++ rs2 ++ rs1 ++ 0b011#3 ++ rd ++ 0b0110011#7) ∧
      Computes s (exec (.sltu rd rs1 rs2) s) (s.me.pc + 4) [(rd, if (s.getX rs1).toNat < (s.getX rs2).toNat then 1 else 0)]) ∧
    (encode (.slti rd rs1 imm12) = .full (imm12 ++ rs1 ++ 0b010#3 ++ rd ++ 0b0010011#7) ∧
      Computes s (exec (.slti rd rs1 imm12) s) (s.me.pc + 4) [(rd, if (s.getX rs1).toInt < (imm12.signExtend 64).toInt then 1 else 0)]) ∧
    (encode (.sltiu rd rs1 imm12) = .full (imm12 ++ rs1 ++ 0b011#3 ++ rd ++ 0b0010011#7) ∧
      Computes s (exec (.sltiu rd rs1 imm12) s) (s.me.pc + 4) [(rd, if (s.getX rs1).toNat < (imm12.signExtend 64).toNat then 1 else 0)]) ∧
    (encode (.lui rd imm20) = .full (imm20 ++ rd ++ 0b0110111#7) ∧
      Computes s (exec (.lui rd imm20) s) (s.me.pc + 4) [(rd, (imm20 ++ 0#12).signExtend 64)]) ∧
    (encode (.auipc rd imm20) = .full (imm20 ++ rd ++ 0b0010111#7) ∧
      Computes s (exec (.auipc rd imm20) s) (s.me.pc + 4) [(rd, s.me.pc + (imm20 ++ 0#12).signExtend 64)])

/-- Division and remainder: encoding, result with the corner cases, frame (41_rv64m:R411, 41_rv64m:R412, 41_rv64m:R413,
41_rv64m:R414, 41_rv64m:R420, 41_rv64m:R421, 41_rv64m:R422, 41_rv64m:R423). -/
def Obligations.Division : Prop :=
  ∀ (s : State) (rd rs1 rs2 : Reg), 
    (encode (.div rd rs1 rs2) = .full (0b0000001#7 ++ rs2 ++ rs1 ++ 0b100#3 ++ rd ++ 0b0110011#7) ∧
      Computes s (exec (.div rd rs1 rs2) s) (s.me.pc + 4) [(rd, if s.getX rs2 = 0 then -1 else BitVec.ofInt 64 ((s.getX rs1).toInt.tdiv (s.getX rs2).toInt))]) ∧
    (encode (.divu rd rs1 rs2) = .full (0b0000001#7 ++ rs2 ++ rs1 ++ 0b101#3 ++ rd ++ 0b0110011#7) ∧
      Computes s (exec (.divu rd rs1 rs2) s) (s.me.pc + 4) [(rd, if s.getX rs2 = 0 then -1 else s.getX rs1 / s.getX rs2)]) ∧
    (encode (.divuw rd rs1 rs2) = .full (0b0000001#7 ++ rs2 ++ rs1 ++ 0b101#3 ++ rd ++ 0b0111011#7) ∧
      Computes s (exec (.divuw rd rs1 rs2) s) (s.me.pc + 4) [(rd, if (s.getX rs2).setWidth 32 = 0 then -1 else ((s.getX rs1).setWidth 32 / (s.getX rs2).setWidth 32).signExtend 64)]) ∧
    (encode (.divw rd rs1 rs2) = .full (0b0000001#7 ++ rs2 ++ rs1 ++ 0b100#3 ++ rd ++ 0b0111011#7) ∧
      Computes s (exec (.divw rd rs1 rs2) s) (s.me.pc + 4) [(rd, if (s.getX rs2).setWidth 32 = 0 then -1 else (BitVec.ofInt 32 (((s.getX rs1).setWidth 32).toInt.tdiv ((s.getX rs2).setWidth 32).toInt)).signExtend 64)]) ∧
    (encode (.rem rd rs1 rs2) = .full (0b0000001#7 ++ rs2 ++ rs1 ++ 0b110#3 ++ rd ++ 0b0110011#7) ∧
      Computes s (exec (.rem rd rs1 rs2) s) (s.me.pc + 4) [(rd, if s.getX rs2 = 0 then s.getX rs1 else BitVec.ofInt 64 ((s.getX rs1).toInt.tmod (s.getX rs2).toInt))]) ∧
    (encode (.remu rd rs1 rs2) = .full (0b0000001#7 ++ rs2 ++ rs1 ++ 0b111#3 ++ rd ++ 0b0110011#7) ∧
      Computes s (exec (.remu rd rs1 rs2) s) (s.me.pc + 4) [(rd, if s.getX rs2 = 0 then s.getX rs1 else s.getX rs1 % s.getX rs2)]) ∧
    (encode (.remuw rd rs1 rs2) = .full (0b0000001#7 ++ rs2 ++ rs1 ++ 0b111#3 ++ rd ++ 0b0111011#7) ∧
      Computes s (exec (.remuw rd rs1 rs2) s) (s.me.pc + 4) [(rd, if (s.getX rs2).setWidth 32 = 0 then ((s.getX rs1).setWidth 32).signExtend 64 else ((s.getX rs1).setWidth 32 % (s.getX rs2).setWidth 32).signExtend 64)]) ∧
    (encode (.remw rd rs1 rs2) = .full (0b0000001#7 ++ rs2 ++ rs1 ++ 0b110#3 ++ rd ++ 0b0111011#7) ∧
      Computes s (exec (.remw rd rs1 rs2) s) (s.me.pc + 4) [(rd, if (s.getX rs2).setWidth 32 = 0 then ((s.getX rs1).setWidth 32).signExtend 64 else (BitVec.ofInt 32 (((s.getX rs1).setWidth 32).toInt.tmod ((s.getX rs2).setWidth 32).toInt)).signExtend 64)])

/-- Multiplication: encoding, result, frame (41_rv64m:R415, 41_rv64m:R416, 41_rv64m:R417, 41_rv64m:R418, 41_rv64m:R419). -/
def Obligations.Multiplication : Prop :=
  ∀ (s : State) (rd rs1 rs2 : Reg), 
    (encode (.mul rd rs1 rs2) = .full (0b0000001#7 ++ rs2 ++ rs1 ++ 0b000#3 ++ rd ++ 0b0110011#7) ∧
      Computes s (exec (.mul rd rs1 rs2) s) (s.me.pc + 4) [(rd, s.getX rs1 * s.getX rs2)]) ∧
    (encode (.mulh rd rs1 rs2) = .full (0b0000001#7 ++ rs2 ++ rs1 ++ 0b001#3 ++ rd ++ 0b0110011#7) ∧
      Computes s (exec (.mulh rd rs1 rs2) s) (s.me.pc + 4) [(rd, BitVec.ofInt 64 ((s.getX rs1).toInt * (s.getX rs2).toInt / 2 ^ 64))]) ∧
    (encode (.mulhsu rd rs1 rs2) = .full (0b0000001#7 ++ rs2 ++ rs1 ++ 0b010#3 ++ rd ++ 0b0110011#7) ∧
      Computes s (exec (.mulhsu rd rs1 rs2) s) (s.me.pc + 4) [(rd, BitVec.ofInt 64 ((s.getX rs1).toInt * (s.getX rs2).toNat / 2 ^ 64))]) ∧
    (encode (.mulhu rd rs1 rs2) = .full (0b0000001#7 ++ rs2 ++ rs1 ++ 0b011#3 ++ rd ++ 0b0110011#7) ∧
      Computes s (exec (.mulhu rd rs1 rs2) s) (s.me.pc + 4) [(rd, BitVec.ofNat 64 ((s.getX rs1).toNat * (s.getX rs2).toNat / 2 ^ 64))]) ∧
    (encode (.mulw rd rs1 rs2) = .full (0b0000001#7 ++ rs2 ++ rs1 ++ 0b000#3 ++ rd ++ 0b0111011#7) ∧
      Computes s (exec (.mulw rd rs1 rs2) s) (s.me.pc + 4) [(rd, ((s.getX rs1).setWidth 32 * (s.getX rs2).setWidth 32).signExtend 64)])

/-- Branches, JAL and JALR: encoding, target, link, frame (40_rv64i:R365, 40_rv64i:R366, 40_rv64i:R367, 40_rv64i:R368,
40_rv64i:R369, 40_rv64i:R370, 40_rv64i:R371, 40_rv64i:R372). -/
def Obligations.BranchesAndJumps : Prop :=
  (∀ (s : State) (rs1 rs2 : Reg) (off : BitVec 12), 
    (encode (.beq rs1 rs2 off) = .full (off.extractLsb' 11 1 ++ off.extractLsb' 4 6 ++ rs2 ++ rs1 ++ 0b000#3 ++ off.extractLsb' 0 4 ++ off.extractLsb' 10 1 ++ 0b1100011#7) ∧
      Computes s (exec (.beq rs1 rs2 off) s) (if s.getX rs1 = s.getX rs2 then s.me.pc + (off ++ 0#1).signExtend 64 else s.me.pc + 4) []) ∧
    (encode (.bne rs1 rs2 off) = .full (off.extractLsb' 11 1 ++ off.extractLsb' 4 6 ++ rs2 ++ rs1 ++ 0b001#3 ++ off.extractLsb' 0 4 ++ off.extractLsb' 10 1 ++ 0b1100011#7) ∧
      Computes s (exec (.bne rs1 rs2 off) s) (if s.getX rs1 ≠ s.getX rs2 then s.me.pc + (off ++ 0#1).signExtend 64 else s.me.pc + 4) []) ∧
    (encode (.blt rs1 rs2 off) = .full (off.extractLsb' 11 1 ++ off.extractLsb' 4 6 ++ rs2 ++ rs1 ++ 0b100#3 ++ off.extractLsb' 0 4 ++ off.extractLsb' 10 1 ++ 0b1100011#7) ∧
      Computes s (exec (.blt rs1 rs2 off) s) (if (s.getX rs1).toInt < (s.getX rs2).toInt then s.me.pc + (off ++ 0#1).signExtend 64 else s.me.pc + 4) []) ∧
    (encode (.bge rs1 rs2 off) = .full (off.extractLsb' 11 1 ++ off.extractLsb' 4 6 ++ rs2 ++ rs1 ++ 0b101#3 ++ off.extractLsb' 0 4 ++ off.extractLsb' 10 1 ++ 0b1100011#7) ∧
      Computes s (exec (.bge rs1 rs2 off) s) (if (s.getX rs2).toInt ≤ (s.getX rs1).toInt then s.me.pc + (off ++ 0#1).signExtend 64 else s.me.pc + 4) []) ∧
    (encode (.bltu rs1 rs2 off) = .full (off.extractLsb' 11 1 ++ off.extractLsb' 4 6 ++ rs2 ++ rs1 ++ 0b110#3 ++ off.extractLsb' 0 4 ++ off.extractLsb' 10 1 ++ 0b1100011#7) ∧
      Computes s (exec (.bltu rs1 rs2 off) s) (if (s.getX rs1).toNat < (s.getX rs2).toNat then s.me.pc + (off ++ 0#1).signExtend 64 else s.me.pc + 4) []) ∧
    (encode (.bgeu rs1 rs2 off) = .full (off.extractLsb' 11 1 ++ off.extractLsb' 4 6 ++ rs2 ++ rs1 ++ 0b111#3 ++ off.extractLsb' 0 4 ++ off.extractLsb' 10 1 ++ 0b1100011#7) ∧
      Computes s (exec (.bgeu rs1 rs2 off) s) (if (s.getX rs2).toNat ≤ (s.getX rs1).toNat then s.me.pc + (off ++ 0#1).signExtend 64 else s.me.pc + 4) [])) ∧
  (∀ (s : State) (rd rs1 : Reg) (off : BitVec 20) (imm12 : BitVec 12), 
    (encode (.jal rd off) = .full (off.extractLsb' 19 1 ++ off.extractLsb' 0 10 ++ off.extractLsb' 10 1 ++ off.extractLsb' 11 8 ++ rd ++ 0b1101111#7) ∧
      Computes s (exec (.jal rd off) s) (s.me.pc + (off ++ 0#1).signExtend 64) [(rd, s.me.pc + 4)]) ∧
    (encode (.jalr rd rs1 imm12) = .full (imm12 ++ rs1 ++ 0b000#3 ++ rd ++ 0b1100111#7) ∧
      Computes s (exec (.jalr rd rs1 imm12) s) ((s.getX rs1 + imm12.signExtend 64) &&& ~~~1) [(rd, s.me.pc + 4)]))

/-- Integer loads and stores: encoding, address, value, frame, exceptions (40_rv64i, 40_rv64i:R333, 20_memory:R181,
20_memory:R185, 20_memory:R190, 20_memory:R219, 60_exceptions:R797, notes/assumptions/37, notes/assumptions/41). -/
def Obligations.LoadsAndStores : Prop :=
  ∀ (s : State) (rd rs1 rs2 : Reg) (imm12 : BitVec 12), 
    (encode (.lb rd rs1 imm12) = .full (imm12 ++ rs1 ++ 0b000#3 ++ rd ++ 0b0000011#7) ∧
      LoadRule s (exec (.lb rd rs1 imm12) s) (s.me.pc + 4) (s.getX rs1 + imm12.signExtend 64) 1 fun v => [(rd, (BitVec.ofNat 8 v).signExtend 64)]) ∧
    (encode (.lbu rd rs1 imm12) = .full (imm12 ++ rs1 ++ 0b100#3 ++ rd ++ 0b0000011#7) ∧
      LoadRule s (exec (.lbu rd rs1 imm12) s) (s.me.pc + 4) (s.getX rs1 + imm12.signExtend 64) 1 fun v => [(rd, (BitVec.ofNat 8 v).setWidth 64)]) ∧
    (encode (.lh rd rs1 imm12) = .full (imm12 ++ rs1 ++ 0b001#3 ++ rd ++ 0b0000011#7) ∧
      LoadRule s (exec (.lh rd rs1 imm12) s) (s.me.pc + 4) (s.getX rs1 + imm12.signExtend 64) 2 fun v => [(rd, (BitVec.ofNat 16 v).signExtend 64)]) ∧
    (encode (.lhu rd rs1 imm12) = .full (imm12 ++ rs1 ++ 0b101#3 ++ rd ++ 0b0000011#7) ∧
      LoadRule s (exec (.lhu rd rs1 imm12) s) (s.me.pc + 4) (s.getX rs1 + imm12.signExtend 64) 2 fun v => [(rd, (BitVec.ofNat 16 v).setWidth 64)]) ∧
    (encode (.lw rd rs1 imm12) = .full (imm12 ++ rs1 ++ 0b010#3 ++ rd ++ 0b0000011#7) ∧
      LoadRule s (exec (.lw rd rs1 imm12) s) (s.me.pc + 4) (s.getX rs1 + imm12.signExtend 64) 4 fun v => [(rd, (BitVec.ofNat 32 v).signExtend 64)]) ∧
    (encode (.lwu rd rs1 imm12) = .full (imm12 ++ rs1 ++ 0b110#3 ++ rd ++ 0b0000011#7) ∧
      LoadRule s (exec (.lwu rd rs1 imm12) s) (s.me.pc + 4) (s.getX rs1 + imm12.signExtend 64) 4 fun v => [(rd, (BitVec.ofNat 32 v).setWidth 64)]) ∧
    (encode (.ld rd rs1 imm12) = .full (imm12 ++ rs1 ++ 0b011#3 ++ rd ++ 0b0000011#7) ∧
      LoadRule s (exec (.ld rd rs1 imm12) s) (s.me.pc + 4) (s.getX rs1 + imm12.signExtend 64) 8 fun v => [(rd, BitVec.ofNat 64 v)]) ∧
    (encode (.sb rs2 rs1 imm12) = .full (imm12.extractLsb' 5 7 ++ rs2 ++ rs1 ++ 0b000#3 ++ imm12.extractLsb' 0 5 ++ 0b0100011#7) ∧
      StoreRule s (exec (.sb rs2 rs1 imm12) s) (s.me.pc + 4) (s.getX rs1 + imm12.signExtend 64) 1 (s.getX rs2) [] s.me.m.mstatus) ∧
    (encode (.sh rs2 rs1 imm12) = .full (imm12.extractLsb' 5 7 ++ rs2 ++ rs1 ++ 0b001#3 ++ imm12.extractLsb' 0 5 ++ 0b0100011#7) ∧
      StoreRule s (exec (.sh rs2 rs1 imm12) s) (s.me.pc + 4) (s.getX rs1 + imm12.signExtend 64) 2 (s.getX rs2) [] s.me.m.mstatus) ∧
    (encode (.sw rs2 rs1 imm12) = .full (imm12.extractLsb' 5 7 ++ rs2 ++ rs1 ++ 0b010#3 ++ imm12.extractLsb' 0 5 ++ 0b0100011#7) ∧
      StoreRule s (exec (.sw rs2 rs1 imm12) s) (s.me.pc + 4) (s.getX rs1 + imm12.signExtend 64) 4 (s.getX rs2) [] s.me.m.mstatus) ∧
    (encode (.sd rs2 rs1 imm12) = .full (imm12.extractLsb' 5 7 ++ rs2 ++ rs1 ++ 0b011#3 ++ imm12.extractLsb' 0 5 ++ 0b0100011#7) ∧
      StoreRule s (exec (.sd rs2 rs1 imm12) s) (s.me.pc + 4) (s.getX rs1 + imm12.signExtend 64) 8 (s.getX rs2) [] s.me.m.mstatus)

/-- 8-byte atomic operations: encoding, old value, new memory, frame, exceptions (42_rv64a, 42_rv64a:R432, 42_rv64a:R434,
20_memory:R191, 20_memory:R218, 60_exceptions:R797, notes/assumptions/37, notes/assumptions/41). -/
def Obligations.AmoDoubleword : Prop :=
  ∀ (s : State) (rd rs2 rs1 : Reg) (aq rl : BitVec 1), 
    (encode (.amoaddD rd rs2 rs1 aq rl) = .full (0b00000#5 ++ aq ++ rl ++ rs2 ++ rs1 ++ 0b011#3 ++ rd ++ 0b0101111#7) ∧
      AmoRule s (exec (.amoaddD rd rs2 rs1 aq rl) s) 8 rd rs2 rs1 (fun t v => t + v)) ∧
    (encode (.amoandD rd rs2 rs1 aq rl) = .full (0b01100#5 ++ aq ++ rl ++ rs2 ++ rs1 ++ 0b011#3 ++ rd ++ 0b0101111#7) ∧
      AmoRule s (exec (.amoandD rd rs2 rs1 aq rl) s) 8 rd rs2 rs1 (fun t v => t &&& v)) ∧
    (encode (.amomaxD rd rs2 rs1 aq rl) = .full (0b10100#5 ++ aq ++ rl ++ rs2 ++ rs1 ++ 0b011#3 ++ rd ++ 0b0101111#7) ∧
      AmoRule s (exec (.amomaxD rd rs2 rs1 aq rl) s) 8 rd rs2 rs1 (fun t v => if t.toInt < v.toInt then v else t)) ∧
    (encode (.amomaxuD rd rs2 rs1 aq rl) = .full (0b11100#5 ++ aq ++ rl ++ rs2 ++ rs1 ++ 0b011#3 ++ rd ++ 0b0101111#7) ∧
      AmoRule s (exec (.amomaxuD rd rs2 rs1 aq rl) s) 8 rd rs2 rs1 (fun t v => if t.toNat < v.toNat then v else t)) ∧
    (encode (.amominD rd rs2 rs1 aq rl) = .full (0b10000#5 ++ aq ++ rl ++ rs2 ++ rs1 ++ 0b011#3 ++ rd ++ 0b0101111#7) ∧
      AmoRule s (exec (.amominD rd rs2 rs1 aq rl) s) 8 rd rs2 rs1 (fun t v => if v.toInt < t.toInt then v else t)) ∧
    (encode (.amominuD rd rs2 rs1 aq rl) = .full (0b11000#5 ++ aq ++ rl ++ rs2 ++ rs1 ++ 0b011#3 ++ rd ++ 0b0101111#7) ∧
      AmoRule s (exec (.amominuD rd rs2 rs1 aq rl) s) 8 rd rs2 rs1 (fun t v => if v.toNat < t.toNat then v else t)) ∧
    (encode (.amoorD rd rs2 rs1 aq rl) = .full (0b01000#5 ++ aq ++ rl ++ rs2 ++ rs1 ++ 0b011#3 ++ rd ++ 0b0101111#7) ∧
      AmoRule s (exec (.amoorD rd rs2 rs1 aq rl) s) 8 rd rs2 rs1 (fun t v => t ||| v)) ∧
    (encode (.amoswapD rd rs2 rs1 aq rl) = .full (0b00001#5 ++ aq ++ rl ++ rs2 ++ rs1 ++ 0b011#3 ++ rd ++ 0b0101111#7) ∧
      AmoRule s (exec (.amoswapD rd rs2 rs1 aq rl) s) 8 rd rs2 rs1 (fun _ v => v)) ∧
    (encode (.amoxorD rd rs2 rs1 aq rl) = .full (0b00100#5 ++ aq ++ rl ++ rs2 ++ rs1 ++ 0b011#3 ++ rd ++ 0b0101111#7) ∧
      AmoRule s (exec (.amoxorD rd rs2 rs1 aq rl) s) 8 rd rs2 rs1 (fun t v => t ^^^ v))

/-- 4-byte atomic operations: encoding, old value, new memory, frame, exceptions (42_rv64a, 42_rv64a:R432, 42_rv64a:R434,
20_memory:R191, 20_memory:R218, 60_exceptions:R797, notes/assumptions/37, notes/assumptions/41). -/
def Obligations.AmoWord : Prop :=
  ∀ (s : State) (rd rs2 rs1 : Reg) (aq rl : BitVec 1), 
    (encode (.amoaddW rd rs2 rs1 aq rl) = .full (0b00000#5 ++ aq ++ rl ++ rs2 ++ rs1 ++ 0b010#3 ++ rd ++ 0b0101111#7) ∧
      AmoRule s (exec (.amoaddW rd rs2 rs1 aq rl) s) 4 rd rs2 rs1 (fun t v => t + v)) ∧
    (encode (.amoandW rd rs2 rs1 aq rl) = .full (0b01100#5 ++ aq ++ rl ++ rs2 ++ rs1 ++ 0b010#3 ++ rd ++ 0b0101111#7) ∧
      AmoRule s (exec (.amoandW rd rs2 rs1 aq rl) s) 4 rd rs2 rs1 (fun t v => t &&& v)) ∧
    (encode (.amomaxW rd rs2 rs1 aq rl) = .full (0b10100#5 ++ aq ++ rl ++ rs2 ++ rs1 ++ 0b010#3 ++ rd ++ 0b0101111#7) ∧
      AmoRule s (exec (.amomaxW rd rs2 rs1 aq rl) s) 4 rd rs2 rs1 (fun t v => if t.toInt < v.toInt then v else t)) ∧
    (encode (.amomaxuW rd rs2 rs1 aq rl) = .full (0b11100#5 ++ aq ++ rl ++ rs2 ++ rs1 ++ 0b010#3 ++ rd ++ 0b0101111#7) ∧
      AmoRule s (exec (.amomaxuW rd rs2 rs1 aq rl) s) 4 rd rs2 rs1 (fun t v => if t.toNat < v.toNat then v else t)) ∧
    (encode (.amominW rd rs2 rs1 aq rl) = .full (0b10000#5 ++ aq ++ rl ++ rs2 ++ rs1 ++ 0b010#3 ++ rd ++ 0b0101111#7) ∧
      AmoRule s (exec (.amominW rd rs2 rs1 aq rl) s) 4 rd rs2 rs1 (fun t v => if v.toInt < t.toInt then v else t)) ∧
    (encode (.amominuW rd rs2 rs1 aq rl) = .full (0b11000#5 ++ aq ++ rl ++ rs2 ++ rs1 ++ 0b010#3 ++ rd ++ 0b0101111#7) ∧
      AmoRule s (exec (.amominuW rd rs2 rs1 aq rl) s) 4 rd rs2 rs1 (fun t v => if v.toNat < t.toNat then v else t)) ∧
    (encode (.amoorW rd rs2 rs1 aq rl) = .full (0b01000#5 ++ aq ++ rl ++ rs2 ++ rs1 ++ 0b010#3 ++ rd ++ 0b0101111#7) ∧
      AmoRule s (exec (.amoorW rd rs2 rs1 aq rl) s) 4 rd rs2 rs1 (fun t v => t ||| v)) ∧
    (encode (.amoswapW rd rs2 rs1 aq rl) = .full (0b00001#5 ++ aq ++ rl ++ rs2 ++ rs1 ++ 0b010#3 ++ rd ++ 0b0101111#7) ∧
      AmoRule s (exec (.amoswapW rd rs2 rs1 aq rl) s) 4 rd rs2 rs1 (fun _ v => v)) ∧
    (encode (.amoxorW rd rs2 rs1 aq rl) = .full (0b00100#5 ++ aq ++ rl ++ rs2 ++ rs1 ++ 0b010#3 ++ rd ++ 0b0101111#7) ∧
      AmoRule s (exec (.amoxorW rd rs2 rs1 aq rl) s) 4 rd rs2 rs1 (fun t v => t ^^^ v))

/-- LR and SC: encoding, value, monitors, success and failure, exceptions (42_rv64a, 20_memory:R213, 20_memory:R214,
20_memory:R217, 20_memory:R218, 10_state:R35, 60_exceptions:R797, notes/assumptions/24, notes/assumptions/25,
notes/assumptions/37, notes/assumptions/41, notes/assumptions/52). -/
def Obligations.ReservedAndConditional : Prop :=
  ∀ (s : State) (rd rs1 rs2 : Reg) (aq rl : BitVec 1), 
    (encode (.lrD rd rs1 aq rl) = .full (0b00010#5 ++ aq ++ rl ++ 0b00000#5 ++ rs1 ++ 0b011#3 ++ rd ++ 0b0101111#7) ∧
      LrRule s (exec (.lrD rd rs1 aq rl) s) 8 rd rs1) ∧
    (encode (.lrW rd rs1 aq rl) = .full (0b00010#5 ++ aq ++ rl ++ 0b00000#5 ++ rs1 ++ 0b010#3 ++ rd ++ 0b0101111#7) ∧
      LrRule s (exec (.lrW rd rs1 aq rl) s) 4 rd rs1) ∧
    (encode (.scD rd rs2 rs1 aq rl) = .full (0b00011#5 ++ aq ++ rl ++ rs2 ++ rs1 ++ 0b011#3 ++ rd ++ 0b0101111#7) ∧
      ScRule s (exec (.scD rd rs2 rs1 aq rl) s) 8 rd rs2 rs1) ∧
    (encode (.scW rd rs2 rs1 aq rl) = .full (0b00011#5 ++ aq ++ rl ++ rs2 ++ rs1 ++ 0b010#3 ++ rd ++ 0b0101111#7) ∧
      ScRule s (exec (.scW rd rs2 rs1 aq rl) s) 4 rd rs2 rs1)

/-- CSR instructions: encoding, old value, write, who may access, frame (40_rv64i:R386, 40_rv64i:R387, 40_rv64i:R388,
40_rv64i:R389, 40_rv64i:R390, 40_rv64i:R391, 40_rv64i:R392, 10_state:R32, 10_state:R33, 70_reset_and_hazards:R950,
notes/assumptions/13, notes/assumptions/40). -/
def Obligations.CsrInstructions : Prop :=
  ∀ (s : State) (rd rs1 : Reg) (csr : BitVec 12) (uimm5 : BitVec 5), 
    (encode (.csrrw rd csr rs1) = .full (csr ++ rs1 ++ 0b001#3 ++ rd ++ 0b1110011#7) ∧
      CsrRule s (exec (.csrrw rd csr rs1) s) (csr ++ rs1 ++ 0b001#3 ++ rd ++ 0b1110011#7) csr true rd (fun _ => s.getX rs1)) ∧
    (encode (.csrrs rd csr rs1) = .full (csr ++ rs1 ++ 0b010#3 ++ rd ++ 0b1110011#7) ∧
      CsrRule s (exec (.csrrs rd csr rs1) s) (csr ++ rs1 ++ 0b010#3 ++ rd ++ 0b1110011#7) csr (rs1 != 0) rd (fun old => old ||| s.getX rs1)) ∧
    (encode (.csrrc rd csr rs1) = .full (csr ++ rs1 ++ 0b011#3 ++ rd ++ 0b1110011#7) ∧
      CsrRule s (exec (.csrrc rd csr rs1) s) (csr ++ rs1 ++ 0b011#3 ++ rd ++ 0b1110011#7) csr (rs1 != 0) rd (fun old => old &&& ~~~(s.getX rs1))) ∧
    (encode (.csrrwi rd csr uimm5) = .full (csr ++ uimm5 ++ 0b101#3 ++ rd ++ 0b1110011#7) ∧
      CsrRule s (exec (.csrrwi rd csr uimm5) s) (csr ++ uimm5 ++ 0b101#3 ++ rd ++ 0b1110011#7) csr true rd (fun _ => uimm5.setWidth 64)) ∧
    (encode (.csrrsi rd csr uimm5) = .full (csr ++ uimm5 ++ 0b110#3 ++ rd ++ 0b1110011#7) ∧
      CsrRule s (exec (.csrrsi rd csr uimm5) s) (csr ++ uimm5 ++ 0b110#3 ++ rd ++ 0b1110011#7) csr (uimm5 != 0) rd (fun old => old ||| uimm5.setWidth 64)) ∧
    (encode (.csrrci rd csr uimm5) = .full (csr ++ uimm5 ++ 0b111#3 ++ rd ++ 0b1110011#7) ∧
      CsrRule s (exec (.csrrci rd csr uimm5) s) (csr ++ uimm5 ++ 0b111#3 ++ rd ++ 0b1110011#7) csr (uimm5 != 0) rd (fun old => old &&& ~~~(uimm5.setWidth 64)))

/-- ECALL, EBREAK, C.EBREAK, MRET and SRET: encoding, exception taken, what a return restores, who may return, frame
(40_rv64i:R393, 40_rv64i:R394, 45_rv64c:R552, 40_rv64i:R395, 40_rv64i:R396, 62_pmu_debug_power:R910,
70_reset_and_hazards:R950, notes/assumptions/50). -/
def Obligations.CallsAndReturns : Prop :=
  ∀ s : State,
    (encode .ecall = .full (0b00000000000000000000000001110011#32) ∧
      exec .ecall s = .next (s.raise (match s.me.priv with | .user => 8 | .supervisor => 9 | .machine => 11) 0)) ∧
    (encode .ebreak = .full (0b00000000000100000000000001110011#32) ∧ exec .ebreak s = .next (s.raise 3 0)) ∧
    (encode .cEbreak = .half (0b1001000000000010#16) ∧ exec .cEbreak s = .next (s.raise 3 0)) ∧
    (encode .mret = .full (0b00110000001000000000000001110011#32) ∧
      (s.me.priv = .machine → ∃ t, exec .mret s = .next t ∧ t.me.pc = s.me.m.mepc ∧
        t.me.priv = Priv.ofCode (field s.me.m.mstatus 11 2) ∧
        t.me.m.mstatus.getLsbD 3 = s.me.m.mstatus.getLsbD 7 ∧ t.me.m.mstatus.getLsbD 7 = true ∧
        field t.me.m.mstatus 11 2 = 0 ∧
        (∀ n, n ∉ [3, 7, 11, 12] → t.me.m.mstatus.getLsbD n = s.me.m.mstatus.getLsbD n) ∧
        t = { s with me := { s.me.moved t.me with priv := t.me.priv, fetched := [],
                                                  m := { s.me.m with mstatus := t.me.m.mstatus } } } ∧
        SameBytes s t) ∧
      (s.me.priv ≠ .machine → exec .mret s = .next (s.raise 2 0x30200073))) ∧
    (encode .sret = .full (0b00010000001000000000000001110011#32) ∧
      (s.me.priv = .machine ∨ (s.me.priv = .supervisor ∧ s.me.m.mstatus.getLsbD 22 = false) →
        ∃ t, exec .sret s = .next t ∧ t.me.pc = s.me.sup.sepc ∧
        t.me.priv = (if s.me.m.mstatus.getLsbD 8 then .supervisor else .user) ∧
        t.me.m.mstatus.getLsbD 1 = s.me.m.mstatus.getLsbD 5 ∧ t.me.m.mstatus.getLsbD 5 = true ∧
        t.me.m.mstatus.getLsbD 8 = false ∧
        (∀ n, n ∉ [1, 5, 8] → t.me.m.mstatus.getLsbD n = s.me.m.mstatus.getLsbD n) ∧
        t = { s with me := { s.me.moved t.me with priv := t.me.priv, fetched := [],
                                                  m := { s.me.m with mstatus := t.me.m.mstatus } } } ∧
        SameBytes s t) ∧
      (s.me.priv = .user ∨ (s.me.priv = .supervisor ∧ s.me.m.mstatus.getLsbD 22 = true) →
        exec .sret s = .next (s.raise 2 0x10200073)))

/-- The CLINT and PLIC window: address map, word loads and stores by privilege, registers kept, other sizes, fetch
(61_clint_plic:R850, 61_clint_plic:R851, 61_clint_plic:R852, 61_clint_plic:R853, 61_clint_plic:R861,
61_clint_plic:R871, 61_clint_plic:R872, 61_clint_plic:R873, 61_clint_plic:R874, 61_clint_plic:R875,
93_implementation_defined, notes/assumptions/34). -/
def Obligations.DeviceWindow : Prop :=
  (∀ off, off % 4 = 0 → ∀ r, r ≠ .reserved → (devReg off = r ↔ r.At off)) ∧
    (∀ (s : State) (rd rs1 rs2 : Reg) (imm12 : BitVec 12),
      (WindowLoads s (exec (.lw rd rs1 imm12) s) (s.me.pc + 4) (s.getX rs1 + imm12.signExtend 64) fun x => [(rd, x.signExtend 64)]) ∧
      (WindowLoads s (exec (.lwu rd rs1 imm12) s) (s.me.pc + 4) (s.getX rs1 + imm12.signExtend 64) fun x => [(rd, x.setWidth 64)]) ∧
      WindowStores s (exec (.sw rs2 rs1 imm12) s) (s.me.pc + 4) (s.getX rs1 + imm12.signExtend 64) (s.getX rs2) []) ∧
    (∀ (s : State) (rd rs1 : BitVec 3) (uimm5 : BitVec 5),
      (WindowLoads s (exec (.cLw rd rs1 uimm5) s) (s.me.pc + 2) (s.getX (creg rs1) + (uimm5.setWidth 64 <<< 2)) fun x => [((creg rd), x.signExtend 64)])) ∧
    (∀ (s : State) (rd : Reg) (uimm6 : BitVec 6),
      (WindowLoads s (exec (.cLwsp rd uimm6) s) (s.me.pc + 2) (s.getX 2 + (uimm6.setWidth 64 <<< 2)) fun x => [(rd, x.signExtend 64)])) ∧
    (∀ (s : State) (rs2 rs1 : BitVec 3) (uimm5 : BitVec 5),
      WindowStores s (exec (.cSw rs2 rs1 uimm5) s) (s.me.pc + 2) (s.getX (creg rs1) + (uimm5.setWidth 64 <<< 2)) (s.getX (creg rs2)) []) ∧
    (∀ (s : State) (rs2 : Reg) (uimm6 : BitVec 6),
      WindowStores s (exec (.cSwsp rs2 uimm6) s) (s.me.pc + 2) (s.getX 2 + (uimm6.setWidth 64 <<< 2)) (s.getX rs2) []) ∧
    (∀ (s : State) (rd rs1 rs2 : Reg) (imm2 : BitVec 2), s.me.theadOn = true →
      (WindowLoads s (exec (.lrw rd rs1 rs2 imm2) s) (s.me.pc + 4) (s.getX rs1 + (s.getX rs2 <<< imm2.toNat)) fun x => [(rd, x.signExtend 64)]) ∧
      (WindowLoads s (exec (.lrwu rd rs1 rs2 imm2) s) (s.me.pc + 4) (s.getX rs1 + (s.getX rs2 <<< imm2.toNat)) fun x => [(rd, x.setWidth 64)]) ∧
      (WindowLoads s (exec (.lurw rd rs1 rs2 imm2) s) (s.me.pc + 4) (s.getX rs1 + (((s.getX rs2).setWidth 32).setWidth 64 <<< imm2.toNat)) fun x => [(rd, x.signExtend 64)]) ∧
      (WindowLoads s (exec (.lurwu rd rs1 rs2 imm2) s) (s.me.pc + 4) (s.getX rs1 + (((s.getX rs2).setWidth 32).setWidth 64 <<< imm2.toNat)) fun x => [(rd, x.setWidth 64)])) ∧
    (∀ (s : State) (rs rs1 rs2 : Reg) (imm2 : BitVec 2), s.me.theadOn = true →
      WindowStores s (exec (.srw rs rs1 rs2 imm2) s) (s.me.pc + 4) (s.getX rs1 + (s.getX rs2 <<< imm2.toNat)) (s.getX rs) [] ∧
      WindowStores s (exec (.surw rs rs1 rs2 imm2) s) (s.me.pc + 4) (s.getX rs1 + (((s.getX rs2).setWidth 32).setWidth 64 <<< imm2.toNat)) (s.getX rs) []) ∧
    (∀ (s : State) (rd rs1 : Reg) (imm5 : BitVec 5) (imm2 : BitVec 2), s.me.theadOn = true →
      (rd ≠ rs1 → WindowLoads s (exec (.lwia rd rs1 imm5 imm2) s) (s.me.pc + 4) (s.getX rs1) fun x =>
        [(rd, x.signExtend 64), (rs1, s.getX rs1 + (imm5.signExtend 64 <<< imm2.toNat))]) ∧
      (rd ≠ rs1 → WindowLoads s (exec (.lwib rd rs1 imm5 imm2) s) (s.me.pc + 4) (s.getX rs1 + (imm5.signExtend 64 <<< imm2.toNat)) fun x =>
        [(rd, x.signExtend 64), (rs1, s.getX rs1 + (imm5.signExtend 64 <<< imm2.toNat))]) ∧
      (rd ≠ rs1 → WindowLoads s (exec (.lwuia rd rs1 imm5 imm2) s) (s.me.pc + 4) (s.getX rs1) fun x =>
        [(rd, x.setWidth 64), (rs1, s.getX rs1 + (imm5.signExtend 64 <<< imm2.toNat))]) ∧
      (rd ≠ rs1 → WindowLoads s (exec (.lwuib rd rs1 imm5 imm2) s) (s.me.pc + 4) (s.getX rs1 + (imm5.signExtend 64 <<< imm2.toNat)) fun x =>
        [(rd, x.setWidth 64), (rs1, s.getX rs1 + (imm5.signExtend 64 <<< imm2.toNat))])) ∧
    (∀ (s : State) (rs2 rs1 : Reg) (imm5 : BitVec 5) (imm2 : BitVec 2), s.me.theadOn = true →
      WindowStores s (exec (.swia rs2 rs1 imm5 imm2) s) (s.me.pc + 4) (s.getX rs1) (s.getX rs2) [(rs1, s.getX rs1 + (imm5.signExtend 64 <<< imm2.toNat))] ∧
      WindowStores s (exec (.swib rs2 rs1 imm5 imm2) s) (s.me.pc + 4) (s.getX rs1 + (imm5.signExtend 64 <<< imm2.toNat)) (s.getX rs2) [(rs1, s.getX rs1 + (imm5.signExtend 64 <<< imm2.toNat))]) ∧
    (∀ (s : State) (rd1 rd2 rs1 : Reg) (imm2 : BitVec 2), s.me.theadOn = true →
      (rd1 ≠ rd2 ∧ rd1 ≠ rs1 ∧ rd2 ≠ rs1 → WindowLoadsPair s (exec (.lwd rd1 rd2 rs1 imm2) s) (s.getX rs1 + (imm2.setWidth 64 <<< 3)) fun x y =>
        [(rd2, y.signExtend 64), (rd1, x.signExtend 64)]) ∧
      (rd1 ≠ rd2 ∧ rd1 ≠ rs1 ∧ rd2 ≠ rs1 → WindowLoadsPair s (exec (.lwud rd1 rd2 rs1 imm2) s) (s.getX rs1 + (imm2.setWidth 64 <<< 3)) fun x y =>
        [(rd2, y.setWidth 64), (rd1, x.setWidth 64)]) ∧
      WindowStoresPair s (exec (.swd rd1 rd2 rs1 imm2) s) (s.getX rs1 + (imm2.setWidth 64 <<< 3)) (s.getX rd1) (s.getX rd2)) ∧
    (∀ (s : State) (r : DevReg) (v : Nat),
      let t := s.devWriteReg r v
      (∀ w, r.keeps v = some w → t.deviceValue r = w) ∧
      (∀ q, q ≠ r → (∀ x, q ≠ .pending x) → (∀ c, q ≠ .claim c) → t.deviceValue q = s.deviceValue q) ∧
      ((∀ x, r ≠ .pending x) → (∀ c, r ≠ .claim c) → t.plic.ip = s.plic.ip ∧ t.plic.masked = s.plic.masked) ∧
      (∀ x, r = .pending x → x < 32 → t.plic.masked = s.plic.masked ∧ ∀ n, t.plic.ip.getLsbD n =
        ((if n / 32 = x then v.testBit (n % 32) && decide (1 ≤ n ∧ n ≤ 144) else s.plic.ip.getLsbD n) ||
          (s.plic.lines.getLsbD n && !s.plic.masked.getLsbD n && decide (1 ≤ n ∧ n ≤ 144)))) ∧
      t = { s with me := { s.me with m := { s.me.m with ssipLatch := t.me.m.ssipLatch } }
                   other := { s.other with m := { s.other.m with ssipLatch := t.other.m.ssipLatch } }
                   plic := t.plic, clint0 := t.clint0, clint1 := t.clint1 }) ∧
    (∀ (s : State) (va : Word) (n v : Nat) (ps : List Part) (s' : State),
      (va.toNat % n = 0 → n ≠ 4) → (∀ p ∈ ps, s.soc.inWindow p.place.pa = true) →
      (s.plan .load false va n = .ok ps s' → ∃ w u, s.memRead va n = .ok w u ∧ Hidden s u) ∧
      (s.plan .store false va n = .ok ps s' → ∃ u, s.memWrite va n v = .ok () u ∧ Hidden (s.monitorsOf u) u)) ∧
    (∀ (s : State) (va : Word) (n : Nat) (f : Nat → Nat) (ps : List Part) (s' : State),
      (∀ p ∈ ps, s.soc.inWindow p.place.pa = true) → s.plan .amo true va n = .ok ps s' →
      ∃ w u, s.memAmo va n f = .ok w u ∧ Hidden (s.monitorsOf u) u) ∧
    (∀ (s : State) (va : Word) (pl : Place) (s' : State),
      s.resolve .fetch va = .ok pl s' → s.soc.inWindow pl.pa = true → s.fetchParcel va = .trap 1 va s')

/-- FENCE, FENCE.I and WFI: encoding, effect, frame (40_rv64i:R384, 40_rv64i:R385, 40_rv64i:R399, 20_memory:R224,
12_csr_extended:R140, 70_reset_and_hazards:R951, notes/assumptions/42, notes/assumptions/46, notes/assumptions/48,
notes/assumptions/62). -/
def Obligations.FencesAndWait : Prop :=
  ∀ (s : State) (fm pred succ : BitVec 4) (rs1 rd : Reg) (imm12 : BitVec 12),
    (encode (.fence fm pred succ rs1 rd) = .full (fm ++ pred ++ succ ++ rs1 ++ 0b000#3 ++ rd ++ 0b0001111#7) ∧
      Computes s (exec (.fence fm pred succ rs1 rd) s) (s.me.pc + 4) []) ∧
    (encode (.fenceI imm12 rs1 rd) = .full (imm12 ++ rs1 ++ 0b001#3 ++ rd ++ 0b0001111#7) ∧
      ∃ t, exec (.fenceI imm12 rs1 rd) s = .next t ∧ t.me.pc = s.me.pc + 4 ∧
        (let insde := s.me.th.mxstatus.getLsbD 19
         let alone := s.me.th.mhint.getLsbD 23
         t = { s with me := { s.me.moved t.me with l1d := t.me.l1d, icache := [], fetched := [] }, other := t.other, l2 := t.l2 } ∧
         (if insde then CleanedTo s.me.l1d t.me.l1d anyLine else t.me.l1d = s.me.l1d) ∧
         t.other = (if alone then s.other else { settled s.other with icache := [] }) ∧
         (∀ a, byteIn t.l2 a = (if insde then dirtyAt s.me.l1d anyLine a else none).or (byteIn s.l2 a)) ∧
         (∀ attr a, t.sees attr true a = s.sees attr true a) ∧
         (insde = false → ∀ (attr : BitVec 5) (va : Word) (a : Nat), attr.getLsbD 3 = true →
           t.codeByte attr va a = s.sees attr true a))) ∧
    (encode .wfi = .full (0b00010000010100000000000001110011#32) ∧
      (¬ (s.me.priv = .supervisor ∧ s.me.m.mstatus.getLsbD 21 = true) →
        ∃ t, exec .wfi s = .next t ∧ t.me.pc = s.me.pc + 4 ∧
          t = { s with me := { s.me.moved t.me with lowPower := true } } ∧ SameBytes s t) ∧
      (s.me.priv = .supervisor → s.me.m.mstatus.getLsbD 21 = true → exec .wfi s = .next (s.raise 2 0x10500073)))

/-- SFENCE.VMA and SFENCE.VMAS: encoding, which entries go, broadcast, who may run them, frame (40_rv64i:R397,
21_mmu_pmp:R249, 21_mmu_pmp:R250, 48_thead_cache_sync:R715, 12_csr_extended:R140, 70_reset_and_hazards:R951,
notes/assumptions/43, notes/assumptions/61, notes/assumptions/62, notes/assumptions/64). -/
def Obligations.TlbFences : Prop :=
  ∀ (s : State) (rs1 rs2 : Reg),
    (encode (.sfenceVma rs1 rs2) = .full (0b0001001#7 ++ rs2 ++ rs1 ++ 0b000000001110011#15) ∧
      FenceRule s (exec (.sfenceVma rs1 rs2) s) (0b0001001#7 ++ rs2 ++ rs1 ++ 0b000000001110011#15) rs1 rs2 true (!s.me.th.mhint.getLsbD 21)) ∧
    (encode (.sfenceVmas rs1 rs2) = .full (0b0000010#7 ++ rs2 ++ rs1 ++ 0b000000000001011#15) ∧
      FenceRule s (exec (.sfenceVmas rs1 rs2) s) (0b0000010#7 ++ rs2 ++ rs1 ++ 0b000000000001011#15) rs1 rs2 s.me.theadOn
        (!(s.soc.vmasObeysBroadDis && s.me.th.mhint.getLsbD 21)))

/-- Compressed arithmetic, branches and jumps: encoding, result or target, frame (45_rv64c, 30_encoding:R285,
40_rv64i:R335, 40_rv64i:R365, 40_rv64i:R371). -/
def Obligations.CompressedArithmeticAndControl : Prop :=
  (∀ (s : State) (rd rs2 : Reg) (imm6 shamt : BitVec 6), 
    (encode (.cAdd rd rs2) = .half (0b1001#4 ++ rd ++ rs2 ++ 0b10#2) ∧
      Computes s (exec (.cAdd rd rs2) s) (s.me.pc + 2) [(rd, s.getX rd + s.getX rs2)]) ∧
    (encode (.cAddi rd imm6) = .half (0b000#3 ++ imm6.extractLsb' 5 1 ++ rd ++ imm6.extractLsb' 0 5 ++ 0b01#2) ∧
      Computes s (exec (.cAddi rd imm6) s) (s.me.pc + 2) [(rd, s.getX rd + imm6.signExtend 64)]) ∧
    (encode (.cAddiw rd imm6) = .half (0b001#3 ++ imm6.extractLsb' 5 1 ++ rd ++ imm6.extractLsb' 0 5 ++ 0b01#2) ∧
      Computes s (exec (.cAddiw rd imm6) s) (s.me.pc + 2) [(rd, ((s.getX rd).setWidth 32 + imm6.signExtend 32).signExtend 64)]) ∧
    (encode (.cLi rd imm6) = .half (0b010#3 ++ imm6.extractLsb' 5 1 ++ rd ++ imm6.extractLsb' 0 5 ++ 0b01#2) ∧
      Computes s (exec (.cLi rd imm6) s) (s.me.pc + 2) [(rd, imm6.signExtend 64)]) ∧
    (encode (.cLui rd imm6) = .half (0b011#3 ++ imm6.extractLsb' 5 1 ++ rd ++ imm6.extractLsb' 0 5 ++ 0b01#2) ∧
      Computes s (exec (.cLui rd imm6) s) (s.me.pc + 2) [(rd, imm6.signExtend 64 <<< 12)]) ∧
    (encode (.cMv rd rs2) = .half (0b1000#4 ++ rd ++ rs2 ++ 0b10#2) ∧
      Computes s (exec (.cMv rd rs2) s) (s.me.pc + 2) [(rd, s.getX rs2)]) ∧
    (encode (.cSlli rd shamt) = .half (0b000#3 ++ shamt.extractLsb' 5 1 ++ rd ++ shamt.extractLsb' 0 5 ++ 0b10#2) ∧
      Computes s (exec (.cSlli rd shamt) s) (s.me.pc + 2) [(rd, s.getX rd <<< shamt.toNat)]) ∧
    (encode .cNop = .half (0b0000000000000001#16) ∧
      Computes s (exec .cNop s) (s.me.pc + 2) []) ∧
    (encode (.cAddi16sp imm6) = .half (0b011#3 ++ imm6.extractLsb' 5 1 ++ 0b00010#5 ++ imm6.extractLsb' 0 1 ++ imm6.extractLsb' 2 1 ++ imm6.extractLsb' 3 2 ++ imm6.extractLsb' 1 1 ++ 0b01#2) ∧
      Computes s (exec (.cAddi16sp imm6) s) (s.me.pc + 2) [(2, s.getX 2 + (imm6.signExtend 64 <<< 4))])) ∧
  (∀ (s : State) (rd rs2 rs1 : BitVec 3) (uimm8 off : BitVec 8) (imm6 shamt : BitVec 6), 
    (encode (.cAddi4spn rd uimm8) = .half (0b000#3 ++ uimm8.extractLsb' 2 2 ++ uimm8.extractLsb' 4 4 ++ uimm8.extractLsb' 0 1 ++ uimm8.extractLsb' 1 1 ++ rd ++ 0b00#2) ∧
      Computes s (exec (.cAddi4spn rd uimm8) s) (s.me.pc + 2) [((creg rd), s.getX 2 + (uimm8.setWidth 64 <<< 2))]) ∧
    (encode (.cAddw rd rs2) = .half (0b100111#6 ++ rd ++ 0b01#2 ++ rs2 ++ 0b01#2) ∧
      Computes s (exec (.cAddw rd rs2) s) (s.me.pc + 2) [((creg rd), ((s.getX (creg rd)).setWidth 32 + (s.getX (creg rs2)).setWidth 32).signExtend 64)]) ∧
    (encode (.cSubw rd rs2) = .half (0b100111#6 ++ rd ++ 0b00#2 ++ rs2 ++ 0b01#2) ∧
      Computes s (exec (.cSubw rd rs2) s) (s.me.pc + 2) [((creg rd), ((s.getX (creg rd)).setWidth 32 - (s.getX (creg rs2)).setWidth 32).signExtend 64)]) ∧
    (encode (.cAnd rd rs2) = .half (0b100011#6 ++ rd ++ 0b11#2 ++ rs2 ++ 0b01#2) ∧
      Computes s (exec (.cAnd rd rs2) s) (s.me.pc + 2) [((creg rd), s.getX (creg rd) &&& s.getX (creg rs2))]) ∧
    (encode (.cOr rd rs2) = .half (0b100011#6 ++ rd ++ 0b10#2 ++ rs2 ++ 0b01#2) ∧
      Computes s (exec (.cOr rd rs2) s) (s.me.pc + 2) [((creg rd), s.getX (creg rd) ||| s.getX (creg rs2))]) ∧
    (encode (.cXor rd rs2) = .half (0b100011#6 ++ rd ++ 0b01#2 ++ rs2 ++ 0b01#2) ∧
      Computes s (exec (.cXor rd rs2) s) (s.me.pc + 2) [((creg rd), s.getX (creg rd) ^^^ s.getX (creg rs2))]) ∧
    (encode (.cSub rd rs2) = .half (0b100011#6 ++ rd ++ 0b00#2 ++ rs2 ++ 0b01#2) ∧
      Computes s (exec (.cSub rd rs2) s) (s.me.pc + 2) [((creg rd), s.getX (creg rd) - s.getX (creg rs2))]) ∧
    (encode (.cAndi rd imm6) = .half (0b100#3 ++ imm6.extractLsb' 5 1 ++ 0b10#2 ++ rd ++ imm6.extractLsb' 0 5 ++ 0b01#2) ∧
      Computes s (exec (.cAndi rd imm6) s) (s.me.pc + 2) [((creg rd), s.getX (creg rd) &&& imm6.signExtend 64)]) ∧
    (encode (.cSrli rd shamt) = .half (0b100#3 ++ shamt.extractLsb' 5 1 ++ 0b00#2 ++ rd ++ shamt.extractLsb' 0 5 ++ 0b01#2) ∧
      Computes s (exec (.cSrli rd shamt) s) (s.me.pc + 2) [((creg rd), s.getX (creg rd) >>> shamt.toNat)]) ∧
    (encode (.cSrai rd shamt) = .half (0b100#3 ++ shamt.extractLsb' 5 1 ++ 0b01#2 ++ rd ++ shamt.extractLsb' 0 5 ++ 0b01#2) ∧
      Computes s (exec (.cSrai rd shamt) s) (s.me.pc + 2) [((creg rd), (s.getX (creg rd)).sshiftRight shamt.toNat)]) ∧
    (encode (.cBeqz rs1 off) = .half (0b110#3 ++ off.extractLsb' 7 1 ++ off.extractLsb' 2 2 ++ rs1 ++ off.extractLsb' 5 2 ++ off.extractLsb' 0 2 ++ off.extractLsb' 4 1 ++ 0b01#2) ∧
      Computes s (exec (.cBeqz rs1 off) s) (if s.getX (creg rs1) = 0 then s.me.pc + (off ++ 0#1).signExtend 64 else s.me.pc + 2) []) ∧
    (encode (.cBnez rs1 off) = .half (0b111#3 ++ off.extractLsb' 7 1 ++ off.extractLsb' 2 2 ++ rs1 ++ off.extractLsb' 5 2 ++ off.extractLsb' 0 2 ++ off.extractLsb' 4 1 ++ 0b01#2) ∧
      Computes s (exec (.cBnez rs1 off) s) (if s.getX (creg rs1) ≠ 0 then s.me.pc + (off ++ 0#1).signExtend 64 else s.me.pc + 2) [])) ∧
  (∀ (s : State) (off : BitVec 11) (rs1 : Reg), 
    (encode (.cJ off) = .half (0b101#3 ++ off.extractLsb' 10 1 ++ off.extractLsb' 3 1 ++ off.extractLsb' 7 2 ++ off.extractLsb' 9 1 ++ off.extractLsb' 5 1 ++ off.extractLsb' 6 1 ++ off.extractLsb' 0 3 ++ off.extractLsb' 4 1 ++ 0b01#2) ∧
      Computes s (exec (.cJ off) s) (s.me.pc + (off ++ 0#1).signExtend 64) []) ∧
    (encode (.cJr rs1) = .half (0b1000#4 ++ rs1 ++ 0b0000010#7) ∧
      Computes s (exec (.cJr rs1) s) (s.getX rs1 &&& ~~~1) []) ∧
    (encode (.cJalr rs1) = .half (0b1001#4 ++ rs1 ++ 0b0000010#7) ∧
      Computes s (exec (.cJalr rs1) s) (s.getX rs1 &&& ~~~1) [(1, s.me.pc + 2)]))

/-- Writes of smcir and mcor: the TLB operations and the cache operations they start (12_csr_extended:R165,
21_mmu_pmp:R253, 21_mmu_pmp:R254, 21_mmu_pmp:R255, 21_mmu_pmp:R256, 21_mmu_pmp:R257, 12_csr_extended:R136,
93_implementation_defined, notes/assumptions/17, notes/assumptions/19, notes/assumptions/40, notes/assumptions/43). -/
def Obligations.SpecialRegisterEffects : Prop :=
  ∀ (s : State) (v : Word),
    (let t := s.csrWrite .smcir v
     let set := BitVec.ofNat 8 (s.me.smmu.smir.toNat % 256)
     let way := BitVec.ofNat 2 (s.me.smmu.smir.toNat / 256 % 4)
     let vpn := BitVec.ofNat 27 (s.me.smmu.smeh.toNat / 2 ^ 19)
     let size := BitVec.ofNat 3 (s.me.smmu.smeh.toNat / 2 ^ 16)
     let asid := BitVec.ofNat 16 s.me.smmu.smeh.toNat
     let described := fun (e : TlbEntry) => e.vpn = vpn ∧ e.pageSize = size ∧ e.asid = asid ∧
       e.ppn.toNat = s.me.smmu.smel.toNat / 2 ^ 10 % 2 ^ 28 ∧ e.flags.toNat = s.me.smmu.smel.toNat % 2 ^ 10 ∧
       e.attr.toNat = s.me.smmu.smel.toNat / 2 ^ 59
     let found := s.me.tlb.joint.filter fun e => e.hits vpn asid && e.pageSize == size
     let places := fun (st : BitVec 8) (wy : BitVec 2) => ∃ e, described e ∧ e.set = st ∧ e.way = wy ∧
       (∀ o, o ∈ t.me.tlb.joint ↔ o = e ∨ (o ∈ s.me.tlb.joint ∧ ¬ (o.set = st ∧ o.way = wy))) ∧
       t.me.tlb = { s.me.tlb with joint := t.me.tlb.joint }
     let drops := fun (p : TlbEntry → Prop) => t.me.smmu = { s.me.smmu with smcir := v &&& 0xffff } ∧
       ∀ part ∈ [Tlb.joint, Tlb.fetch, Tlb.data, Tlb.leaving], ∀ e, e ∈ part t.me.tlb ↔ e ∈ part s.me.tlb ∧ ¬ p e
     let only := fun n : Nat => v.toNat / 2 ^ 25 = 2 ^ n
     t = { s with me := { s.me with smmu := t.me.smmu, tlb := t.me.tlb }, draws := t.draws } ∧ t.me.smmu.smcir = v &&& 0xffff ∧
     (v.toNat / 2 ^ 25 % 128 = 0 → t.me.smmu = { s.me.smmu with smcir := v &&& 0xffff } ∧ t.me.tlb = s.me.tlb) ∧
     (only 6 → t.me.tlb = s.me.tlb ∧ t.me.smmu.smel = s.me.smmu.smel ∧ t.me.smmu.smeh = s.me.smmu.smeh ∧
       (found = [] → t.me.smmu.smir.getLsbD 31 = true ∧ t.me.smmu.smir.getLsbD 30 = false) ∧
       (∀ e, found = [e] → t.me.smmu.smir.getLsbD 31 = false ∧ t.me.smmu.smir.getLsbD 30 = false ∧
         t.me.smmu.smir.toNat % 1024 = e.way.toNat * 256 + e.set.toNat) ∧
       (2 ≤ found.length → t.me.smmu.smir.getLsbD 31 = false ∧ t.me.smmu.smir.getLsbD 30 = true)) ∧
     (only 5 → t.me.tlb = s.me.tlb ∧ t.me.smmu.smir = s.me.smmu.smir ∧
       (∀ e, e ∈ s.me.tlb.joint → e.set = set → e.way = way →
         (∀ o ∈ s.me.tlb.joint, o.set = set → o.way = way → o = e) →
         t.me.smmu.smeh.toNat = e.vpn.toNat * 2 ^ 19 + e.pageSize.toNat * 2 ^ 16 + e.asid.toNat ∧
         t.me.smmu.smel.toNat = e.attr.toNat * 2 ^ 59 + e.ppn.toNat * 2 ^ 10 + e.flags.toNat) ∧
       ((∀ e ∈ s.me.tlb.joint, ¬ (e.set = set ∧ e.way = way)) → t.me.smmu.smel.getLsbD 0 = false)) ∧
     (only 4 → places set way ∧ t.me.smmu = { s.me.smmu with smcir := v &&& 0xffff }) ∧
     (only 3 → t.me.smmu = { s.me.smmu with smcir := v &&& 0xffff } ∧
       ∀ l, pageLevel size = some l → ∃ wy, places (BitVec.ofNat 8 (vpn.toNat / 2 ^ (9 * l))) wy) ∧
     (only 2 → drops fun e => e.asid.toNat = v.toNat % 2 ^ 16) ∧
     (only 1 → drops fun _ => True) ∧
     (only 0 → drops fun e => ∃ o ∈ s.me.tlb.joint, o.set = set ∧ o.way = way ∧ o = e)) ∧
    (let t := s.csrWrite .mcor v
     let inv := v.getLsbD 4 = true
     let clr := v.getLsbD 5 = true
     let data := v.getLsbD 1 = true
     let code := v.getLsbD 0 = true
     t.me.th = { s.me.th with mcor := v &&& 3 } ∧
     t = { s with me := { s.me with l1d := t.me.l1d, icache := t.me.icache, th := t.me.th }, l2 := t.l2 } ∧
     ∃ u : State, u = { s with me := { s.me with l1d := t.me.l1d }, l2 := t.l2 } ∧
       (data ∧ clr ∧ inv → FlushesLines s u anyLine false false) ∧
       (data ∧ clr ∧ ¬ inv → CleansLines s u anyLine false false) ∧
       (data ∧ ¬ clr ∧ inv → DropsLines s u anyLine false false) ∧
       (¬ data ∨ (¬ clr ∧ ¬ inv) → u = s) ∧
       t.me.icache = if code ∧ inv then [] else s.me.icache) ∧
    (s.csrWrite .smcir v).csrRead .smcir = v &&& 0xffff ∧ (s.csrWrite .mcor v).csrRead .mcor = v &&& 3 ∧
    (s.csrWrite .mcins v).csrRead .mcins = 0 ∧ (v.getLsbD 0 = false → s.csrWrite .mcins v = s) ∧
    (let t := s.csrWrite .mcins v
     t = { s with me := { s.me with th := { s.me.th with mcdata0 := t.me.th.mcdata0, mcdata1 := t.me.th.mcdata1 } }
                  draws := t.draws })

/-- Compressed integer loads and stores: encoding, address, value, frame, exceptions (45_rv64c:R564, 45_rv64c:R560,
45_rv64c:R565, 45_rv64c:R561, 45_rv64c:R574, 45_rv64c:R569, 45_rv64c:R575, 45_rv64c:R570, 40_rv64i:R333,
notes/assumptions/37, notes/assumptions/41). -/
def Obligations.CompressedMemory : Prop :=
  (∀ (s : State) (rd rs1 : BitVec 3) (uimm5 : BitVec 5), 
    (encode (.cLw rd rs1 uimm5) = .half (0b010#3 ++ uimm5.extractLsb' 1 3 ++ rs1 ++ uimm5.extractLsb' 0 1 ++ uimm5.extractLsb' 4 1 ++ rd ++ 0b00#2) ∧
      LoadRule s (exec (.cLw rd rs1 uimm5) s) (s.me.pc + 2) (s.getX (creg rs1) + (uimm5.setWidth 64 <<< 2)) 4 fun v => [((creg rd), (BitVec.ofNat 32 v).signExtend 64)]) ∧
    (encode (.cLd rd rs1 uimm5) = .half (0b011#3 ++ uimm5.extractLsb' 0 3 ++ rs1 ++ uimm5.extractLsb' 3 2 ++ rd ++ 0b00#2) ∧
      LoadRule s (exec (.cLd rd rs1 uimm5) s) (s.me.pc + 2) (s.getX (creg rs1) + (uimm5.setWidth 64 <<< 3)) 8 fun v => [((creg rd), BitVec.ofNat 64 v)])) ∧
  (∀ (s : State) (rd : Reg) (uimm6 : BitVec 6) (rs2 rs1 : BitVec 3) (uimm5 : BitVec 5), 
    (encode (.cLwsp rd uimm6) = .half (0b010#3 ++ uimm6.extractLsb' 3 1 ++ rd ++ uimm6.extractLsb' 0 3 ++ uimm6.extractLsb' 4 2 ++ 0b10#2) ∧
      LoadRule s (exec (.cLwsp rd uimm6) s) (s.me.pc + 2) (s.getX 2 + (uimm6.setWidth 64 <<< 2)) 4 fun v => [(rd, (BitVec.ofNat 32 v).signExtend 64)]) ∧
    (encode (.cLdsp rd uimm6) = .half (0b011#3 ++ uimm6.extractLsb' 2 1 ++ rd ++ uimm6.extractLsb' 0 2 ++ uimm6.extractLsb' 3 3 ++ 0b10#2) ∧
      LoadRule s (exec (.cLdsp rd uimm6) s) (s.me.pc + 2) (s.getX 2 + (uimm6.setWidth 64 <<< 3)) 8 fun v => [(rd, BitVec.ofNat 64 v)]) ∧
    (encode (.cSw rs2 rs1 uimm5) = .half (0b110#3 ++ uimm5.extractLsb' 1 3 ++ rs1 ++ uimm5.extractLsb' 0 1 ++ uimm5.extractLsb' 4 1 ++ rs2 ++ 0b00#2) ∧
      StoreRule s (exec (.cSw rs2 rs1 uimm5) s) (s.me.pc + 2) (s.getX (creg rs1) + (uimm5.setWidth 64 <<< 2)) 4 (s.getX (creg rs2)) [] s.me.m.mstatus) ∧
    (encode (.cSd rs2 rs1 uimm5) = .half (0b111#3 ++ uimm5.extractLsb' 0 3 ++ rs1 ++ uimm5.extractLsb' 3 2 ++ rs2 ++ 0b00#2) ∧
      StoreRule s (exec (.cSd rs2 rs1 uimm5) s) (s.me.pc + 2) (s.getX (creg rs1) + (uimm5.setWidth 64 <<< 3)) 8 (s.getX (creg rs2)) [] s.me.m.mstatus)) ∧
  (∀ (s : State) (rs2 : Reg) (uimm6 : BitVec 6), 
    (encode (.cSwsp rs2 uimm6) = .half (0b110#3 ++ uimm6.extractLsb' 0 4 ++ uimm6.extractLsb' 4 2 ++ rs2 ++ 0b10#2) ∧
      StoreRule s (exec (.cSwsp rs2 uimm6) s) (s.me.pc + 2) (s.getX 2 + (uimm6.setWidth 64 <<< 2)) 4 (s.getX rs2) [] s.me.m.mstatus) ∧
    (encode (.cSdsp rs2 uimm6) = .half (0b111#3 ++ uimm6.extractLsb' 0 3 ++ uimm6.extractLsb' 3 3 ++ rs2 ++ 0b10#2) ∧
      StoreRule s (exec (.cSdsp rs2 uimm6) s) (s.me.pc + 2) (s.getX 2 + (uimm6.setWidth 64 <<< 3)) 8 (s.getX rs2) [] s.me.m.mstatus))

/-- T-Head indexed loads and stores: encoding, address, value, frame, exceptions (47_thead_mem, 47_thead_mem:R620,
20_memory:R190, 20_memory:R219, 40_rv64i:R333, 60_exceptions:R797, notes/assumptions/37, notes/assumptions/41). -/
def Obligations.IndexedAccess : Prop :=
  ∀ (s : State) (rd rs1 rs2 rs : Reg) (imm2 : BitVec 2), s.me.theadOn = true →
    (encode (.lrb rd rs1 rs2 imm2) = .full (0b00000#5 ++ imm2 ++ rs2 ++ rs1 ++ 0b100#3 ++ rd ++ 0b0001011#7) ∧
      LoadRule s (exec (.lrb rd rs1 rs2 imm2) s) (s.me.pc + 4) (s.getX rs1 + (s.getX rs2 <<< imm2.toNat)) 1 fun v => [(rd, (BitVec.ofNat 8 v).signExtend 64)]) ∧
    (encode (.lrbu rd rs1 rs2 imm2) = .full (0b10000#5 ++ imm2 ++ rs2 ++ rs1 ++ 0b100#3 ++ rd ++ 0b0001011#7) ∧
      LoadRule s (exec (.lrbu rd rs1 rs2 imm2) s) (s.me.pc + 4) (s.getX rs1 + (s.getX rs2 <<< imm2.toNat)) 1 fun v => [(rd, (BitVec.ofNat 8 v).setWidth 64)]) ∧
    (encode (.lrh rd rs1 rs2 imm2) = .full (0b00100#5 ++ imm2 ++ rs2 ++ rs1 ++ 0b100#3 ++ rd ++ 0b0001011#7) ∧
      LoadRule s (exec (.lrh rd rs1 rs2 imm2) s) (s.me.pc + 4) (s.getX rs1 + (s.getX rs2 <<< imm2.toNat)) 2 fun v => [(rd, (BitVec.ofNat 16 v).signExtend 64)]) ∧
    (encode (.lrhu rd rs1 rs2 imm2) = .full (0b10100#5 ++ imm2 ++ rs2 ++ rs1 ++ 0b100#3 ++ rd ++ 0b0001011#7) ∧
      LoadRule s (exec (.lrhu rd rs1 rs2 imm2) s) (s.me.pc + 4) (s.getX rs1 + (s.getX rs2 <<< imm2.toNat)) 2 fun v => [(rd, (BitVec.ofNat 16 v).setWidth 64)]) ∧
    (encode (.lrw rd rs1 rs2 imm2) = .full (0b01000#5 ++ imm2 ++ rs2 ++ rs1 ++ 0b100#3 ++ rd ++ 0b0001011#7) ∧
      LoadRule s (exec (.lrw rd rs1 rs2 imm2) s) (s.me.pc + 4) (s.getX rs1 + (s.getX rs2 <<< imm2.toNat)) 4 fun v => [(rd, (BitVec.ofNat 32 v).signExtend 64)]) ∧
    (encode (.lrwu rd rs1 rs2 imm2) = .full (0b11000#5 ++ imm2 ++ rs2 ++ rs1 ++ 0b100#3 ++ rd ++ 0b0001011#7) ∧
      LoadRule s (exec (.lrwu rd rs1 rs2 imm2) s) (s.me.pc + 4) (s.getX rs1 + (s.getX rs2 <<< imm2.toNat)) 4 fun v => [(rd, (BitVec.ofNat 32 v).setWidth 64)]) ∧
    (encode (.lrd rd rs1 rs2 imm2) = .full (0b01100#5 ++ imm2 ++ rs2 ++ rs1 ++ 0b100#3 ++ rd ++ 0b0001011#7) ∧
      LoadRule s (exec (.lrd rd rs1 rs2 imm2) s) (s.me.pc + 4) (s.getX rs1 + (s.getX rs2 <<< imm2.toNat)) 8 fun v => [(rd, BitVec.ofNat 64 v)]) ∧
    (encode (.srb rs rs1 rs2 imm2) = .full (0b00000#5 ++ imm2 ++ rs2 ++ rs1 ++ 0b101#3 ++ rs ++ 0b0001011#7) ∧
      StoreRule s (exec (.srb rs rs1 rs2 imm2) s) (s.me.pc + 4) (s.getX rs1 + (s.getX rs2 <<< imm2.toNat)) 1 (s.getX rs) [] s.me.m.mstatus) ∧
    (encode (.srh rs rs1 rs2 imm2) = .full (0b00100#5 ++ imm2 ++ rs2 ++ rs1 ++ 0b101#3 ++ rs ++ 0b0001011#7) ∧
      StoreRule s (exec (.srh rs rs1 rs2 imm2) s) (s.me.pc + 4) (s.getX rs1 + (s.getX rs2 <<< imm2.toNat)) 2 (s.getX rs) [] s.me.m.mstatus) ∧
    (encode (.srw rs rs1 rs2 imm2) = .full (0b01000#5 ++ imm2 ++ rs2 ++ rs1 ++ 0b101#3 ++ rs ++ 0b0001011#7) ∧
      StoreRule s (exec (.srw rs rs1 rs2 imm2) s) (s.me.pc + 4) (s.getX rs1 + (s.getX rs2 <<< imm2.toNat)) 4 (s.getX rs) [] s.me.m.mstatus) ∧
    (encode (.srd rs rs1 rs2 imm2) = .full (0b01100#5 ++ imm2 ++ rs2 ++ rs1 ++ 0b101#3 ++ rs ++ 0b0001011#7) ∧
      StoreRule s (exec (.srd rs rs1 rs2 imm2) s) (s.me.pc + 4) (s.getX rs1 + (s.getX rs2 <<< imm2.toNat)) 8 (s.getX rs) [] s.me.m.mstatus)

/-- T-Head indexed loads and stores with a 32-bit index: encoding, address, value, frame, exceptions (47_thead_mem,
47_thead_mem:R620, 20_memory:R190, 20_memory:R219, 40_rv64i:R333, 60_exceptions:R797, notes/assumptions/37,
notes/assumptions/41). -/
def Obligations.IndexedUnsignedAccess : Prop :=
  ∀ (s : State) (rd rs1 rs2 rs : Reg) (imm2 : BitVec 2), s.me.theadOn = true →
    (encode (.lurb rd rs1 rs2 imm2) = .full (0b00010#5 ++ imm2 ++ rs2 ++ rs1 ++ 0b100#3 ++ rd ++ 0b0001011#7) ∧
      LoadRule s (exec (.lurb rd rs1 rs2 imm2) s) (s.me.pc + 4) (s.getX rs1 + (((s.getX rs2).setWidth 32).setWidth 64 <<< imm2.toNat)) 1 fun v => [(rd, (BitVec.ofNat 8 v).signExtend 64)]) ∧
    (encode (.lurbu rd rs1 rs2 imm2) = .full (0b10010#5 ++ imm2 ++ rs2 ++ rs1 ++ 0b100#3 ++ rd ++ 0b0001011#7) ∧
      LoadRule s (exec (.lurbu rd rs1 rs2 imm2) s) (s.me.pc + 4) (s.getX rs1 + (((s.getX rs2).setWidth 32).setWidth 64 <<< imm2.toNat)) 1 fun v => [(rd, (BitVec.ofNat 8 v).setWidth 64)]) ∧
    (encode (.lurh rd rs1 rs2 imm2) = .full (0b00110#5 ++ imm2 ++ rs2 ++ rs1 ++ 0b100#3 ++ rd ++ 0b0001011#7) ∧
      LoadRule s (exec (.lurh rd rs1 rs2 imm2) s) (s.me.pc + 4) (s.getX rs1 + (((s.getX rs2).setWidth 32).setWidth 64 <<< imm2.toNat)) 2 fun v => [(rd, (BitVec.ofNat 16 v).signExtend 64)]) ∧
    (encode (.lurhu rd rs1 rs2 imm2) = .full (0b10110#5 ++ imm2 ++ rs2 ++ rs1 ++ 0b100#3 ++ rd ++ 0b0001011#7) ∧
      LoadRule s (exec (.lurhu rd rs1 rs2 imm2) s) (s.me.pc + 4) (s.getX rs1 + (((s.getX rs2).setWidth 32).setWidth 64 <<< imm2.toNat)) 2 fun v => [(rd, (BitVec.ofNat 16 v).setWidth 64)]) ∧
    (encode (.lurw rd rs1 rs2 imm2) = .full (0b01010#5 ++ imm2 ++ rs2 ++ rs1 ++ 0b100#3 ++ rd ++ 0b0001011#7) ∧
      LoadRule s (exec (.lurw rd rs1 rs2 imm2) s) (s.me.pc + 4) (s.getX rs1 + (((s.getX rs2).setWidth 32).setWidth 64 <<< imm2.toNat)) 4 fun v => [(rd, (BitVec.ofNat 32 v).signExtend 64)]) ∧
    (encode (.lurwu rd rs1 rs2 imm2) = .full (0b11010#5 ++ imm2 ++ rs2 ++ rs1 ++ 0b100#3 ++ rd ++ 0b0001011#7) ∧
      LoadRule s (exec (.lurwu rd rs1 rs2 imm2) s) (s.me.pc + 4) (s.getX rs1 + (((s.getX rs2).setWidth 32).setWidth 64 <<< imm2.toNat)) 4 fun v => [(rd, (BitVec.ofNat 32 v).setWidth 64)]) ∧
    (encode (.lurd rd rs1 rs2 imm2) = .full (0b01110#5 ++ imm2 ++ rs2 ++ rs1 ++ 0b100#3 ++ rd ++ 0b0001011#7) ∧
      LoadRule s (exec (.lurd rd rs1 rs2 imm2) s) (s.me.pc + 4) (s.getX rs1 + (((s.getX rs2).setWidth 32).setWidth 64 <<< imm2.toNat)) 8 fun v => [(rd, BitVec.ofNat 64 v)]) ∧
    (encode (.surb rs rs1 rs2 imm2) = .full (0b00010#5 ++ imm2 ++ rs2 ++ rs1 ++ 0b101#3 ++ rs ++ 0b0001011#7) ∧
      StoreRule s (exec (.surb rs rs1 rs2 imm2) s) (s.me.pc + 4) (s.getX rs1 + (((s.getX rs2).setWidth 32).setWidth 64 <<< imm2.toNat)) 1 (s.getX rs) [] s.me.m.mstatus) ∧
    (encode (.surh rs rs1 rs2 imm2) = .full (0b00110#5 ++ imm2 ++ rs2 ++ rs1 ++ 0b101#3 ++ rs ++ 0b0001011#7) ∧
      StoreRule s (exec (.surh rs rs1 rs2 imm2) s) (s.me.pc + 4) (s.getX rs1 + (((s.getX rs2).setWidth 32).setWidth 64 <<< imm2.toNat)) 2 (s.getX rs) [] s.me.m.mstatus) ∧
    (encode (.surw rs rs1 rs2 imm2) = .full (0b01010#5 ++ imm2 ++ rs2 ++ rs1 ++ 0b101#3 ++ rs ++ 0b0001011#7) ∧
      StoreRule s (exec (.surw rs rs1 rs2 imm2) s) (s.me.pc + 4) (s.getX rs1 + (((s.getX rs2).setWidth 32).setWidth 64 <<< imm2.toNat)) 4 (s.getX rs) [] s.me.m.mstatus) ∧
    (encode (.surd rs rs1 rs2 imm2) = .full (0b01110#5 ++ imm2 ++ rs2 ++ rs1 ++ 0b101#3 ++ rs ++ 0b0001011#7) ∧
      StoreRule s (exec (.surd rs rs1 rs2 imm2) s) (s.me.pc + 4) (s.getX rs1 + (((s.getX rs2).setWidth 32).setWidth 64 <<< imm2.toNat)) 8 (s.getX rs) [] s.me.m.mstatus)

/-- T-Head base-update (ia) loads and stores: encoding, address, both registers, frame, exceptions (47_thead_mem,
47_thead_mem:R620, 47_thead_mem:R621, 20_memory:R190, 20_memory:R219, 40_rv64i:R333, 60_exceptions:R797,
notes/assumptions/31, notes/assumptions/37, notes/assumptions/41). -/
def Obligations.UpdateAfterAccess : Prop :=
  ∀ (s : State) (rd rs1 rs2 : Reg) (imm5 : BitVec 5) (imm2 : BitVec 2), s.me.theadOn = true →
    (encode (.lbia rd rs1 imm5 imm2) = .full (0b00011#5 ++ imm2 ++ imm5 ++ rs1 ++ 0b100#3 ++ rd ++ 0b0001011#7) ∧
      ((rd ≠ rs1 → LoadRule s (exec (.lbia rd rs1 imm5 imm2) s) (s.me.pc + 4) (s.getX rs1) 1 fun v =>
        [(rd, (BitVec.ofNat 8 v).signExtend 64), (rs1, s.getX rs1 + (imm5.signExtend 64 <<< imm2.toNat))]) ∧
      (rd = rs1 → exec (.lbia rd rs1 imm5 imm2) s = .next (s.raise 2 ((0b00011#5 ++ imm2 ++ imm5 ++ rs1 ++ 0b100#3 ++ rd ++ 0b0001011#7).setWidth 64))))) ∧
    (encode (.lbuia rd rs1 imm5 imm2) = .full (0b10011#5 ++ imm2 ++ imm5 ++ rs1 ++ 0b100#3 ++ rd ++ 0b0001011#7) ∧
      ((rd ≠ rs1 → LoadRule s (exec (.lbuia rd rs1 imm5 imm2) s) (s.me.pc + 4) (s.getX rs1) 1 fun v =>
        [(rd, (BitVec.ofNat 8 v).setWidth 64), (rs1, s.getX rs1 + (imm5.signExtend 64 <<< imm2.toNat))]) ∧
      (rd = rs1 → exec (.lbuia rd rs1 imm5 imm2) s = .next (s.raise 2 ((0b10011#5 ++ imm2 ++ imm5 ++ rs1 ++ 0b100#3 ++ rd ++ 0b0001011#7).setWidth 64))))) ∧
    (encode (.lhia rd rs1 imm5 imm2) = .full (0b00111#5 ++ imm2 ++ imm5 ++ rs1 ++ 0b100#3 ++ rd ++ 0b0001011#7) ∧
      ((rd ≠ rs1 → LoadRule s (exec (.lhia rd rs1 imm5 imm2) s) (s.me.pc + 4) (s.getX rs1) 2 fun v =>
        [(rd, (BitVec.ofNat 16 v).signExtend 64), (rs1, s.getX rs1 + (imm5.signExtend 64 <<< imm2.toNat))]) ∧
      (rd = rs1 → exec (.lhia rd rs1 imm5 imm2) s = .next (s.raise 2 ((0b00111#5 ++ imm2 ++ imm5 ++ rs1 ++ 0b100#3 ++ rd ++ 0b0001011#7).setWidth 64))))) ∧
    (encode (.lhuia rd rs1 imm5 imm2) = .full (0b10111#5 ++ imm2 ++ imm5 ++ rs1 ++ 0b100#3 ++ rd ++ 0b0001011#7) ∧
      ((rd ≠ rs1 → LoadRule s (exec (.lhuia rd rs1 imm5 imm2) s) (s.me.pc + 4) (s.getX rs1) 2 fun v =>
        [(rd, (BitVec.ofNat 16 v).setWidth 64), (rs1, s.getX rs1 + (imm5.signExtend 64 <<< imm2.toNat))]) ∧
      (rd = rs1 → exec (.lhuia rd rs1 imm5 imm2) s = .next (s.raise 2 ((0b10111#5 ++ imm2 ++ imm5 ++ rs1 ++ 0b100#3 ++ rd ++ 0b0001011#7).setWidth 64))))) ∧
    (encode (.lwia rd rs1 imm5 imm2) = .full (0b01011#5 ++ imm2 ++ imm5 ++ rs1 ++ 0b100#3 ++ rd ++ 0b0001011#7) ∧
      ((rd ≠ rs1 → LoadRule s (exec (.lwia rd rs1 imm5 imm2) s) (s.me.pc + 4) (s.getX rs1) 4 fun v =>
        [(rd, (BitVec.ofNat 32 v).signExtend 64), (rs1, s.getX rs1 + (imm5.signExtend 64 <<< imm2.toNat))]) ∧
      (rd = rs1 → exec (.lwia rd rs1 imm5 imm2) s = .next (s.raise 2 ((0b01011#5 ++ imm2 ++ imm5 ++ rs1 ++ 0b100#3 ++ rd ++ 0b0001011#7).setWidth 64))))) ∧
    (encode (.lwuia rd rs1 imm5 imm2) = .full (0b11011#5 ++ imm2 ++ imm5 ++ rs1 ++ 0b100#3 ++ rd ++ 0b0001011#7) ∧
      ((rd ≠ rs1 → LoadRule s (exec (.lwuia rd rs1 imm5 imm2) s) (s.me.pc + 4) (s.getX rs1) 4 fun v =>
        [(rd, (BitVec.ofNat 32 v).setWidth 64), (rs1, s.getX rs1 + (imm5.signExtend 64 <<< imm2.toNat))]) ∧
      (rd = rs1 → exec (.lwuia rd rs1 imm5 imm2) s = .next (s.raise 2 ((0b11011#5 ++ imm2 ++ imm5 ++ rs1 ++ 0b100#3 ++ rd ++ 0b0001011#7).setWidth 64))))) ∧
    (encode (.ldia rd rs1 imm5 imm2) = .full (0b01111#5 ++ imm2 ++ imm5 ++ rs1 ++ 0b100#3 ++ rd ++ 0b0001011#7) ∧
      ((rd ≠ rs1 → LoadRule s (exec (.ldia rd rs1 imm5 imm2) s) (s.me.pc + 4) (s.getX rs1) 8 fun v =>
        [(rd, BitVec.ofNat 64 v), (rs1, s.getX rs1 + (imm5.signExtend 64 <<< imm2.toNat))]) ∧
      (rd = rs1 → exec (.ldia rd rs1 imm5 imm2) s = .next (s.raise 2 ((0b01111#5 ++ imm2 ++ imm5 ++ rs1 ++ 0b100#3 ++ rd ++ 0b0001011#7).setWidth 64))))) ∧
    (encode (.sbia rs2 rs1 imm5 imm2) = .full (0b00011#5 ++ imm2 ++ imm5 ++ rs1 ++ 0b101#3 ++ rs2 ++ 0b0001011#7) ∧
      StoreRule s (exec (.sbia rs2 rs1 imm5 imm2) s) (s.me.pc + 4) (s.getX rs1) 1 (s.getX rs2) [(rs1, s.getX rs1 + (imm5.signExtend 64 <<< imm2.toNat))] s.me.m.mstatus) ∧
    (encode (.shia rs2 rs1 imm5 imm2) = .full (0b00111#5 ++ imm2 ++ imm5 ++ rs1 ++ 0b101#3 ++ rs2 ++ 0b0001011#7) ∧
      StoreRule s (exec (.shia rs2 rs1 imm5 imm2) s) (s.me.pc + 4) (s.getX rs1) 2 (s.getX rs2) [(rs1, s.getX rs1 + (imm5.signExtend 64 <<< imm2.toNat))] s.me.m.mstatus) ∧
    (encode (.swia rs2 rs1 imm5 imm2) = .full (0b01011#5 ++ imm2 ++ imm5 ++ rs1 ++ 0b101#3 ++ rs2 ++ 0b0001011#7) ∧
      StoreRule s (exec (.swia rs2 rs1 imm5 imm2) s) (s.me.pc + 4) (s.getX rs1) 4 (s.getX rs2) [(rs1, s.getX rs1 + (imm5.signExtend 64 <<< imm2.toNat))] s.me.m.mstatus) ∧
    (encode (.sdia rs2 rs1 imm5 imm2) = .full (0b01111#5 ++ imm2 ++ imm5 ++ rs1 ++ 0b101#3 ++ rs2 ++ 0b0001011#7) ∧
      StoreRule s (exec (.sdia rs2 rs1 imm5 imm2) s) (s.me.pc + 4) (s.getX rs1) 8 (s.getX rs2) [(rs1, s.getX rs1 + (imm5.signExtend 64 <<< imm2.toNat))] s.me.m.mstatus)

/-- T-Head base-update (ib) loads and stores: encoding, address, both registers, frame, exceptions (47_thead_mem,
47_thead_mem:R620, 47_thead_mem:R621, 20_memory:R190, 20_memory:R219, 40_rv64i:R333, 60_exceptions:R797,
notes/assumptions/31, notes/assumptions/37, notes/assumptions/41). -/
def Obligations.UpdateBeforeAccess : Prop :=
  ∀ (s : State) (rd rs1 rs2 : Reg) (imm5 : BitVec 5) (imm2 : BitVec 2), s.me.theadOn = true →
    (encode (.lbib rd rs1 imm5 imm2) = .full (0b00001#5 ++ imm2 ++ imm5 ++ rs1 ++ 0b100#3 ++ rd ++ 0b0001011#7) ∧
      ((rd ≠ rs1 → LoadRule s (exec (.lbib rd rs1 imm5 imm2) s) (s.me.pc + 4) (s.getX rs1 + (imm5.signExtend 64 <<< imm2.toNat)) 1 fun v =>
        [(rd, (BitVec.ofNat 8 v).signExtend 64), (rs1, s.getX rs1 + (imm5.signExtend 64 <<< imm2.toNat))]) ∧
      (rd = rs1 → exec (.lbib rd rs1 imm5 imm2) s = .next (s.raise 2 ((0b00001#5 ++ imm2 ++ imm5 ++ rs1 ++ 0b100#3 ++ rd ++ 0b0001011#7).setWidth 64))))) ∧
    (encode (.lbuib rd rs1 imm5 imm2) = .full (0b10001#5 ++ imm2 ++ imm5 ++ rs1 ++ 0b100#3 ++ rd ++ 0b0001011#7) ∧
      ((rd ≠ rs1 → LoadRule s (exec (.lbuib rd rs1 imm5 imm2) s) (s.me.pc + 4) (s.getX rs1 + (imm5.signExtend 64 <<< imm2.toNat)) 1 fun v =>
        [(rd, (BitVec.ofNat 8 v).setWidth 64), (rs1, s.getX rs1 + (imm5.signExtend 64 <<< imm2.toNat))]) ∧
      (rd = rs1 → exec (.lbuib rd rs1 imm5 imm2) s = .next (s.raise 2 ((0b10001#5 ++ imm2 ++ imm5 ++ rs1 ++ 0b100#3 ++ rd ++ 0b0001011#7).setWidth 64))))) ∧
    (encode (.lhib rd rs1 imm5 imm2) = .full (0b00101#5 ++ imm2 ++ imm5 ++ rs1 ++ 0b100#3 ++ rd ++ 0b0001011#7) ∧
      ((rd ≠ rs1 → LoadRule s (exec (.lhib rd rs1 imm5 imm2) s) (s.me.pc + 4) (s.getX rs1 + (imm5.signExtend 64 <<< imm2.toNat)) 2 fun v =>
        [(rd, (BitVec.ofNat 16 v).signExtend 64), (rs1, s.getX rs1 + (imm5.signExtend 64 <<< imm2.toNat))]) ∧
      (rd = rs1 → exec (.lhib rd rs1 imm5 imm2) s = .next (s.raise 2 ((0b00101#5 ++ imm2 ++ imm5 ++ rs1 ++ 0b100#3 ++ rd ++ 0b0001011#7).setWidth 64))))) ∧
    (encode (.lhuib rd rs1 imm5 imm2) = .full (0b10101#5 ++ imm2 ++ imm5 ++ rs1 ++ 0b100#3 ++ rd ++ 0b0001011#7) ∧
      ((rd ≠ rs1 → LoadRule s (exec (.lhuib rd rs1 imm5 imm2) s) (s.me.pc + 4) (s.getX rs1 + (imm5.signExtend 64 <<< imm2.toNat)) 2 fun v =>
        [(rd, (BitVec.ofNat 16 v).setWidth 64), (rs1, s.getX rs1 + (imm5.signExtend 64 <<< imm2.toNat))]) ∧
      (rd = rs1 → exec (.lhuib rd rs1 imm5 imm2) s = .next (s.raise 2 ((0b10101#5 ++ imm2 ++ imm5 ++ rs1 ++ 0b100#3 ++ rd ++ 0b0001011#7).setWidth 64))))) ∧
    (encode (.lwib rd rs1 imm5 imm2) = .full (0b01001#5 ++ imm2 ++ imm5 ++ rs1 ++ 0b100#3 ++ rd ++ 0b0001011#7) ∧
      ((rd ≠ rs1 → LoadRule s (exec (.lwib rd rs1 imm5 imm2) s) (s.me.pc + 4) (s.getX rs1 + (imm5.signExtend 64 <<< imm2.toNat)) 4 fun v =>
        [(rd, (BitVec.ofNat 32 v).signExtend 64), (rs1, s.getX rs1 + (imm5.signExtend 64 <<< imm2.toNat))]) ∧
      (rd = rs1 → exec (.lwib rd rs1 imm5 imm2) s = .next (s.raise 2 ((0b01001#5 ++ imm2 ++ imm5 ++ rs1 ++ 0b100#3 ++ rd ++ 0b0001011#7).setWidth 64))))) ∧
    (encode (.lwuib rd rs1 imm5 imm2) = .full (0b11001#5 ++ imm2 ++ imm5 ++ rs1 ++ 0b100#3 ++ rd ++ 0b0001011#7) ∧
      ((rd ≠ rs1 → LoadRule s (exec (.lwuib rd rs1 imm5 imm2) s) (s.me.pc + 4) (s.getX rs1 + (imm5.signExtend 64 <<< imm2.toNat)) 4 fun v =>
        [(rd, (BitVec.ofNat 32 v).setWidth 64), (rs1, s.getX rs1 + (imm5.signExtend 64 <<< imm2.toNat))]) ∧
      (rd = rs1 → exec (.lwuib rd rs1 imm5 imm2) s = .next (s.raise 2 ((0b11001#5 ++ imm2 ++ imm5 ++ rs1 ++ 0b100#3 ++ rd ++ 0b0001011#7).setWidth 64))))) ∧
    (encode (.ldib rd rs1 imm5 imm2) = .full (0b01101#5 ++ imm2 ++ imm5 ++ rs1 ++ 0b100#3 ++ rd ++ 0b0001011#7) ∧
      ((rd ≠ rs1 → LoadRule s (exec (.ldib rd rs1 imm5 imm2) s) (s.me.pc + 4) (s.getX rs1 + (imm5.signExtend 64 <<< imm2.toNat)) 8 fun v =>
        [(rd, BitVec.ofNat 64 v), (rs1, s.getX rs1 + (imm5.signExtend 64 <<< imm2.toNat))]) ∧
      (rd = rs1 → exec (.ldib rd rs1 imm5 imm2) s = .next (s.raise 2 ((0b01101#5 ++ imm2 ++ imm5 ++ rs1 ++ 0b100#3 ++ rd ++ 0b0001011#7).setWidth 64))))) ∧
    (encode (.sbib rs2 rs1 imm5 imm2) = .full (0b00001#5 ++ imm2 ++ imm5 ++ rs1 ++ 0b101#3 ++ rs2 ++ 0b0001011#7) ∧
      StoreRule s (exec (.sbib rs2 rs1 imm5 imm2) s) (s.me.pc + 4) (s.getX rs1 + (imm5.signExtend 64 <<< imm2.toNat)) 1 (s.getX rs2) [(rs1, s.getX rs1 + (imm5.signExtend 64 <<< imm2.toNat))] s.me.m.mstatus) ∧
    (encode (.shib rs2 rs1 imm5 imm2) = .full (0b00101#5 ++ imm2 ++ imm5 ++ rs1 ++ 0b101#3 ++ rs2 ++ 0b0001011#7) ∧
      StoreRule s (exec (.shib rs2 rs1 imm5 imm2) s) (s.me.pc + 4) (s.getX rs1 + (imm5.signExtend 64 <<< imm2.toNat)) 2 (s.getX rs2) [(rs1, s.getX rs1 + (imm5.signExtend 64 <<< imm2.toNat))] s.me.m.mstatus) ∧
    (encode (.swib rs2 rs1 imm5 imm2) = .full (0b01001#5 ++ imm2 ++ imm5 ++ rs1 ++ 0b101#3 ++ rs2 ++ 0b0001011#7) ∧
      StoreRule s (exec (.swib rs2 rs1 imm5 imm2) s) (s.me.pc + 4) (s.getX rs1 + (imm5.signExtend 64 <<< imm2.toNat)) 4 (s.getX rs2) [(rs1, s.getX rs1 + (imm5.signExtend 64 <<< imm2.toNat))] s.me.m.mstatus) ∧
    (encode (.sdib rs2 rs1 imm5 imm2) = .full (0b01101#5 ++ imm2 ++ imm5 ++ rs1 ++ 0b101#3 ++ rs2 ++ 0b0001011#7) ∧
      StoreRule s (exec (.sdib rs2 rs1 imm5 imm2) s) (s.me.pc + 4) (s.getX rs1 + (imm5.signExtend 64 <<< imm2.toNat)) 8 (s.getX rs2) [(rs1, s.getX rs1 + (imm5.signExtend 64 <<< imm2.toNat))] s.me.m.mstatus)

/-- T-Head pair loads and stores: encoding, addresses, values, frame, exceptions (47_thead_mem:R634, 47_thead_mem:R655,
47_thead_mem:R658, 47_thead_mem:R663, 47_thead_mem:R678, 47_thead_mem:R621, 20_memory:R182, notes/assumptions/31,
notes/assumptions/32, notes/assumptions/37, notes/assumptions/41). -/
def Obligations.PairAccess : Prop :=
  ∀ (s : State) (rd1 rd2 rs1 : Reg) (imm2 : BitVec 2), s.me.theadOn = true →
    (encode (.ldd rd1 rd2 rs1 imm2) = .full (0b11111#5 ++ imm2 ++ rd2 ++ rs1 ++ 0b100#3 ++ rd1 ++ 0b0001011#7) ∧
      ((rd1 ≠ rd2 ∧ rd1 ≠ rs1 ∧ rd2 ≠ rs1 → LoadPairRule s (exec (.ldd rd1 rd2 rs1 imm2) s) (s.getX rs1 + (imm2.setWidth 64 <<< 4)) 8 fun v w =>
        [(rd2, BitVec.ofNat 64 w), (rd1, BitVec.ofNat 64 v)]) ∧
      (rd1 = rd2 ∨ rd1 = rs1 ∨ rd2 = rs1 → exec (.ldd rd1 rd2 rs1 imm2) s = .next (s.raise 2 ((0b11111#5 ++ imm2 ++ rd2 ++ rs1 ++ 0b100#3 ++ rd1 ++ 0b0001011#7).setWidth 64))))) ∧
    (encode (.lwd rd1 rd2 rs1 imm2) = .full (0b11100#5 ++ imm2 ++ rd2 ++ rs1 ++ 0b100#3 ++ rd1 ++ 0b0001011#7) ∧
      ((rd1 ≠ rd2 ∧ rd1 ≠ rs1 ∧ rd2 ≠ rs1 → LoadPairRule s (exec (.lwd rd1 rd2 rs1 imm2) s) (s.getX rs1 + (imm2.setWidth 64 <<< 3)) 4 fun v w =>
        [(rd2, (BitVec.ofNat 32 w).signExtend 64), (rd1, (BitVec.ofNat 32 v).signExtend 64)]) ∧
      (rd1 = rd2 ∨ rd1 = rs1 ∨ rd2 = rs1 → exec (.lwd rd1 rd2 rs1 imm2) s = .next (s.raise 2 ((0b11100#5 ++ imm2 ++ rd2 ++ rs1 ++ 0b100#3 ++ rd1 ++ 0b0001011#7).setWidth 64))))) ∧
    (encode (.lwud rd1 rd2 rs1 imm2) = .full (0b11110#5 ++ imm2 ++ rd2 ++ rs1 ++ 0b100#3 ++ rd1 ++ 0b0001011#7) ∧
      ((rd1 ≠ rd2 ∧ rd1 ≠ rs1 ∧ rd2 ≠ rs1 → LoadPairRule s (exec (.lwud rd1 rd2 rs1 imm2) s) (s.getX rs1 + (imm2.setWidth 64 <<< 3)) 4 fun v w =>
        [(rd2, (BitVec.ofNat 32 w).setWidth 64), (rd1, (BitVec.ofNat 32 v).setWidth 64)]) ∧
      (rd1 = rd2 ∨ rd1 = rs1 ∨ rd2 = rs1 → exec (.lwud rd1 rd2 rs1 imm2) s = .next (s.raise 2 ((0b11110#5 ++ imm2 ++ rd2 ++ rs1 ++ 0b100#3 ++ rd1 ++ 0b0001011#7).setWidth 64))))) ∧
    (encode (.sdd rd1 rd2 rs1 imm2) = .full (0b11111#5 ++ imm2 ++ rd2 ++ rs1 ++ 0b101#3 ++ rd1 ++ 0b0001011#7) ∧
      StorePairRule s (exec (.sdd rd1 rd2 rs1 imm2) s) (s.getX rs1 + (imm2.setWidth 64 <<< 4)) 8 (s.getX rd1) (s.getX rd2)) ∧
    (encode (.swd rd1 rd2 rs1 imm2) = .full (0b11100#5 ++ imm2 ++ rd2 ++ rs1 ++ 0b101#3 ++ rd1 ++ 0b0001011#7) ∧
      StorePairRule s (exec (.swd rd1 rd2 rs1 imm2) s) (s.getX rs1 + (imm2.setWidth 64 <<< 3)) 4 (s.getX rd1) (s.getX rd2))

/-- T-Head arithmetic, rotation and bit test: encoding, result, frame (46_thead_arith_bit, notes/assumptions/29). -/
def Obligations.TheadArithmetic : Prop :=
  ∀ (s : State) (rd rs1 rs2 : Reg) (imm2 : BitVec 2) (imm6 : BitVec 6) (imm5 : BitVec 5), s.me.theadOn = true →
    (encode (.addsl rd rs1 rs2 imm2) = .full (0b00000#5 ++ imm2 ++ rs2 ++ rs1 ++ 0b001#3 ++ rd ++ 0b0001011#7) ∧
      Computes s (exec (.addsl rd rs1 rs2 imm2) s) (s.me.pc + 4) [(rd, s.getX rs1 + (s.getX rs2 <<< imm2.toNat))]) ∧
    (encode (.mula rd rs1 rs2) = .full (0b0010000#7 ++ rs2 ++ rs1 ++ 0b001#3 ++ rd ++ 0b0001011#7) ∧
      Computes s (exec (.mula rd rs1 rs2) s) (s.me.pc + 4) [(rd, s.getX rd + s.getX rs1 * s.getX rs2)]) ∧
    (encode (.mulaw rd rs1 rs2) = .full (0b0010010#7 ++ rs2 ++ rs1 ++ 0b001#3 ++ rd ++ 0b0001011#7) ∧
      Computes s (exec (.mulaw rd rs1 rs2) s) (s.me.pc + 4) [(rd, ((s.getX rd).setWidth 32 + (s.getX rs1).setWidth 32 * (s.getX rs2).setWidth 32).signExtend 64)]) ∧
    (encode (.muls rd rs1 rs2) = .full (0b0010001#7 ++ rs2 ++ rs1 ++ 0b001#3 ++ rd ++ 0b0001011#7) ∧
      Computes s (exec (.muls rd rs1 rs2) s) (s.me.pc + 4) [(rd, s.getX rd - s.getX rs1 * s.getX rs2)]) ∧
    (encode (.mulsw rd rs1 rs2) = .full (0b0010011#7 ++ rs2 ++ rs1 ++ 0b001#3 ++ rd ++ 0b0001011#7) ∧
      Computes s (exec (.mulsw rd rs1 rs2) s) (s.me.pc + 4) [(rd, ((s.getX rd).setWidth 32 - (s.getX rs1).setWidth 32 * (s.getX rs2).setWidth 32).signExtend 64)]) ∧
    (encode (.mveqz rd rs1 rs2) = .full (0b0100000#7 ++ rs2 ++ rs1 ++ 0b001#3 ++ rd ++ 0b0001011#7) ∧
      Computes s (exec (.mveqz rd rs1 rs2) s) (s.me.pc + 4) [(rd, if s.getX rs2 = 0 then s.getX rs1 else s.getX rd)]) ∧
    (encode (.mvnez rd rs1 rs2) = .full (0b0100001#7 ++ rs2 ++ rs1 ++ 0b001#3 ++ rd ++ 0b0001011#7) ∧
      Computes s (exec (.mvnez rd rs1 rs2) s) (s.me.pc + 4) [(rd, if s.getX rs2 = 0 then s.getX rd else s.getX rs1)]) ∧
    (encode (.srri rd rs1 imm6) = .full (0b000100#6 ++ imm6 ++ rs1 ++ 0b001#3 ++ rd ++ 0b0001011#7) ∧
      Computes s (exec (.srri rd rs1 imm6) s) (s.me.pc + 4) [(rd, (s.getX rs1).rotateRight imm6.toNat)]) ∧
    (encode (.srriw rd rs1 imm5) = .full (0b0001010#7 ++ imm5 ++ rs1 ++ 0b001#3 ++ rd ++ 0b0001011#7) ∧
      Computes s (exec (.srriw rd rs1 imm5) s) (s.me.pc + 4) [(rd, (((s.getX rs1).setWidth 32).rotateRight imm5.toNat).signExtend 64)]) ∧
    (encode (.tst rd rs1 imm6) = .full (0b100010#6 ++ imm6 ++ rs1 ++ 0b001#3 ++ rd ++ 0b0001011#7) ∧
      Computes s (exec (.tst rd rs1 imm6) s) (s.me.pc + 4) [(rd, if (s.getX rs1).getLsbD imm6.toNat then 1 else 0)]) ∧
    (encode (.mulah rd rs1 rs2) = .full (0b0010100#7 ++ rs2 ++ rs1 ++ 0b001#3 ++ rd ++ 0b0001011#7) ∧
      Computes s (exec (.mulah rd rs1 rs2) s) (s.me.pc + 4) [(rd, ((s.getX rd).setWidth 32 + ((s.getX rs1).setWidth 16).signExtend 32 * ((s.getX rs2).setWidth 16).signExtend 32).signExtend 64)]) ∧
    (encode (.mulsh rd rs1 rs2) = .full (0b0010101#7 ++ rs2 ++ rs1 ++ 0b001#3 ++ rd ++ 0b0001011#7) ∧
      Computes s (exec (.mulsh rd rs1 rs2) s) (s.me.pc + 4) [(rd, ((s.getX rd).setWidth 32 - ((s.getX rs1).setWidth 16).signExtend 32 * ((s.getX rs2).setWidth 16).signExtend 32).signExtend 64)])

/-- T-Head bit-field, search, byte-reverse and zero-byte instructions: encoding, result, frame (46_thead_arith_bit:R602,
46_thead_arith_bit:R603, 46_thead_arith_bit:R604, 46_thead_arith_bit:R605, 46_thead_arith_bit:R606,
46_thead_arith_bit:R607, 46_thead_arith_bit:R609, notes/assumptions/30). -/
def Obligations.TheadBitFields : Prop :=
  ∀ (s : State) (rd rs1 : Reg) (msb lsb : BitVec 6), s.me.theadOn = true →
    (encode (.ext rd rs1 msb lsb) = .full (msb ++ lsb ++ rs1 ++ 0b010#3 ++ rd ++ 0b0001011#7) ∧
      ((lsb.toNat ≤ msb.toNat → Computes s (exec (.ext rd rs1 msb lsb) s) (s.me.pc + 4) [(rd, (s.getX rs1 <<< (63 - msb.toNat)).sshiftRight (63 - msb.toNat + lsb.toNat))]) ∧
      (msb.toNat < lsb.toNat → ∃ t v, exec (.ext rd rs1 msb lsb) s = .next t ∧ t.me.pc = s.me.pc + 4 ∧ (∀ q, t.getX q = regAfter s [(rd, v)] q) ∧
        t = { s with me := { s.me.moved t.me with x := t.me.x }, draws := t.draws } ∧ SameBytes s t))) ∧
    (encode (.extu rd rs1 msb lsb) = .full (msb ++ lsb ++ rs1 ++ 0b011#3 ++ rd ++ 0b0001011#7) ∧
      ((lsb.toNat ≤ msb.toNat → Computes s (exec (.extu rd rs1 msb lsb) s) (s.me.pc + 4) [(rd, (s.getX rs1 <<< (63 - msb.toNat)) >>> (63 - msb.toNat + lsb.toNat))]) ∧
      (msb.toNat < lsb.toNat → ∃ t v, exec (.extu rd rs1 msb lsb) s = .next t ∧ t.me.pc = s.me.pc + 4 ∧ (∀ q, t.getX q = regAfter s [(rd, v)] q) ∧
        t = { s with me := { s.me.moved t.me with x := t.me.x }, draws := t.draws } ∧ SameBytes s t))) ∧
    (encode (.ff0 rd rs1) = .full (0b100001000000#12 ++ rs1 ++ 0b001#3 ++ rd ++ 0b0001011#7) ∧
      (∃ n, n ≤ 64 ∧ (∀ k, k < n → (s.getX rs1).getMsbD k = true) ∧ (n < 64 → (s.getX rs1).getMsbD n = false) ∧
        Computes s (exec (.ff0 rd rs1) s) (s.me.pc + 4) [(rd, BitVec.ofNat 64 n)])) ∧
    (encode (.ff1 rd rs1) = .full (0b100001100000#12 ++ rs1 ++ 0b001#3 ++ rd ++ 0b0001011#7) ∧
      (∃ n, n ≤ 64 ∧ (∀ k, k < n → (s.getX rs1).getMsbD k = false) ∧ (n < 64 → (s.getX rs1).getMsbD n = true) ∧
        Computes s (exec (.ff1 rd rs1) s) (s.me.pc + 4) [(rd, BitVec.ofNat 64 n)])) ∧
    (encode (.rev rd rs1) = .full (0b100000100000#12 ++ rs1 ++ 0b001#3 ++ rd ++ 0b0001011#7) ∧
      (∃ v, (∀ i, i < 8 → v.extractLsb' (8 * i) 8 = (s.getX rs1).extractLsb' (8 * (7 - i)) 8) ∧
        Computes s (exec (.rev rd rs1) s) (s.me.pc + 4) [(rd, v)])) ∧
    (encode (.revw rd rs1) = .full (0b100100000000#12 ++ rs1 ++ 0b001#3 ++ rd ++ 0b0001011#7) ∧
      (∃ v : BitVec 32, (∀ i, i < 4 → v.extractLsb' (8 * i) 8 = (s.getX rs1).extractLsb' (8 * (3 - i)) 8) ∧
        Computes s (exec (.revw rd rs1) s) (s.me.pc + 4) [(rd, v.signExtend 64)])) ∧
    (encode (.tstnbz rd rs1) = .full (0b100000000000#12 ++ rs1 ++ 0b001#3 ++ rd ++ 0b0001011#7) ∧
      (∃ v, (∀ i, i < 8 → v.extractLsb' (8 * i) 8 = if (s.getX rs1).extractLsb' (8 * i) 8 = 0 then 0xff else 0) ∧
        Computes s (exec (.tstnbz rd rs1) s) (s.me.pc + 4) [(rd, v)]))

/-- Arithmetic of the three formats: encoding, result, flags, frame, illegal cases (43_rv64f, 44_rv64d, 49_thead_fp16,
43_rv64f:R460, 43_rv64f:R461, 43_rv64f:R462, 43_rv64f:R463, 43_rv64f:R464, 43_rv64f:R498, 92_eei_decisions:D19,
notes/assumptions/20, notes/assumptions/54). -/
def Obligations.FloatArithmetic : Prop :=
  ∀ (s : State) (fd fs1 fs2 fs3 : Reg) (rm : BitVec 3), 
    (encode (.faddS fd fs1 fs2 rm) = .full (0b0000000#7 ++ fs2 ++ fs1 ++ rm ++ fd ++ 0b1010011#7) ∧
      RoundedRule s (exec (.faddS fd fs1 fs2 rm) s) ((0b0000000#7 ++ fs2 ++ fs1 ++ rm ++ fd ++ 0b1010011#7).setWidth 64) rm fun m => WritesF s (exec (.faddS fd fs1 fs2 rm) s) .single fd (Fmt.single.add m (s.operand .single fs1) (s.operand .single fs2))) ∧
    (encode (.fsubS fd fs1 fs2 rm) = .full (0b0000100#7 ++ fs2 ++ fs1 ++ rm ++ fd ++ 0b1010011#7) ∧
      RoundedRule s (exec (.fsubS fd fs1 fs2 rm) s) ((0b0000100#7 ++ fs2 ++ fs1 ++ rm ++ fd ++ 0b1010011#7).setWidth 64) rm fun m => WritesF s (exec (.fsubS fd fs1 fs2 rm) s) .single fd (Fmt.single.sub m (s.operand .single fs1) (s.operand .single fs2))) ∧
    (encode (.fmulS fd fs1 fs2 rm) = .full (0b0001000#7 ++ fs2 ++ fs1 ++ rm ++ fd ++ 0b1010011#7) ∧
      RoundedRule s (exec (.fmulS fd fs1 fs2 rm) s) ((0b0001000#7 ++ fs2 ++ fs1 ++ rm ++ fd ++ 0b1010011#7).setWidth 64) rm fun m => WritesF s (exec (.fmulS fd fs1 fs2 rm) s) .single fd (Fmt.single.mul m (s.operand .single fs1) (s.operand .single fs2))) ∧
    (encode (.fdivS fd fs1 fs2 rm) = .full (0b0001100#7 ++ fs2 ++ fs1 ++ rm ++ fd ++ 0b1010011#7) ∧
      RoundedRule s (exec (.fdivS fd fs1 fs2 rm) s) ((0b0001100#7 ++ fs2 ++ fs1 ++ rm ++ fd ++ 0b1010011#7).setWidth 64) rm fun m => WritesF s (exec (.fdivS fd fs1 fs2 rm) s) .single fd (Fmt.single.div m (s.operand .single fs1) (s.operand .single fs2))) ∧
    (encode (.fsqrtS fd fs1 rm) = .full (0b010110000000#12 ++ fs1 ++ rm ++ fd ++ 0b1010011#7) ∧
      RoundedRule s (exec (.fsqrtS fd fs1 rm) s) ((0b010110000000#12 ++ fs1 ++ rm ++ fd ++ 0b1010011#7).setWidth 64) rm fun m => WritesF s (exec (.fsqrtS fd fs1 rm) s) .single fd (Fmt.single.sqrt m (s.operand .single fs1))) ∧
    (encode (.fmaddS fd fs1 fs2 fs3 rm) = .full (fs3 ++ 0b00#2 ++ fs2 ++ fs1 ++ rm ++ fd ++ 0b1000011#7) ∧
      RoundedRule s (exec (.fmaddS fd fs1 fs2 fs3 rm) s) ((fs3 ++ 0b00#2 ++ fs2 ++ fs1 ++ rm ++ fd ++ 0b1000011#7).setWidth 64) rm fun m => WritesF s (exec (.fmaddS fd fs1 fs2 fs3 rm) s) .single fd (Fmt.single.fma m false false (s.operand .single fs1) (s.operand .single fs2) (s.operand .single fs3))) ∧
    (encode (.fmsubS fd fs1 fs2 fs3 rm) = .full (fs3 ++ 0b00#2 ++ fs2 ++ fs1 ++ rm ++ fd ++ 0b1000111#7) ∧
      RoundedRule s (exec (.fmsubS fd fs1 fs2 fs3 rm) s) ((fs3 ++ 0b00#2 ++ fs2 ++ fs1 ++ rm ++ fd ++ 0b1000111#7).setWidth 64) rm fun m => WritesF s (exec (.fmsubS fd fs1 fs2 fs3 rm) s) .single fd (Fmt.single.fma m false true (s.operand .single fs1) (s.operand .single fs2) (s.operand .single fs3))) ∧
    (encode (.fnmaddS fd fs1 fs2 fs3 rm) = .full (fs3 ++ 0b00#2 ++ fs2 ++ fs1 ++ rm ++ fd ++ 0b1001111#7) ∧
      RoundedRule s (exec (.fnmaddS fd fs1 fs2 fs3 rm) s) ((fs3 ++ 0b00#2 ++ fs2 ++ fs1 ++ rm ++ fd ++ 0b1001111#7).setWidth 64) rm fun m => WritesF s (exec (.fnmaddS fd fs1 fs2 fs3 rm) s) .single fd (Fmt.single.fma m true true (s.operand .single fs1) (s.operand .single fs2) (s.operand .single fs3))) ∧
    (encode (.fnmsubS fd fs1 fs2 fs3 rm) = .full (fs3 ++ 0b00#2 ++ fs2 ++ fs1 ++ rm ++ fd ++ 0b1001011#7) ∧
      RoundedRule s (exec (.fnmsubS fd fs1 fs2 fs3 rm) s) ((fs3 ++ 0b00#2 ++ fs2 ++ fs1 ++ rm ++ fd ++ 0b1001011#7).setWidth 64) rm fun m => WritesF s (exec (.fnmsubS fd fs1 fs2 fs3 rm) s) .single fd (Fmt.single.fma m true false (s.operand .single fs1) (s.operand .single fs2) (s.operand .single fs3))) ∧
    (encode (.faddD fd fs1 fs2 rm) = .full (0b0000001#7 ++ fs2 ++ fs1 ++ rm ++ fd ++ 0b1010011#7) ∧
      RoundedRule s (exec (.faddD fd fs1 fs2 rm) s) ((0b0000001#7 ++ fs2 ++ fs1 ++ rm ++ fd ++ 0b1010011#7).setWidth 64) rm fun m => WritesF s (exec (.faddD fd fs1 fs2 rm) s) .double fd (Fmt.double.add m (s.operand .double fs1) (s.operand .double fs2))) ∧
    (encode (.fsubD fd fs1 fs2 rm) = .full (0b0000101#7 ++ fs2 ++ fs1 ++ rm ++ fd ++ 0b1010011#7) ∧
      RoundedRule s (exec (.fsubD fd fs1 fs2 rm) s) ((0b0000101#7 ++ fs2 ++ fs1 ++ rm ++ fd ++ 0b1010011#7).setWidth 64) rm fun m => WritesF s (exec (.fsubD fd fs1 fs2 rm) s) .double fd (Fmt.double.sub m (s.operand .double fs1) (s.operand .double fs2))) ∧
    (encode (.fmulD fd fs1 fs2 rm) = .full (0b0001001#7 ++ fs2 ++ fs1 ++ rm ++ fd ++ 0b1010011#7) ∧
      RoundedRule s (exec (.fmulD fd fs1 fs2 rm) s) ((0b0001001#7 ++ fs2 ++ fs1 ++ rm ++ fd ++ 0b1010011#7).setWidth 64) rm fun m => WritesF s (exec (.fmulD fd fs1 fs2 rm) s) .double fd (Fmt.double.mul m (s.operand .double fs1) (s.operand .double fs2))) ∧
    (encode (.fdivD fd fs1 fs2 rm) = .full (0b0001101#7 ++ fs2 ++ fs1 ++ rm ++ fd ++ 0b1010011#7) ∧
      RoundedRule s (exec (.fdivD fd fs1 fs2 rm) s) ((0b0001101#7 ++ fs2 ++ fs1 ++ rm ++ fd ++ 0b1010011#7).setWidth 64) rm fun m => WritesF s (exec (.fdivD fd fs1 fs2 rm) s) .double fd (Fmt.double.div m (s.operand .double fs1) (s.operand .double fs2))) ∧
    (encode (.fsqrtD fd fs1 rm) = .full (0b010110100000#12 ++ fs1 ++ rm ++ fd ++ 0b1010011#7) ∧
      RoundedRule s (exec (.fsqrtD fd fs1 rm) s) ((0b010110100000#12 ++ fs1 ++ rm ++ fd ++ 0b1010011#7).setWidth 64) rm fun m => WritesF s (exec (.fsqrtD fd fs1 rm) s) .double fd (Fmt.double.sqrt m (s.operand .double fs1))) ∧
    (encode (.fmaddD fd fs1 fs2 fs3 rm) = .full (fs3 ++ 0b01#2 ++ fs2 ++ fs1 ++ rm ++ fd ++ 0b1000011#7) ∧
      RoundedRule s (exec (.fmaddD fd fs1 fs2 fs3 rm) s) ((fs3 ++ 0b01#2 ++ fs2 ++ fs1 ++ rm ++ fd ++ 0b1000011#7).setWidth 64) rm fun m => WritesF s (exec (.fmaddD fd fs1 fs2 fs3 rm) s) .double fd (Fmt.double.fma m false false (s.operand .double fs1) (s.operand .double fs2) (s.operand .double fs3))) ∧
    (encode (.fmsubD fd fs1 fs2 fs3 rm) = .full (fs3 ++ 0b01#2 ++ fs2 ++ fs1 ++ rm ++ fd ++ 0b1000111#7) ∧
      RoundedRule s (exec (.fmsubD fd fs1 fs2 fs3 rm) s) ((fs3 ++ 0b01#2 ++ fs2 ++ fs1 ++ rm ++ fd ++ 0b1000111#7).setWidth 64) rm fun m => WritesF s (exec (.fmsubD fd fs1 fs2 fs3 rm) s) .double fd (Fmt.double.fma m false true (s.operand .double fs1) (s.operand .double fs2) (s.operand .double fs3))) ∧
    (encode (.fnmaddD fd fs1 fs2 fs3 rm) = .full (fs3 ++ 0b01#2 ++ fs2 ++ fs1 ++ rm ++ fd ++ 0b1001111#7) ∧
      RoundedRule s (exec (.fnmaddD fd fs1 fs2 fs3 rm) s) ((fs3 ++ 0b01#2 ++ fs2 ++ fs1 ++ rm ++ fd ++ 0b1001111#7).setWidth 64) rm fun m => WritesF s (exec (.fnmaddD fd fs1 fs2 fs3 rm) s) .double fd (Fmt.double.fma m true true (s.operand .double fs1) (s.operand .double fs2) (s.operand .double fs3))) ∧
    (encode (.fnmsubD fd fs1 fs2 fs3 rm) = .full (fs3 ++ 0b01#2 ++ fs2 ++ fs1 ++ rm ++ fd ++ 0b1001011#7) ∧
      RoundedRule s (exec (.fnmsubD fd fs1 fs2 fs3 rm) s) ((fs3 ++ 0b01#2 ++ fs2 ++ fs1 ++ rm ++ fd ++ 0b1001011#7).setWidth 64) rm fun m => WritesF s (exec (.fnmsubD fd fs1 fs2 fs3 rm) s) .double fd (Fmt.double.fma m true false (s.operand .double fs1) (s.operand .double fs2) (s.operand .double fs3))) ∧
    (encode (.faddH fd fs1 fs2 rm) = .full (0b0000010#7 ++ fs2 ++ fs1 ++ rm ++ fd ++ 0b1010011#7) ∧
      RoundedRule s (exec (.faddH fd fs1 fs2 rm) s) ((0b0000010#7 ++ fs2 ++ fs1 ++ rm ++ fd ++ 0b1010011#7).setWidth 64) rm fun m => WritesF s (exec (.faddH fd fs1 fs2 rm) s) .half fd (Fmt.half.add m (s.operand .half fs1) (s.operand .half fs2))) ∧
    (encode (.fsubH fd fs1 fs2 rm) = .full (0b0000110#7 ++ fs2 ++ fs1 ++ rm ++ fd ++ 0b1010011#7) ∧
      RoundedRule s (exec (.fsubH fd fs1 fs2 rm) s) ((0b0000110#7 ++ fs2 ++ fs1 ++ rm ++ fd ++ 0b1010011#7).setWidth 64) rm fun m => WritesF s (exec (.fsubH fd fs1 fs2 rm) s) .half fd (Fmt.half.sub m (s.operand .half fs1) (s.operand .half fs2))) ∧
    (encode (.fmulH fd fs1 fs2 rm) = .full (0b0001010#7 ++ fs2 ++ fs1 ++ rm ++ fd ++ 0b1010011#7) ∧
      RoundedRule s (exec (.fmulH fd fs1 fs2 rm) s) ((0b0001010#7 ++ fs2 ++ fs1 ++ rm ++ fd ++ 0b1010011#7).setWidth 64) rm fun m => WritesF s (exec (.fmulH fd fs1 fs2 rm) s) .half fd (Fmt.half.mul m (s.operand .half fs1) (s.operand .half fs2))) ∧
    (encode (.fdivH fd fs1 fs2 rm) = .full (0b0001110#7 ++ fs2 ++ fs1 ++ rm ++ fd ++ 0b1010011#7) ∧
      RoundedRule s (exec (.fdivH fd fs1 fs2 rm) s) ((0b0001110#7 ++ fs2 ++ fs1 ++ rm ++ fd ++ 0b1010011#7).setWidth 64) rm fun m => WritesF s (exec (.fdivH fd fs1 fs2 rm) s) .half fd (Fmt.half.div m (s.operand .half fs1) (s.operand .half fs2))) ∧
    (encode (.fsqrtH fd fs1 rm) = .full (0b010111000000#12 ++ fs1 ++ rm ++ fd ++ 0b1010011#7) ∧
      RoundedRule s (exec (.fsqrtH fd fs1 rm) s) ((0b010111000000#12 ++ fs1 ++ rm ++ fd ++ 0b1010011#7).setWidth 64) rm fun m => WritesF s (exec (.fsqrtH fd fs1 rm) s) .half fd (Fmt.half.sqrt m (s.operand .half fs1))) ∧
    (encode (.fmaddH fd fs1 fs2 fs3 rm) = .full (fs3 ++ 0b10#2 ++ fs2 ++ fs1 ++ rm ++ fd ++ 0b1000011#7) ∧
      RoundedRule s (exec (.fmaddH fd fs1 fs2 fs3 rm) s) ((fs3 ++ 0b10#2 ++ fs2 ++ fs1 ++ rm ++ fd ++ 0b1000011#7).setWidth 64) rm fun m => WritesF s (exec (.fmaddH fd fs1 fs2 fs3 rm) s) .half fd (Fmt.half.fma m false false (s.operand .half fs1) (s.operand .half fs2) (s.operand .half fs3))) ∧
    (encode (.fmsubH fd fs1 fs2 fs3 rm) = .full (fs3 ++ 0b10#2 ++ fs2 ++ fs1 ++ rm ++ fd ++ 0b1000111#7) ∧
      RoundedRule s (exec (.fmsubH fd fs1 fs2 fs3 rm) s) ((fs3 ++ 0b10#2 ++ fs2 ++ fs1 ++ rm ++ fd ++ 0b1000111#7).setWidth 64) rm fun m => WritesF s (exec (.fmsubH fd fs1 fs2 fs3 rm) s) .half fd (Fmt.half.fma m false true (s.operand .half fs1) (s.operand .half fs2) (s.operand .half fs3))) ∧
    (encode (.fnmaddH fd fs1 fs2 fs3 rm) = .full (fs3 ++ 0b10#2 ++ fs2 ++ fs1 ++ rm ++ fd ++ 0b1001111#7) ∧
      RoundedRule s (exec (.fnmaddH fd fs1 fs2 fs3 rm) s) ((fs3 ++ 0b10#2 ++ fs2 ++ fs1 ++ rm ++ fd ++ 0b1001111#7).setWidth 64) rm fun m => WritesF s (exec (.fnmaddH fd fs1 fs2 fs3 rm) s) .half fd (Fmt.half.fma m true true (s.operand .half fs1) (s.operand .half fs2) (s.operand .half fs3))) ∧
    (encode (.fnmsubH fd fs1 fs2 fs3 rm) = .full (fs3 ++ 0b10#2 ++ fs2 ++ fs1 ++ rm ++ fd ++ 0b1001011#7) ∧
      RoundedRule s (exec (.fnmsubH fd fs1 fs2 fs3 rm) s) ((fs3 ++ 0b10#2 ++ fs2 ++ fs1 ++ rm ++ fd ++ 0b1001011#7).setWidth 64) rm fun m => WritesF s (exec (.fnmsubH fd fs1 fs2 fs3 rm) s) .half fd (Fmt.half.fma m true false (s.operand .half fs1) (s.operand .half fs2) (s.operand .half fs3)))

/-- Compare, min, max, classify, sign and move of the three formats: encoding, result, flags, frame (43_rv64f, 44_rv64d,
49_thead_fp16, 43_rv64f:R467, 43_rv64f:R477, 43_rv64f:R478, 43_rv64f:R479, 43_rv64f:R486, 43_rv64f:R487,
43_rv64f:R490, 43_rv64f:R497). -/
def Obligations.FloatCompareAndMove : Prop :=
  ∀ (s : State) (rd fs1 fs2 fd rs1 : Reg), 
    (encode (.feqS rd fs1 fs2) = .full (0b1010000#7 ++ fs2 ++ fs1 ++ 0b010#3 ++ rd ++ 0b1010011#7) ∧
      FpRule s (exec (.feqS rd fs1 fs2) s) ((0b1010000#7 ++ fs2 ++ fs1 ++ 0b010#3 ++ rd ++ 0b1010011#7).setWidth 64) (WritesXF s (exec (.feqS rd fs1 fs2) s) rd
        (if Fmt.single.isNan (s.operand .single fs1) || Fmt.single.isNan (s.operand .single fs2) then 0 else if Fmt.single.key (s.operand .single fs1) = Fmt.single.key (s.operand .single fs2) then 1 else 0)
        (if Fmt.single.isSnan (s.operand .single fs1) || Fmt.single.isSnan (s.operand .single fs2) then flagNV else 0))) ∧
    (encode (.fltS rd fs1 fs2) = .full (0b1010000#7 ++ fs2 ++ fs1 ++ 0b001#3 ++ rd ++ 0b1010011#7) ∧
      FpRule s (exec (.fltS rd fs1 fs2) s) ((0b1010000#7 ++ fs2 ++ fs1 ++ 0b001#3 ++ rd ++ 0b1010011#7).setWidth 64) (WritesXF s (exec (.fltS rd fs1 fs2) s) rd
        (if Fmt.single.isNan (s.operand .single fs1) || Fmt.single.isNan (s.operand .single fs2) then 0 else if Fmt.single.key (s.operand .single fs1) < Fmt.single.key (s.operand .single fs2) then 1 else 0)
        (if Fmt.single.isNan (s.operand .single fs1) || Fmt.single.isNan (s.operand .single fs2) then flagNV else 0))) ∧
    (encode (.fleS rd fs1 fs2) = .full (0b1010000#7 ++ fs2 ++ fs1 ++ 0b000#3 ++ rd ++ 0b1010011#7) ∧
      FpRule s (exec (.fleS rd fs1 fs2) s) ((0b1010000#7 ++ fs2 ++ fs1 ++ 0b000#3 ++ rd ++ 0b1010011#7).setWidth 64) (WritesXF s (exec (.fleS rd fs1 fs2) s) rd
        (if Fmt.single.isNan (s.operand .single fs1) || Fmt.single.isNan (s.operand .single fs2) then 0 else if Fmt.single.key (s.operand .single fs1) ≤ Fmt.single.key (s.operand .single fs2) then 1 else 0)
        (if Fmt.single.isNan (s.operand .single fs1) || Fmt.single.isNan (s.operand .single fs2) then flagNV else 0))) ∧
    (encode (.fminS fd fs1 fs2) = .full (0b0010100#7 ++ fs2 ++ fs1 ++ 0b000#3 ++ fd ++ 0b1010011#7) ∧
      FpRule s (exec (.fminS fd fs1 fs2) s) ((0b0010100#7 ++ fs2 ++ fs1 ++ 0b000#3 ++ fd ++ 0b1010011#7).setWidth 64) (WritesF s (exec (.fminS fd fs1 fs2) s) .single fd (Fmt.single.minMax s.soc.fminmaxZeroOrdered false (s.operand .single fs1) (s.operand .single fs2)))) ∧
    (encode (.fmaxS fd fs1 fs2) = .full (0b0010100#7 ++ fs2 ++ fs1 ++ 0b001#3 ++ fd ++ 0b1010011#7) ∧
      FpRule s (exec (.fmaxS fd fs1 fs2) s) ((0b0010100#7 ++ fs2 ++ fs1 ++ 0b001#3 ++ fd ++ 0b1010011#7).setWidth 64) (WritesF s (exec (.fmaxS fd fs1 fs2) s) .single fd (Fmt.single.minMax s.soc.fminmaxZeroOrdered true (s.operand .single fs1) (s.operand .single fs2)))) ∧
    (encode (.fclassS rd fs1) = .full (0b111000000000#12 ++ fs1 ++ 0b001#3 ++ rd ++ 0b1010011#7) ∧
      FpRule s (exec (.fclassS rd fs1) s) ((0b111000000000#12 ++ fs1 ++ 0b001#3 ++ rd ++ 0b1010011#7).setWidth 64) (WritesXF s (exec (.fclassS rd fs1) s) rd (Fmt.single.classify (s.operand .single fs1)) 0)) ∧
    (encode (.fsgnjS fd fs1 fs2) = .full (0b0010000#7 ++ fs2 ++ fs1 ++ 0b000#3 ++ fd ++ 0b1010011#7) ∧
      FpRule s (exec (.fsgnjS fd fs1 fs2) s) ((0b0010000#7 ++ fs2 ++ fs1 ++ 0b000#3 ++ fd ++ 0b1010011#7).setWidth 64) (WritesF s (exec (.fsgnjS fd fs1 fs2) s) .single fd (.of (Fmt.single.signBits (Fmt.single.neg (s.operand .single fs2)) + Fmt.single.mag (s.operand .single fs1))))) ∧
    (encode (.fsgnjnS fd fs1 fs2) = .full (0b0010000#7 ++ fs2 ++ fs1 ++ 0b001#3 ++ fd ++ 0b1010011#7) ∧
      FpRule s (exec (.fsgnjnS fd fs1 fs2) s) ((0b0010000#7 ++ fs2 ++ fs1 ++ 0b001#3 ++ fd ++ 0b1010011#7).setWidth 64) (WritesF s (exec (.fsgnjnS fd fs1 fs2) s) .single fd (.of (Fmt.single.signBits (!Fmt.single.neg (s.operand .single fs2)) + Fmt.single.mag (s.operand .single fs1))))) ∧
    (encode (.fsgnjxS fd fs1 fs2) = .full (0b0010000#7 ++ fs2 ++ fs1 ++ 0b010#3 ++ fd ++ 0b1010011#7) ∧
      FpRule s (exec (.fsgnjxS fd fs1 fs2) s) ((0b0010000#7 ++ fs2 ++ fs1 ++ 0b010#3 ++ fd ++ 0b1010011#7).setWidth 64) (WritesF s (exec (.fsgnjxS fd fs1 fs2) s) .single fd (.of (Fmt.single.signBits (Fmt.single.neg (s.operand .single fs1) != Fmt.single.neg (s.operand .single fs2)) + Fmt.single.mag (s.operand .single fs1))))) ∧
    (encode (.feqD rd fs1 fs2) = .full (0b1010001#7 ++ fs2 ++ fs1 ++ 0b010#3 ++ rd ++ 0b1010011#7) ∧
      FpRule s (exec (.feqD rd fs1 fs2) s) ((0b1010001#7 ++ fs2 ++ fs1 ++ 0b010#3 ++ rd ++ 0b1010011#7).setWidth 64) (WritesXF s (exec (.feqD rd fs1 fs2) s) rd
        (if Fmt.double.isNan (s.operand .double fs1) || Fmt.double.isNan (s.operand .double fs2) then 0 else if Fmt.double.key (s.operand .double fs1) = Fmt.double.key (s.operand .double fs2) then 1 else 0)
        (if Fmt.double.isSnan (s.operand .double fs1) || Fmt.double.isSnan (s.operand .double fs2) then flagNV else 0))) ∧
    (encode (.fltD rd fs1 fs2) = .full (0b1010001#7 ++ fs2 ++ fs1 ++ 0b001#3 ++ rd ++ 0b1010011#7) ∧
      FpRule s (exec (.fltD rd fs1 fs2) s) ((0b1010001#7 ++ fs2 ++ fs1 ++ 0b001#3 ++ rd ++ 0b1010011#7).setWidth 64) (WritesXF s (exec (.fltD rd fs1 fs2) s) rd
        (if Fmt.double.isNan (s.operand .double fs1) || Fmt.double.isNan (s.operand .double fs2) then 0 else if Fmt.double.key (s.operand .double fs1) < Fmt.double.key (s.operand .double fs2) then 1 else 0)
        (if Fmt.double.isNan (s.operand .double fs1) || Fmt.double.isNan (s.operand .double fs2) then flagNV else 0))) ∧
    (encode (.fleD rd fs1 fs2) = .full (0b1010001#7 ++ fs2 ++ fs1 ++ 0b000#3 ++ rd ++ 0b1010011#7) ∧
      FpRule s (exec (.fleD rd fs1 fs2) s) ((0b1010001#7 ++ fs2 ++ fs1 ++ 0b000#3 ++ rd ++ 0b1010011#7).setWidth 64) (WritesXF s (exec (.fleD rd fs1 fs2) s) rd
        (if Fmt.double.isNan (s.operand .double fs1) || Fmt.double.isNan (s.operand .double fs2) then 0 else if Fmt.double.key (s.operand .double fs1) ≤ Fmt.double.key (s.operand .double fs2) then 1 else 0)
        (if Fmt.double.isNan (s.operand .double fs1) || Fmt.double.isNan (s.operand .double fs2) then flagNV else 0))) ∧
    (encode (.fminD fd fs1 fs2) = .full (0b0010101#7 ++ fs2 ++ fs1 ++ 0b000#3 ++ fd ++ 0b1010011#7) ∧
      FpRule s (exec (.fminD fd fs1 fs2) s) ((0b0010101#7 ++ fs2 ++ fs1 ++ 0b000#3 ++ fd ++ 0b1010011#7).setWidth 64) (WritesF s (exec (.fminD fd fs1 fs2) s) .double fd (Fmt.double.minMax s.soc.fminmaxZeroOrdered false (s.operand .double fs1) (s.operand .double fs2)))) ∧
    (encode (.fmaxD fd fs1 fs2) = .full (0b0010101#7 ++ fs2 ++ fs1 ++ 0b001#3 ++ fd ++ 0b1010011#7) ∧
      FpRule s (exec (.fmaxD fd fs1 fs2) s) ((0b0010101#7 ++ fs2 ++ fs1 ++ 0b001#3 ++ fd ++ 0b1010011#7).setWidth 64) (WritesF s (exec (.fmaxD fd fs1 fs2) s) .double fd (Fmt.double.minMax s.soc.fminmaxZeroOrdered true (s.operand .double fs1) (s.operand .double fs2)))) ∧
    (encode (.fclassD rd fs1) = .full (0b111000100000#12 ++ fs1 ++ 0b001#3 ++ rd ++ 0b1010011#7) ∧
      FpRule s (exec (.fclassD rd fs1) s) ((0b111000100000#12 ++ fs1 ++ 0b001#3 ++ rd ++ 0b1010011#7).setWidth 64) (WritesXF s (exec (.fclassD rd fs1) s) rd (Fmt.double.classify (s.operand .double fs1)) 0)) ∧
    (encode (.fsgnjD fd fs1 fs2) = .full (0b0010001#7 ++ fs2 ++ fs1 ++ 0b000#3 ++ fd ++ 0b1010011#7) ∧
      FpRule s (exec (.fsgnjD fd fs1 fs2) s) ((0b0010001#7 ++ fs2 ++ fs1 ++ 0b000#3 ++ fd ++ 0b1010011#7).setWidth 64) (WritesF s (exec (.fsgnjD fd fs1 fs2) s) .double fd (.of (Fmt.double.signBits (Fmt.double.neg (s.operand .double fs2)) + Fmt.double.mag (s.operand .double fs1))))) ∧
    (encode (.fsgnjnD fd fs1 fs2) = .full (0b0010001#7 ++ fs2 ++ fs1 ++ 0b001#3 ++ fd ++ 0b1010011#7) ∧
      FpRule s (exec (.fsgnjnD fd fs1 fs2) s) ((0b0010001#7 ++ fs2 ++ fs1 ++ 0b001#3 ++ fd ++ 0b1010011#7).setWidth 64) (WritesF s (exec (.fsgnjnD fd fs1 fs2) s) .double fd (.of (Fmt.double.signBits (!Fmt.double.neg (s.operand .double fs2)) + Fmt.double.mag (s.operand .double fs1))))) ∧
    (encode (.fsgnjxD fd fs1 fs2) = .full (0b0010001#7 ++ fs2 ++ fs1 ++ 0b010#3 ++ fd ++ 0b1010011#7) ∧
      FpRule s (exec (.fsgnjxD fd fs1 fs2) s) ((0b0010001#7 ++ fs2 ++ fs1 ++ 0b010#3 ++ fd ++ 0b1010011#7).setWidth 64) (WritesF s (exec (.fsgnjxD fd fs1 fs2) s) .double fd (.of (Fmt.double.signBits (Fmt.double.neg (s.operand .double fs1) != Fmt.double.neg (s.operand .double fs2)) + Fmt.double.mag (s.operand .double fs1))))) ∧
    (encode (.feqH rd fs1 fs2) = .full (0b1010010#7 ++ fs2 ++ fs1 ++ 0b010#3 ++ rd ++ 0b1010011#7) ∧
      FpRule s (exec (.feqH rd fs1 fs2) s) ((0b1010010#7 ++ fs2 ++ fs1 ++ 0b010#3 ++ rd ++ 0b1010011#7).setWidth 64) (WritesXF s (exec (.feqH rd fs1 fs2) s) rd
        (if Fmt.half.isNan (s.operand .half fs1) || Fmt.half.isNan (s.operand .half fs2) then 0 else if Fmt.half.key (s.operand .half fs1) = Fmt.half.key (s.operand .half fs2) then 1 else 0)
        (if Fmt.half.isSnan (s.operand .half fs1) || Fmt.half.isSnan (s.operand .half fs2) then flagNV else 0))) ∧
    (encode (.fltH rd fs1 fs2) = .full (0b1010010#7 ++ fs2 ++ fs1 ++ 0b001#3 ++ rd ++ 0b1010011#7) ∧
      FpRule s (exec (.fltH rd fs1 fs2) s) ((0b1010010#7 ++ fs2 ++ fs1 ++ 0b001#3 ++ rd ++ 0b1010011#7).setWidth 64) (WritesXF s (exec (.fltH rd fs1 fs2) s) rd
        (if Fmt.half.isNan (s.operand .half fs1) || Fmt.half.isNan (s.operand .half fs2) then 0 else if Fmt.half.key (s.operand .half fs1) < Fmt.half.key (s.operand .half fs2) then 1 else 0)
        (if Fmt.half.isNan (s.operand .half fs1) || Fmt.half.isNan (s.operand .half fs2) then flagNV else 0))) ∧
    (encode (.fleH rd fs1 fs2) = .full (0b1010010#7 ++ fs2 ++ fs1 ++ 0b000#3 ++ rd ++ 0b1010011#7) ∧
      FpRule s (exec (.fleH rd fs1 fs2) s) ((0b1010010#7 ++ fs2 ++ fs1 ++ 0b000#3 ++ rd ++ 0b1010011#7).setWidth 64) (WritesXF s (exec (.fleH rd fs1 fs2) s) rd
        (if Fmt.half.isNan (s.operand .half fs1) || Fmt.half.isNan (s.operand .half fs2) then 0 else if Fmt.half.key (s.operand .half fs1) ≤ Fmt.half.key (s.operand .half fs2) then 1 else 0)
        (if Fmt.half.isNan (s.operand .half fs1) || Fmt.half.isNan (s.operand .half fs2) then flagNV else 0))) ∧
    (encode (.fminH fd fs1 fs2) = .full (0b0010110#7 ++ fs2 ++ fs1 ++ 0b000#3 ++ fd ++ 0b1010011#7) ∧
      FpRule s (exec (.fminH fd fs1 fs2) s) ((0b0010110#7 ++ fs2 ++ fs1 ++ 0b000#3 ++ fd ++ 0b1010011#7).setWidth 64) (WritesF s (exec (.fminH fd fs1 fs2) s) .half fd (Fmt.half.minMax s.soc.fminmaxZeroOrdered false (s.operand .half fs1) (s.operand .half fs2)))) ∧
    (encode (.fmaxH fd fs1 fs2) = .full (0b0010110#7 ++ fs2 ++ fs1 ++ 0b001#3 ++ fd ++ 0b1010011#7) ∧
      FpRule s (exec (.fmaxH fd fs1 fs2) s) ((0b0010110#7 ++ fs2 ++ fs1 ++ 0b001#3 ++ fd ++ 0b1010011#7).setWidth 64) (WritesF s (exec (.fmaxH fd fs1 fs2) s) .half fd (Fmt.half.minMax s.soc.fminmaxZeroOrdered true (s.operand .half fs1) (s.operand .half fs2)))) ∧
    (encode (.fclassH rd fs1) = .full (0b111001000000#12 ++ fs1 ++ 0b001#3 ++ rd ++ 0b1010011#7) ∧
      FpRule s (exec (.fclassH rd fs1) s) ((0b111001000000#12 ++ fs1 ++ 0b001#3 ++ rd ++ 0b1010011#7).setWidth 64) (WritesXF s (exec (.fclassH rd fs1) s) rd (Fmt.half.classify (s.operand .half fs1)) 0)) ∧
    (encode (.fsgnjH fd fs1 fs2) = .full (0b0010010#7 ++ fs2 ++ fs1 ++ 0b000#3 ++ fd ++ 0b1010011#7) ∧
      FpRule s (exec (.fsgnjH fd fs1 fs2) s) ((0b0010010#7 ++ fs2 ++ fs1 ++ 0b000#3 ++ fd ++ 0b1010011#7).setWidth 64) (WritesF s (exec (.fsgnjH fd fs1 fs2) s) .half fd (.of (Fmt.half.signBits (Fmt.half.neg (s.operand .half fs2)) + Fmt.half.mag (s.operand .half fs1))))) ∧
    (encode (.fsgnjnH fd fs1 fs2) = .full (0b0010010#7 ++ fs2 ++ fs1 ++ 0b001#3 ++ fd ++ 0b1010011#7) ∧
      FpRule s (exec (.fsgnjnH fd fs1 fs2) s) ((0b0010010#7 ++ fs2 ++ fs1 ++ 0b001#3 ++ fd ++ 0b1010011#7).setWidth 64) (WritesF s (exec (.fsgnjnH fd fs1 fs2) s) .half fd (.of (Fmt.half.signBits (!Fmt.half.neg (s.operand .half fs2)) + Fmt.half.mag (s.operand .half fs1))))) ∧
    (encode (.fsgnjxH fd fs1 fs2) = .full (0b0010010#7 ++ fs2 ++ fs1 ++ 0b010#3 ++ fd ++ 0b1010011#7) ∧
      FpRule s (exec (.fsgnjxH fd fs1 fs2) s) ((0b0010010#7 ++ fs2 ++ fs1 ++ 0b010#3 ++ fd ++ 0b1010011#7).setWidth 64) (WritesF s (exec (.fsgnjxH fd fs1 fs2) s) .half fd (.of (Fmt.half.signBits (Fmt.half.neg (s.operand .half fs1) != Fmt.half.neg (s.operand .half fs2)) + Fmt.half.mag (s.operand .half fs1))))) ∧
    (encode (.fmvXW rd fs1) = .full (0b111000000000#12 ++ fs1 ++ 0b000#3 ++ rd ++ 0b1010011#7) ∧
      FpRule s (exec (.fmvXW rd fs1) s) ((0b111000000000#12 ++ fs1 ++ 0b000#3 ++ rd ++ 0b1010011#7).setWidth 64) (WritesXF s (exec (.fmvXW rd fs1) s) rd (((s.getF fs1).setWidth 32).signExtend 64) 0)) ∧
    (encode (.fmvWX fd rs1) = .full (0b111100000000#12 ++ rs1 ++ 0b000#3 ++ fd ++ 0b1010011#7) ∧
      FpRule s (exec (.fmvWX fd rs1) s) ((0b111100000000#12 ++ rs1 ++ 0b000#3 ++ fd ++ 0b1010011#7).setWidth 64) (WritesF s (exec (.fmvWX fd rs1) s) .single fd (.of ((s.getX rs1).toNat % 2 ^ 32)))) ∧
    (encode (.fmvXD rd fs1) = .full (0b111000100000#12 ++ fs1 ++ 0b000#3 ++ rd ++ 0b1010011#7) ∧
      FpRule s (exec (.fmvXD rd fs1) s) ((0b111000100000#12 ++ fs1 ++ 0b000#3 ++ rd ++ 0b1010011#7).setWidth 64) (WritesXF s (exec (.fmvXD rd fs1) s) rd (((s.getF fs1).setWidth 64).signExtend 64) 0)) ∧
    (encode (.fmvDX fd rs1) = .full (0b111100100000#12 ++ rs1 ++ 0b000#3 ++ fd ++ 0b1010011#7) ∧
      FpRule s (exec (.fmvDX fd rs1) s) ((0b111100100000#12 ++ rs1 ++ 0b000#3 ++ fd ++ 0b1010011#7).setWidth 64) (WritesF s (exec (.fmvDX fd rs1) s) .double fd (.of ((s.getX rs1).toNat % 2 ^ 64)))) ∧
    (encode (.fmvXH rd fs1) = .full (0b111001000000#12 ++ fs1 ++ 0b000#3 ++ rd ++ 0b1010011#7) ∧
      FpRule s (exec (.fmvXH rd fs1) s) ((0b111001000000#12 ++ fs1 ++ 0b000#3 ++ rd ++ 0b1010011#7).setWidth 64) (WritesXF s (exec (.fmvXH rd fs1) s) rd (((s.getF fs1).setWidth 16).signExtend 64) 0)) ∧
    (encode (.fmvHX fd rs1) = .full (0b111101000000#12 ++ rs1 ++ 0b000#3 ++ fd ++ 0b1010011#7) ∧
      FpRule s (exec (.fmvHX fd rs1) s) ((0b111101000000#12 ++ rs1 ++ 0b000#3 ++ fd ++ 0b1010011#7).setWidth 64) (WritesF s (exec (.fmvHX fd rs1) s) .half fd (.of ((s.getX rs1).toNat % 2 ^ 16))))

/-- Float-to-integer conversions: encoding, result, flags, frame, illegal cases (43_rv64f, 44_rv64d, 49_thead_fp16,
43_rv64f:R461, 43_rv64f:R460, 92_eei_decisions:D19, notes/assumptions/54). -/
def Obligations.FloatToInteger : Prop :=
  ∀ (s : State) (rd fs1 : Reg) (rm : BitVec 3), 
    (encode (.fcvtWS rd fs1 rm) = .full (0b110000000000#12 ++ fs1 ++ rm ++ rd ++ 0b1010011#7) ∧
      RoundedRule s (exec (.fcvtWS rd fs1 rm) s) ((0b110000000000#12 ++ fs1 ++ rm ++ rd ++ 0b1010011#7).setWidth 64) rm fun m => WritesXF s (exec (.fcvtWS rd fs1 rm) s) rd (Fmt.single.toInt m .w (s.operand .single fs1)).1 (Fmt.single.toInt m .w (s.operand .single fs1)).2) ∧
    (encode (.fcvtWuS rd fs1 rm) = .full (0b110000000001#12 ++ fs1 ++ rm ++ rd ++ 0b1010011#7) ∧
      RoundedRule s (exec (.fcvtWuS rd fs1 rm) s) ((0b110000000001#12 ++ fs1 ++ rm ++ rd ++ 0b1010011#7).setWidth 64) rm fun m => WritesXF s (exec (.fcvtWuS rd fs1 rm) s) rd (Fmt.single.toInt m .wu (s.operand .single fs1)).1 (Fmt.single.toInt m .wu (s.operand .single fs1)).2) ∧
    (encode (.fcvtLS rd fs1 rm) = .full (0b110000000010#12 ++ fs1 ++ rm ++ rd ++ 0b1010011#7) ∧
      RoundedRule s (exec (.fcvtLS rd fs1 rm) s) ((0b110000000010#12 ++ fs1 ++ rm ++ rd ++ 0b1010011#7).setWidth 64) rm fun m => WritesXF s (exec (.fcvtLS rd fs1 rm) s) rd (Fmt.single.toInt m .l (s.operand .single fs1)).1 (Fmt.single.toInt m .l (s.operand .single fs1)).2) ∧
    (encode (.fcvtLuS rd fs1 rm) = .full (0b110000000011#12 ++ fs1 ++ rm ++ rd ++ 0b1010011#7) ∧
      RoundedRule s (exec (.fcvtLuS rd fs1 rm) s) ((0b110000000011#12 ++ fs1 ++ rm ++ rd ++ 0b1010011#7).setWidth 64) rm fun m => WritesXF s (exec (.fcvtLuS rd fs1 rm) s) rd (Fmt.single.toInt m .lu (s.operand .single fs1)).1 (Fmt.single.toInt m .lu (s.operand .single fs1)).2) ∧
    (encode (.fcvtWD rd fs1 rm) = .full (0b110000100000#12 ++ fs1 ++ rm ++ rd ++ 0b1010011#7) ∧
      RoundedRule s (exec (.fcvtWD rd fs1 rm) s) ((0b110000100000#12 ++ fs1 ++ rm ++ rd ++ 0b1010011#7).setWidth 64) rm fun m => WritesXF s (exec (.fcvtWD rd fs1 rm) s) rd (Fmt.double.toInt m .w (s.operand .double fs1)).1 (Fmt.double.toInt m .w (s.operand .double fs1)).2) ∧
    (encode (.fcvtWuD rd fs1 rm) = .full (0b110000100001#12 ++ fs1 ++ rm ++ rd ++ 0b1010011#7) ∧
      RoundedRule s (exec (.fcvtWuD rd fs1 rm) s) ((0b110000100001#12 ++ fs1 ++ rm ++ rd ++ 0b1010011#7).setWidth 64) rm fun m => WritesXF s (exec (.fcvtWuD rd fs1 rm) s) rd (Fmt.double.toInt m .wu (s.operand .double fs1)).1 (Fmt.double.toInt m .wu (s.operand .double fs1)).2) ∧
    (encode (.fcvtLD rd fs1 rm) = .full (0b110000100010#12 ++ fs1 ++ rm ++ rd ++ 0b1010011#7) ∧
      RoundedRule s (exec (.fcvtLD rd fs1 rm) s) ((0b110000100010#12 ++ fs1 ++ rm ++ rd ++ 0b1010011#7).setWidth 64) rm fun m => WritesXF s (exec (.fcvtLD rd fs1 rm) s) rd (Fmt.double.toInt m .l (s.operand .double fs1)).1 (Fmt.double.toInt m .l (s.operand .double fs1)).2) ∧
    (encode (.fcvtLuD rd fs1 rm) = .full (0b110000100011#12 ++ fs1 ++ rm ++ rd ++ 0b1010011#7) ∧
      RoundedRule s (exec (.fcvtLuD rd fs1 rm) s) ((0b110000100011#12 ++ fs1 ++ rm ++ rd ++ 0b1010011#7).setWidth 64) rm fun m => WritesXF s (exec (.fcvtLuD rd fs1 rm) s) rd (Fmt.double.toInt m .lu (s.operand .double fs1)).1 (Fmt.double.toInt m .lu (s.operand .double fs1)).2) ∧
    (encode (.fcvtWH rd fs1 rm) = .full (0b110001000000#12 ++ fs1 ++ rm ++ rd ++ 0b1010011#7) ∧
      RoundedRule s (exec (.fcvtWH rd fs1 rm) s) ((0b110001000000#12 ++ fs1 ++ rm ++ rd ++ 0b1010011#7).setWidth 64) rm fun m => WritesXF s (exec (.fcvtWH rd fs1 rm) s) rd (Fmt.half.toInt m .w (s.operand .half fs1)).1 (Fmt.half.toInt m .w (s.operand .half fs1)).2) ∧
    (encode (.fcvtWuH rd fs1 rm) = .full (0b110001000001#12 ++ fs1 ++ rm ++ rd ++ 0b1010011#7) ∧
      RoundedRule s (exec (.fcvtWuH rd fs1 rm) s) ((0b110001000001#12 ++ fs1 ++ rm ++ rd ++ 0b1010011#7).setWidth 64) rm fun m => WritesXF s (exec (.fcvtWuH rd fs1 rm) s) rd (Fmt.half.toInt m .wu (s.operand .half fs1)).1 (Fmt.half.toInt m .wu (s.operand .half fs1)).2) ∧
    (encode (.fcvtLH rd fs1 rm) = .full (0b110001000010#12 ++ fs1 ++ rm ++ rd ++ 0b1010011#7) ∧
      RoundedRule s (exec (.fcvtLH rd fs1 rm) s) ((0b110001000010#12 ++ fs1 ++ rm ++ rd ++ 0b1010011#7).setWidth 64) rm fun m => WritesXF s (exec (.fcvtLH rd fs1 rm) s) rd (Fmt.half.toInt m .l (s.operand .half fs1)).1 (Fmt.half.toInt m .l (s.operand .half fs1)).2) ∧
    (encode (.fcvtLuH rd fs1 rm) = .full (0b110001000011#12 ++ fs1 ++ rm ++ rd ++ 0b1010011#7) ∧
      RoundedRule s (exec (.fcvtLuH rd fs1 rm) s) ((0b110001000011#12 ++ fs1 ++ rm ++ rd ++ 0b1010011#7).setWidth 64) rm fun m => WritesXF s (exec (.fcvtLuH rd fs1 rm) s) rd (Fmt.half.toInt m .lu (s.operand .half fs1)).1 (Fmt.half.toInt m .lu (s.operand .half fs1)).2)

/-- Integer-to-float conversions: encoding, result, flags, frame, illegal cases (43_rv64f, 44_rv64d, 49_thead_fp16,
43_rv64f:R461, 43_rv64f:R460, 92_eei_decisions:D19, notes/assumptions/54). -/
def Obligations.IntegerToFloat : Prop :=
  ∀ (s : State) (fd rs1 : Reg) (rm : BitVec 3), 
    (encode (.fcvtSW fd rs1 rm) = .full (0b110100000000#12 ++ rs1 ++ rm ++ fd ++ 0b1010011#7) ∧
      RoundedRule s (exec (.fcvtSW fd rs1 rm) s) ((0b110100000000#12 ++ rs1 ++ rm ++ fd ++ 0b1010011#7).setWidth 64) rm fun m => WritesF s (exec (.fcvtSW fd rs1 rm) s) .single fd (Fmt.single.ofInt m ((s.getX rs1).setWidth 32).toInt)) ∧
    (encode (.fcvtSWu fd rs1 rm) = .full (0b110100000001#12 ++ rs1 ++ rm ++ fd ++ 0b1010011#7) ∧
      RoundedRule s (exec (.fcvtSWu fd rs1 rm) s) ((0b110100000001#12 ++ rs1 ++ rm ++ fd ++ 0b1010011#7).setWidth 64) rm fun m => WritesF s (exec (.fcvtSWu fd rs1 rm) s) .single fd (Fmt.single.ofInt m ((s.getX rs1).setWidth 32).toNat)) ∧
    (encode (.fcvtSL fd rs1 rm) = .full (0b110100000010#12 ++ rs1 ++ rm ++ fd ++ 0b1010011#7) ∧
      RoundedRule s (exec (.fcvtSL fd rs1 rm) s) ((0b110100000010#12 ++ rs1 ++ rm ++ fd ++ 0b1010011#7).setWidth 64) rm fun m => WritesF s (exec (.fcvtSL fd rs1 rm) s) .single fd (Fmt.single.ofInt m (s.getX rs1).toInt)) ∧
    (encode (.fcvtSLu fd rs1 rm) = .full (0b110100000011#12 ++ rs1 ++ rm ++ fd ++ 0b1010011#7) ∧
      RoundedRule s (exec (.fcvtSLu fd rs1 rm) s) ((0b110100000011#12 ++ rs1 ++ rm ++ fd ++ 0b1010011#7).setWidth 64) rm fun m => WritesF s (exec (.fcvtSLu fd rs1 rm) s) .single fd (Fmt.single.ofInt m (s.getX rs1).toNat)) ∧
    (encode (.fcvtDW fd rs1 rm) = .full (0b110100100000#12 ++ rs1 ++ rm ++ fd ++ 0b1010011#7) ∧
      RoundedRule s (exec (.fcvtDW fd rs1 rm) s) ((0b110100100000#12 ++ rs1 ++ rm ++ fd ++ 0b1010011#7).setWidth 64) rm fun m => WritesF s (exec (.fcvtDW fd rs1 rm) s) .double fd (Fmt.double.ofInt m ((s.getX rs1).setWidth 32).toInt)) ∧
    (encode (.fcvtDWu fd rs1 rm) = .full (0b110100100001#12 ++ rs1 ++ rm ++ fd ++ 0b1010011#7) ∧
      RoundedRule s (exec (.fcvtDWu fd rs1 rm) s) ((0b110100100001#12 ++ rs1 ++ rm ++ fd ++ 0b1010011#7).setWidth 64) rm fun m => WritesF s (exec (.fcvtDWu fd rs1 rm) s) .double fd (Fmt.double.ofInt m ((s.getX rs1).setWidth 32).toNat)) ∧
    (encode (.fcvtDL fd rs1 rm) = .full (0b110100100010#12 ++ rs1 ++ rm ++ fd ++ 0b1010011#7) ∧
      RoundedRule s (exec (.fcvtDL fd rs1 rm) s) ((0b110100100010#12 ++ rs1 ++ rm ++ fd ++ 0b1010011#7).setWidth 64) rm fun m => WritesF s (exec (.fcvtDL fd rs1 rm) s) .double fd (Fmt.double.ofInt m (s.getX rs1).toInt)) ∧
    (encode (.fcvtDLu fd rs1 rm) = .full (0b110100100011#12 ++ rs1 ++ rm ++ fd ++ 0b1010011#7) ∧
      RoundedRule s (exec (.fcvtDLu fd rs1 rm) s) ((0b110100100011#12 ++ rs1 ++ rm ++ fd ++ 0b1010011#7).setWidth 64) rm fun m => WritesF s (exec (.fcvtDLu fd rs1 rm) s) .double fd (Fmt.double.ofInt m (s.getX rs1).toNat)) ∧
    (encode (.fcvtHW fd rs1 rm) = .full (0b110101000000#12 ++ rs1 ++ rm ++ fd ++ 0b1010011#7) ∧
      RoundedRule s (exec (.fcvtHW fd rs1 rm) s) ((0b110101000000#12 ++ rs1 ++ rm ++ fd ++ 0b1010011#7).setWidth 64) rm fun m => WritesF s (exec (.fcvtHW fd rs1 rm) s) .half fd (Fmt.half.ofInt m ((s.getX rs1).setWidth 32).toInt)) ∧
    (encode (.fcvtHWu fd rs1 rm) = .full (0b110101000001#12 ++ rs1 ++ rm ++ fd ++ 0b1010011#7) ∧
      RoundedRule s (exec (.fcvtHWu fd rs1 rm) s) ((0b110101000001#12 ++ rs1 ++ rm ++ fd ++ 0b1010011#7).setWidth 64) rm fun m => WritesF s (exec (.fcvtHWu fd rs1 rm) s) .half fd (Fmt.half.ofInt m ((s.getX rs1).setWidth 32).toNat)) ∧
    (encode (.fcvtHL fd rs1 rm) = .full (0b110101000010#12 ++ rs1 ++ rm ++ fd ++ 0b1010011#7) ∧
      RoundedRule s (exec (.fcvtHL fd rs1 rm) s) ((0b110101000010#12 ++ rs1 ++ rm ++ fd ++ 0b1010011#7).setWidth 64) rm fun m => WritesF s (exec (.fcvtHL fd rs1 rm) s) .half fd (Fmt.half.ofInt m (s.getX rs1).toInt)) ∧
    (encode (.fcvtHLu fd rs1 rm) = .full (0b110101000011#12 ++ rs1 ++ rm ++ fd ++ 0b1010011#7) ∧
      RoundedRule s (exec (.fcvtHLu fd rs1 rm) s) ((0b110101000011#12 ++ rs1 ++ rm ++ fd ++ 0b1010011#7).setWidth 64) rm fun m => WritesF s (exec (.fcvtHLu fd rs1 rm) s) .half fd (Fmt.half.ofInt m (s.getX rs1).toNat))

/-- Conversions between formats: encoding, result, flags, frame, illegal cases (44_rv64d:R510, 44_rv64d:R505,
49_thead_fp16:R741, 49_thead_fp16:R746, 49_thead_fp16:R738, 49_thead_fp16:R737, 43_rv64f:R461, 92_eei_decisions:D19,
notes/assumptions/20, notes/assumptions/28, notes/assumptions/54). -/
def Obligations.FormatConversions : Prop :=
  ∀ (s : State) (fd fs1 : Reg) (rm : BitVec 3), 
    (encode (.fcvtSD fd fs1 rm) = .full (0b010000000001#12 ++ fs1 ++ rm ++ fd ++ 0b1010011#7) ∧
      RoundedRule s (exec (.fcvtSD fd fs1 rm) s) ((0b010000000001#12 ++ fs1 ++ rm ++ fd ++ 0b1010011#7).setWidth 64) rm fun m => WritesF s (exec (.fcvtSD fd fs1 rm) s) .single fd (Fmt.convert .double .single m true (s.operand .double fs1))) ∧
    (encode (.fcvtDS fd fs1 rm) = .full (0b010000100000#12 ++ fs1 ++ rm ++ fd ++ 0b1010011#7) ∧
      RoundedRule s (exec (.fcvtDS fd fs1 rm) s) ((0b010000100000#12 ++ fs1 ++ rm ++ fd ++ 0b1010011#7).setWidth 64) rm fun m => WritesF s (exec (.fcvtDS fd fs1 rm) s) .double fd (Fmt.convert .single .double m s.soc.fcvtWidenSnanNv (s.operand .single fs1))) ∧
    (encode (.fcvtHS fd fs1 rm) = .full (0b010001000000#12 ++ fs1 ++ rm ++ fd ++ 0b1010011#7) ∧
      RoundedRule s (exec (.fcvtHS fd fs1 rm) s) ((0b010001000000#12 ++ fs1 ++ rm ++ fd ++ 0b1010011#7).setWidth 64) rm fun m => WritesF s (exec (.fcvtHS fd fs1 rm) s) .half fd (Fmt.convert .single .half m true (s.operand .single fs1))) ∧
    (encode (.fcvtSH fd fs1 rm) = .full (0b010000000010#12 ++ fs1 ++ rm ++ fd ++ 0b1010011#7) ∧
      RoundedRule s (exec (.fcvtSH fd fs1 rm) s) ((0b010000000010#12 ++ fs1 ++ rm ++ fd ++ 0b1010011#7).setWidth 64) rm fun m => WritesF s (exec (.fcvtSH fd fs1 rm) s) .single fd (Fmt.convert .half .single m s.soc.fcvtWidenSnanNv (s.operand .half fs1))) ∧
    (encode (.fcvtHD fd fs1 rm) = .full (0b010001000001#12 ++ fs1 ++ rm ++ fd ++ 0b1010011#7) ∧
      RoundedRule s (exec (.fcvtHD fd fs1 rm) s) ((0b010001000001#12 ++ fs1 ++ rm ++ fd ++ 0b1010011#7).setWidth 64) rm fun m => WritesF s (exec (.fcvtHD fd fs1 rm) s) .half fd (Fmt.convert .double .half m true (s.operand .double fs1))) ∧
    (encode (.fcvtDH fd fs1 rm) = .full (0b010000100010#12 ++ fs1 ++ rm ++ fd ++ 0b1010011#7) ∧
      RoundedRule s (exec (.fcvtDH fd fs1 rm) s) ((0b010000100010#12 ++ fs1 ++ rm ++ fd ++ 0b1010011#7).setWidth 64) rm fun m => WritesF s (exec (.fcvtDH fd fs1 rm) s) .double fd (Fmt.convert .half .double m s.soc.fcvtWidenSnanNv (s.operand .half fs1)))

/-- Floating-point loads and stores: encoding, address, value, frame, exceptions (43_rv64f, 44_rv64d, 49_thead_fp16,
45_rv64c, 43_rv64f:R460, 43_rv64f:R464, 10_state:R29, 20_memory:R190, 60_exceptions:R797, notes/assumptions/37,
notes/assumptions/41). -/
def Obligations.FloatLoadsAndStores : Prop :=
  (∀ (s : State) (fd rs1 fs2 : Reg) (imm12 : BitVec 12), 
    (encode (.flw fd rs1 imm12) = .full (imm12 ++ rs1 ++ 0b010#3 ++ fd ++ 0b0000111#7) ∧
      FpRule s (exec (.flw fd rs1 imm12) s) ((imm12 ++ rs1 ++ 0b010#3 ++ fd ++ 0b0000111#7).setWidth 64) (LoadFRule s (exec (.flw fd rs1 imm12) s) (s.me.pc + 4) (s.getX rs1 + imm12.signExtend 64) 4 fd)) ∧
    (encode (.fsw fs2 rs1 imm12) = .full (imm12.extractLsb' 5 7 ++ fs2 ++ rs1 ++ 0b010#3 ++ imm12.extractLsb' 0 5 ++ 0b0100111#7) ∧
      FpRule s (exec (.fsw fs2 rs1 imm12) s) ((imm12.extractLsb' 5 7 ++ fs2 ++ rs1 ++ 0b010#3 ++ imm12.extractLsb' 0 5 ++ 0b0100111#7).setWidth 64) (StoreRule s (exec (.fsw fs2 rs1 imm12) s) (s.me.pc + 4) (s.getX rs1 + imm12.signExtend 64) 4 (s.getF fs2) [] s.statusDirty)) ∧
    (encode (.fld fd rs1 imm12) = .full (imm12 ++ rs1 ++ 0b011#3 ++ fd ++ 0b0000111#7) ∧
      FpRule s (exec (.fld fd rs1 imm12) s) ((imm12 ++ rs1 ++ 0b011#3 ++ fd ++ 0b0000111#7).setWidth 64) (LoadFRule s (exec (.fld fd rs1 imm12) s) (s.me.pc + 4) (s.getX rs1 + imm12.signExtend 64) 8 fd)) ∧
    (encode (.fsd fs2 rs1 imm12) = .full (imm12.extractLsb' 5 7 ++ fs2 ++ rs1 ++ 0b011#3 ++ imm12.extractLsb' 0 5 ++ 0b0100111#7) ∧
      FpRule s (exec (.fsd fs2 rs1 imm12) s) ((imm12.extractLsb' 5 7 ++ fs2 ++ rs1 ++ 0b011#3 ++ imm12.extractLsb' 0 5 ++ 0b0100111#7).setWidth 64) (StoreRule s (exec (.fsd fs2 rs1 imm12) s) (s.me.pc + 4) (s.getX rs1 + imm12.signExtend 64) 8 (s.getF fs2) [] s.statusDirty)) ∧
    (encode (.flh fd rs1 imm12) = .full (imm12 ++ rs1 ++ 0b001#3 ++ fd ++ 0b0000111#7) ∧
      FpRule s (exec (.flh fd rs1 imm12) s) ((imm12 ++ rs1 ++ 0b001#3 ++ fd ++ 0b0000111#7).setWidth 64) (LoadFRule s (exec (.flh fd rs1 imm12) s) (s.me.pc + 4) (s.getX rs1 + imm12.signExtend 64) 2 fd)) ∧
    (encode (.fsh fs2 rs1 imm12) = .full (imm12.extractLsb' 5 7 ++ fs2 ++ rs1 ++ 0b001#3 ++ imm12.extractLsb' 0 5 ++ 0b0100111#7) ∧
      FpRule s (exec (.fsh fs2 rs1 imm12) s) ((imm12.extractLsb' 5 7 ++ fs2 ++ rs1 ++ 0b001#3 ++ imm12.extractLsb' 0 5 ++ 0b0100111#7).setWidth 64) (StoreRule s (exec (.fsh fs2 rs1 imm12) s) (s.me.pc + 4) (s.getX rs1 + imm12.signExtend 64) 2 (s.getF fs2) [] s.statusDirty))) ∧
  (∀ (s : State) (fd rs1 fs2 : BitVec 3) (uimm5 : BitVec 5), 
    (encode (.cFld fd rs1 uimm5) = .half (0b001#3 ++ uimm5.extractLsb' 0 3 ++ rs1 ++ uimm5.extractLsb' 3 2 ++ fd ++ 0b00#2) ∧
      FpRule s (exec (.cFld fd rs1 uimm5) s) ((0b001#3 ++ uimm5.extractLsb' 0 3 ++ rs1 ++ uimm5.extractLsb' 3 2 ++ fd ++ 0b00#2).setWidth 64) (LoadFRule s (exec (.cFld fd rs1 uimm5) s) (s.me.pc + 2) (s.getX (creg rs1) + (uimm5.setWidth 64 <<< 3)) 8 (creg fd))) ∧
    (encode (.cFsd fs2 rs1 uimm5) = .half (0b101#3 ++ uimm5.extractLsb' 0 3 ++ rs1 ++ uimm5.extractLsb' 3 2 ++ fs2 ++ 0b00#2) ∧
      FpRule s (exec (.cFsd fs2 rs1 uimm5) s) ((0b101#3 ++ uimm5.extractLsb' 0 3 ++ rs1 ++ uimm5.extractLsb' 3 2 ++ fs2 ++ 0b00#2).setWidth 64) (StoreRule s (exec (.cFsd fs2 rs1 uimm5) s) (s.me.pc + 2) (s.getX (creg rs1) + (uimm5.setWidth 64 <<< 3)) 8 (s.getF (creg fs2)) [] s.statusDirty))) ∧
  (∀ (s : State) (fd fs2 : Reg) (uimm6 : BitVec 6), 
    (encode (.cFldsp fd uimm6) = .half (0b001#3 ++ uimm6.extractLsb' 2 1 ++ fd ++ uimm6.extractLsb' 0 2 ++ uimm6.extractLsb' 3 3 ++ 0b10#2) ∧
      FpRule s (exec (.cFldsp fd uimm6) s) ((0b001#3 ++ uimm6.extractLsb' 2 1 ++ fd ++ uimm6.extractLsb' 0 2 ++ uimm6.extractLsb' 3 3 ++ 0b10#2).setWidth 64) (LoadFRule s (exec (.cFldsp fd uimm6) s) (s.me.pc + 2) (s.getX 2 + (uimm6.setWidth 64 <<< 3)) 8 fd)) ∧
    (encode (.cFsdsp fs2 uimm6) = .half (0b101#3 ++ uimm6.extractLsb' 0 3 ++ uimm6.extractLsb' 3 3 ++ fs2 ++ 0b10#2) ∧
      FpRule s (exec (.cFsdsp fs2 uimm6) s) ((0b101#3 ++ uimm6.extractLsb' 0 3 ++ uimm6.extractLsb' 3 3 ++ fs2 ++ 0b10#2).setWidth 64) (StoreRule s (exec (.cFsdsp fs2 uimm6) s) (s.me.pc + 2) (s.getX 2 + (uimm6.setWidth 64 <<< 3)) 8 (s.getF fs2) [] s.statusDirty)))

/-- T-Head indexed floating-point loads and stores: encoding, address, value, frame, exceptions (47_thead_mem,
47_thead_mem:R620, 43_rv64f:R460, 10_state:R29, 20_memory:R190, 60_exceptions:R797, notes/assumptions/37,
notes/assumptions/41). -/
def Obligations.IndexedFloatAccess : Prop :=
  ∀ (s : State) (fd rs1 rs2 : Reg) (imm2 : BitVec 2), s.me.theadOn = true →
    (encode (.flrd fd rs1 rs2 imm2) = .full (0b01100#5 ++ imm2 ++ rs2 ++ rs1 ++ 0b110#3 ++ fd ++ 0b0001011#7) ∧
      FpRule s (exec (.flrd fd rs1 rs2 imm2) s) ((0b01100#5 ++ imm2 ++ rs2 ++ rs1 ++ 0b110#3 ++ fd ++ 0b0001011#7).setWidth 64) (LoadFRule s (exec (.flrd fd rs1 rs2 imm2) s) (s.me.pc + 4) (s.getX rs1 + (s.getX rs2 <<< imm2.toNat)) 8 fd)) ∧
    (encode (.flrw fd rs1 rs2 imm2) = .full (0b01000#5 ++ imm2 ++ rs2 ++ rs1 ++ 0b110#3 ++ fd ++ 0b0001011#7) ∧
      FpRule s (exec (.flrw fd rs1 rs2 imm2) s) ((0b01000#5 ++ imm2 ++ rs2 ++ rs1 ++ 0b110#3 ++ fd ++ 0b0001011#7).setWidth 64) (LoadFRule s (exec (.flrw fd rs1 rs2 imm2) s) (s.me.pc + 4) (s.getX rs1 + (s.getX rs2 <<< imm2.toNat)) 4 fd)) ∧
    (encode (.flurd fd rs1 rs2 imm2) = .full (0b01110#5 ++ imm2 ++ rs2 ++ rs1 ++ 0b110#3 ++ fd ++ 0b0001011#7) ∧
      FpRule s (exec (.flurd fd rs1 rs2 imm2) s) ((0b01110#5 ++ imm2 ++ rs2 ++ rs1 ++ 0b110#3 ++ fd ++ 0b0001011#7).setWidth 64) (LoadFRule s (exec (.flurd fd rs1 rs2 imm2) s) (s.me.pc + 4) (s.getX rs1 + (((s.getX rs2).setWidth 32).setWidth 64 <<< imm2.toNat)) 8 fd)) ∧
    (encode (.flurw fd rs1 rs2 imm2) = .full (0b01010#5 ++ imm2 ++ rs2 ++ rs1 ++ 0b110#3 ++ fd ++ 0b0001011#7) ∧
      FpRule s (exec (.flurw fd rs1 rs2 imm2) s) ((0b01010#5 ++ imm2 ++ rs2 ++ rs1 ++ 0b110#3 ++ fd ++ 0b0001011#7).setWidth 64) (LoadFRule s (exec (.flurw fd rs1 rs2 imm2) s) (s.me.pc + 4) (s.getX rs1 + (((s.getX rs2).setWidth 32).setWidth 64 <<< imm2.toNat)) 4 fd)) ∧
    (encode (.fsrd fd rs1 rs2 imm2) = .full (0b01100#5 ++ imm2 ++ rs2 ++ rs1 ++ 0b111#3 ++ fd ++ 0b0001011#7) ∧
      FpRule s (exec (.fsrd fd rs1 rs2 imm2) s) ((0b01100#5 ++ imm2 ++ rs2 ++ rs1 ++ 0b111#3 ++ fd ++ 0b0001011#7).setWidth 64) (StoreRule s (exec (.fsrd fd rs1 rs2 imm2) s) (s.me.pc + 4) (s.getX rs1 + (s.getX rs2 <<< imm2.toNat)) 8 (s.getF fd) [] s.statusDirty)) ∧
    (encode (.fsrw fd rs1 rs2 imm2) = .full (0b01000#5 ++ imm2 ++ rs2 ++ rs1 ++ 0b111#3 ++ fd ++ 0b0001011#7) ∧
      FpRule s (exec (.fsrw fd rs1 rs2 imm2) s) ((0b01000#5 ++ imm2 ++ rs2 ++ rs1 ++ 0b111#3 ++ fd ++ 0b0001011#7).setWidth 64) (StoreRule s (exec (.fsrw fd rs1 rs2 imm2) s) (s.me.pc + 4) (s.getX rs1 + (s.getX rs2 <<< imm2.toNat)) 4 (s.getF fd) [] s.statusDirty)) ∧
    (encode (.fsurd fd rs1 rs2 imm2) = .full (0b01110#5 ++ imm2 ++ rs2 ++ rs1 ++ 0b111#3 ++ fd ++ 0b0001011#7) ∧
      FpRule s (exec (.fsurd fd rs1 rs2 imm2) s) ((0b01110#5 ++ imm2 ++ rs2 ++ rs1 ++ 0b111#3 ++ fd ++ 0b0001011#7).setWidth 64) (StoreRule s (exec (.fsurd fd rs1 rs2 imm2) s) (s.me.pc + 4) (s.getX rs1 + (((s.getX rs2).setWidth 32).setWidth 64 <<< imm2.toNat)) 8 (s.getF fd) [] s.statusDirty)) ∧
    (encode (.fsurw fd rs1 rs2 imm2) = .full (0b01010#5 ++ imm2 ++ rs2 ++ rs1 ++ 0b111#3 ++ fd ++ 0b0001011#7) ∧
      FpRule s (exec (.fsurw fd rs1 rs2 imm2) s) ((0b01010#5 ++ imm2 ++ rs2 ++ rs1 ++ 0b111#3 ++ fd ++ 0b0001011#7).setWidth 64) (StoreRule s (exec (.fsurw fd rs1 rs2 imm2) s) (s.me.pc + 4) (s.getX rs1 + (((s.getX rs2).setWidth 32).setWidth 64 <<< imm2.toNat)) 4 (s.getF fd) [] s.statusDirty))

/-- D-cache and L2 clean operations: encoding, which lines are written back and which leave, gates, frame
(48_thead_cache_sync, 48_thead_cache_sync:R690, 48_thead_cache_sync:R691, 48_thead_cache_sync:R692,
48_thead_cache_sync:R693, 48_thead_cache_sync:R694, 48_thead_cache_sync:R714, 20_memory:R220, notes/assumptions/18,
notes/assumptions/33, notes/assumptions/41, notes/assumptions/62). -/
def Obligations.CacheCleans : Prop :=
  ∀ (s : State) (rs1 : Reg), 
    (encode .dcacheCall = .full (0b00000000000100000000000000001011#32) ∧
      CacheRule s (exec .dcacheCall s) (0b00000000000100000000000000001011#32) false
        (∃ t, Maintains s (exec .dcacheCall s) t ∧ CleansLines s t anyLine false false)) ∧
    (encode .dcacheCiall = .full (0b00000000001100000000000000001011#32) ∧
      CacheRule s (exec .dcacheCiall s) (0b00000000001100000000000000001011#32) false
        (∃ t, Maintains s (exec .dcacheCiall s) t ∧ FlushesLines s t anyLine false false)) ∧
    (encode (.dcacheCpa rs1) = .full (0b000000101001#12 ++ rs1 ++ 0b000000000001011#15) ∧
      CacheRule s (exec (.dcacheCpa rs1) s) (0b000000101001#12 ++ rs1 ++ 0b000000000001011#15) false
        (∃ t, Maintains s (exec (.dcacheCpa rs1) s) t ∧ CleansLines s t (lineAt ((s.getX rs1).toNat % 2 ^ 40)) true true)) ∧
    (encode (.dcacheCipa rs1) = .full (0b000000101011#12 ++ rs1 ++ 0b000000000001011#15) ∧
      CacheRule s (exec (.dcacheCipa rs1) s) (0b000000101011#12 ++ rs1 ++ 0b000000000001011#15) false
        (∃ t, Maintains s (exec (.dcacheCipa rs1) s) t ∧ FlushesLines s t (lineAt ((s.getX rs1).toNat % 2 ^ 40)) true true)) ∧
    (encode (.dcacheCpal1 rs1) = .full (0b000000101000#12 ++ rs1 ++ 0b000000000001011#15) ∧
      CacheRule s (exec (.dcacheCpal1 rs1) s) (0b000000101000#12 ++ rs1 ++ 0b000000000001011#15) false
        (∃ t, Maintains s (exec (.dcacheCpal1 rs1) s) t ∧ CleansLines s t (lineAt ((s.getX rs1).toNat % 2 ^ 40)) true false)) ∧
    (encode (.dcacheCsw rs1) = .full (0b000000100001#12 ++ rs1 ++ 0b000000000001011#15) ∧
      CacheRule s (exec (.dcacheCsw rs1) s) (0b000000100001#12 ++ rs1 ++ 0b000000000001011#15) false
        (∃ t, Maintains s (exec (.dcacheCsw rs1) s) t ∧ CleansLines s t (atWay (s.getX rs1)) false false)) ∧
    (encode (.dcacheCisw rs1) = .full (0b000000100011#12 ++ rs1 ++ 0b000000000001011#15) ∧
      CacheRule s (exec (.dcacheCisw rs1) s) (0b000000100011#12 ++ rs1 ++ 0b000000000001011#15) false
        (∃ t, Maintains s (exec (.dcacheCisw rs1) s) t ∧ FlushesLines s t (atWay (s.getX rs1)) false false)) ∧
    (encode (.dcacheCva rs1) = .full (0b000000100101#12 ++ rs1 ++ 0b000000000001011#15) ∧
      CacheRule s (exec (.dcacheCva rs1) s) (0b000000100101#12 ++ rs1 ++ 0b000000000001011#15) false
        (LineRule s (exec (.dcacheCva rs1) s) (s.getX rs1) fun t pa shared => CleansLines s t (lineAt pa) shared true)) ∧
    (encode (.dcacheCiva rs1) = .full (0b000000100111#12 ++ rs1 ++ 0b000000000001011#15) ∧
      CacheRule s (exec (.dcacheCiva rs1) s) (0b000000100111#12 ++ rs1 ++ 0b000000000001011#15) (s.me.th.mxstatus.getLsbD 16)
        (LineRule s (exec (.dcacheCiva rs1) s) (s.getX rs1) fun t pa shared => FlushesLines s t (lineAt pa) shared true)) ∧
    (encode (.dcacheCval1 rs1) = .full (0b000000100100#12 ++ rs1 ++ 0b000000000001011#15) ∧
      CacheRule s (exec (.dcacheCval1 rs1) s) (0b000000100100#12 ++ rs1 ++ 0b000000000001011#15) (s.me.th.mxstatus.getLsbD 16)
        (LineRule s (exec (.dcacheCval1 rs1) s) (s.getX rs1) fun t pa shared => CleansLines s t (lineAt pa) shared false)) ∧
    (encode .l2cacheCall = .full (0b00000001010100000000000000001011#32) ∧
      CacheRule s (exec .l2cacheCall s) (0b00000001010100000000000000001011#32) false
        (∃ t, Maintains s (exec .l2cacheCall s) t ∧ CleansLines s t anyLine true true)) ∧
    (encode .l2cacheCiall = .full (0b00000001011100000000000000001011#32) ∧
      CacheRule s (exec .l2cacheCiall s) (0b00000001011100000000000000001011#32) false
        (∃ t, Maintains s (exec .l2cacheCiall s) t ∧ FlushesLines s t anyLine true true))

/-- D-cache and L2 invalidate operations: encoding, which lines go, gates, what may be lost, frame (48_thead_cache_sync,
48_thead_cache_sync:R690, 48_thead_cache_sync:R692, 48_thead_cache_sync:R702, 48_thead_cache_sync:R703,
48_thead_cache_sync:R704, 48_thead_cache_sync:R712, 20_memory:R220, notes/assumptions/18, notes/assumptions/33,
notes/assumptions/41, notes/assumptions/62). -/
def Obligations.CacheInvalidates : Prop :=
  ∀ (s : State) (rs1 : Reg), 
    (encode .dcacheIall = .full (0b00000000001000000000000000001011#32) ∧
      CacheRule s (exec .dcacheIall s) (0b00000000001000000000000000001011#32) false
        (∃ t, Maintains s (exec .dcacheIall s) t ∧ DropsLines s t anyLine false false)) ∧
    (encode (.dcacheIpa rs1) = .full (0b000000101010#12 ++ rs1 ++ 0b000000000001011#15) ∧
      CacheRule s (exec (.dcacheIpa rs1) s) (0b000000101010#12 ++ rs1 ++ 0b000000000001011#15) false
        (∃ t, Maintains s (exec (.dcacheIpa rs1) s) t ∧ DropsLines s t (lineAt ((s.getX rs1).toNat % 2 ^ 40)) true true)) ∧
    (encode (.dcacheIsw rs1) = .full (0b000000100010#12 ++ rs1 ++ 0b000000000001011#15) ∧
      CacheRule s (exec (.dcacheIsw rs1) s) (0b000000100010#12 ++ rs1 ++ 0b000000000001011#15) false
        (∃ t, Maintains s (exec (.dcacheIsw rs1) s) t ∧ DropsLines s t (atWay (s.getX rs1)) false false)) ∧
    (encode (.dcacheIva rs1) = .full (0b000000100110#12 ++ rs1 ++ 0b000000000001011#15) ∧
      CacheRule s (exec (.dcacheIva rs1) s) (0b000000100110#12 ++ rs1 ++ 0b000000000001011#15) false
        (LineRule s (exec (.dcacheIva rs1) s) (s.getX rs1) fun t pa shared => DropsLines s t (lineAt pa) shared true)) ∧
    (encode .l2cacheIall = .full (0b00000001011000000000000000001011#32) ∧
      CacheRule s (exec .l2cacheIall s) (0b00000001011000000000000000001011#32) false
        (∃ t, Maintains s (exec .l2cacheIall s) t ∧ DropsLines s t anyLine true true))

/-- I-cache invalidates and SYNC instructions: encoding, scope, gates, frame (48_thead_cache_sync,
48_thead_cache_sync:R690, 48_thead_cache_sync:R692, 20_memory:R224, 30_encoding:R290, 70_reset_and_hazards:R951,
notes/assumptions/18, notes/assumptions/33, notes/assumptions/42, notes/assumptions/48, notes/assumptions/62,
notes/assumptions/63). -/
def Obligations.InstructionCacheAndSync : Prop :=
  (∀ (s : State) (rs1 : Reg), 
    (encode .icacheIall = .full (0b00000001000000000000000000001011#32) ∧
      CacheRule s (exec .icacheIall s) (0b00000001000000000000000000001011#32) false
        (∃ t, Maintains s (exec .icacheIall s) t ∧ InvalidatesCode s t (fun _ => true) false)) ∧
    (encode .icacheIalls = .full (0b00000001000100000000000000001011#32) ∧
      CacheRule s (exec .icacheIalls s) (0b00000001000100000000000000001011#32) false
        (∃ t, Maintains s (exec .icacheIalls s) t ∧ InvalidatesCode s t (fun _ => true) true)) ∧
    (encode (.icacheIpa rs1) = .full (0b000000111000#12 ++ rs1 ++ 0b000000000001011#15) ∧
      CacheRule s (exec (.icacheIpa rs1) s) (0b000000111000#12 ++ rs1 ++ 0b000000000001011#15) false
        (∃ t, Maintains s (exec (.icacheIpa rs1) s) t ∧ InvalidatesCode s t (fun l => lineAt ((s.getX rs1).toNat % 2 ^ 40) l.line) true)) ∧
    (encode (.icacheIva rs1) = .full (0b000000110000#12 ++ rs1 ++ 0b000000000001011#15) ∧
      CacheRule s (exec (.icacheIva rs1) s) (0b000000110000#12 ++ rs1 ++ 0b000000000001011#15) (s.me.th.mxstatus.getLsbD 16)
        (LineRule s (exec (.icacheIva rs1) s) (s.getX rs1) fun t pa shared =>
          InvalidatesCode s t (fun l => l.set == (s.getX rs1).toNat / 64 % 512 && lineAt pa l.line) shared))) ∧
  (∀ s : State, 
    (encode .sync = .full (0b00000001100000000000000000001011#32) ∧
      CacheRule s (exec .sync s) (0b00000001100000000000000000001011#32) (!s.soc.syncNeedsUcme || s.me.th.mxstatus.getLsbD 16)
        (∃ t, exec .sync s = .next t ∧ t.me.pc = s.me.pc + 4 ∧
          t = { s with me := s.me.moved t.me, other := s.other })) ∧
    (encode .syncS = .full (0b00000001100100000000000000001011#32) ∧
      CacheRule s (exec .syncS s) (0b00000001100100000000000000001011#32) (!s.soc.syncNeedsUcme || s.me.th.mxstatus.getLsbD 16)
        (∃ t, exec .syncS s = .next t ∧ t.me.pc = s.me.pc + 4 ∧
          t = { s with me := s.me.moved t.me, other := settled s.other })) ∧
    (encode .syncI = .full (0b00000001101000000000000000001011#32) ∧
      CacheRule s (exec .syncI s) (0b00000001101000000000000000001011#32) (!s.soc.syncNeedsUcme || s.me.th.mxstatus.getLsbD 16)
        (∃ t, exec .syncI s = .next t ∧ t.me.pc = s.me.pc + 4 ∧
          t = { s with me := { s.me.moved t.me with fetched := [] }, other := s.other })) ∧
    (encode .syncIs = .full (0b00000001101100000000000000001011#32) ∧
      CacheRule s (exec .syncIs s) (0b00000001101100000000000000001011#32) (!s.soc.syncNeedsUcme || s.me.th.mxstatus.getLsbD 16)
        (∃ t, exec .syncIs s = .next t ∧ t.me.pc = s.me.pc + 4 ∧
          t = { s with me := { s.me.moved t.me with fetched := [] }, other := { settled s.other with fetched := [] } })))

/-- Decoding the encoding of a well-formed instruction gives it back (30_encoding:R280, 30_encoding:R281,
30_encoding:R282, 30_encoding:R285, 20_memory:R181). -/
def Obligations.DecodeEncode : Prop :=
  ∀ (i : Instr) (rest : List Byte), i.wf = true →
    decodeCode (encode i) = .ok i ∧ decode ((encode i).bytes ++ rest) = .ok (i, rest)

/-- What decodes is well-formed and encodes back to its code: no reserved code decodes (30_encoding:R287). -/
def Obligations.DecodeSound : Prop :=
  ∀ (c : Code) (i : Instr), decodeCode c = .ok i → i.wf = true ∧ encode i = c

/-- Words written out from the encodings decode to their instructions (40_rv64i:R386, 43_rv64f:R467, 40_rv64i:R335,
40_rv64i:R336, 40_rv64i:R393, 40_rv64i:R396, 45_rv64c:R552). -/
def Obligations.DecodeKnownWords : Prop :=
  decodeCode (.full 0x00a28333) = .ok (.add 6 5 10) ∧
    decodeCode (.full 0xfff00093) = .ok (.addi 1 0 0xfff) ∧
    decodeCode (.full 0x340312f3) = .ok (.csrrw 5 0x340 6) ∧
    decodeCode (.full 0xe00092d3) = .ok (.fclassS 5 1) ∧
    decodeCode (.full 0x00000073) = .ok (.ecall) ∧
    decodeCode (.full 0x30200073) = .ok (.mret) ∧
    decodeCode (.half 0x8082) = .ok (.cJr 1) ∧ decodeCode (.half 0x9002) = .ok .cEbreak

/-- A step is held, waits, takes the chosen interrupt, or runs the instruction decoded at pc (60_exceptions:R813,
62_pmu_debug_power:R920, 30_encoding:R287, 20_memory:R189, 70_reset_and_hazards:R932, notes/assumptions/2,
notes/assumptions/46). -/
def Obligations.StepRunsDecoded : Prop :=
  ∀ s : State, s.inputs = [] →
    (s.me.inReset = true → step s = .next s) ∧
    (s.me.lowPower = true → s.wakeUp = false → step s = .next s) ∧
    (s.me.inReset = false → (s.me.lowPower = true → s.wakeUp = true) →
      (∀ c, s.wake.interrupt? = some c → step s = .next (s.wake.takeInterrupt c)) ∧
      (s.wake.interrupt? = none →
        (∀ c s', s.wake.fetch = .ok c s' →
          Fetches s.wake s' ∧ (∀ i, decodeCode c = .ok i → step s = exec i s') ∧
            (∀ e, decodeCode c = .error e → step s = .next (s'.raise 2 c.value))) ∧
        (∀ code va s', s.wake.fetch = .trap code va s' →
          code ∈ [1, 12] ∧ Fetches s.wake s' ∧ step s = .next (s'.raise code va))))

/-- Without translation the code fetched is that of the parcels at pc, little-endian; a fetch above the physical addresses
(20_memory:R189, 20_memory:R181, 20_memory:R222, 20_memory:R223, 21_mmu_pmp:R230, 30_encoding:R280, 30_encoding:R281,
20_memory:R193, 92_eei_decisions:D3, notes/assumptions/8, notes/assumptions/42). -/
def Obligations.FetchesFromMemory : Prop :=
  ∀ s : State, s.me.pc.getLsbD 0 = false → s.me.translates s.me.priv = false →
    let low := fun va : Word => s.soc.highAddrFault = false ∨ va.toNat < 2 ^ 40
    (low s.me.pc → s.Fetchable 0 → ∀ p0 : BitVec 16, s.Delivers 0 p0 →
      (p0.toNat % 4 ≠ 3 → ∃ s', s.fetch = .ok (.half p0) s' ∧ Fetches s s') ∧
      (p0.toNat % 4 = 3 →
        (low (s.me.pc + 2) → s.Fetchable 2 → ∀ p1 : BitVec 16, s.Delivers 2 p1 →
          ∃ s', s.fetch = .ok (.full (p1 ++ p0)) s' ∧ Fetches s s') ∧
        (¬ low (s.me.pc + 2) → ∃ s', s.fetch = .trap 1 (s.me.pc + 2) s' ∧ Fetches s s'))) ∧
    (¬ low s.me.pc → s.fetch = .trap 1 s.me.pc s)

/-- Which interrupt is taken: enables, delegation, privilege and priority (60_exceptions:R807, 60_exceptions:R812,
92_eei_decisions:D25). -/
def Obligations.InterruptChoice : Prop :=
  ∀ s : State,
    (∀ before c inM after, interruptOrder = before ++ (c, inM) :: after → s.Takes c inM →
      (∀ x ∈ before, ¬ s.Takes x.1 x.2) → s.interrupt? = some c) ∧
    ((∀ x ∈ interruptOrder, ¬ s.Takes x.1 x.2) → s.interrupt? = none)

/-- Taking an exception or an interrupt: destination, saved registers, trap value, handler, frame (60_exceptions:R790,
60_exceptions:R791, 60_exceptions:R800, 60_exceptions:R801, 60_exceptions:R802, 60_exceptions:R813, 21_mmu_pmp:R258,
70_reset_and_hazards:R950, notes/assumptions/11, notes/assumptions/13, notes/assumptions/42). -/
def Obligations.TrapEntry : Prop :=
  (∀ (s : State) (c : Nat) (info : Word), c < 16 →
      let t := s.raise c info
      let tval := if c ∈ [1, 2, 4, 6, 12, 13, 15] then info else 0
      let toS := s.me.priv ≠ .machine ∧ s.me.m.medeleg.getLsbD c = true
      (toS → TrapsToS s.me t.me (BitVec.ofNat 64 c) tval ∧ t.me.pc = s.me.sup.stvec &&& ~~~3) ∧
      (¬ toS → TrapsToM s.me t.me (BitVec.ofNat 64 c) tval ∧ t.me.pc = s.me.m.mtvec &&& ~~~3) ∧
      (c ∈ [12, 13, 15] → field t.me.smmu.smeh 19 27 = field info 12 27 ∧
        (∀ n, n < 19 ∨ 46 ≤ n → t.me.smmu.smeh.getLsbD n = s.me.smmu.smeh.getLsbD n)) ∧
      (c ∉ [12, 13, 15] → t.me.smmu = s.me.smmu) ∧ TrapFrame s t ∧ SameBytes s t) ∧
    (∀ (s : State) (c : Nat), c ∈ [1, 3, 5, 7, 9, 11, 17] →
      let t := s.takeInterrupt c
      let entry := fun tvec : Word => (tvec &&& ~~~3) + if field tvec 0 2 = 1 then BitVec.ofNat 64 (4 * c) else 0
      (s.me.m.mideleg.getLsbD c = true →
        TrapsToS s.me t.me (BitVec.ofNat 64 (2 ^ 63 + c)) 0 ∧ t.me.pc = entry s.me.sup.stvec) ∧
      (s.me.m.mideleg.getLsbD c = false →
        TrapsToM s.me t.me (BitVec.ofNat 64 (2 ^ 63 + c)) 0 ∧ t.me.pc = entry s.me.m.mtvec) ∧
      t.me.smmu = s.me.smmu ∧ TrapFrame s t ∧ SameBytes s t)

/-- What an access finds in the caches, where a read and a store bring lines, what snoops and evictions take out, what
prefetches may do (20_memory:R187, 20_memory:R219, 20_memory:R220, 12_csr_extended:R133, 12_csr_extended:R137,
12_csr_extended:R152, 21_mmu_pmp:R266, 70_reset_and_hazards:R951, notes/assumptions/41, notes/assumptions/42,
notes/assumptions/53, notes/assumptions/62). -/
def Obligations.CachesAndSnoops : Prop :=
  ∀ (s : State) (attr : BitVec 5) (a : Nat),
    let c := attr.getLsbD 3
    let on := s.me.th.mhcr.getLsbD 1
    let snoops := c && attr.getLsbD 1 && s.other.th.msmpr.getLsbD 0
    let found := byteIn s.l2 a ≠ none ∨ (snoops = true ∧ dirtyByte s.other.l1d a ≠ none)
    let refills := s.mccr2.getLsbD 0 = true ∧ (on = true ∨ s.me.th.mhcr.getLsbD 0 = true)
    let takes := found ∨ refills
    let full := ¬ found ∧ refills ∧ 16 ≤ (s.l2.filter fun l => l.line % 1024 == a / 64 % 1024).length
    (∀ n, s.number attr a n = numberAt (fun q =>
      if c then (if on then byteIn s.me.l1d q else none).getD
        ((if snoops then dirtyByte s.other.l1d q else none).getD ((byteIn s.l2 q).getD (Memory.read s.mem q)))
      else Memory.read s.mem q) a n) ∧
    (let t := s.touch attr a
     let hit := on = true ∧ byteIn s.me.l1d a ≠ none
     ∃ u, MakesRoom s u a (c = true ∧ ¬ hit ∧ full) ∧
     t = { u with me := { u.me with l1d := t.me.l1d }, other := { u.other with l1d := t.other.l1d }, l2 := t.l2 } ∧
     (c = false ∨ hit → t = s) ∧
     (snoops = true → ¬ hit → CleanedTo u.other.l1d t.other.l1d (lineAt a)) ∧ (snoops = false → t.other = u.other) ∧
     (c = true → ¬ hit → takes → byteIn t.l2 a ≠ none ∧
       (on = true → ∀ q, q / 64 = a / 64 → byteIn t.me.l1d q = some (s.sees attr true q)) ∧
       (on = false → t.me = u.me ∧ ∀ q, q / 64 = a / 64 → byteIn t.l2 q = some (s.sees attr false q))) ∧
     (c = true → ¬ hit → ¬ takes → t.me = s.me ∧ t.l2 = s.l2)) ∧
    (∀ bs : List Byte, (∀ k, k < bs.length → (a + k) / 64 = a / 64) →
      let t := s.storeData attr a bs
      let stays := fun l : CacheLine => !(l.line == a / 64 && l.state == LineState.leaving)
      let put := fun (q : Nat) (b : Byte) => if a ≤ q ∧ q < a + bs.length then bs.getD (q - a) 0 else b
      let hit := on = true ∧ byteIn (s.me.l1d.filter stays) a ≠ none
      let mine := hit ∨ (on = true ∧ s.me.th.mhcr.getLsbD 2 = true ∧ takes)
      ∃ u, MakesRoom s u a (c = true ∧ ¬ hit ∧ full) ∧
      let w : State := { u with me := { u.me with l1d := u.me.l1d.filter stays } }
      t = { u with me := { u.me with l1d := t.me.l1d }, other := { u.other with l1d := t.other.l1d }, l2 := t.l2, mem := t.mem } ∧
      (snoops = true → EmptiedTo u.other.l1d t.other.l1d (lineAt a)) ∧ (c = true → snoops = false → t.other = u.other) ∧
      (c = false → (∀ q, Memory.read t.mem q = put q (Memory.read s.mem q)) ∧
        (∀ q, byteIn t.l2 q = (byteIn s.l2 q).map (put q)) ∧ (∀ q, byteIn t.me.l1d q = (byteIn s.me.l1d q).map (put q)) ∧
        (s.other.th.msmpr.getLsbD 0 = true → ∀ q, byteIn t.other.l1d q = (byteIn s.other.l1d q).map (put q)) ∧
        (s.other.th.msmpr.getLsbD 0 = false → t.other = s.other)) ∧
      (c = true → mine → t.mem = u.mem ∧ (∃ l ∈ t.me.l1d, l.line = a / 64 ∧ l.dirty = true) ∧
        ∀ q, q / 64 = a / 64 → byteIn t.me.l1d q = some (put q (w.sees attr true q))) ∧
      (c = true → ¬ mine → (∀ q, byteIn t.me.l1d q = (byteIn w.me.l1d q).map (put q)) ∧
        (takes → t.mem = u.mem ∧ (∃ l ∈ t.l2, l.line = a / 64 ∧ l.dirty = true) ∧
          ∀ q, q / 64 = a / 64 → byteIn t.l2 q = some (put q (s.sees attr false q))) ∧
        (¬ takes → t.l2 = s.l2 ∧ ∀ q, Memory.read t.mem q = put q (Memory.read s.mem q)))) ∧
    (FlushesLines s (s.environment (.dcacheEvict (a / 64))) (lineAt a) false false) ∧
    (EvictsLines s (s.environment (.l2Evict (a / 64))) (lineAt a)) ∧
    (∀ (va : Word) (fetch : Bool),
      ((∀ pl s', s.resolve (if fetch then .fetch else .load) va ≠ .ok pl s') → s.environment (.l2Prefetch fetch va) = s) ∧
      ((∀ pl s', s.resolve .load va ≠ .ok pl s') → s.environment (.dcachePrefetch va) = s) ∧
      ((∀ pl s', s.resolve .fetch va ≠ .ok pl s') →
        s.environment (.icachePrefetch va) = s ∧ s.environment (.fetchAhead va) = s)) ∧
    (∀ (k : Access) (p : Priv) (va : Word), s.me.effPriv k = p → s.me.translates p = true →
      (va.toNat / 2 ^ 38 = 0 ∨ va.toNat / 2 ^ 38 = 2 ^ 26 - 1) → s.me.hitsIn va s.me.tlb.leaving ≠ [] →
      s.translate k va = s.drawn.lookup k p va ∨
        ∃ e ∈ s.me.hitsIn va s.me.tlb.leaving, s.translate k va = s.drawn.throughTlb k p va e)

/-- The state after reset is legal and holds the values the spec gives (10_state:R37, 10_state:R25, 61_clint_plic:R853,
61_clint_plic:R871, 70_reset_and_hazards:R930, 70_reset_and_hazards:R932, 61_clint_plic:R858, notes/assumptions/4,
notes/assumptions/6). -/
def Obligations.ResetState : Prop :=
  State.reset.Inv ∧ State.reset.Untranslated ∧
    (∀ (c : Soc) (id : HartId), let h := Hart.reset c id
      h.priv = .machine ∧ h.pc = c.mrvbr id ∧ h.pc.getLsbD 0 = false ∧
      h.tlb.joint = [] ∧ h.tlb.fetch = [] ∧ h.tlb.data = [] ∧ h.l1d = [] ∧ h.icache = [] ∧ h.fetched = [] ∧ State.reset.l2 = [] ∧
      h.inReset = (match id with | .core0 => !c.released0 | .core1 => !c.released1) ∧
      field h.m.mstatus 8 1 = 1 ∧ field h.m.mstatus 11 2 = 3 ∧ field h.m.mstatus 32 4 = 10 ∧
      h.m.mstatus.getLsbD 1 = false ∧ h.m.mstatus.getLsbD 3 = false ∧ h.m.mstatus.getLsbD 5 = false ∧
      h.m.mstatus.getLsbD 7 = false ∧ h.m.mtvec &&& ~~~3 = 0 ∧
      h.pmu.mcycle = 0 ∧ h.pmu.minstret = 0 ∧
      (∀ k : Fin 29, h.pmu.hpm[k] = 0 ∧ h.pmu.event[k] = 0 ∧ h.pmu.inited[k] = false) ∧
      h.th.mxstatus.getLsbD 15 = true ∧ h.th.mhcr.getLsbD 0 = false ∧ h.th.mhcr.getLsbD 1 = false ∧
      h.th.mhcr.getLsbD 3 = true ∧ h.th.mhcr.getLsbD 8 = true ∧ h.th.msmpr.getLsbD 0 = false) ∧
    State.reset.mccr2.getLsbD 3 = true ∧ State.reset.mtime = 0 ∧
    (∀ h, State.reset.clint h = ⟨false, false, BitVec.allOnes 64, BitVec.allOnes 64⟩) ∧
    State.reset.plic.ip = 0 ∧ State.reset.plic.per = false ∧ (∀ n, State.reset.plic.priority n = 0) ∧
    (∀ t, State.reset.plic.target t = ⟨0, 0⟩)

/-- Every step keeps the state legal (11_csr_standard, 10_state:R23, 12_csr_extended:R130, 61_clint_plic:R873,
21_mmu_pmp:R245, 20_memory:R220, 20_memory:R222, notes/assumptions/7, notes/assumptions/12, notes/assumptions/41,
notes/assumptions/42, notes/assumptions/62). -/
def Obligations.StepKeepsInv : Prop :=
  ∀ s t : State, s.Inv → step s = .next t → t.Inv

/-- Without translation no step stops: no instruction, trap or input ends in a fault or a refusal (20_memory:R183,
20_memory:R218, 21_mmu_pmp:R230, 30_encoding:R287, notes/assumptions/21, notes/assumptions/25). -/
def Obligations.UntranslatedNeverStops : Prop :=
  ∀ s : State, s.Untranslated → ∃ t, step s = .next t

/-- What no instruction in user mode can change (10_state:R31, 10_state:R32, 30_encoding:R290, 60_exceptions:R800,
60_exceptions:R801, 61_clint_plic:R852, 61_clint_plic:R875, 70_reset_and_hazards:R951, notes/assumptions/57,
notes/assumptions/61, notes/assumptions/62, notes/assumptions/63). -/
def Obligations.UserContained : Prop :=
  ∀ (i : Instr) (s t : State), s.me.priv = .user → exec i s = .next t →
    t.me.pmp = s.me.pmp ∧ t.me.id = s.me.id ∧ t.me.inReset = s.me.inReset ∧
    t.me.th = { s.me.th with mcounterof := t.me.th.mcounterof } ∧
    t.me.pmu.event = s.me.pmu.event ∧ t.me.pmu.hpm = s.me.pmu.hpm ∧ t.me.pmu.inited = s.me.pmu.inited ∧
    t.me.m = { s.me.m with mstatus := t.me.m.mstatus, mepc := t.me.m.mepc, mcause := t.me.m.mcause, mtval := t.me.m.mtval,
                           ssipLatch := t.me.m.ssipLatch } ∧
    t.me.sup = { s.me.sup with sepc := t.me.sup.sepc, scause := t.me.sup.scause, stval := t.me.sup.stval } ∧
    t.me.smmu = { s.me.smmu with smeh := t.me.smmu.smeh } ∧
    t.other = { s.other with tlb := { s.other.tlb with leaving := t.other.tlb.leaving }, l1d := t.other.l1d, oldPtes := t.other.oldPtes,
                             icache := t.other.icache, fetched := t.other.fetched, lmon := t.other.lmon, gmon := t.other.gmon,
                             m := { s.other.m with ssipLatch := t.other.m.ssipLatch } } ∧
    t.soc = s.soc ∧ t.mtime = s.mtime ∧ t.mccr2 = s.mccr2 ∧ t.inputs = s.inputs ∧
    (s.me.m.mstatus.getLsbD 17 = false → t.plic = s.plic ∧ t.clint0 = s.clint0 ∧ t.clint1 = s.clint1 ∧
      t.me.m.ssipLatch = s.me.m.ssipLatch ∧ t.other.m.ssipLatch = s.other.m.ssipLatch) ∧
    ((t.me.priv = .user ∧ t.me.m = { s.me.m with mstatus := t.me.m.mstatus, ssipLatch := t.me.m.ssipLatch } ∧
        t.me.sup = s.me.sup ∧ (∀ n, n ∉ [13, 14] → t.me.m.mstatus.getLsbD n = s.me.m.mstatus.getLsbD n)) ∨
      (t.me.priv = .machine ∧ t.me.m.mepc = s.me.pc ∧ t.me.pc = s.me.m.mtvec &&& ~~~3 ∧ t.me.sup = s.me.sup) ∨
      (t.me.priv = .supervisor ∧ t.me.sup.sepc = s.me.pc ∧ t.me.pc = s.me.sup.stvec &&& ~~~3 ∧
        t.me.m.mepc = s.me.m.mepc))

/-- Memory: a write changes one byte, canonical form is kept, equal contents are equal data, values are little-endian
(20_memory:R180, 20_memory:R181, 20_memory:R192, 20_memory:R219, notes/assumptions/7, notes/assumptions/41). -/
def Obligations.MemoryCanonical : Prop :=
  (∀ (m : List Host.Cell) (a : Nat) (b : Byte),
      (∀ q, Memory.read (Memory.write a b m) q = if q = a then b else Memory.read m q) ∧
      (Memory.wf m = true → Memory.wf (Memory.write a b m) = true)) ∧
    (∀ m m' : List Host.Cell, Memory.wf m = true → Memory.wf m' = true →
      (∀ a, Memory.read m a = Memory.read m' a) → m = m') ∧
    (∀ (m : List Host.Cell) (a v n q : Nat), Memory.read (Memory.writeBytes a (bytesLe v n) m) q =
      if a ≤ q ∧ q < a + n then BitVec.ofNat 8 (v / 2 ^ (8 * (q - a))) else Memory.read m q) ∧
    (∀ (s : State) (attr : BitVec 5) (a v n : Nat),
      let t := s.storeData attr a (bytesLe v n)
      (Memory.wf s.mem = true → Memory.wf t.mem = true) ∧
      (a % 64 + n ≤ 64 → t.number attr a n = v % 2 ^ (8 * n)))

/-- Alignment: whole, split into bytes by hardware, or misaligned exception; the order of the checks of each byte
(20_memory:R185, 20_memory:R190, 20_memory:R191, 60_exceptions:R788, 61_clint_plic:R851, 92_eei_decisions:D14,
92_eei_decisions:D23, 92_eei_decisions:D24, notes/assumptions/22, notes/assumptions/23, notes/assumptions/34,
notes/assumptions/59). -/
def Obligations.AccessPlan : Prop :=
  ∀ (s : State) (k : Access) (code : Nat) (atomic : Bool) (va : Word) (n : Nat),
    (k, code) ∈ [(Access.load, 4), (.store, 6), (.lr, 6), (.amo, 6)] →
    (va.toNat % n = 0 → ∀ pl s', s.resolve k va = .ok pl s' → s.plan k atomic va n = .ok [⟨pl, n⟩] s') ∧
    (va.toNat % n = 0 → ∀ c info s', s.resolve k va = .trap c info s' → s.plan k atomic va n = .trap c info s') ∧
    (va.toNat % n ≠ 0 → atomic = true ∨ s.me.th.mxstatus.getLsbD 15 = false → s.plan k atomic va n = .trap code va s) ∧
    (va.toNat % n ≠ 0 → atomic = false → s.me.th.mxstatus.getLsbD 15 = true →
      ∀ (pl : Nat → Place) (σ : Nat → State) (j : Nat), j ≤ n → σ 0 = s →
      let split := fun p : Place => attrLegal p.attr = true → strongOrder p.attr = true → s.soc.inWindow p.pa = true
      let byteAt := fun i : Nat => va + BitVec.ofNat 64 i
      (∀ i, i < j → (σ i).translate k (byteAt i) = .ok (pl i) (σ (i + 1)) ∧ split (pl i) ∧
        (σ i).resolve k (byteAt i) = .ok (pl i) (σ (i + 1))) →
      (j = n → s.plan k atomic va n = .ok ((List.range n).map fun i => ⟨pl i, 1⟩) (σ n)) ∧
      (j < n →
        (∀ c info s', (σ j).translate k (byteAt j) = .trap c info s' → s.plan k atomic va n = .trap c info s') ∧
        (∀ p s', (σ j).translate k (byteAt j) = .ok p s' →
          (¬ split p → s.plan k atomic va n = .trap code va s') ∧
          (split p → ∀ c info s2, (σ j).resolve k (byteAt j) = .trap c info s2 →
            s.plan k atomic va n = .trap c info s2))))

/-- PMP: which entry contains an address, which decides, and the exception of a denied access (21_mmu_pmp:R260,
21_mmu_pmp:R261, 21_mmu_pmp:R263, 21_mmu_pmp:R264, 21_mmu_pmp:R265, 20_memory:R196, 92_eei_decisions:D15,
92_eei_decisions:D39, notes/assumptions/12, notes/assumptions/37). -/
def Obligations.PmpDecides : Prop :=
  (∀ (p : Pmp) (priv : Priv) (need : Byte) (pa : BitVec 40),
      ((∀ i, ¬ p.Contains i pa.toNat) → p.allows priv need pa = decide (priv = .machine)) ∧
      (∀ i, p.Contains i pa.toNat → (∀ j, j < i → ¬ p.Contains j pa.toNat) →
        p.allows priv need pa =
          decide ((priv = .machine ∧ (p.cfg[i]).getLsbD 7 = false) ∨ p.cfg[i] &&& need = need))) ∧
    (∀ (s : State) (k : Access) (code : Nat) (need : Byte) (va : Word) (pl : Place) (s' : State),
      (k, code, need) ∈ [(Access.fetch, 1, 4), (.load, 5, 1), (.store, 7, 2), (.lr, 7, 1), (.amo, 7, 3)] →
      s.translate k va = .ok pl s' →
      (s.me.pmp.allows pl.priv need pl.pa = false → s.resolve k va = .trap code va s') ∧
      (s.me.pmp.allows pl.priv need pl.pa = true → attrLegal pl.attr = true →
        (k = .store ∨ s.soc.busError pl.pa = false → s.resolve k va = .ok pl s') ∧
        (k ≠ .store → s.soc.busError pl.pa = true → s.resolve k va = .trap code va s')))

/-- Sv39: the walk, the permission check, the refill, TLB hits, page faults and access faults of the walk (21_mmu_pmp,
21_mmu_pmp:R234, 92_eei_decisions:D3, 92_eei_decisions:D37, notes/assumptions/8, notes/assumptions/21,
notes/assumptions/26, notes/assumptions/37, notes/assumptions/43, notes/assumptions/44, notes/assumptions/45,
notes/assumptions/61). -/
def Obligations.Sv39Translation : Prop :=
  ∀ (s : State) (k : Access) (code denied : Nat) (va : Word),
    (k, code, denied) ∈ [(Access.fetch, 12, 1), (.load, 13, 5), (.store, 15, 7), (.lr, 15, 7), (.amo, 15, 7)] →
    let p := s.me.effPriv k
    let hits := fun es : List TlbEntry => es.filter fun e => e.hits (vpnOf va) s.me.asid
    let micro := if k = .fetch then s.me.tlb.fetch else s.me.tlb.data
    let attrOf := fun (pte : BitVec 5) pa => if s.me.th.mxstatus.getLsbD 21 then pte else s.soc.attrOf pa
    let root := field s.me.sup.satp 0 28
    (s.me.translates p = false →
      (s.soc.highAddrFault = false ∨ va.toNat < 2 ^ 40 →
        s.translate k va = .ok ⟨va.setWidth 40, s.soc.attrOf (va.setWidth 40), p⟩ s) ∧
      (s.soc.highAddrFault = true → 2 ^ 40 ≤ va.toNat → s.translate k va = .trap denied va s)) ∧
    (s.me.translates p = true →
      (¬ (va.toNat / 2 ^ 38 = 0 ∨ va.toNat / 2 ^ 38 = 2 ^ 26 - 1) → s.translate k va = .trap code va s) ∧
      ((va.toNat / 2 ^ 38 = 0 ∨ va.toNat / 2 ^ 38 = 2 ^ 26 - 1) → hits s.me.tlb.leaving = [] →
        (hits micro = [] → hits s.me.tlb.joint = [] → s.me.th.mxstatus.getLsbD 18 = true → s.translate k va = .trap code va s) ∧
        (hits micro = [] → hits s.me.tlb.joint = [] → s.me.th.mxstatus.getLsbD 18 = false →
          (∀ l e, s.WalksTo true va 3 root l e →
            let pa := inPage (ptePpn e) l va
            (ptePpn e % 2 ^ (9 * l) = 0 ∧ s.LeafPermits k p (e.setWidth 10) →
              ∃ s' c t1, s.translate k va = .ok ⟨pa, attrOf (BitVec.ofNat 5 (field e 59 5)) pa, p⟩ s' ∧ Hidden s s' ∧
                CachesLeaf s va l e c ∧
                (∀ o, o ∈ t1.joint ↔ o = c ∨ (o ∈ s.me.tlb.joint ∧ ¬ (o.set = c.set ∧ o.way = c.way))) ∧
                t1 = { s.me.tlb with joint := t1.joint } ∧ s'.me.tlb.joint = t1.joint ∧ FillsMicro t1 s'.me.tlb k c) ∧
            (¬ (ptePpn e % 2 ^ (9 * l) = 0 ∧ s.LeafPermits k p (e.setWidth 10)) → s.translate k va = .trap code va s)) ∧
          (s.WalkFails true va 3 root → s.translate k va = .trap code va s) ∧
          (∀ pa, s.WalkMeets true va pa 3 root →
            (s.me.pmp.allows .supervisor 1 pa = false → s.translate k va = .trap denied va s) ∧
            (s.me.pmp.allows .supervisor 1 pa = true → attrLegal (s.soc.attrOf pa) = false →
              s.translate k va = .refused .undefinedAttributes) ∧
            (s.me.pmp.allows .supervisor 1 pa = true → attrLegal (s.soc.attrOf pa) = true → s.soc.busError pa = true →
              s.translate k va = .trap code va s)) ∧
          (let through := fun (l : Nat) (e : Word) => ptePpn e % 2 ^ (9 * l) = 0 ∧ s.LeafPermits k p (e.setWidth 10)
           let denies := fun pa : BitVec 40 => s.me.pmp.allows .supervisor 1 pa = false
           (∀ pl s', s.translate k va = .ok pl s' → Hidden s s' ∧ ∃ l e, s.WalksTo false va 3 root l e ∧ through l e ∧
             pl = ⟨inPage (ptePpn e) l va, attrOf (BitVec.ofNat 5 (field e 59 5)) (inPage (ptePpn e) l va), p⟩) ∧
           (∀ c info s', s.translate k va = .trap c info s' → Hidden s s' ∧ info = va ∧
             ((c = code ∧ (s.WalkFails false va 3 root ∨ (∃ l e, s.WalksTo false va 3 root l e ∧ ¬ through l e) ∨
                 ∃ pa, s.WalkMeets false va pa 3 root ∧ ¬ denies pa ∧ s.soc.busError pa = true)) ∨
               (c = denied ∧ ∃ pa, s.WalkMeets false va pa 3 root ∧ denies pa))) ∧
           (∀ r, s.translate k va ≠ .fault r) ∧
           (∀ r, s.translate k va = .refused r → r = .undefinedAttributes ∧
             ∃ pa, s.WalkMeets false va pa 3 root ∧ attrLegal (s.soc.attrOf pa) = false))) ∧
        (∀ e l, hits micro = [e] ∨ (hits micro = [] ∧ hits s.me.tlb.joint = [e]) → pageLevel e.pageSize = some l →
          let pa := inPage e.ppn.toNat l va
          (s.LeafPermits k p e.flags → ∃ s', s.translate k va = .ok ⟨pa, attrOf e.attr pa, p⟩ s' ∧ Hidden s s' ∧
            (hits micro = [e] → s' = s) ∧
            (hits micro = [] → s'.me.tlb.joint = s.me.tlb.joint ∧ FillsMicro s.me.tlb s'.me.tlb k e)) ∧
          (¬ s.LeafPermits k p e.flags → s.translate k va = .trap code va s))))

/-- PLIC: the winner, the request line, claim and completion (61_clint_plic:R872, 61_clint_plic:R876, 61_clint_plic:R877,
61_clint_plic:R878, 61_clint_plic:R879, 61_clint_plic:R880, notes/assumptions/65). -/
def Obligations.PlicArbitration : Prop :=
  (∀ (p : Plic) (t : Target),
      (p.winner t = 0 ↔ ∀ n, ¬ p.Qualifies t n) ∧
      (p.winner t ≠ 0 → p.Qualifies t (p.winner t) ∧
        ∀ n, p.Qualifies t n → p.priority n < p.priority (p.winner t) ∨
          (p.priority n = p.priority (p.winner t) ∧ p.winner t ≤ n)) ∧
      (p.request t = true ↔ p.winner t ≠ 0 ∧ (p.target t).threshold.toNat < p.priority (p.winner t))) ∧
    (∀ (s : State) (t : Target), let w := s.plic.winner t
      let s' := (s.devReadReg (.claim t)).2
      (s.devReadReg (.claim t)).1 = w ∧
      s' = { s with plic := { s.plic with ip := s'.plic.ip, masked := s'.plic.masked } } ∧
      (∀ n, s'.plic.ip.getLsbD n = (s.plic.ip.getLsbD n && (w == 0 || n != w))) ∧
      (∀ n, s'.plic.masked.getLsbD n = (s.plic.masked.getLsbD n || (w != 0 && n == w)))) ∧
    (∀ (s : State) (t : Target) (v : Nat), let s' := s.devWriteReg (.claim t) v
      s' = { s with plic := { s.plic with ip := s'.plic.ip, masked := s'.plic.masked } } ∧
      (∀ n, s'.plic.masked.getLsbD n = (s.plic.masked.getLsbD n && n != v % 1024)) ∧
      (∀ n, s'.plic.ip.getLsbD n =
        (s.plic.ip.getLsbD n ||
          (s.plic.lines.getLsbD n && !(s.plic.masked.getLsbD n && n != v % 1024) && decide (1 ≤ n ∧ n ≤ 144)))))

/-- mip: each pending bit is its source (11_csr_standard:R84, 60_exceptions:R806, 60_exceptions:R810, 61_clint_plic:R856,
61_clint_plic:R859, 61_clint_plic:R860, 61_clint_plic:R876, 11_csr_standard:R108, 92_eei_decisions:D9,
notes/assumptions/36). -/
def Obligations.PendingBits : Prop :=
  ∀ (s : State) (n : Nat), let ee := s.me.th.mxstatus.getLsbD 17
    let c := s.clint s.me.id
    s.mip.getLsbD n =
      (match n with
       | 1 => s.me.m.ssipLatch || (c.ssip && ee)
       | 3 => c.msip
       | 5 => ee && decide (c.stimecmp.toNat ≤ s.mtime.toNat)
       | 7 => decide (c.mtimecmp.toNat ≤ s.mtime.toNat)
       | 9 => s.plic.request (match s.me.id with | .core0 => .h0s | .core1 => .h1s)
       | 11 => s.plic.request (match s.me.id with | .core0 => .h0m | .core1 => .h1m)
       | 17 => (s.me.th.mcounterof &&& s.me.th.mcounterinten) != 0
       | _ => false) ∧
    (s.csrRead .sip).getLsbD n =
      (s.mip.getLsbD n && s.me.m.mideleg.getLsbD n && (n == 1 || n == 5 || n == 9 || n == 17)) ∧
    (∀ v : Word, (∀ r : Csr, r = .mip ∨ (r = .sip ∧ s.me.m.mideleg.getLsbD 1 = true) →
        let t := s.csrWrite r v
        (t.clint s.me.id).ssip = v.getLsbD 1 ∧ t.mip.getLsbD 1 = v.getLsbD 1 ∧
          ∀ n, n ≠ 1 → t.mip.getLsbD n = s.mip.getLsbD n) ∧
      (s.me.m.mideleg.getLsbD 1 = false → s.csrWrite .sip v = s)) ∧
    (∀ v : Nat,
      let t := s.devWriteReg (.ssip s.me.id) v
      t.mip.getLsbD 1 = (v % 2 == 1 && (s.me.m.ssipLatch || ee)) ∧ ∀ n, n ≠ 1 → t.mip.getLsbD n = s.mip.getLsbD n)

/-- With FS off or THEADISAEE clear every gated instruction is illegal (30_encoding:R288, 30_encoding:R289, 43_rv64f:R460,
60_exceptions:R790). -/
def Obligations.GatesClosed : Prop :=
  ∀ (i : Instr) (s : State),
    (needsFp i = true → field s.me.m.mstatus 13 2 = 0 → exec i s = .next (s.raise 2 (encode i).value)) ∧
    (needsThead i = true → s.me.th.mxstatus.getLsbD 22 = false → exec i s = .next (s.raise 2 (encode i).value))

/-- What each control and status register reads back, and which others a write leaves alone (11_csr_standard,
12_csr_extended, 92_eei_decisions:D10, 92_eei_decisions:D33, notes/assumptions/10, notes/assumptions/12,
notes/assumptions/14, notes/assumptions/15, notes/assumptions/16, notes/assumptions/39, notes/assumptions/47). -/
def Obligations.CsrStorage : Prop :=
  (∀ (s : State) (v : Word),
    (s.csrWrite .stvec v).csrRead .stvec = v ∧
    (s.csrWrite .sscratch v).csrRead .sscratch = v ∧
    (s.csrWrite .scause v).csrRead .scause = v ∧
    (s.csrWrite .stval v).csrRead .stval = v ∧
    (s.csrWrite .mtvec v).csrRead .mtvec = v ∧
    (s.csrWrite .mscratch v).csrRead .mscratch = v ∧
    (s.csrWrite .mcause v).csrRead .mcause = v ∧
    (s.csrWrite .mtval v).csrRead .mtval = v ∧
    (s.csrWrite .mcycle v).csrRead .mcycle = v ∧
    (s.csrWrite .minstret v).csrRead .minstret = v ∧
    (s.csrWrite .scycle v).csrRead .scycle = v ∧
    (s.csrWrite .sinstret v).csrRead .sinstret = v ∧
    (s.csrWrite .mcdata0 v).csrRead .mcdata0 = v ∧
    (s.csrWrite .mcdata1 v).csrRead .mcdata1 = v ∧
    (s.csrWrite .sepc v).csrRead .sepc = v &&& ~~~1 ∧
    (s.csrWrite .mepc v).csrRead .mepc = v &&& ~~~1 ∧
    (s.csrWrite .scounteren v).csrRead .scounteren = v &&& 0xffffffff ∧
    (s.csrWrite .mcounteren v).csrRead .mcounteren = v &&& 0xffffffff ∧
    (s.csrWrite .medeleg v).csrRead .medeleg = v &&& 0xffff ∧
    (s.csrWrite .mideleg v).csrRead .mideleg = v &&& 0x20222 ∧
    (s.csrWrite .mie v).csrRead .mie = v &&& 0x20aaa ∧
    (s.csrWrite .mcountinhibit v).csrRead .mcountinhibit = v &&& 0xfffffffd ∧
    (s.csrWrite .mcounterwen v).csrRead .mcounterwen = v &&& 0xfffffffd ∧
    (s.csrWrite .mcounterinten v).csrRead .mcounterinten = v &&& 0xfffffffd ∧
    (s.csrWrite .mcounterof v).csrRead .mcounterof = v &&& 0xfffffffd ∧
    (s.csrWrite .msmpr v).csrRead .msmpr = v &&& 1 ∧
    (s.csrWrite .fflags v).csrRead .fflags = v &&& 0x1f ∧
    (s.csrWrite .frm v).csrRead .frm = v &&& 7 ∧
    (s.csrWrite .fcsr v).csrRead .fcsr = v &&& 0xff ∧
    (s.csrWrite .fxcr v).csrRead .fxcr = v &&& 0x780003f ∧
    (s.csrWrite .mhint v).csrRead .mhint = v &&& 0xefef1c ∧
    (s.csrWrite .mcindex v).csrRead .mcindex = v &&& 0xf1ffffff ∧
    (s.csrWrite .smir v).csrRead .smir = v &&& 0xc00003ff ∧
    (s.csrWrite .smel v).csrRead .smel = v &&& 0xf800003fffffffff ∧
    (s.csrWrite .smeh v).csrRead .smeh = v &&& 0x3fffffffffff ∧
    (∀ n, ((s.csrWrite .sie v).csrRead .mie).getLsbD n = if n ∈ [1, 5, 9, 17] ∧ s.me.m.mideleg.getLsbD n = true then v.getLsbD n else (s.csrRead .mie).getLsbD n) ∧
    (∀ n, ((s.csrWrite .mhcr v).csrRead .mhcr).getLsbD n = if n ∈ [0, 1, 2, 4, 5, 6, 7, 12] then v.getLsbD n else (s.csrRead .mhcr).getLsbD n) ∧
    (∀ n, ((s.csrWrite .mccr2 v).csrRead .mccr2).getLsbD n = if n ∈ [0, 16, 17, 18, 19, 22, 23, 24, 25, 29, 30, 31] then v.getLsbD n else (s.csrRead .mccr2).getLsbD n) ∧
    (∀ n, ((s.csrWrite .sxstatus v).csrRead .mxstatus).getLsbD n = if n ∈ [15] then v.getLsbD n else (s.csrRead .mxstatus).getLsbD n) ∧
    (∀ n, ((s.csrWrite .scounterinten v).csrRead .mcounterinten).getLsbD n =
      if s.me.th.mcounterwen.getLsbD n then v.getLsbD n else s.me.th.mcounterinten.getLsbD n) ∧
    (∀ n, ((s.csrWrite .scounterof v).csrRead .mcounterof).getLsbD n =
      if s.me.th.mcounterwen.getLsbD n then v.getLsbD n else s.me.th.mcounterof.getLsbD n) ∧
    (let w := (s.csrWrite .mxstatus v).csrRead .mxstatus
     field w 30 2 = s.me.priv.code ∧ ∀ n, n ∉ [30, 31] → w.getLsbD n = (v &&& 0x6fec00).getLsbD n) ∧
    (let w := (s.csrWrite .mstatus v).csrRead .mstatus
     let l := [1, 3, 5, 7, 8, 13, 14, 17, 18, 19, 20, 21, 22]
     (∀ n ∈ l, w.getLsbD n = v.getLsbD n) ∧
     field w 11 2 = (if field v 11 2 = 2 then field s.me.m.mstatus 11 2 else field v 11 2) ∧
     w.getLsbD 63 = (field v 13 2 == 3) ∧
     ∀ n, n ∉ l ++ [11, 12, 63] → w.getLsbD n = (s.csrRead .mstatus).getLsbD n) ∧
    (let w := (s.csrWrite .sstatus v).csrRead .mstatus
     let l := [1, 5, 8, 13, 14, 18, 19]
     (∀ n ∈ l, w.getLsbD n = v.getLsbD n) ∧ w.getLsbD 63 = (field v 13 2 == 3) ∧
     ∀ n, n ∉ l ++ [63] → w.getLsbD n = (s.csrRead .mstatus).getLsbD n) ∧
    (∀ i : Fin 8,
      let w := field ((s.csrWrite .pmpcfg0 v).csrRead .pmpcfg0) (8 * i.val) 8
      let old := (s.me.pmp.cfg[i]).toNat
      let new := field v (8 * i.val) 8
      w = if old / 128 = 1 then old else if new / 8 % 4 = 2 then (new &&& 0x87) + (old &&& 0x18) else new &&& 0x9f) ∧
    (∀ i : Fin 8, (s.me.pmp.addrLocked i = true ↔ (s.me.pmp.cfg[i]).getLsbD 7 = true ∨
        ∃ h : i.val + 1 < 8, (s.me.pmp.cfg[i.val + 1]).getLsbD 7 = true ∧ (s.me.pmp.cfg[i.val + 1]).toNat / 8 % 4 = 1) ∧
      (s.csrWrite (.pmpaddr i) v).csrRead (.pmpaddr i) =
        if s.me.pmp.addrLocked i then s.csrRead (.pmpaddr i) else v &&& 0x3fffffffff) ∧
    s.csrWrite .misa v = s ∧ s.csrRead .misa = 0x800000000094112d ∧
    (∀ k : Fin 29, (s.csrWrite (.mhpmcounter k) v).csrRead (.mhpmcounter k) = v ∧
      (s.csrWrite (.shpmcounter k) v).csrRead (.shpmcounter k) = v ∧ (s.csrWrite (.mhpmevent k) v).csrRead (.mhpmevent k) = v ∧
      s.csrRead (.hpmcounter k) = s.csrRead (.mhpmcounter k) ∧ s.csrRead (.shpmcounter k) = s.csrRead (.mhpmcounter k)) ∧
    (s.csrWrite .satp v).csrRead .satp = (if field v 60 4 = 0 ∨ field v 60 4 = 8 then v else s.csrRead .satp) ∧
    s.csrRead .sstatus = s.csrRead .mstatus &&& 0x80000003000c6122 ∧
    s.csrRead .sie = s.csrRead .mie &&& s.csrRead .mideleg &&& 0x20222 ∧
    s.csrRead .sip = s.csrRead .mip &&& s.csrRead .mideleg &&& 0x20222 ∧
    s.csrRead .cycle = s.csrRead .mcycle ∧ s.csrRead .instret = s.csrRead .minstret ∧ s.csrRead .time = s.mtime ∧
    s.csrRead .shcr = s.csrRead .mhcr ∧ s.csrRead .sxstatus = s.csrRead .mxstatus ∧
    s.csrRead .scounterof = s.csrRead .mcounterof &&& s.csrRead .mcounterwen ∧
    s.csrRead .scounterinten = s.csrRead .mcounterinten &&& s.csrRead .mcounterwen ∧
    s.csrRead .mvendorid = 0 ∧ s.csrRead .mimpid = 0 ∧ s.csrRead .marchid = s.soc.marchid ∧ s.csrRead .mcpuid = s.soc.mcpuid ∧
    s.csrRead .mhartid = (match s.me.id with | .core0 => s.soc.hartid0 | .core1 => s.soc.hartid1) ∧
    s.csrRead .mrvbr =
      ((match s.me.id with | .core0 => s.soc.rvba0 | .core1 => s.soc.rvba1).setWidth 64 &&& ~~~1) ∧
    (s.csrRead .mapbaddr).toNat = s.soc.apbHi.toNat * 2 ^ 27) ∧
    (∀ (s : State) (c c' : Csr) (v : Word), c.group ≠ c'.group → (s.csrWrite c v).csrRead c' = s.csrRead c') ∧
    (∀ (s : State) (c : Csr) (v : Word), c ≠ .mcor → SameBytes s (s.csrWrite c v))

/-- The five rounding modes of a shifted number, and that a representable value rounds to itself (43_rv64f:R461,
43_rv64f:R462, 43_rv64f:R498, 49_thead_fp16, 44_rv64d, notes/assumptions/54). -/
def Obligations.FloatRounding : Prop :=
  (∀ (r : Rounding) (neg : Bool) (m d : Nat), let n := (roundShift r neg m d).1
      ((roundShift r neg m d).2 = true ↔ m % 2 ^ d ≠ 0) ∧
      (m % 2 ^ d = 0 → n * 2 ^ d = m) ∧
      (r = .rtz ∨ (r = .rdn ∧ neg = false) ∨ (r = .rup ∧ neg = true) → n * 2 ^ d ≤ m ∧ m < (n + 1) * 2 ^ d) ∧
      ((r = .rdn ∧ neg = true) ∨ (r = .rup ∧ neg = false) → m ≤ n * 2 ^ d ∧ n * 2 ^ d < m + 2 ^ d) ∧
      (r = .rne ∨ r = .rmm → 2 * (n * 2 ^ d) ≤ 2 * m + 2 ^ d ∧ 2 * m ≤ 2 * (n * 2 ^ d) + 2 ^ d) ∧
      (0 < d → m % 2 ^ d * 2 = 2 ^ d → (r = .rne → n % 2 = 0) ∧ (r = .rmm → n = m / 2 ^ d + 1))) ∧
    (∀ (f : Fmt) (r : Rounding) (b : Nat), f ∈ [Fmt.half, .single, .double] → b < 2 ^ f.width →
      f.isNan b = false → f.isInf b = false → f.isZero b = false → f.round r (f.exact b) = ⟨some b, 0⟩)

/-- Finite operands: the exact sum, product, quotient, root, fused result or converted value, rounded once, with OF, UF,
NX (43_rv64f:R461, 43_rv64f:R462, 43_rv64f:R466, 43_rv64f:R470, 43_rv64f:R476, 43_rv64f:R481, 43_rv64f:R485,
43_rv64f:R493, 43_rv64f:R494, 43_rv64f:R498, 44_rv64d:R510, notes/assumptions/54). -/
def Obligations.FloatFinite : Prop :=
  ∀ (f : Fmt) (r : Rounding) (a b c : Nat), f ∈ [Fmt.half, .single, .double] →
    a < 2 ^ f.width → b < 2 ^ f.width → c < 2 ^ f.width →
    f.isNan a = false → f.isInf a = false → f.isNan b = false → f.isInf b = false → f.isNan c = false → f.isInf c = false →
    let zero := fun p q : Bool => if p = q then p else r == .rdn
    RoundsTo f r (f.value a + f.value b) (zero (f.neg a) (f.neg b)) (f.add r a b) ∧
    RoundsTo f r (f.value a - f.value b) (zero (f.neg a) (!f.neg b)) (f.sub r a b) ∧
    RoundsTo f r (f.value a * f.value b) (f.neg a != f.neg b) (f.mul r a b) ∧
    (f.isZero b = false → RoundsTo f r (f.value a / f.value b) (f.neg a != f.neg b) (f.div r a b)) ∧
    (f.isZero a = true → f.sqrt r a = ⟨some a, 0⟩) ∧
    (f.isZero a = false → f.neg a = false → RoundsTo f r (Real.sqrt (f.value a)) false (f.sqrt r a)) ∧
    (∀ negProd negAdd : Bool,
      RoundsTo f r ((if negProd then -1 else 1) * (f.value a * f.value b) + (if negAdd then -1 else 1) * f.value c)
        (zero ((f.neg a != f.neg b) != negProd) (f.neg c != negAdd)) (f.fma r negProd negAdd a b c)) ∧
    (∀ v : Int, RoundsTo f r v false (f.ofInt r v)) ∧
    (∀ g ∈ [Fmt.half, .single, .double], ∀ snanNv, RoundsTo g r (f.value a) (f.neg a) (Fmt.convert f g r snanNv a))

/-- NaN operands, classes, minimum and maximum, and float-to-integer corners of the three formats (43_rv64f:R462,
43_rv64f:R463, 43_rv64f:R467, 43_rv64f:R496, 43_rv64f:R497, 43_rv64f:R498, 92_eei_decisions:D20, notes/assumptions/28,
notes/assumptions/54). -/
def Obligations.FloatSpecialCases : Prop :=
  ∀ (f : Fmt) (r : Rounding) (a b c : Nat), f ∈ [Fmt.half, .single, .double] →
    (f.isNan a = true ∨ f.isNan b = true →
      let nv := if f.isSnan a = true ∨ f.isSnan b = true then flagNV else 0
      f.add r a b = .nan nv ∧ f.sub r a b = .nan nv ∧ f.mul r a b = .nan nv ∧ f.div r a b = .nan nv) ∧
    (f.isNan a = true → f.sqrt r a = .nan (if f.isSnan a = true then flagNV else 0)) ∧
    (let zeroInf := (f.isInf a = true ∧ f.isZero b = true) ∨ (f.isZero a = true ∧ f.isInf b = true)
     (f.isNan a = true ∨ f.isNan b = true ∨ f.isNan c = true → ∀ p q, f.fma r p q a b c =
        .nan (if f.isSnan a = true ∨ f.isSnan b = true ∨ f.isSnan c = true ∨ zeroInf then flagNV else 0)) ∧
     (zeroInf → ∀ p q, f.fma r p q a b c = .nan flagNV)) ∧
    (f.isInf a = true → f.isNan b = false → f.isZero b = false → f.isInf c = true → ∀ p q,
      ((f.neg a != f.neg b) != p) ≠ (f.neg c != q) → f.fma r p q a b c = .nan flagNV) ∧
    (f.isInf a = true → f.isInf b = true →
      (f.neg a ≠ f.neg b → f.add r a b = .nan flagNV) ∧ (f.neg a = f.neg b → f.sub r a b = .nan flagNV) ∧
      f.div r a b = .nan flagNV) ∧
    (f.isZero a = true → (f.isInf b = true → f.mul r a b = .nan flagNV) ∧ (f.isZero b = true → f.div r a b = .nan flagNV)) ∧
    (f.isNan a = false → f.isZero a = false → f.neg a = true → f.sqrt r a = .nan flagNV) ∧
    (f.isNan a = false → f.isInf a = false → f.isZero a = false → f.isZero b = true →
      f.div r a b = ⟨some (f.signBits (f.neg a != f.neg b) + f.infBits), flagDZ⟩) ∧
    (∀ ord isMax,
      (f.isNan a = true → f.isNan b = true → (f.minMax ord isMax a b).bits = none) ∧
      (f.isNan a = true → f.isNan b = false → (f.minMax ord isMax a b).bits = some b) ∧
      (f.isNan a = false → f.isNan b = true → (f.minMax ord isMax a b).bits = some a) ∧
      (f.minMax ord isMax a b).flags = (if f.isSnan a = true ∨ f.isSnan b = true then flagNV else 0) ∧
      (f.isNan a = false → f.isNan b = false →
        (f.key a < f.key b → (f.minMax ord isMax a b).bits = some (if isMax then b else a)) ∧
        (f.key b < f.key a → (f.minMax ord isMax a b).bits = some (if isMax then a else b)))) ∧
    (f.isZero a = true → f.isZero b = true → f.neg a = true → f.neg b = false → ∀ isMax,
      (f.minMax true isMax a b).bits = some (if isMax then b else a) ∧
      (f.minMax true isMax b a).bits = some (if isMax then b else a)) ∧
    f.classify a =
      (if f.isNan a then (if f.isSnan a then 0x100 else 0x200)
       else if f.isInf a then (if f.neg a then 0x1 else 0x80)
       else if f.isZero a then (if f.neg a then 0x8 else 0x10)
       else if f.mag a / 2 ^ f.mw = 0 then (if f.neg a then 0x4 else 0x20)
       else (if f.neg a then 0x2 else 0x40)) ∧
    (∀ t, (f.isNan a = true → f.toInt r t a = (t.toWord t.hi, flagNV)) ∧
      (f.isInf a = true → f.toInt r t a = (t.toWord (if f.neg a then t.lo else t.hi), flagNV)) ∧
      (f.isNan a = false → f.isInf a = false → let n := roundTo r (f.exact a) 0
        let v : Int := if f.neg a then -n.1 else n.1
        (v < t.lo → f.toInt r t a = (t.toWord t.lo, flagNV)) ∧ (t.hi < v → f.toInt r t a = (t.toWord t.hi, flagNV)) ∧
        (t.lo ≤ v → v ≤ t.hi → f.toInt r t a = (t.toWord v, if n.2 then flagNX else 0))))

/-- mcycle and minstret: when they count and what an overflow leaves (11_csr_standard:R89, 11_csr_standard:R90,
12_csr_extended:R131, 12_csr_extended:R146, 62_pmu_debug_power:R903, 62_pmu_debug_power:R905,
93_implementation_defined, notes/assumptions/13). -/
def Obligations.CountersAdvance : Prop :=
  ∀ s : State, let t := s.tick
    let off := match s.me.priv with
      | .user => s.me.th.mxstatus.getLsbD 10
      | .supervisor => s.me.th.mxstatus.getLsbD 11
      | .machine => s.me.th.mxstatus.getLsbD 13
    t.me.pmu.mcycle = (if s.me.m.mcountinhibit.getLsbD 0 || off then s.me.pmu.mcycle else s.me.pmu.mcycle + 1) ∧
    t.me.pmu.minstret = (if s.me.m.mcountinhibit.getLsbD 2 || off then s.me.pmu.minstret else s.me.pmu.minstret + 1) ∧
    (∀ n, t.me.th.mcounterof.getLsbD n =
      (s.me.th.mcounterof.getLsbD n ||
        (n == 0 && s.me.pmu.mcycle != 0 && t.me.pmu.mcycle == 0) ||
        (n == 2 && s.me.pmu.minstret != 0 && t.me.pmu.minstret == 0))) ∧
    t = { s with me := { s.me.moved t.me with pc := s.me.pc } } ∧
    (∀ c : Csr, let u := s.retireInto c
      if c = .minstret ∨ c = .sinstret then
        u = { s with me := { s.me.moved t.me with pc := s.me.pc + 4, pmu := { t.me.pmu with minstret := s.me.pmu.minstret }
                                                  th := { t.me.th with mcounterof := u.me.th.mcounterof } } } ∧
          ∀ n, u.me.th.mcounterof.getLsbD n = (s.me.th.mcounterof.getLsbD n || (n == 0 && t.me.th.mcounterof.getLsbD 0))
      else u = { t with me := { t.me with pc := s.me.pc + 4 } })

/-- A store ends the other core's reservation on its line and leaves its own (20_memory:R215, 20_memory:R217,
62_pmu_debug_power:R926, notes/assumptions/18, notes/assumptions/52). -/
def Obligations.StoreClearsRemoteMonitor : Prop :=
  ∀ (s : State) (plain : Bool) (ps : List Part) (v : Nat),
    let t := s.writeParts plain ps v
    let hit := fun q : BitVec 40 => ∃ p ∈ ps, q.toNat / 64 = p.place.pa.toNat / 64
    let snoops := s.other.th.msmpr.getLsbD 0 = true
    t.me.lmon = s.me.lmon ∧ t.me.gmon = s.me.gmon ∧
    (∀ r, s.other.lmon = some r →
      (snoops ∧ hit r.addr → t.other.lmon = none) ∧ (¬ (snoops ∧ hit r.addr) → t.other.lmon = some r)) ∧
    (∀ g, s.other.gmon = some g → (hit g.addr → t.other.gmon = none) ∧ (¬ hit g.addr → t.other.gmon = some g)) ∧
    (s.other.lmon = none → t.other.lmon = none) ∧ (s.other.gmon = none → t.other.gmon = none)
end

