-- ==== Sys2Proof/Laws/State.lean ====
section
/-! SUPPORT. What each update of the state leaves, field by field, so that no proof unfolds a record update. -/

namespace Sys2Proof.Machine

/-! ### Updates of one hart -/

@[simp] theorem Hart.setF_id : ∀ (h : Hart) (r : Reg) (v : Word), (h.setF r v).id = h.id := fun _ _ _ => rfl
@[simp] theorem Hart.setF_pc : ∀ (h : Hart) (r : Reg) (v : Word), (h.setF r v).pc = h.pc := fun _ _ _ => rfl
@[simp] theorem Hart.setF_priv : ∀ (h : Hart) (r : Reg) (v : Word), (h.setF r v).priv = h.priv := fun _ _ _ => rfl
@[simp] theorem Hart.setF_x : ∀ (h : Hart) (r : Reg) (v : Word), (h.setF r v).x = h.x := fun _ _ _ => rfl
@[simp] theorem Hart.setF_fp : ∀ (h : Hart) (r : Reg) (v : Word), (h.setF r v).fp = h.fp := fun _ _ _ => rfl
@[simp] theorem Hart.setF_m : ∀ (h : Hart) (r : Reg) (v : Word), (h.setF r v).m = h.m := fun _ _ _ => rfl
@[simp] theorem Hart.setF_sup : ∀ (h : Hart) (r : Reg) (v : Word), (h.setF r v).sup = h.sup := fun _ _ _ => rfl
@[simp] theorem Hart.setF_pmp : ∀ (h : Hart) (r : Reg) (v : Word), (h.setF r v).pmp = h.pmp := fun _ _ _ => rfl
@[simp] theorem Hart.setF_th : ∀ (h : Hart) (r : Reg) (v : Word), (h.setF r v).th = h.th := fun _ _ _ => rfl
@[simp] theorem Hart.setF_pmu : ∀ (h : Hart) (r : Reg) (v : Word), (h.setF r v).pmu = h.pmu := fun _ _ _ => rfl
@[simp] theorem Hart.setF_smmu : ∀ (h : Hart) (r : Reg) (v : Word), (h.setF r v).smmu = h.smmu := fun _ _ _ => rfl
@[simp] theorem Hart.setF_tlb : ∀ (h : Hart) (r : Reg) (v : Word), (h.setF r v).tlb = h.tlb := fun _ _ _ => rfl
@[simp] theorem Hart.setF_lmon : ∀ (h : Hart) (r : Reg) (v : Word), (h.setF r v).lmon = h.lmon := fun _ _ _ => rfl
@[simp] theorem Hart.setF_gmon : ∀ (h : Hart) (r : Reg) (v : Word), (h.setF r v).gmon = h.gmon := fun _ _ _ => rfl
@[simp] theorem Hart.setF_l1d : ∀ (h : Hart) (r : Reg) (v : Word), (h.setF r v).l1d = h.l1d := fun _ _ _ => rfl
@[simp] theorem Hart.setF_icache : ∀ (h : Hart) (r : Reg) (v : Word), (h.setF r v).icache = h.icache := fun _ _ _ => rfl
@[simp] theorem Hart.setF_fetched : ∀ (h : Hart) (r : Reg) (v : Word), (h.setF r v).fetched = h.fetched := fun _ _ _ => rfl
@[simp] theorem Hart.setF_oldPtes : ∀ (h : Hart) (r : Reg) (v : Word), (h.setF r v).oldPtes = h.oldPtes := fun _ _ _ => rfl
@[simp] theorem Hart.setF_lowPower : ∀ (h : Hart) (r : Reg) (v : Word), (h.setF r v).lowPower = h.lowPower := fun _ _ _ => rfl
@[simp] theorem Hart.setF_inReset : ∀ (h : Hart) (r : Reg) (v : Word), (h.setF r v).inReset = h.inReset := fun _ _ _ => rfl
@[simp] theorem Hart.dirtyFp_id : ∀ (h : Hart), (h.dirtyFp).id = h.id := fun _ => rfl
@[simp] theorem Hart.dirtyFp_pc : ∀ (h : Hart), (h.dirtyFp).pc = h.pc := fun _ => rfl
@[simp] theorem Hart.dirtyFp_priv : ∀ (h : Hart), (h.dirtyFp).priv = h.priv := fun _ => rfl
@[simp] theorem Hart.dirtyFp_x : ∀ (h : Hart), (h.dirtyFp).x = h.x := fun _ => rfl
@[simp] theorem Hart.dirtyFp_f : ∀ (h : Hart), (h.dirtyFp).f = h.f := fun _ => rfl
@[simp] theorem Hart.dirtyFp_fp : ∀ (h : Hart), (h.dirtyFp).fp = h.fp := fun _ => rfl
@[simp] theorem Hart.dirtyFp_sup : ∀ (h : Hart), (h.dirtyFp).sup = h.sup := fun _ => rfl
@[simp] theorem Hart.dirtyFp_pmp : ∀ (h : Hart), (h.dirtyFp).pmp = h.pmp := fun _ => rfl
@[simp] theorem Hart.dirtyFp_th : ∀ (h : Hart), (h.dirtyFp).th = h.th := fun _ => rfl
@[simp] theorem Hart.dirtyFp_pmu : ∀ (h : Hart), (h.dirtyFp).pmu = h.pmu := fun _ => rfl
@[simp] theorem Hart.dirtyFp_smmu : ∀ (h : Hart), (h.dirtyFp).smmu = h.smmu := fun _ => rfl
@[simp] theorem Hart.dirtyFp_tlb : ∀ (h : Hart), (h.dirtyFp).tlb = h.tlb := fun _ => rfl
@[simp] theorem Hart.dirtyFp_lmon : ∀ (h : Hart), (h.dirtyFp).lmon = h.lmon := fun _ => rfl
@[simp] theorem Hart.dirtyFp_gmon : ∀ (h : Hart), (h.dirtyFp).gmon = h.gmon := fun _ => rfl
@[simp] theorem Hart.dirtyFp_l1d : ∀ (h : Hart), (h.dirtyFp).l1d = h.l1d := fun _ => rfl
@[simp] theorem Hart.dirtyFp_icache : ∀ (h : Hart), (h.dirtyFp).icache = h.icache := fun _ => rfl
@[simp] theorem Hart.dirtyFp_fetched : ∀ (h : Hart), (h.dirtyFp).fetched = h.fetched := fun _ => rfl
@[simp] theorem Hart.dirtyFp_oldPtes : ∀ (h : Hart), (h.dirtyFp).oldPtes = h.oldPtes := fun _ => rfl
@[simp] theorem Hart.dirtyFp_lowPower : ∀ (h : Hart), (h.dirtyFp).lowPower = h.lowPower := fun _ => rfl
@[simp] theorem Hart.dirtyFp_inReset : ∀ (h : Hart), (h.dirtyFp).inReset = h.inReset := fun _ => rfl
@[simp] theorem Hart.drain_id : ∀ (h : Hart), (h.drain).id = h.id := fun _ => rfl
@[simp] theorem Hart.drain_pc : ∀ (h : Hart), (h.drain).pc = h.pc := fun _ => rfl
@[simp] theorem Hart.drain_priv : ∀ (h : Hart), (h.drain).priv = h.priv := fun _ => rfl
@[simp] theorem Hart.drain_x : ∀ (h : Hart), (h.drain).x = h.x := fun _ => rfl
@[simp] theorem Hart.drain_f : ∀ (h : Hart), (h.drain).f = h.f := fun _ => rfl
@[simp] theorem Hart.drain_fp : ∀ (h : Hart), (h.drain).fp = h.fp := fun _ => rfl
@[simp] theorem Hart.drain_m : ∀ (h : Hart), (h.drain).m = h.m := fun _ => rfl
@[simp] theorem Hart.drain_sup : ∀ (h : Hart), (h.drain).sup = h.sup := fun _ => rfl
@[simp] theorem Hart.drain_pmp : ∀ (h : Hart), (h.drain).pmp = h.pmp := fun _ => rfl
@[simp] theorem Hart.drain_th : ∀ (h : Hart), (h.drain).th = h.th := fun _ => rfl
@[simp] theorem Hart.drain_pmu : ∀ (h : Hart), (h.drain).pmu = h.pmu := fun _ => rfl
@[simp] theorem Hart.drain_smmu : ∀ (h : Hart), (h.drain).smmu = h.smmu := fun _ => rfl
@[simp] theorem Hart.drain_tlb : ∀ (h : Hart), (h.drain).tlb = h.tlb := fun _ => rfl
@[simp] theorem Hart.drain_lmon : ∀ (h : Hart), (h.drain).lmon = h.lmon := fun _ => rfl
@[simp] theorem Hart.drain_gmon : ∀ (h : Hart), (h.drain).gmon = h.gmon := fun _ => rfl
@[simp] theorem Hart.drain_l1d : ∀ (h : Hart), (h.drain).l1d = h.l1d := fun _ => rfl
@[simp] theorem Hart.drain_icache : ∀ (h : Hart), (h.drain).icache = h.icache := fun _ => rfl
@[simp] theorem Hart.drain_oldPtes : ∀ (h : Hart), (h.drain).oldPtes = h.oldPtes := fun _ => rfl
@[simp] theorem Hart.drain_lowPower : ∀ (h : Hart), (h.drain).lowPower = h.lowPower := fun _ => rfl
@[simp] theorem Hart.drain_inReset : ∀ (h : Hart), (h.drain).inReset = h.inReset := fun _ => rfl
@[simp] theorem Hart.snoopStore_id : ∀ (h : Hart) (a : Nat), (h.snoopStore a).id = h.id := fun _ _ => rfl
@[simp] theorem Hart.snoopStore_pc : ∀ (h : Hart) (a : Nat), (h.snoopStore a).pc = h.pc := fun _ _ => rfl
@[simp] theorem Hart.snoopStore_priv : ∀ (h : Hart) (a : Nat), (h.snoopStore a).priv = h.priv := fun _ _ => rfl
@[simp] theorem Hart.snoopStore_x : ∀ (h : Hart) (a : Nat), (h.snoopStore a).x = h.x := fun _ _ => rfl
@[simp] theorem Hart.snoopStore_f : ∀ (h : Hart) (a : Nat), (h.snoopStore a).f = h.f := fun _ _ => rfl
@[simp] theorem Hart.snoopStore_fp : ∀ (h : Hart) (a : Nat), (h.snoopStore a).fp = h.fp := fun _ _ => rfl
@[simp] theorem Hart.snoopStore_m : ∀ (h : Hart) (a : Nat), (h.snoopStore a).m = h.m := fun _ _ => rfl
@[simp] theorem Hart.snoopStore_sup : ∀ (h : Hart) (a : Nat), (h.snoopStore a).sup = h.sup := fun _ _ => rfl
@[simp] theorem Hart.snoopStore_pmp : ∀ (h : Hart) (a : Nat), (h.snoopStore a).pmp = h.pmp := fun _ _ => rfl
@[simp] theorem Hart.snoopStore_th : ∀ (h : Hart) (a : Nat), (h.snoopStore a).th = h.th := fun _ _ => rfl
@[simp] theorem Hart.snoopStore_pmu : ∀ (h : Hart) (a : Nat), (h.snoopStore a).pmu = h.pmu := fun _ _ => rfl
@[simp] theorem Hart.snoopStore_smmu : ∀ (h : Hart) (a : Nat), (h.snoopStore a).smmu = h.smmu := fun _ _ => rfl
@[simp] theorem Hart.snoopStore_tlb : ∀ (h : Hart) (a : Nat), (h.snoopStore a).tlb = h.tlb := fun _ _ => rfl
@[simp] theorem Hart.snoopStore_l1d : ∀ (h : Hart) (a : Nat), (h.snoopStore a).l1d = h.l1d := fun _ _ => rfl
@[simp] theorem Hart.snoopStore_icache : ∀ (h : Hart) (a : Nat), (h.snoopStore a).icache = h.icache := fun _ _ => rfl
@[simp] theorem Hart.snoopStore_fetched : ∀ (h : Hart) (a : Nat), (h.snoopStore a).fetched = h.fetched := fun _ _ => rfl
@[simp] theorem Hart.snoopStore_oldPtes : ∀ (h : Hart) (a : Nat), (h.snoopStore a).oldPtes = h.oldPtes := fun _ _ => rfl
@[simp] theorem Hart.snoopStore_lowPower : ∀ (h : Hart) (a : Nat), (h.snoopStore a).lowPower = h.lowPower := fun _ _ => rfl
@[simp] theorem Hart.snoopStore_inReset : ∀ (h : Hart) (a : Nat), (h.snoopStore a).inReset = h.inReset := fun _ _ => rfl
@[simp] theorem Hart.returnM_id : ∀ (h : Hart), (h.returnM).id = h.id := fun _ => rfl
@[simp] theorem Hart.returnM_x : ∀ (h : Hart), (h.returnM).x = h.x := fun _ => rfl
@[simp] theorem Hart.returnM_f : ∀ (h : Hart), (h.returnM).f = h.f := fun _ => rfl
@[simp] theorem Hart.returnM_fp : ∀ (h : Hart), (h.returnM).fp = h.fp := fun _ => rfl
@[simp] theorem Hart.returnM_sup : ∀ (h : Hart), (h.returnM).sup = h.sup := fun _ => rfl
@[simp] theorem Hart.returnM_pmp : ∀ (h : Hart), (h.returnM).pmp = h.pmp := fun _ => rfl
@[simp] theorem Hart.returnM_th : ∀ (h : Hart), (h.returnM).th = h.th := fun _ => rfl
@[simp] theorem Hart.returnM_pmu : ∀ (h : Hart), (h.returnM).pmu = h.pmu := fun _ => rfl
@[simp] theorem Hart.returnM_smmu : ∀ (h : Hart), (h.returnM).smmu = h.smmu := fun _ => rfl
@[simp] theorem Hart.returnM_tlb : ∀ (h : Hart), (h.returnM).tlb = h.tlb := fun _ => rfl
@[simp] theorem Hart.returnM_lmon : ∀ (h : Hart), (h.returnM).lmon = h.lmon := fun _ => rfl
@[simp] theorem Hart.returnM_gmon : ∀ (h : Hart), (h.returnM).gmon = h.gmon := fun _ => rfl
@[simp] theorem Hart.returnM_l1d : ∀ (h : Hart), (h.returnM).l1d = h.l1d := fun _ => rfl
@[simp] theorem Hart.returnM_icache : ∀ (h : Hart), (h.returnM).icache = h.icache := fun _ => rfl
@[simp] theorem Hart.returnM_oldPtes : ∀ (h : Hart), (h.returnM).oldPtes = h.oldPtes := fun _ => rfl
@[simp] theorem Hart.returnM_lowPower : ∀ (h : Hart), (h.returnM).lowPower = h.lowPower := fun _ => rfl
@[simp] theorem Hart.returnM_inReset : ∀ (h : Hart), (h.returnM).inReset = h.inReset := fun _ => rfl
@[simp] theorem Hart.returnS_id : ∀ (h : Hart), (h.returnS).id = h.id := fun _ => rfl
@[simp] theorem Hart.returnS_x : ∀ (h : Hart), (h.returnS).x = h.x := fun _ => rfl
@[simp] theorem Hart.returnS_f : ∀ (h : Hart), (h.returnS).f = h.f := fun _ => rfl
@[simp] theorem Hart.returnS_fp : ∀ (h : Hart), (h.returnS).fp = h.fp := fun _ => rfl
@[simp] theorem Hart.returnS_sup : ∀ (h : Hart), (h.returnS).sup = h.sup := fun _ => rfl
@[simp] theorem Hart.returnS_pmp : ∀ (h : Hart), (h.returnS).pmp = h.pmp := fun _ => rfl
@[simp] theorem Hart.returnS_th : ∀ (h : Hart), (h.returnS).th = h.th := fun _ => rfl
@[simp] theorem Hart.returnS_pmu : ∀ (h : Hart), (h.returnS).pmu = h.pmu := fun _ => rfl
@[simp] theorem Hart.returnS_smmu : ∀ (h : Hart), (h.returnS).smmu = h.smmu := fun _ => rfl
@[simp] theorem Hart.returnS_tlb : ∀ (h : Hart), (h.returnS).tlb = h.tlb := fun _ => rfl
@[simp] theorem Hart.returnS_lmon : ∀ (h : Hart), (h.returnS).lmon = h.lmon := fun _ => rfl
@[simp] theorem Hart.returnS_gmon : ∀ (h : Hart), (h.returnS).gmon = h.gmon := fun _ => rfl
@[simp] theorem Hart.returnS_l1d : ∀ (h : Hart), (h.returnS).l1d = h.l1d := fun _ => rfl
@[simp] theorem Hart.returnS_icache : ∀ (h : Hart), (h.returnS).icache = h.icache := fun _ => rfl
@[simp] theorem Hart.returnS_oldPtes : ∀ (h : Hart), (h.returnS).oldPtes = h.oldPtes := fun _ => rfl
@[simp] theorem Hart.returnS_lowPower : ∀ (h : Hart), (h.returnS).lowPower = h.lowPower := fun _ => rfl
@[simp] theorem Hart.returnS_inReset : ∀ (h : Hart), (h.returnS).inReset = h.inReset := fun _ => rfl
@[simp] theorem Hart.trapToM_id : ∀ (h : Hart) (i : Bool) (c : Nat) (v : Word), (h.trapToM i c v).id = h.id := fun _ _ _ _ => rfl
@[simp] theorem Hart.trapToM_x : ∀ (h : Hart) (i : Bool) (c : Nat) (v : Word), (h.trapToM i c v).x = h.x := fun _ _ _ _ => rfl
@[simp] theorem Hart.trapToM_f : ∀ (h : Hart) (i : Bool) (c : Nat) (v : Word), (h.trapToM i c v).f = h.f := fun _ _ _ _ => rfl
@[simp] theorem Hart.trapToM_fp : ∀ (h : Hart) (i : Bool) (c : Nat) (v : Word), (h.trapToM i c v).fp = h.fp := fun _ _ _ _ => rfl
@[simp] theorem Hart.trapToM_sup : ∀ (h : Hart) (i : Bool) (c : Nat) (v : Word), (h.trapToM i c v).sup = h.sup := fun _ _ _ _ => rfl
@[simp] theorem Hart.trapToM_pmp : ∀ (h : Hart) (i : Bool) (c : Nat) (v : Word), (h.trapToM i c v).pmp = h.pmp := fun _ _ _ _ => rfl
@[simp] theorem Hart.trapToM_th : ∀ (h : Hart) (i : Bool) (c : Nat) (v : Word), (h.trapToM i c v).th = h.th := fun _ _ _ _ => rfl
@[simp] theorem Hart.trapToM_pmu : ∀ (h : Hart) (i : Bool) (c : Nat) (v : Word), (h.trapToM i c v).pmu = h.pmu := fun _ _ _ _ => rfl
@[simp] theorem Hart.trapToM_smmu : ∀ (h : Hart) (i : Bool) (c : Nat) (v : Word), (h.trapToM i c v).smmu = h.smmu := fun _ _ _ _ => rfl
@[simp] theorem Hart.trapToM_tlb : ∀ (h : Hart) (i : Bool) (c : Nat) (v : Word), (h.trapToM i c v).tlb = h.tlb := fun _ _ _ _ => rfl
@[simp] theorem Hart.trapToM_lmon : ∀ (h : Hart) (i : Bool) (c : Nat) (v : Word), (h.trapToM i c v).lmon = h.lmon := fun _ _ _ _ => rfl
@[simp] theorem Hart.trapToM_gmon : ∀ (h : Hart) (i : Bool) (c : Nat) (v : Word), (h.trapToM i c v).gmon = h.gmon := fun _ _ _ _ => rfl
@[simp] theorem Hart.trapToM_l1d : ∀ (h : Hart) (i : Bool) (c : Nat) (v : Word), (h.trapToM i c v).l1d = h.l1d := fun _ _ _ _ => rfl
@[simp] theorem Hart.trapToM_icache : ∀ (h : Hart) (i : Bool) (c : Nat) (v : Word), (h.trapToM i c v).icache = h.icache := fun _ _ _ _ => rfl
@[simp] theorem Hart.trapToM_fetched : ∀ (h : Hart) (i : Bool) (c : Nat) (v : Word), (h.trapToM i c v).fetched = h.fetched := fun _ _ _ _ => rfl
@[simp] theorem Hart.trapToM_oldPtes : ∀ (h : Hart) (i : Bool) (c : Nat) (v : Word), (h.trapToM i c v).oldPtes = h.oldPtes := fun _ _ _ _ => rfl
@[simp] theorem Hart.trapToM_lowPower : ∀ (h : Hart) (i : Bool) (c : Nat) (v : Word), (h.trapToM i c v).lowPower = h.lowPower := fun _ _ _ _ => rfl
@[simp] theorem Hart.trapToM_inReset : ∀ (h : Hart) (i : Bool) (c : Nat) (v : Word), (h.trapToM i c v).inReset = h.inReset := fun _ _ _ _ => rfl
@[simp] theorem Hart.trapToS_id : ∀ (h : Hart) (i : Bool) (c : Nat) (v : Word), (h.trapToS i c v).id = h.id := fun _ _ _ _ => rfl
@[simp] theorem Hart.trapToS_x : ∀ (h : Hart) (i : Bool) (c : Nat) (v : Word), (h.trapToS i c v).x = h.x := fun _ _ _ _ => rfl
@[simp] theorem Hart.trapToS_f : ∀ (h : Hart) (i : Bool) (c : Nat) (v : Word), (h.trapToS i c v).f = h.f := fun _ _ _ _ => rfl
@[simp] theorem Hart.trapToS_fp : ∀ (h : Hart) (i : Bool) (c : Nat) (v : Word), (h.trapToS i c v).fp = h.fp := fun _ _ _ _ => rfl
@[simp] theorem Hart.trapToS_pmp : ∀ (h : Hart) (i : Bool) (c : Nat) (v : Word), (h.trapToS i c v).pmp = h.pmp := fun _ _ _ _ => rfl
@[simp] theorem Hart.trapToS_th : ∀ (h : Hart) (i : Bool) (c : Nat) (v : Word), (h.trapToS i c v).th = h.th := fun _ _ _ _ => rfl
@[simp] theorem Hart.trapToS_pmu : ∀ (h : Hart) (i : Bool) (c : Nat) (v : Word), (h.trapToS i c v).pmu = h.pmu := fun _ _ _ _ => rfl
@[simp] theorem Hart.trapToS_smmu : ∀ (h : Hart) (i : Bool) (c : Nat) (v : Word), (h.trapToS i c v).smmu = h.smmu := fun _ _ _ _ => rfl
@[simp] theorem Hart.trapToS_tlb : ∀ (h : Hart) (i : Bool) (c : Nat) (v : Word), (h.trapToS i c v).tlb = h.tlb := fun _ _ _ _ => rfl
@[simp] theorem Hart.trapToS_lmon : ∀ (h : Hart) (i : Bool) (c : Nat) (v : Word), (h.trapToS i c v).lmon = h.lmon := fun _ _ _ _ => rfl
@[simp] theorem Hart.trapToS_gmon : ∀ (h : Hart) (i : Bool) (c : Nat) (v : Word), (h.trapToS i c v).gmon = h.gmon := fun _ _ _ _ => rfl
@[simp] theorem Hart.trapToS_l1d : ∀ (h : Hart) (i : Bool) (c : Nat) (v : Word), (h.trapToS i c v).l1d = h.l1d := fun _ _ _ _ => rfl
@[simp] theorem Hart.trapToS_icache : ∀ (h : Hart) (i : Bool) (c : Nat) (v : Word), (h.trapToS i c v).icache = h.icache := fun _ _ _ _ => rfl
@[simp] theorem Hart.trapToS_fetched : ∀ (h : Hart) (i : Bool) (c : Nat) (v : Word), (h.trapToS i c v).fetched = h.fetched := fun _ _ _ _ => rfl
@[simp] theorem Hart.trapToS_oldPtes : ∀ (h : Hart) (i : Bool) (c : Nat) (v : Word), (h.trapToS i c v).oldPtes = h.oldPtes := fun _ _ _ _ => rfl
@[simp] theorem Hart.trapToS_lowPower : ∀ (h : Hart) (i : Bool) (c : Nat) (v : Word), (h.trapToS i c v).lowPower = h.lowPower := fun _ _ _ _ => rfl
@[simp] theorem Hart.trapToS_inReset : ∀ (h : Hart) (i : Bool) (c : Nat) (v : Word), (h.trapToS i c v).inReset = h.inReset := fun _ _ _ _ => rfl
@[simp] theorem Hart.dropTlb_id : ∀ (h : Hart) (p : TlbEntry → Bool), (h.dropTlb p).id = h.id := fun _ _ => rfl
@[simp] theorem Hart.dropTlb_pc : ∀ (h : Hart) (p : TlbEntry → Bool), (h.dropTlb p).pc = h.pc := fun _ _ => rfl
@[simp] theorem Hart.dropTlb_priv : ∀ (h : Hart) (p : TlbEntry → Bool), (h.dropTlb p).priv = h.priv := fun _ _ => rfl
@[simp] theorem Hart.dropTlb_x : ∀ (h : Hart) (p : TlbEntry → Bool), (h.dropTlb p).x = h.x := fun _ _ => rfl
@[simp] theorem Hart.dropTlb_f : ∀ (h : Hart) (p : TlbEntry → Bool), (h.dropTlb p).f = h.f := fun _ _ => rfl
@[simp] theorem Hart.dropTlb_fp : ∀ (h : Hart) (p : TlbEntry → Bool), (h.dropTlb p).fp = h.fp := fun _ _ => rfl
@[simp] theorem Hart.dropTlb_m : ∀ (h : Hart) (p : TlbEntry → Bool), (h.dropTlb p).m = h.m := fun _ _ => rfl
@[simp] theorem Hart.dropTlb_sup : ∀ (h : Hart) (p : TlbEntry → Bool), (h.dropTlb p).sup = h.sup := fun _ _ => rfl
@[simp] theorem Hart.dropTlb_pmp : ∀ (h : Hart) (p : TlbEntry → Bool), (h.dropTlb p).pmp = h.pmp := fun _ _ => rfl
@[simp] theorem Hart.dropTlb_th : ∀ (h : Hart) (p : TlbEntry → Bool), (h.dropTlb p).th = h.th := fun _ _ => rfl
@[simp] theorem Hart.dropTlb_pmu : ∀ (h : Hart) (p : TlbEntry → Bool), (h.dropTlb p).pmu = h.pmu := fun _ _ => rfl
@[simp] theorem Hart.dropTlb_smmu : ∀ (h : Hart) (p : TlbEntry → Bool), (h.dropTlb p).smmu = h.smmu := fun _ _ => rfl
@[simp] theorem Hart.dropTlb_lmon : ∀ (h : Hart) (p : TlbEntry → Bool), (h.dropTlb p).lmon = h.lmon := fun _ _ => rfl
@[simp] theorem Hart.dropTlb_gmon : ∀ (h : Hart) (p : TlbEntry → Bool), (h.dropTlb p).gmon = h.gmon := fun _ _ => rfl
@[simp] theorem Hart.dropTlb_l1d : ∀ (h : Hart) (p : TlbEntry → Bool), (h.dropTlb p).l1d = h.l1d := fun _ _ => rfl
@[simp] theorem Hart.dropTlb_icache : ∀ (h : Hart) (p : TlbEntry → Bool), (h.dropTlb p).icache = h.icache := fun _ _ => rfl
@[simp] theorem Hart.dropTlb_fetched : ∀ (h : Hart) (p : TlbEntry → Bool), (h.dropTlb p).fetched = h.fetched := fun _ _ => rfl
@[simp] theorem Hart.dropTlb_oldPtes : ∀ (h : Hart) (p : TlbEntry → Bool), (h.dropTlb p).oldPtes = h.oldPtes := fun _ _ => rfl
@[simp] theorem Hart.dropTlb_lowPower : ∀ (h : Hart) (p : TlbEntry → Bool), (h.dropTlb p).lowPower = h.lowPower := fun _ _ => rfl
@[simp] theorem Hart.dropTlb_inReset : ∀ (h : Hart) (p : TlbEntry → Bool), (h.dropTlb p).inReset = h.inReset := fun _ _ => rfl
@[simp] theorem Hart.settle_id : ∀ (h : Hart), (h.settle).id = h.id := fun _ => rfl
@[simp] theorem Hart.settle_pc : ∀ (h : Hart), (h.settle).pc = h.pc := fun _ => rfl
@[simp] theorem Hart.settle_priv : ∀ (h : Hart), (h.settle).priv = h.priv := fun _ => rfl
@[simp] theorem Hart.settle_x : ∀ (h : Hart), (h.settle).x = h.x := fun _ => rfl
@[simp] theorem Hart.settle_f : ∀ (h : Hart), (h.settle).f = h.f := fun _ => rfl
@[simp] theorem Hart.settle_fp : ∀ (h : Hart), (h.settle).fp = h.fp := fun _ => rfl
@[simp] theorem Hart.settle_m : ∀ (h : Hart), (h.settle).m = h.m := fun _ => rfl
@[simp] theorem Hart.settle_sup : ∀ (h : Hart), (h.settle).sup = h.sup := fun _ => rfl
@[simp] theorem Hart.settle_pmp : ∀ (h : Hart), (h.settle).pmp = h.pmp := fun _ => rfl
@[simp] theorem Hart.settle_th : ∀ (h : Hart), (h.settle).th = h.th := fun _ => rfl
@[simp] theorem Hart.settle_pmu : ∀ (h : Hart), (h.settle).pmu = h.pmu := fun _ => rfl
@[simp] theorem Hart.settle_smmu : ∀ (h : Hart), (h.settle).smmu = h.smmu := fun _ => rfl
@[simp] theorem Hart.settle_lmon : ∀ (h : Hart), (h.settle).lmon = h.lmon := fun _ => rfl
@[simp] theorem Hart.settle_gmon : ∀ (h : Hart), (h.settle).gmon = h.gmon := fun _ => rfl
@[simp] theorem Hart.settle_fetched : ∀ (h : Hart), (h.settle).fetched = h.fetched := fun _ => rfl
@[simp] theorem Hart.settle_lowPower : ∀ (h : Hart), (h.settle).lowPower = h.lowPower := fun _ => rfl
@[simp] theorem Hart.settle_inReset : ∀ (h : Hart), (h.settle).inReset = h.inReset := fun _ => rfl
@[simp] theorem Hart.expelTlb_id : ∀ (h : Hart) (p : TlbEntry → Bool), (h.expelTlb p).id = h.id := fun _ _ => rfl
@[simp] theorem Hart.expelTlb_pc : ∀ (h : Hart) (p : TlbEntry → Bool), (h.expelTlb p).pc = h.pc := fun _ _ => rfl
@[simp] theorem Hart.expelTlb_priv : ∀ (h : Hart) (p : TlbEntry → Bool), (h.expelTlb p).priv = h.priv := fun _ _ => rfl
@[simp] theorem Hart.expelTlb_x : ∀ (h : Hart) (p : TlbEntry → Bool), (h.expelTlb p).x = h.x := fun _ _ => rfl
@[simp] theorem Hart.expelTlb_f : ∀ (h : Hart) (p : TlbEntry → Bool), (h.expelTlb p).f = h.f := fun _ _ => rfl
@[simp] theorem Hart.expelTlb_fp : ∀ (h : Hart) (p : TlbEntry → Bool), (h.expelTlb p).fp = h.fp := fun _ _ => rfl
@[simp] theorem Hart.expelTlb_m : ∀ (h : Hart) (p : TlbEntry → Bool), (h.expelTlb p).m = h.m := fun _ _ => rfl
@[simp] theorem Hart.expelTlb_sup : ∀ (h : Hart) (p : TlbEntry → Bool), (h.expelTlb p).sup = h.sup := fun _ _ => rfl
@[simp] theorem Hart.expelTlb_pmp : ∀ (h : Hart) (p : TlbEntry → Bool), (h.expelTlb p).pmp = h.pmp := fun _ _ => rfl
@[simp] theorem Hart.expelTlb_th : ∀ (h : Hart) (p : TlbEntry → Bool), (h.expelTlb p).th = h.th := fun _ _ => rfl
@[simp] theorem Hart.expelTlb_pmu : ∀ (h : Hart) (p : TlbEntry → Bool), (h.expelTlb p).pmu = h.pmu := fun _ _ => rfl
@[simp] theorem Hart.expelTlb_smmu : ∀ (h : Hart) (p : TlbEntry → Bool), (h.expelTlb p).smmu = h.smmu := fun _ _ => rfl
@[simp] theorem Hart.expelTlb_lmon : ∀ (h : Hart) (p : TlbEntry → Bool), (h.expelTlb p).lmon = h.lmon := fun _ _ => rfl
@[simp] theorem Hart.expelTlb_gmon : ∀ (h : Hart) (p : TlbEntry → Bool), (h.expelTlb p).gmon = h.gmon := fun _ _ => rfl
@[simp] theorem Hart.expelTlb_l1d : ∀ (h : Hart) (p : TlbEntry → Bool), (h.expelTlb p).l1d = h.l1d := fun _ _ => rfl
@[simp] theorem Hart.expelTlb_icache : ∀ (h : Hart) (p : TlbEntry → Bool), (h.expelTlb p).icache = h.icache := fun _ _ => rfl
@[simp] theorem Hart.expelTlb_fetched : ∀ (h : Hart) (p : TlbEntry → Bool), (h.expelTlb p).fetched = h.fetched := fun _ _ => rfl
@[simp] theorem Hart.expelTlb_lowPower : ∀ (h : Hart) (p : TlbEntry → Bool), (h.expelTlb p).lowPower = h.lowPower := fun _ _ => rfl
@[simp] theorem Hart.expelTlb_inReset : ∀ (h : Hart) (p : TlbEntry → Bool), (h.expelTlb p).inReset = h.inReset := fun _ _ => rfl
@[simp] theorem Hart.tlbPut_id : ∀ (h : Hart) (e : TlbEntry), (h.tlbPut e).id = h.id := fun _ _ => rfl
@[simp] theorem Hart.tlbPut_pc : ∀ (h : Hart) (e : TlbEntry), (h.tlbPut e).pc = h.pc := fun _ _ => rfl
@[simp] theorem Hart.tlbPut_priv : ∀ (h : Hart) (e : TlbEntry), (h.tlbPut e).priv = h.priv := fun _ _ => rfl
@[simp] theorem Hart.tlbPut_x : ∀ (h : Hart) (e : TlbEntry), (h.tlbPut e).x = h.x := fun _ _ => rfl
@[simp] theorem Hart.tlbPut_f : ∀ (h : Hart) (e : TlbEntry), (h.tlbPut e).f = h.f := fun _ _ => rfl
@[simp] theorem Hart.tlbPut_fp : ∀ (h : Hart) (e : TlbEntry), (h.tlbPut e).fp = h.fp := fun _ _ => rfl
@[simp] theorem Hart.tlbPut_m : ∀ (h : Hart) (e : TlbEntry), (h.tlbPut e).m = h.m := fun _ _ => rfl
@[simp] theorem Hart.tlbPut_sup : ∀ (h : Hart) (e : TlbEntry), (h.tlbPut e).sup = h.sup := fun _ _ => rfl
@[simp] theorem Hart.tlbPut_pmp : ∀ (h : Hart) (e : TlbEntry), (h.tlbPut e).pmp = h.pmp := fun _ _ => rfl
@[simp] theorem Hart.tlbPut_th : ∀ (h : Hart) (e : TlbEntry), (h.tlbPut e).th = h.th := fun _ _ => rfl
@[simp] theorem Hart.tlbPut_pmu : ∀ (h : Hart) (e : TlbEntry), (h.tlbPut e).pmu = h.pmu := fun _ _ => rfl
@[simp] theorem Hart.tlbPut_smmu : ∀ (h : Hart) (e : TlbEntry), (h.tlbPut e).smmu = h.smmu := fun _ _ => rfl
@[simp] theorem Hart.tlbPut_lmon : ∀ (h : Hart) (e : TlbEntry), (h.tlbPut e).lmon = h.lmon := fun _ _ => rfl
@[simp] theorem Hart.tlbPut_gmon : ∀ (h : Hart) (e : TlbEntry), (h.tlbPut e).gmon = h.gmon := fun _ _ => rfl
@[simp] theorem Hart.tlbPut_l1d : ∀ (h : Hart) (e : TlbEntry), (h.tlbPut e).l1d = h.l1d := fun _ _ => rfl
@[simp] theorem Hart.tlbPut_icache : ∀ (h : Hart) (e : TlbEntry), (h.tlbPut e).icache = h.icache := fun _ _ => rfl
@[simp] theorem Hart.tlbPut_fetched : ∀ (h : Hart) (e : TlbEntry), (h.tlbPut e).fetched = h.fetched := fun _ _ => rfl
@[simp] theorem Hart.tlbPut_oldPtes : ∀ (h : Hart) (e : TlbEntry), (h.tlbPut e).oldPtes = h.oldPtes := fun _ _ => rfl
@[simp] theorem Hart.tlbPut_lowPower : ∀ (h : Hart) (e : TlbEntry), (h.tlbPut e).lowPower = h.lowPower := fun _ _ => rfl
@[simp] theorem Hart.tlbPut_inReset : ∀ (h : Hart) (e : TlbEntry), (h.tlbPut e).inReset = h.inReset := fun _ _ => rfl

@[simp] theorem Hart.setX_id : ∀ (h : Hart) (r : Reg) (v : Word), (h.setX r v).id = h.id := by
  intro h r v
  unfold Hart.setX
  split <;> rfl
@[simp] theorem Hart.setX_pc : ∀ (h : Hart) (r : Reg) (v : Word), (h.setX r v).pc = h.pc := by
  intro h r v
  unfold Hart.setX
  split <;> rfl
@[simp] theorem Hart.setX_priv : ∀ (h : Hart) (r : Reg) (v : Word), (h.setX r v).priv = h.priv := by
  intro h r v
  unfold Hart.setX
  split <;> rfl
@[simp] theorem Hart.setX_f : ∀ (h : Hart) (r : Reg) (v : Word), (h.setX r v).f = h.f := by
  intro h r v
  unfold Hart.setX
  split <;> rfl
@[simp] theorem Hart.setX_fp : ∀ (h : Hart) (r : Reg) (v : Word), (h.setX r v).fp = h.fp := by
  intro h r v
  unfold Hart.setX
  split <;> rfl
@[simp] theorem Hart.setX_m : ∀ (h : Hart) (r : Reg) (v : Word), (h.setX r v).m = h.m := by
  intro h r v
  unfold Hart.setX
  split <;> rfl
@[simp] theorem Hart.setX_sup : ∀ (h : Hart) (r : Reg) (v : Word), (h.setX r v).sup = h.sup := by
  intro h r v
  unfold Hart.setX
  split <;> rfl
@[simp] theorem Hart.setX_pmp : ∀ (h : Hart) (r : Reg) (v : Word), (h.setX r v).pmp = h.pmp := by
  intro h r v
  unfold Hart.setX
  split <;> rfl
@[simp] theorem Hart.setX_th : ∀ (h : Hart) (r : Reg) (v : Word), (h.setX r v).th = h.th := by
  intro h r v
  unfold Hart.setX
  split <;> rfl
@[simp] theorem Hart.setX_pmu : ∀ (h : Hart) (r : Reg) (v : Word), (h.setX r v).pmu = h.pmu := by
  intro h r v
  unfold Hart.setX
  split <;> rfl
@[simp] theorem Hart.setX_smmu : ∀ (h : Hart) (r : Reg) (v : Word), (h.setX r v).smmu = h.smmu := by
  intro h r v
  unfold Hart.setX
  split <;> rfl
@[simp] theorem Hart.setX_tlb : ∀ (h : Hart) (r : Reg) (v : Word), (h.setX r v).tlb = h.tlb := by
  intro h r v
  unfold Hart.setX
  split <;> rfl
@[simp] theorem Hart.setX_lmon : ∀ (h : Hart) (r : Reg) (v : Word), (h.setX r v).lmon = h.lmon := by
  intro h r v
  unfold Hart.setX
  split <;> rfl
@[simp] theorem Hart.setX_gmon : ∀ (h : Hart) (r : Reg) (v : Word), (h.setX r v).gmon = h.gmon := by
  intro h r v
  unfold Hart.setX
  split <;> rfl
@[simp] theorem Hart.setX_l1d : ∀ (h : Hart) (r : Reg) (v : Word), (h.setX r v).l1d = h.l1d := by
  intro h r v
  unfold Hart.setX
  split <;> rfl
@[simp] theorem Hart.setX_icache : ∀ (h : Hart) (r : Reg) (v : Word), (h.setX r v).icache = h.icache := by
  intro h r v
  unfold Hart.setX
  split <;> rfl
@[simp] theorem Hart.setX_fetched : ∀ (h : Hart) (r : Reg) (v : Word), (h.setX r v).fetched = h.fetched := by
  intro h r v
  unfold Hart.setX
  split <;> rfl
@[simp] theorem Hart.setX_oldPtes : ∀ (h : Hart) (r : Reg) (v : Word), (h.setX r v).oldPtes = h.oldPtes := by
  intro h r v
  unfold Hart.setX
  split <;> rfl
@[simp] theorem Hart.setX_lowPower : ∀ (h : Hart) (r : Reg) (v : Word), (h.setX r v).lowPower = h.lowPower := by
  intro h r v
  unfold Hart.setX
  split <;> rfl
@[simp] theorem Hart.setX_inReset : ∀ (h : Hart) (r : Reg) (v : Word), (h.setX r v).inReset = h.inReset := by
  intro h r v
  unfold Hart.setX
  split <;> rfl
@[simp] theorem Hart.tickCycles_id : ∀ (h : Hart) (k : Nat), (h.tickCycles k).id = h.id := by
  intro h k
  unfold Hart.tickCycles
  split <;> rfl
@[simp] theorem Hart.tickCycles_pc : ∀ (h : Hart) (k : Nat), (h.tickCycles k).pc = h.pc := by
  intro h k
  unfold Hart.tickCycles
  split <;> rfl
@[simp] theorem Hart.tickCycles_priv : ∀ (h : Hart) (k : Nat), (h.tickCycles k).priv = h.priv := by
  intro h k
  unfold Hart.tickCycles
  split <;> rfl
@[simp] theorem Hart.tickCycles_x : ∀ (h : Hart) (k : Nat), (h.tickCycles k).x = h.x := by
  intro h k
  unfold Hart.tickCycles
  split <;> rfl
@[simp] theorem Hart.tickCycles_f : ∀ (h : Hart) (k : Nat), (h.tickCycles k).f = h.f := by
  intro h k
  unfold Hart.tickCycles
  split <;> rfl
@[simp] theorem Hart.tickCycles_fp : ∀ (h : Hart) (k : Nat), (h.tickCycles k).fp = h.fp := by
  intro h k
  unfold Hart.tickCycles
  split <;> rfl
@[simp] theorem Hart.tickCycles_m : ∀ (h : Hart) (k : Nat), (h.tickCycles k).m = h.m := by
  intro h k
  unfold Hart.tickCycles
  split <;> rfl
@[simp] theorem Hart.tickCycles_sup : ∀ (h : Hart) (k : Nat), (h.tickCycles k).sup = h.sup := by
  intro h k
  unfold Hart.tickCycles
  split <;> rfl
@[simp] theorem Hart.tickCycles_pmp : ∀ (h : Hart) (k : Nat), (h.tickCycles k).pmp = h.pmp := by
  intro h k
  unfold Hart.tickCycles
  split <;> rfl
@[simp] theorem Hart.tickCycles_smmu : ∀ (h : Hart) (k : Nat), (h.tickCycles k).smmu = h.smmu := by
  intro h k
  unfold Hart.tickCycles
  split <;> rfl
@[simp] theorem Hart.tickCycles_tlb : ∀ (h : Hart) (k : Nat), (h.tickCycles k).tlb = h.tlb := by
  intro h k
  unfold Hart.tickCycles
  split <;> rfl
@[simp] theorem Hart.tickCycles_lmon : ∀ (h : Hart) (k : Nat), (h.tickCycles k).lmon = h.lmon := by
  intro h k
  unfold Hart.tickCycles
  split <;> rfl
@[simp] theorem Hart.tickCycles_gmon : ∀ (h : Hart) (k : Nat), (h.tickCycles k).gmon = h.gmon := by
  intro h k
  unfold Hart.tickCycles
  split <;> rfl
@[simp] theorem Hart.tickCycles_l1d : ∀ (h : Hart) (k : Nat), (h.tickCycles k).l1d = h.l1d := by
  intro h k
  unfold Hart.tickCycles
  split <;> rfl
@[simp] theorem Hart.tickCycles_icache : ∀ (h : Hart) (k : Nat), (h.tickCycles k).icache = h.icache := by
  intro h k
  unfold Hart.tickCycles
  split <;> rfl
@[simp] theorem Hart.tickCycles_fetched : ∀ (h : Hart) (k : Nat), (h.tickCycles k).fetched = h.fetched := by
  intro h k
  unfold Hart.tickCycles
  split <;> rfl
@[simp] theorem Hart.tickCycles_oldPtes : ∀ (h : Hart) (k : Nat), (h.tickCycles k).oldPtes = h.oldPtes := by
  intro h k
  unfold Hart.tickCycles
  split <;> rfl
@[simp] theorem Hart.tickCycles_lowPower : ∀ (h : Hart) (k : Nat), (h.tickCycles k).lowPower = h.lowPower := by
  intro h k
  unfold Hart.tickCycles
  split <;> rfl
@[simp] theorem Hart.tickCycles_inReset : ∀ (h : Hart) (k : Nat), (h.tickCycles k).inReset = h.inReset := by
  intro h k
  unfold Hart.tickCycles
  split <;> rfl
@[simp] theorem Hart.tickInstret_id : ∀ (h : Hart), (h.tickInstret).id = h.id := by
  intro h
  unfold Hart.tickInstret
  split <;> rfl
@[simp] theorem Hart.tickInstret_pc : ∀ (h : Hart), (h.tickInstret).pc = h.pc := by
  intro h
  unfold Hart.tickInstret
  split <;> rfl
@[simp] theorem Hart.tickInstret_priv : ∀ (h : Hart), (h.tickInstret).priv = h.priv := by
  intro h
  unfold Hart.tickInstret
  split <;> rfl
@[simp] theorem Hart.tickInstret_x : ∀ (h : Hart), (h.tickInstret).x = h.x := by
  intro h
  unfold Hart.tickInstret
  split <;> rfl
@[simp] theorem Hart.tickInstret_f : ∀ (h : Hart), (h.tickInstret).f = h.f := by
  intro h
  unfold Hart.tickInstret
  split <;> rfl
@[simp] theorem Hart.tickInstret_fp : ∀ (h : Hart), (h.tickInstret).fp = h.fp := by
  intro h
  unfold Hart.tickInstret
  split <;> rfl
@[simp] theorem Hart.tickInstret_m : ∀ (h : Hart), (h.tickInstret).m = h.m := by
  intro h
  unfold Hart.tickInstret
  split <;> rfl
@[simp] theorem Hart.tickInstret_sup : ∀ (h : Hart), (h.tickInstret).sup = h.sup := by
  intro h
  unfold Hart.tickInstret
  split <;> rfl
@[simp] theorem Hart.tickInstret_pmp : ∀ (h : Hart), (h.tickInstret).pmp = h.pmp := by
  intro h
  unfold Hart.tickInstret
  split <;> rfl
@[simp] theorem Hart.tickInstret_smmu : ∀ (h : Hart), (h.tickInstret).smmu = h.smmu := by
  intro h
  unfold Hart.tickInstret
  split <;> rfl
@[simp] theorem Hart.tickInstret_tlb : ∀ (h : Hart), (h.tickInstret).tlb = h.tlb := by
  intro h
  unfold Hart.tickInstret
  split <;> rfl
@[simp] theorem Hart.tickInstret_lmon : ∀ (h : Hart), (h.tickInstret).lmon = h.lmon := by
  intro h
  unfold Hart.tickInstret
  split <;> rfl
@[simp] theorem Hart.tickInstret_gmon : ∀ (h : Hart), (h.tickInstret).gmon = h.gmon := by
  intro h
  unfold Hart.tickInstret
  split <;> rfl
@[simp] theorem Hart.tickInstret_l1d : ∀ (h : Hart), (h.tickInstret).l1d = h.l1d := by
  intro h
  unfold Hart.tickInstret
  split <;> rfl
@[simp] theorem Hart.tickInstret_icache : ∀ (h : Hart), (h.tickInstret).icache = h.icache := by
  intro h
  unfold Hart.tickInstret
  split <;> rfl
@[simp] theorem Hart.tickInstret_fetched : ∀ (h : Hart), (h.tickInstret).fetched = h.fetched := by
  intro h
  unfold Hart.tickInstret
  split <;> rfl
@[simp] theorem Hart.tickInstret_oldPtes : ∀ (h : Hart), (h.tickInstret).oldPtes = h.oldPtes := by
  intro h
  unfold Hart.tickInstret
  split <;> rfl
@[simp] theorem Hart.tickInstret_lowPower : ∀ (h : Hart), (h.tickInstret).lowPower = h.lowPower := by
  intro h
  unfold Hart.tickInstret
  split <;> rfl
@[simp] theorem Hart.tickInstret_inReset : ∀ (h : Hart), (h.tickInstret).inReset = h.inReset := by
  intro h
  unfold Hart.tickInstret
  split <;> rfl
@[simp] theorem Hart.notePageFault_id : ∀ (h : Hart) (c : Nat) (v : Word), (h.notePageFault c v).id = h.id := by
  intro h c v
  unfold Hart.notePageFault
  split <;> rfl
@[simp] theorem Hart.notePageFault_pc : ∀ (h : Hart) (c : Nat) (v : Word), (h.notePageFault c v).pc = h.pc := by
  intro h c v
  unfold Hart.notePageFault
  split <;> rfl
@[simp] theorem Hart.notePageFault_priv : ∀ (h : Hart) (c : Nat) (v : Word), (h.notePageFault c v).priv = h.priv := by
  intro h c v
  unfold Hart.notePageFault
  split <;> rfl
@[simp] theorem Hart.notePageFault_x : ∀ (h : Hart) (c : Nat) (v : Word), (h.notePageFault c v).x = h.x := by
  intro h c v
  unfold Hart.notePageFault
  split <;> rfl
@[simp] theorem Hart.notePageFault_f : ∀ (h : Hart) (c : Nat) (v : Word), (h.notePageFault c v).f = h.f := by
  intro h c v
  unfold Hart.notePageFault
  split <;> rfl
@[simp] theorem Hart.notePageFault_fp : ∀ (h : Hart) (c : Nat) (v : Word), (h.notePageFault c v).fp = h.fp := by
  intro h c v
  unfold Hart.notePageFault
  split <;> rfl
@[simp] theorem Hart.notePageFault_m : ∀ (h : Hart) (c : Nat) (v : Word), (h.notePageFault c v).m = h.m := by
  intro h c v
  unfold Hart.notePageFault
  split <;> rfl
@[simp] theorem Hart.notePageFault_sup : ∀ (h : Hart) (c : Nat) (v : Word), (h.notePageFault c v).sup = h.sup := by
  intro h c v
  unfold Hart.notePageFault
  split <;> rfl
@[simp] theorem Hart.notePageFault_pmp : ∀ (h : Hart) (c : Nat) (v : Word), (h.notePageFault c v).pmp = h.pmp := by
  intro h c v
  unfold Hart.notePageFault
  split <;> rfl
@[simp] theorem Hart.notePageFault_th : ∀ (h : Hart) (c : Nat) (v : Word), (h.notePageFault c v).th = h.th := by
  intro h c v
  unfold Hart.notePageFault
  split <;> rfl
@[simp] theorem Hart.notePageFault_pmu : ∀ (h : Hart) (c : Nat) (v : Word), (h.notePageFault c v).pmu = h.pmu := by
  intro h c v
  unfold Hart.notePageFault
  split <;> rfl
@[simp] theorem Hart.notePageFault_tlb : ∀ (h : Hart) (c : Nat) (v : Word), (h.notePageFault c v).tlb = h.tlb := by
  intro h c v
  unfold Hart.notePageFault
  split <;> rfl
@[simp] theorem Hart.notePageFault_lmon : ∀ (h : Hart) (c : Nat) (v : Word), (h.notePageFault c v).lmon = h.lmon := by
  intro h c v
  unfold Hart.notePageFault
  split <;> rfl
@[simp] theorem Hart.notePageFault_gmon : ∀ (h : Hart) (c : Nat) (v : Word), (h.notePageFault c v).gmon = h.gmon := by
  intro h c v
  unfold Hart.notePageFault
  split <;> rfl
@[simp] theorem Hart.notePageFault_l1d : ∀ (h : Hart) (c : Nat) (v : Word), (h.notePageFault c v).l1d = h.l1d := by
  intro h c v
  unfold Hart.notePageFault
  split <;> rfl
@[simp] theorem Hart.notePageFault_icache : ∀ (h : Hart) (c : Nat) (v : Word), (h.notePageFault c v).icache = h.icache := by
  intro h c v
  unfold Hart.notePageFault
  split <;> rfl
@[simp] theorem Hart.notePageFault_fetched : ∀ (h : Hart) (c : Nat) (v : Word), (h.notePageFault c v).fetched = h.fetched := by
  intro h c v
  unfold Hart.notePageFault
  split <;> rfl
@[simp] theorem Hart.notePageFault_oldPtes : ∀ (h : Hart) (c : Nat) (v : Word), (h.notePageFault c v).oldPtes = h.oldPtes := by
  intro h c v
  unfold Hart.notePageFault
  split <;> rfl
@[simp] theorem Hart.notePageFault_lowPower : ∀ (h : Hart) (c : Nat) (v : Word), (h.notePageFault c v).lowPower = h.lowPower := by
  intro h c v
  unfold Hart.notePageFault
  split <;> rfl
@[simp] theorem Hart.notePageFault_inReset : ∀ (h : Hart) (c : Nat) (v : Word), (h.notePageFault c v).inReset = h.inReset := by
  intro h c v
  unfold Hart.notePageFault
  split <;> rfl
@[simp] theorem Hart.tick_id : ∀ h : Hart, h.tick.id = h.id := fun h => by simp [Hart.tick]
@[simp] theorem Hart.tick_pc : ∀ h : Hart, h.tick.pc = h.pc := fun h => by simp [Hart.tick]
@[simp] theorem Hart.tick_priv : ∀ h : Hart, h.tick.priv = h.priv := fun h => by simp [Hart.tick]
@[simp] theorem Hart.tick_x : ∀ h : Hart, h.tick.x = h.x := fun h => by simp [Hart.tick]
@[simp] theorem Hart.tick_f : ∀ h : Hart, h.tick.f = h.f := fun h => by simp [Hart.tick]
@[simp] theorem Hart.tick_fp : ∀ h : Hart, h.tick.fp = h.fp := fun h => by simp [Hart.tick]
@[simp] theorem Hart.tick_m : ∀ h : Hart, h.tick.m = h.m := fun h => by simp [Hart.tick]
@[simp] theorem Hart.tick_sup : ∀ h : Hart, h.tick.sup = h.sup := fun h => by simp [Hart.tick]
@[simp] theorem Hart.tick_pmp : ∀ h : Hart, h.tick.pmp = h.pmp := fun h => by simp [Hart.tick]
@[simp] theorem Hart.tick_smmu : ∀ h : Hart, h.tick.smmu = h.smmu := fun h => by simp [Hart.tick]
@[simp] theorem Hart.tick_tlb : ∀ h : Hart, h.tick.tlb = h.tlb := fun h => by simp [Hart.tick]
@[simp] theorem Hart.tick_lmon : ∀ h : Hart, h.tick.lmon = h.lmon := fun h => by simp [Hart.tick]
@[simp] theorem Hart.tick_gmon : ∀ h : Hart, h.tick.gmon = h.gmon := fun h => by simp [Hart.tick]
@[simp] theorem Hart.tick_l1d : ∀ h : Hart, h.tick.l1d = h.l1d := fun h => by simp [Hart.tick]
@[simp] theorem Hart.tick_icache : ∀ h : Hart, h.tick.icache = h.icache := fun h => by simp [Hart.tick]
@[simp] theorem Hart.tick_fetched : ∀ h : Hart, h.tick.fetched = h.fetched := fun h => by simp [Hart.tick]
@[simp] theorem Hart.tick_oldPtes : ∀ h : Hart, h.tick.oldPtes = h.oldPtes := fun h => by simp [Hart.tick]
@[simp] theorem Hart.tick_lowPower : ∀ h : Hart, h.tick.lowPower = h.lowPower := fun h => by simp [Hart.tick]
@[simp] theorem Hart.tick_inReset : ∀ h : Hart, h.tick.inReset = h.inReset := fun h => by simp [Hart.tick]

/-! ### Updates of the state -/

@[simp] theorem State.setX_me : ∀ (s : State) (r : Reg) (v : Word), (s.setX r v).me = s.me.setX r v := fun _ _ _ => rfl
@[simp] theorem State.setX_other : ∀ (s : State) (r : Reg) (v : Word), (s.setX r v).other = s.other := fun _ _ _ => rfl
@[simp] theorem State.setX_mem : ∀ (s : State) (r : Reg) (v : Word), (s.setX r v).mem = s.mem := fun _ _ _ => rfl
@[simp] theorem State.setX_l2 : ∀ (s : State) (r : Reg) (v : Word), (s.setX r v).l2 = s.l2 := fun _ _ _ => rfl
@[simp] theorem State.setX_mtime : ∀ (s : State) (r : Reg) (v : Word), (s.setX r v).mtime = s.mtime := fun _ _ _ => rfl
@[simp] theorem State.setX_clint0 : ∀ (s : State) (r : Reg) (v : Word), (s.setX r v).clint0 = s.clint0 := fun _ _ _ => rfl
@[simp] theorem State.setX_clint1 : ∀ (s : State) (r : Reg) (v : Word), (s.setX r v).clint1 = s.clint1 := fun _ _ _ => rfl
@[simp] theorem State.setX_plic : ∀ (s : State) (r : Reg) (v : Word), (s.setX r v).plic = s.plic := fun _ _ _ => rfl
@[simp] theorem State.setX_mccr2 : ∀ (s : State) (r : Reg) (v : Word), (s.setX r v).mccr2 = s.mccr2 := fun _ _ _ => rfl
@[simp] theorem State.setX_soc : ∀ (s : State) (r : Reg) (v : Word), (s.setX r v).soc = s.soc := fun _ _ _ => rfl
@[simp] theorem State.setX_inputs : ∀ (s : State) (r : Reg) (v : Word), (s.setX r v).inputs = s.inputs := fun _ _ _ => rfl
@[simp] theorem State.setX_draws : ∀ (s : State) (r : Reg) (v : Word), (s.setX r v).draws = s.draws := fun _ _ _ => rfl
@[simp] theorem State.setF_me : ∀ (s : State) (r : Reg) (v : Word), (s.setF r v).me = s.me.setF r v := fun _ _ _ => rfl
@[simp] theorem State.setF_other : ∀ (s : State) (r : Reg) (v : Word), (s.setF r v).other = s.other := fun _ _ _ => rfl
@[simp] theorem State.setF_mem : ∀ (s : State) (r : Reg) (v : Word), (s.setF r v).mem = s.mem := fun _ _ _ => rfl
@[simp] theorem State.setF_l2 : ∀ (s : State) (r : Reg) (v : Word), (s.setF r v).l2 = s.l2 := fun _ _ _ => rfl
@[simp] theorem State.setF_mtime : ∀ (s : State) (r : Reg) (v : Word), (s.setF r v).mtime = s.mtime := fun _ _ _ => rfl
@[simp] theorem State.setF_clint0 : ∀ (s : State) (r : Reg) (v : Word), (s.setF r v).clint0 = s.clint0 := fun _ _ _ => rfl
@[simp] theorem State.setF_clint1 : ∀ (s : State) (r : Reg) (v : Word), (s.setF r v).clint1 = s.clint1 := fun _ _ _ => rfl
@[simp] theorem State.setF_plic : ∀ (s : State) (r : Reg) (v : Word), (s.setF r v).plic = s.plic := fun _ _ _ => rfl
@[simp] theorem State.setF_mccr2 : ∀ (s : State) (r : Reg) (v : Word), (s.setF r v).mccr2 = s.mccr2 := fun _ _ _ => rfl
@[simp] theorem State.setF_soc : ∀ (s : State) (r : Reg) (v : Word), (s.setF r v).soc = s.soc := fun _ _ _ => rfl
@[simp] theorem State.setF_inputs : ∀ (s : State) (r : Reg) (v : Word), (s.setF r v).inputs = s.inputs := fun _ _ _ => rfl
@[simp] theorem State.setF_draws : ∀ (s : State) (r : Reg) (v : Word), (s.setF r v).draws = s.draws := fun _ _ _ => rfl
@[simp] theorem State.setPc_me : ∀ (s : State) (p : Word), (s.setPc p).me = { s.me with pc := p } := fun _ _ => rfl
@[simp] theorem State.setPc_other : ∀ (s : State) (p : Word), (s.setPc p).other = s.other := fun _ _ => rfl
@[simp] theorem State.setPc_mem : ∀ (s : State) (p : Word), (s.setPc p).mem = s.mem := fun _ _ => rfl
@[simp] theorem State.setPc_l2 : ∀ (s : State) (p : Word), (s.setPc p).l2 = s.l2 := fun _ _ => rfl
@[simp] theorem State.setPc_mtime : ∀ (s : State) (p : Word), (s.setPc p).mtime = s.mtime := fun _ _ => rfl
@[simp] theorem State.setPc_clint0 : ∀ (s : State) (p : Word), (s.setPc p).clint0 = s.clint0 := fun _ _ => rfl
@[simp] theorem State.setPc_clint1 : ∀ (s : State) (p : Word), (s.setPc p).clint1 = s.clint1 := fun _ _ => rfl
@[simp] theorem State.setPc_plic : ∀ (s : State) (p : Word), (s.setPc p).plic = s.plic := fun _ _ => rfl
@[simp] theorem State.setPc_mccr2 : ∀ (s : State) (p : Word), (s.setPc p).mccr2 = s.mccr2 := fun _ _ => rfl
@[simp] theorem State.setPc_soc : ∀ (s : State) (p : Word), (s.setPc p).soc = s.soc := fun _ _ => rfl
@[simp] theorem State.setPc_inputs : ∀ (s : State) (p : Word), (s.setPc p).inputs = s.inputs := fun _ _ => rfl
@[simp] theorem State.setPc_draws : ∀ (s : State) (p : Word), (s.setPc p).draws = s.draws := fun _ _ => rfl
@[simp] theorem State.tick_me : ∀ (s : State), (s.tick).me = s.me.tick := fun _ => rfl
@[simp] theorem State.tick_other : ∀ (s : State), (s.tick).other = s.other := fun _ => rfl
@[simp] theorem State.tick_mem : ∀ (s : State), (s.tick).mem = s.mem := fun _ => rfl
@[simp] theorem State.tick_l2 : ∀ (s : State), (s.tick).l2 = s.l2 := fun _ => rfl
@[simp] theorem State.tick_mtime : ∀ (s : State), (s.tick).mtime = s.mtime := fun _ => rfl
@[simp] theorem State.tick_clint0 : ∀ (s : State), (s.tick).clint0 = s.clint0 := fun _ => rfl
@[simp] theorem State.tick_clint1 : ∀ (s : State), (s.tick).clint1 = s.clint1 := fun _ => rfl
@[simp] theorem State.tick_plic : ∀ (s : State), (s.tick).plic = s.plic := fun _ => rfl
@[simp] theorem State.tick_mccr2 : ∀ (s : State), (s.tick).mccr2 = s.mccr2 := fun _ => rfl
@[simp] theorem State.tick_soc : ∀ (s : State), (s.tick).soc = s.soc := fun _ => rfl
@[simp] theorem State.tick_inputs : ∀ (s : State), (s.tick).inputs = s.inputs := fun _ => rfl
@[simp] theorem State.tick_draws : ∀ (s : State), (s.tick).draws = s.draws := fun _ => rfl
@[simp] theorem State.retire_me : ∀ (s : State) (n : Nat), (s.retire n).me = { s.me.tick with pc := s.me.pc + BitVec.ofNat 64 n } := fun _ _ => rfl
@[simp] theorem State.retire_other : ∀ (s : State) (n : Nat), (s.retire n).other = s.other := fun _ _ => rfl
@[simp] theorem State.retire_mem : ∀ (s : State) (n : Nat), (s.retire n).mem = s.mem := fun _ _ => rfl
@[simp] theorem State.retire_l2 : ∀ (s : State) (n : Nat), (s.retire n).l2 = s.l2 := fun _ _ => rfl
@[simp] theorem State.retire_mtime : ∀ (s : State) (n : Nat), (s.retire n).mtime = s.mtime := fun _ _ => rfl
@[simp] theorem State.retire_clint0 : ∀ (s : State) (n : Nat), (s.retire n).clint0 = s.clint0 := fun _ _ => rfl
@[simp] theorem State.retire_clint1 : ∀ (s : State) (n : Nat), (s.retire n).clint1 = s.clint1 := fun _ _ => rfl
@[simp] theorem State.retire_plic : ∀ (s : State) (n : Nat), (s.retire n).plic = s.plic := fun _ _ => rfl
@[simp] theorem State.retire_mccr2 : ∀ (s : State) (n : Nat), (s.retire n).mccr2 = s.mccr2 := fun _ _ => rfl
@[simp] theorem State.retire_soc : ∀ (s : State) (n : Nat), (s.retire n).soc = s.soc := fun _ _ => rfl
@[simp] theorem State.retire_inputs : ∀ (s : State) (n : Nat), (s.retire n).inputs = s.inputs := fun _ _ => rfl
@[simp] theorem State.retire_draws : ∀ (s : State) (n : Nat), (s.retire n).draws = s.draws := fun _ _ => rfl
@[simp] theorem State.jump_me : ∀ (s : State) (p : Word), (s.jump p).me = { s.me.tick with pc := p } := fun _ _ => rfl
@[simp] theorem State.jump_other : ∀ (s : State) (p : Word), (s.jump p).other = s.other := fun _ _ => rfl
@[simp] theorem State.jump_mem : ∀ (s : State) (p : Word), (s.jump p).mem = s.mem := fun _ _ => rfl
@[simp] theorem State.jump_l2 : ∀ (s : State) (p : Word), (s.jump p).l2 = s.l2 := fun _ _ => rfl
@[simp] theorem State.jump_mtime : ∀ (s : State) (p : Word), (s.jump p).mtime = s.mtime := fun _ _ => rfl
@[simp] theorem State.jump_clint0 : ∀ (s : State) (p : Word), (s.jump p).clint0 = s.clint0 := fun _ _ => rfl
@[simp] theorem State.jump_clint1 : ∀ (s : State) (p : Word), (s.jump p).clint1 = s.clint1 := fun _ _ => rfl
@[simp] theorem State.jump_plic : ∀ (s : State) (p : Word), (s.jump p).plic = s.plic := fun _ _ => rfl
@[simp] theorem State.jump_mccr2 : ∀ (s : State) (p : Word), (s.jump p).mccr2 = s.mccr2 := fun _ _ => rfl
@[simp] theorem State.jump_soc : ∀ (s : State) (p : Word), (s.jump p).soc = s.soc := fun _ _ => rfl
@[simp] theorem State.jump_inputs : ∀ (s : State) (p : Word), (s.jump p).inputs = s.inputs := fun _ _ => rfl
@[simp] theorem State.jump_draws : ∀ (s : State) (p : Word), (s.jump p).draws = s.draws := fun _ _ => rfl
@[simp] theorem State.fpDirty_me : ∀ (s : State), (s.fpDirty).me = s.me.dirtyFp := fun _ => rfl
@[simp] theorem State.fpDirty_other : ∀ (s : State), (s.fpDirty).other = s.other := fun _ => rfl
@[simp] theorem State.fpDirty_mem : ∀ (s : State), (s.fpDirty).mem = s.mem := fun _ => rfl
@[simp] theorem State.fpDirty_l2 : ∀ (s : State), (s.fpDirty).l2 = s.l2 := fun _ => rfl
@[simp] theorem State.fpDirty_mtime : ∀ (s : State), (s.fpDirty).mtime = s.mtime := fun _ => rfl
@[simp] theorem State.fpDirty_clint0 : ∀ (s : State), (s.fpDirty).clint0 = s.clint0 := fun _ => rfl
@[simp] theorem State.fpDirty_clint1 : ∀ (s : State), (s.fpDirty).clint1 = s.clint1 := fun _ => rfl
@[simp] theorem State.fpDirty_plic : ∀ (s : State), (s.fpDirty).plic = s.plic := fun _ => rfl
@[simp] theorem State.fpDirty_mccr2 : ∀ (s : State), (s.fpDirty).mccr2 = s.mccr2 := fun _ => rfl
@[simp] theorem State.fpDirty_soc : ∀ (s : State), (s.fpDirty).soc = s.soc := fun _ => rfl
@[simp] theorem State.fpDirty_inputs : ∀ (s : State), (s.fpDirty).inputs = s.inputs := fun _ => rfl
@[simp] theorem State.fpDirty_draws : ∀ (s : State), (s.fpDirty).draws = s.draws := fun _ => rfl
@[simp] theorem State.raise_me : ∀ (s : State) (c : Nat) (v : Word), (s.raise c v).me = s.me.takeException c v := fun _ _ _ => rfl
@[simp] theorem State.raise_other : ∀ (s : State) (c : Nat) (v : Word), (s.raise c v).other = s.other := fun _ _ _ => rfl
@[simp] theorem State.raise_mem : ∀ (s : State) (c : Nat) (v : Word), (s.raise c v).mem = s.mem := fun _ _ _ => rfl
@[simp] theorem State.raise_l2 : ∀ (s : State) (c : Nat) (v : Word), (s.raise c v).l2 = s.l2 := fun _ _ _ => rfl
@[simp] theorem State.raise_mtime : ∀ (s : State) (c : Nat) (v : Word), (s.raise c v).mtime = s.mtime := fun _ _ _ => rfl
@[simp] theorem State.raise_clint0 : ∀ (s : State) (c : Nat) (v : Word), (s.raise c v).clint0 = s.clint0 := fun _ _ _ => rfl
@[simp] theorem State.raise_clint1 : ∀ (s : State) (c : Nat) (v : Word), (s.raise c v).clint1 = s.clint1 := fun _ _ _ => rfl
@[simp] theorem State.raise_plic : ∀ (s : State) (c : Nat) (v : Word), (s.raise c v).plic = s.plic := fun _ _ _ => rfl
@[simp] theorem State.raise_mccr2 : ∀ (s : State) (c : Nat) (v : Word), (s.raise c v).mccr2 = s.mccr2 := fun _ _ _ => rfl
@[simp] theorem State.raise_soc : ∀ (s : State) (c : Nat) (v : Word), (s.raise c v).soc = s.soc := fun _ _ _ => rfl
@[simp] theorem State.raise_inputs : ∀ (s : State) (c : Nat) (v : Word), (s.raise c v).inputs = s.inputs := fun _ _ _ => rfl
@[simp] theorem State.raise_draws : ∀ (s : State) (c : Nat) (v : Word), (s.raise c v).draws = s.draws := fun _ _ _ => rfl
@[simp] theorem State.takeInterrupt_me : ∀ (s : State) (c : Nat), (s.takeInterrupt c).me = s.me.takeInterrupt c := fun _ _ => rfl
@[simp] theorem State.takeInterrupt_other : ∀ (s : State) (c : Nat), (s.takeInterrupt c).other = s.other := fun _ _ => rfl
@[simp] theorem State.takeInterrupt_mem : ∀ (s : State) (c : Nat), (s.takeInterrupt c).mem = s.mem := fun _ _ => rfl
@[simp] theorem State.takeInterrupt_l2 : ∀ (s : State) (c : Nat), (s.takeInterrupt c).l2 = s.l2 := fun _ _ => rfl
@[simp] theorem State.takeInterrupt_mtime : ∀ (s : State) (c : Nat), (s.takeInterrupt c).mtime = s.mtime := fun _ _ => rfl
@[simp] theorem State.takeInterrupt_clint0 : ∀ (s : State) (c : Nat), (s.takeInterrupt c).clint0 = s.clint0 := fun _ _ => rfl
@[simp] theorem State.takeInterrupt_clint1 : ∀ (s : State) (c : Nat), (s.takeInterrupt c).clint1 = s.clint1 := fun _ _ => rfl
@[simp] theorem State.takeInterrupt_plic : ∀ (s : State) (c : Nat), (s.takeInterrupt c).plic = s.plic := fun _ _ => rfl
@[simp] theorem State.takeInterrupt_mccr2 : ∀ (s : State) (c : Nat), (s.takeInterrupt c).mccr2 = s.mccr2 := fun _ _ => rfl
@[simp] theorem State.takeInterrupt_soc : ∀ (s : State) (c : Nat), (s.takeInterrupt c).soc = s.soc := fun _ _ => rfl
@[simp] theorem State.takeInterrupt_inputs : ∀ (s : State) (c : Nat), (s.takeInterrupt c).inputs = s.inputs := fun _ _ => rfl
@[simp] theorem State.takeInterrupt_draws : ∀ (s : State) (c : Nat), (s.takeInterrupt c).draws = s.draws := fun _ _ => rfl
@[simp] theorem State.accrue_me : ∀ (s : State) (fl : Flags), (s.accrue fl).me = Hart.dirtyFp { s.me with fp := { s.me.fp with fflags := s.me.fp.fflags ||| fl, fe := s.me.fp.fe || fl != 0 } } := fun _ _ => rfl
@[simp] theorem State.accrue_other : ∀ (s : State) (fl : Flags), (s.accrue fl).other = s.other := fun _ _ => rfl
@[simp] theorem State.accrue_mem : ∀ (s : State) (fl : Flags), (s.accrue fl).mem = s.mem := fun _ _ => rfl
@[simp] theorem State.accrue_l2 : ∀ (s : State) (fl : Flags), (s.accrue fl).l2 = s.l2 := fun _ _ => rfl
@[simp] theorem State.accrue_mtime : ∀ (s : State) (fl : Flags), (s.accrue fl).mtime = s.mtime := fun _ _ => rfl
@[simp] theorem State.accrue_clint0 : ∀ (s : State) (fl : Flags), (s.accrue fl).clint0 = s.clint0 := fun _ _ => rfl
@[simp] theorem State.accrue_clint1 : ∀ (s : State) (fl : Flags), (s.accrue fl).clint1 = s.clint1 := fun _ _ => rfl
@[simp] theorem State.accrue_plic : ∀ (s : State) (fl : Flags), (s.accrue fl).plic = s.plic := fun _ _ => rfl
@[simp] theorem State.accrue_mccr2 : ∀ (s : State) (fl : Flags), (s.accrue fl).mccr2 = s.mccr2 := fun _ _ => rfl
@[simp] theorem State.accrue_soc : ∀ (s : State) (fl : Flags), (s.accrue fl).soc = s.soc := fun _ _ => rfl
@[simp] theorem State.accrue_inputs : ∀ (s : State) (fl : Flags), (s.accrue fl).inputs = s.inputs := fun _ _ => rfl
@[simp] theorem State.accrue_draws : ∀ (s : State) (fl : Flags), (s.accrue fl).draws = s.draws := fun _ _ => rfl
@[simp] theorem State.wake_me : ∀ (s : State), (s.wake).me = { s.me with lowPower := false } := fun _ => rfl
@[simp] theorem State.wake_other : ∀ (s : State), (s.wake).other = s.other := fun _ => rfl
@[simp] theorem State.wake_mem : ∀ (s : State), (s.wake).mem = s.mem := fun _ => rfl
@[simp] theorem State.wake_l2 : ∀ (s : State), (s.wake).l2 = s.l2 := fun _ => rfl
@[simp] theorem State.wake_mtime : ∀ (s : State), (s.wake).mtime = s.mtime := fun _ => rfl
@[simp] theorem State.wake_clint0 : ∀ (s : State), (s.wake).clint0 = s.clint0 := fun _ => rfl
@[simp] theorem State.wake_clint1 : ∀ (s : State), (s.wake).clint1 = s.clint1 := fun _ => rfl
@[simp] theorem State.wake_plic : ∀ (s : State), (s.wake).plic = s.plic := fun _ => rfl
@[simp] theorem State.wake_mccr2 : ∀ (s : State), (s.wake).mccr2 = s.mccr2 := fun _ => rfl
@[simp] theorem State.wake_soc : ∀ (s : State), (s.wake).soc = s.soc := fun _ => rfl
@[simp] theorem State.wake_inputs : ∀ (s : State), (s.wake).inputs = s.inputs := fun _ => rfl
@[simp] theorem State.wake_draws : ∀ (s : State), (s.wake).draws = s.draws := fun _ => rfl
@[simp] theorem State.sleep_me : ∀ (s : State), (s.sleep).me = { s.me with lowPower := true } := fun _ => rfl
@[simp] theorem State.sleep_other : ∀ (s : State), (s.sleep).other = s.other := fun _ => rfl
@[simp] theorem State.sleep_mem : ∀ (s : State), (s.sleep).mem = s.mem := fun _ => rfl
@[simp] theorem State.sleep_l2 : ∀ (s : State), (s.sleep).l2 = s.l2 := fun _ => rfl
@[simp] theorem State.sleep_mtime : ∀ (s : State), (s.sleep).mtime = s.mtime := fun _ => rfl
@[simp] theorem State.sleep_clint0 : ∀ (s : State), (s.sleep).clint0 = s.clint0 := fun _ => rfl
@[simp] theorem State.sleep_clint1 : ∀ (s : State), (s.sleep).clint1 = s.clint1 := fun _ => rfl
@[simp] theorem State.sleep_plic : ∀ (s : State), (s.sleep).plic = s.plic := fun _ => rfl
@[simp] theorem State.sleep_mccr2 : ∀ (s : State), (s.sleep).mccr2 = s.mccr2 := fun _ => rfl
@[simp] theorem State.sleep_soc : ∀ (s : State), (s.sleep).soc = s.soc := fun _ => rfl
@[simp] theorem State.sleep_inputs : ∀ (s : State), (s.sleep).inputs = s.inputs := fun _ => rfl
@[simp] theorem State.sleep_draws : ∀ (s : State), (s.sleep).draws = s.draws := fun _ => rfl
@[simp] theorem State.returnM_me : ∀ (s : State), (s.returnM).me = s.me.returnM := fun _ => rfl
@[simp] theorem State.returnM_other : ∀ (s : State), (s.returnM).other = s.other := fun _ => rfl
@[simp] theorem State.returnM_mem : ∀ (s : State), (s.returnM).mem = s.mem := fun _ => rfl
@[simp] theorem State.returnM_l2 : ∀ (s : State), (s.returnM).l2 = s.l2 := fun _ => rfl
@[simp] theorem State.returnM_mtime : ∀ (s : State), (s.returnM).mtime = s.mtime := fun _ => rfl
@[simp] theorem State.returnM_clint0 : ∀ (s : State), (s.returnM).clint0 = s.clint0 := fun _ => rfl
@[simp] theorem State.returnM_clint1 : ∀ (s : State), (s.returnM).clint1 = s.clint1 := fun _ => rfl
@[simp] theorem State.returnM_plic : ∀ (s : State), (s.returnM).plic = s.plic := fun _ => rfl
@[simp] theorem State.returnM_mccr2 : ∀ (s : State), (s.returnM).mccr2 = s.mccr2 := fun _ => rfl
@[simp] theorem State.returnM_soc : ∀ (s : State), (s.returnM).soc = s.soc := fun _ => rfl
@[simp] theorem State.returnM_inputs : ∀ (s : State), (s.returnM).inputs = s.inputs := fun _ => rfl
@[simp] theorem State.returnM_draws : ∀ (s : State), (s.returnM).draws = s.draws := fun _ => rfl
@[simp] theorem State.returnS_me : ∀ (s : State), (s.returnS).me = s.me.returnS := fun _ => rfl
@[simp] theorem State.returnS_other : ∀ (s : State), (s.returnS).other = s.other := fun _ => rfl
@[simp] theorem State.returnS_mem : ∀ (s : State), (s.returnS).mem = s.mem := fun _ => rfl
@[simp] theorem State.returnS_l2 : ∀ (s : State), (s.returnS).l2 = s.l2 := fun _ => rfl
@[simp] theorem State.returnS_mtime : ∀ (s : State), (s.returnS).mtime = s.mtime := fun _ => rfl
@[simp] theorem State.returnS_clint0 : ∀ (s : State), (s.returnS).clint0 = s.clint0 := fun _ => rfl
@[simp] theorem State.returnS_clint1 : ∀ (s : State), (s.returnS).clint1 = s.clint1 := fun _ => rfl
@[simp] theorem State.returnS_plic : ∀ (s : State), (s.returnS).plic = s.plic := fun _ => rfl
@[simp] theorem State.returnS_mccr2 : ∀ (s : State), (s.returnS).mccr2 = s.mccr2 := fun _ => rfl
@[simp] theorem State.returnS_soc : ∀ (s : State), (s.returnS).soc = s.soc := fun _ => rfl
@[simp] theorem State.returnS_inputs : ∀ (s : State), (s.returnS).inputs = s.inputs := fun _ => rfl
@[simp] theorem State.returnS_draws : ∀ (s : State), (s.returnS).draws = s.draws := fun _ => rfl
@[simp] theorem State.setM_me : ∀ (s : State) (r : MachineCsr), (s.setM r).me = { s.me with m := r } := fun _ _ => rfl
@[simp] theorem State.setM_other : ∀ (s : State) (r : MachineCsr), (s.setM r).other = s.other := fun _ _ => rfl
@[simp] theorem State.setM_mem : ∀ (s : State) (r : MachineCsr), (s.setM r).mem = s.mem := fun _ _ => rfl
@[simp] theorem State.setM_l2 : ∀ (s : State) (r : MachineCsr), (s.setM r).l2 = s.l2 := fun _ _ => rfl
@[simp] theorem State.setM_mtime : ∀ (s : State) (r : MachineCsr), (s.setM r).mtime = s.mtime := fun _ _ => rfl
@[simp] theorem State.setM_clint0 : ∀ (s : State) (r : MachineCsr), (s.setM r).clint0 = s.clint0 := fun _ _ => rfl
@[simp] theorem State.setM_clint1 : ∀ (s : State) (r : MachineCsr), (s.setM r).clint1 = s.clint1 := fun _ _ => rfl
@[simp] theorem State.setM_plic : ∀ (s : State) (r : MachineCsr), (s.setM r).plic = s.plic := fun _ _ => rfl
@[simp] theorem State.setM_mccr2 : ∀ (s : State) (r : MachineCsr), (s.setM r).mccr2 = s.mccr2 := fun _ _ => rfl
@[simp] theorem State.setM_soc : ∀ (s : State) (r : MachineCsr), (s.setM r).soc = s.soc := fun _ _ => rfl
@[simp] theorem State.setM_inputs : ∀ (s : State) (r : MachineCsr), (s.setM r).inputs = s.inputs := fun _ _ => rfl
@[simp] theorem State.setM_draws : ∀ (s : State) (r : MachineCsr), (s.setM r).draws = s.draws := fun _ _ => rfl
@[simp] theorem State.setSup_me : ∀ (s : State) (r : SupervisorCsr), (s.setSup r).me = { s.me with sup := r } := fun _ _ => rfl
@[simp] theorem State.setSup_other : ∀ (s : State) (r : SupervisorCsr), (s.setSup r).other = s.other := fun _ _ => rfl
@[simp] theorem State.setSup_mem : ∀ (s : State) (r : SupervisorCsr), (s.setSup r).mem = s.mem := fun _ _ => rfl
@[simp] theorem State.setSup_l2 : ∀ (s : State) (r : SupervisorCsr), (s.setSup r).l2 = s.l2 := fun _ _ => rfl
@[simp] theorem State.setSup_mtime : ∀ (s : State) (r : SupervisorCsr), (s.setSup r).mtime = s.mtime := fun _ _ => rfl
@[simp] theorem State.setSup_clint0 : ∀ (s : State) (r : SupervisorCsr), (s.setSup r).clint0 = s.clint0 := fun _ _ => rfl
@[simp] theorem State.setSup_clint1 : ∀ (s : State) (r : SupervisorCsr), (s.setSup r).clint1 = s.clint1 := fun _ _ => rfl
@[simp] theorem State.setSup_plic : ∀ (s : State) (r : SupervisorCsr), (s.setSup r).plic = s.plic := fun _ _ => rfl
@[simp] theorem State.setSup_mccr2 : ∀ (s : State) (r : SupervisorCsr), (s.setSup r).mccr2 = s.mccr2 := fun _ _ => rfl
@[simp] theorem State.setSup_soc : ∀ (s : State) (r : SupervisorCsr), (s.setSup r).soc = s.soc := fun _ _ => rfl
@[simp] theorem State.setSup_inputs : ∀ (s : State) (r : SupervisorCsr), (s.setSup r).inputs = s.inputs := fun _ _ => rfl
@[simp] theorem State.setSup_draws : ∀ (s : State) (r : SupervisorCsr), (s.setSup r).draws = s.draws := fun _ _ => rfl
@[simp] theorem State.setTh_me : ∀ (s : State) (r : TheadCsr), (s.setTh r).me = { s.me with th := r } := fun _ _ => rfl
@[simp] theorem State.setTh_other : ∀ (s : State) (r : TheadCsr), (s.setTh r).other = s.other := fun _ _ => rfl
@[simp] theorem State.setTh_mem : ∀ (s : State) (r : TheadCsr), (s.setTh r).mem = s.mem := fun _ _ => rfl
@[simp] theorem State.setTh_l2 : ∀ (s : State) (r : TheadCsr), (s.setTh r).l2 = s.l2 := fun _ _ => rfl
@[simp] theorem State.setTh_mtime : ∀ (s : State) (r : TheadCsr), (s.setTh r).mtime = s.mtime := fun _ _ => rfl
@[simp] theorem State.setTh_clint0 : ∀ (s : State) (r : TheadCsr), (s.setTh r).clint0 = s.clint0 := fun _ _ => rfl
@[simp] theorem State.setTh_clint1 : ∀ (s : State) (r : TheadCsr), (s.setTh r).clint1 = s.clint1 := fun _ _ => rfl
@[simp] theorem State.setTh_plic : ∀ (s : State) (r : TheadCsr), (s.setTh r).plic = s.plic := fun _ _ => rfl
@[simp] theorem State.setTh_mccr2 : ∀ (s : State) (r : TheadCsr), (s.setTh r).mccr2 = s.mccr2 := fun _ _ => rfl
@[simp] theorem State.setTh_soc : ∀ (s : State) (r : TheadCsr), (s.setTh r).soc = s.soc := fun _ _ => rfl
@[simp] theorem State.setTh_inputs : ∀ (s : State) (r : TheadCsr), (s.setTh r).inputs = s.inputs := fun _ _ => rfl
@[simp] theorem State.setTh_draws : ∀ (s : State) (r : TheadCsr), (s.setTh r).draws = s.draws := fun _ _ => rfl
@[simp] theorem State.setPmu_me : ∀ (s : State) (r : Pmu), (s.setPmu r).me = { s.me with pmu := r } := fun _ _ => rfl
@[simp] theorem State.setPmu_other : ∀ (s : State) (r : Pmu), (s.setPmu r).other = s.other := fun _ _ => rfl
@[simp] theorem State.setPmu_mem : ∀ (s : State) (r : Pmu), (s.setPmu r).mem = s.mem := fun _ _ => rfl
@[simp] theorem State.setPmu_l2 : ∀ (s : State) (r : Pmu), (s.setPmu r).l2 = s.l2 := fun _ _ => rfl
@[simp] theorem State.setPmu_mtime : ∀ (s : State) (r : Pmu), (s.setPmu r).mtime = s.mtime := fun _ _ => rfl
@[simp] theorem State.setPmu_clint0 : ∀ (s : State) (r : Pmu), (s.setPmu r).clint0 = s.clint0 := fun _ _ => rfl
@[simp] theorem State.setPmu_clint1 : ∀ (s : State) (r : Pmu), (s.setPmu r).clint1 = s.clint1 := fun _ _ => rfl
@[simp] theorem State.setPmu_plic : ∀ (s : State) (r : Pmu), (s.setPmu r).plic = s.plic := fun _ _ => rfl
@[simp] theorem State.setPmu_mccr2 : ∀ (s : State) (r : Pmu), (s.setPmu r).mccr2 = s.mccr2 := fun _ _ => rfl
@[simp] theorem State.setPmu_soc : ∀ (s : State) (r : Pmu), (s.setPmu r).soc = s.soc := fun _ _ => rfl
@[simp] theorem State.setPmu_inputs : ∀ (s : State) (r : Pmu), (s.setPmu r).inputs = s.inputs := fun _ _ => rfl
@[simp] theorem State.setPmu_draws : ∀ (s : State) (r : Pmu), (s.setPmu r).draws = s.draws := fun _ _ => rfl
@[simp] theorem State.setSmmu_me : ∀ (s : State) (r : TlbCsr), (s.setSmmu r).me = { s.me with smmu := r } := fun _ _ => rfl
@[simp] theorem State.setSmmu_other : ∀ (s : State) (r : TlbCsr), (s.setSmmu r).other = s.other := fun _ _ => rfl
@[simp] theorem State.setSmmu_mem : ∀ (s : State) (r : TlbCsr), (s.setSmmu r).mem = s.mem := fun _ _ => rfl
@[simp] theorem State.setSmmu_l2 : ∀ (s : State) (r : TlbCsr), (s.setSmmu r).l2 = s.l2 := fun _ _ => rfl
@[simp] theorem State.setSmmu_mtime : ∀ (s : State) (r : TlbCsr), (s.setSmmu r).mtime = s.mtime := fun _ _ => rfl
@[simp] theorem State.setSmmu_clint0 : ∀ (s : State) (r : TlbCsr), (s.setSmmu r).clint0 = s.clint0 := fun _ _ => rfl
@[simp] theorem State.setSmmu_clint1 : ∀ (s : State) (r : TlbCsr), (s.setSmmu r).clint1 = s.clint1 := fun _ _ => rfl
@[simp] theorem State.setSmmu_plic : ∀ (s : State) (r : TlbCsr), (s.setSmmu r).plic = s.plic := fun _ _ => rfl
@[simp] theorem State.setSmmu_mccr2 : ∀ (s : State) (r : TlbCsr), (s.setSmmu r).mccr2 = s.mccr2 := fun _ _ => rfl
@[simp] theorem State.setSmmu_soc : ∀ (s : State) (r : TlbCsr), (s.setSmmu r).soc = s.soc := fun _ _ => rfl
@[simp] theorem State.setSmmu_inputs : ∀ (s : State) (r : TlbCsr), (s.setSmmu r).inputs = s.inputs := fun _ _ => rfl
@[simp] theorem State.setSmmu_draws : ∀ (s : State) (r : TlbCsr), (s.setSmmu r).draws = s.draws := fun _ _ => rfl
@[simp] theorem State.setFp_me : ∀ (s : State) (r : FpCsr), (s.setFp r).me = Hart.dirtyFp { s.me with fp := r } := fun _ _ => rfl
@[simp] theorem State.setFp_other : ∀ (s : State) (r : FpCsr), (s.setFp r).other = s.other := fun _ _ => rfl
@[simp] theorem State.setFp_mem : ∀ (s : State) (r : FpCsr), (s.setFp r).mem = s.mem := fun _ _ => rfl
@[simp] theorem State.setFp_l2 : ∀ (s : State) (r : FpCsr), (s.setFp r).l2 = s.l2 := fun _ _ => rfl
@[simp] theorem State.setFp_mtime : ∀ (s : State) (r : FpCsr), (s.setFp r).mtime = s.mtime := fun _ _ => rfl
@[simp] theorem State.setFp_clint0 : ∀ (s : State) (r : FpCsr), (s.setFp r).clint0 = s.clint0 := fun _ _ => rfl
@[simp] theorem State.setFp_clint1 : ∀ (s : State) (r : FpCsr), (s.setFp r).clint1 = s.clint1 := fun _ _ => rfl
@[simp] theorem State.setFp_plic : ∀ (s : State) (r : FpCsr), (s.setFp r).plic = s.plic := fun _ _ => rfl
@[simp] theorem State.setFp_mccr2 : ∀ (s : State) (r : FpCsr), (s.setFp r).mccr2 = s.mccr2 := fun _ _ => rfl
@[simp] theorem State.setFp_soc : ∀ (s : State) (r : FpCsr), (s.setFp r).soc = s.soc := fun _ _ => rfl
@[simp] theorem State.setFp_inputs : ∀ (s : State) (r : FpCsr), (s.setFp r).inputs = s.inputs := fun _ _ => rfl
@[simp] theorem State.setFp_draws : ∀ (s : State) (r : FpCsr), (s.setFp r).draws = s.draws := fun _ _ => rfl
@[simp] theorem State.setMyL1_me : ∀ (s : State) (c : List CacheLine), (s.setMyL1 c).me = { s.me with l1d := c } := fun _ _ => rfl
@[simp] theorem State.setMyL1_other : ∀ (s : State) (c : List CacheLine), (s.setMyL1 c).other = s.other := fun _ _ => rfl
@[simp] theorem State.setMyL1_mem : ∀ (s : State) (c : List CacheLine), (s.setMyL1 c).mem = s.mem := fun _ _ => rfl
@[simp] theorem State.setMyL1_l2 : ∀ (s : State) (c : List CacheLine), (s.setMyL1 c).l2 = s.l2 := fun _ _ => rfl
@[simp] theorem State.setMyL1_mtime : ∀ (s : State) (c : List CacheLine), (s.setMyL1 c).mtime = s.mtime := fun _ _ => rfl
@[simp] theorem State.setMyL1_clint0 : ∀ (s : State) (c : List CacheLine), (s.setMyL1 c).clint0 = s.clint0 := fun _ _ => rfl
@[simp] theorem State.setMyL1_clint1 : ∀ (s : State) (c : List CacheLine), (s.setMyL1 c).clint1 = s.clint1 := fun _ _ => rfl
@[simp] theorem State.setMyL1_plic : ∀ (s : State) (c : List CacheLine), (s.setMyL1 c).plic = s.plic := fun _ _ => rfl
@[simp] theorem State.setMyL1_mccr2 : ∀ (s : State) (c : List CacheLine), (s.setMyL1 c).mccr2 = s.mccr2 := fun _ _ => rfl
@[simp] theorem State.setMyL1_soc : ∀ (s : State) (c : List CacheLine), (s.setMyL1 c).soc = s.soc := fun _ _ => rfl
@[simp] theorem State.setMyL1_inputs : ∀ (s : State) (c : List CacheLine), (s.setMyL1 c).inputs = s.inputs := fun _ _ => rfl
@[simp] theorem State.setMyL1_draws : ∀ (s : State) (c : List CacheLine), (s.setMyL1 c).draws = s.draws := fun _ _ => rfl
@[simp] theorem State.refetchMine_me : ∀ (s : State), (s.refetchMine).me = s.me.drain := fun _ => rfl
@[simp] theorem State.refetchMine_other : ∀ (s : State), (s.refetchMine).other = s.other := fun _ => rfl
@[simp] theorem State.refetchMine_mem : ∀ (s : State), (s.refetchMine).mem = s.mem := fun _ => rfl
@[simp] theorem State.refetchMine_l2 : ∀ (s : State), (s.refetchMine).l2 = s.l2 := fun _ => rfl
@[simp] theorem State.refetchMine_mtime : ∀ (s : State), (s.refetchMine).mtime = s.mtime := fun _ => rfl
@[simp] theorem State.refetchMine_clint0 : ∀ (s : State), (s.refetchMine).clint0 = s.clint0 := fun _ => rfl
@[simp] theorem State.refetchMine_clint1 : ∀ (s : State), (s.refetchMine).clint1 = s.clint1 := fun _ => rfl
@[simp] theorem State.refetchMine_plic : ∀ (s : State), (s.refetchMine).plic = s.plic := fun _ => rfl
@[simp] theorem State.refetchMine_mccr2 : ∀ (s : State), (s.refetchMine).mccr2 = s.mccr2 := fun _ => rfl
@[simp] theorem State.refetchMine_soc : ∀ (s : State), (s.refetchMine).soc = s.soc := fun _ => rfl
@[simp] theorem State.refetchMine_inputs : ∀ (s : State), (s.refetchMine).inputs = s.inputs := fun _ => rfl
@[simp] theorem State.refetchMine_draws : ∀ (s : State), (s.refetchMine).draws = s.draws := fun _ => rfl
@[simp] theorem State.drawn_me : ∀ (s : State), (s.drawn).me = s.me := fun _ => rfl
@[simp] theorem State.drawn_other : ∀ (s : State), (s.drawn).other = s.other := fun _ => rfl
@[simp] theorem State.drawn_mem : ∀ (s : State), (s.drawn).mem = s.mem := fun _ => rfl
@[simp] theorem State.drawn_l2 : ∀ (s : State), (s.drawn).l2 = s.l2 := fun _ => rfl
@[simp] theorem State.drawn_mtime : ∀ (s : State), (s.drawn).mtime = s.mtime := fun _ => rfl
@[simp] theorem State.drawn_clint0 : ∀ (s : State), (s.drawn).clint0 = s.clint0 := fun _ => rfl
@[simp] theorem State.drawn_clint1 : ∀ (s : State), (s.drawn).clint1 = s.clint1 := fun _ => rfl
@[simp] theorem State.drawn_plic : ∀ (s : State), (s.drawn).plic = s.plic := fun _ => rfl
@[simp] theorem State.drawn_mccr2 : ∀ (s : State), (s.drawn).mccr2 = s.mccr2 := fun _ => rfl
@[simp] theorem State.drawn_soc : ∀ (s : State), (s.drawn).soc = s.soc := fun _ => rfl
@[simp] theorem State.drawn_inputs : ∀ (s : State), (s.drawn).inputs = s.inputs := fun _ => rfl
@[simp] theorem State.setOtherL1_me : ∀ (s : State) (c : List CacheLine), (s.setOtherL1 c).me = s.me := fun _ _ => rfl
@[simp] theorem State.setOtherL1_other : ∀ (s : State) (c : List CacheLine), (s.setOtherL1 c).other = { s.other with l1d := c } := fun _ _ => rfl
@[simp] theorem State.setOtherL1_mem : ∀ (s : State) (c : List CacheLine), (s.setOtherL1 c).mem = s.mem := fun _ _ => rfl
@[simp] theorem State.setOtherL1_l2 : ∀ (s : State) (c : List CacheLine), (s.setOtherL1 c).l2 = s.l2 := fun _ _ => rfl
@[simp] theorem State.setOtherL1_mtime : ∀ (s : State) (c : List CacheLine), (s.setOtherL1 c).mtime = s.mtime := fun _ _ => rfl
@[simp] theorem State.setOtherL1_clint0 : ∀ (s : State) (c : List CacheLine), (s.setOtherL1 c).clint0 = s.clint0 := fun _ _ => rfl
@[simp] theorem State.setOtherL1_clint1 : ∀ (s : State) (c : List CacheLine), (s.setOtherL1 c).clint1 = s.clint1 := fun _ _ => rfl
@[simp] theorem State.setOtherL1_plic : ∀ (s : State) (c : List CacheLine), (s.setOtherL1 c).plic = s.plic := fun _ _ => rfl
@[simp] theorem State.setOtherL1_mccr2 : ∀ (s : State) (c : List CacheLine), (s.setOtherL1 c).mccr2 = s.mccr2 := fun _ _ => rfl
@[simp] theorem State.setOtherL1_soc : ∀ (s : State) (c : List CacheLine), (s.setOtherL1 c).soc = s.soc := fun _ _ => rfl
@[simp] theorem State.setOtherL1_inputs : ∀ (s : State) (c : List CacheLine), (s.setOtherL1 c).inputs = s.inputs := fun _ _ => rfl
@[simp] theorem State.setOtherL1_draws : ∀ (s : State) (c : List CacheLine), (s.setOtherL1 c).draws = s.draws := fun _ _ => rfl
@[simp] theorem State.refetchOther_me : ∀ (s : State), (s.refetchOther).me = s.me := fun _ => rfl
@[simp] theorem State.refetchOther_other : ∀ (s : State), (s.refetchOther).other = s.other.drain := fun _ => rfl
@[simp] theorem State.refetchOther_mem : ∀ (s : State), (s.refetchOther).mem = s.mem := fun _ => rfl
@[simp] theorem State.refetchOther_l2 : ∀ (s : State), (s.refetchOther).l2 = s.l2 := fun _ => rfl
@[simp] theorem State.refetchOther_mtime : ∀ (s : State), (s.refetchOther).mtime = s.mtime := fun _ => rfl
@[simp] theorem State.refetchOther_clint0 : ∀ (s : State), (s.refetchOther).clint0 = s.clint0 := fun _ => rfl
@[simp] theorem State.refetchOther_clint1 : ∀ (s : State), (s.refetchOther).clint1 = s.clint1 := fun _ => rfl
@[simp] theorem State.refetchOther_plic : ∀ (s : State), (s.refetchOther).plic = s.plic := fun _ => rfl
@[simp] theorem State.refetchOther_mccr2 : ∀ (s : State), (s.refetchOther).mccr2 = s.mccr2 := fun _ => rfl
@[simp] theorem State.refetchOther_soc : ∀ (s : State), (s.refetchOther).soc = s.soc := fun _ => rfl
@[simp] theorem State.refetchOther_inputs : ∀ (s : State), (s.refetchOther).inputs = s.inputs := fun _ => rfl
@[simp] theorem State.refetchOther_draws : ∀ (s : State), (s.refetchOther).draws = s.draws := fun _ => rfl
@[simp] theorem Hart.drain_fetched : ∀ h : Hart, h.drain.fetched = [] := fun _ => rfl
@[simp] theorem State.complete_me : ∀ s : State, s.complete.me = s.me := fun _ => rfl
@[simp] theorem State.complete_mem : ∀ s : State, s.complete.mem = s.mem := fun _ => rfl
@[simp] theorem State.complete_mtime : ∀ s : State, s.complete.mtime = s.mtime := fun _ => rfl
@[simp] theorem State.complete_clint0 : ∀ s : State, s.complete.clint0 = s.clint0 := fun _ => rfl
@[simp] theorem State.complete_clint1 : ∀ s : State, s.complete.clint1 = s.clint1 := fun _ => rfl
@[simp] theorem State.complete_plic : ∀ s : State, s.complete.plic = s.plic := fun _ => rfl
@[simp] theorem State.complete_mccr2 : ∀ s : State, s.complete.mccr2 = s.mccr2 := fun _ => rfl
@[simp] theorem State.complete_soc : ∀ s : State, s.complete.soc = s.soc := fun _ => rfl
@[simp] theorem State.complete_inputs : ∀ s : State, s.complete.inputs = s.inputs := fun _ => rfl
@[simp] theorem State.complete_draws : ∀ s : State, s.complete.draws = s.draws := fun _ => rfl
@[simp] theorem State.complete_other : ∀ s : State, s.complete.other = s.other.settle := fun _ => rfl
@[simp] theorem State.complete_l2 : ∀ s : State, s.complete.l2 = s.l2 := fun _ => rfl
@[simp] theorem State.retireInto_other : ∀ (s : State) (c : Csr), (s.retireInto c).other = s.other := by
  intro s c
  unfold State.retireInto
  split <;> rfl
@[simp] theorem State.retireInto_mem : ∀ (s : State) (c : Csr), (s.retireInto c).mem = s.mem := by
  intro s c
  unfold State.retireInto
  split <;> rfl
@[simp] theorem State.retireInto_l2 : ∀ (s : State) (c : Csr), (s.retireInto c).l2 = s.l2 := by
  intro s c
  unfold State.retireInto
  split <;> rfl
@[simp] theorem State.retireInto_mtime : ∀ (s : State) (c : Csr), (s.retireInto c).mtime = s.mtime := by
  intro s c
  unfold State.retireInto
  split <;> rfl
@[simp] theorem State.retireInto_clint0 : ∀ (s : State) (c : Csr), (s.retireInto c).clint0 = s.clint0 := by
  intro s c
  unfold State.retireInto
  split <;> rfl
@[simp] theorem State.retireInto_clint1 : ∀ (s : State) (c : Csr), (s.retireInto c).clint1 = s.clint1 := by
  intro s c
  unfold State.retireInto
  split <;> rfl
@[simp] theorem State.retireInto_plic : ∀ (s : State) (c : Csr), (s.retireInto c).plic = s.plic := by
  intro s c
  unfold State.retireInto
  split <;> rfl
@[simp] theorem State.retireInto_mccr2 : ∀ (s : State) (c : Csr), (s.retireInto c).mccr2 = s.mccr2 := by
  intro s c
  unfold State.retireInto
  split <;> rfl
@[simp] theorem State.retireInto_soc : ∀ (s : State) (c : Csr), (s.retireInto c).soc = s.soc := by
  intro s c
  unfold State.retireInto
  split <;> rfl
@[simp] theorem State.retireInto_inputs : ∀ (s : State) (c : Csr), (s.retireInto c).inputs = s.inputs := by
  intro s c
  unfold State.retireInto
  split <;> rfl
@[simp] theorem State.retireInto_draws : ∀ (s : State) (c : Csr), (s.retireInto c).draws = s.draws := by
  intro s c
  unfold State.retireInto
  split <;> rfl
@[simp] theorem State.retireInto_me_pc : ∀ (s : State) (c : Csr), (s.retireInto c).me.pc = s.me.pc + 4 := by
  intro s c
  unfold State.retireInto
  split <;> simp
@[simp] theorem State.retireInto_me_id : ∀ (s : State) (c : Csr), (s.retireInto c).me.id = s.me.id := by
  intro s c
  unfold State.retireInto
  split <;> simp
@[simp] theorem State.retireInto_me_priv : ∀ (s : State) (c : Csr), (s.retireInto c).me.priv = s.me.priv := by
  intro s c
  unfold State.retireInto
  split <;> simp
@[simp] theorem State.retireInto_me_x : ∀ (s : State) (c : Csr), (s.retireInto c).me.x = s.me.x := by
  intro s c
  unfold State.retireInto
  split <;> simp
@[simp] theorem State.retireInto_me_f : ∀ (s : State) (c : Csr), (s.retireInto c).me.f = s.me.f := by
  intro s c
  unfold State.retireInto
  split <;> simp
@[simp] theorem State.retireInto_me_fp : ∀ (s : State) (c : Csr), (s.retireInto c).me.fp = s.me.fp := by
  intro s c
  unfold State.retireInto
  split <;> simp
@[simp] theorem State.retireInto_me_m : ∀ (s : State) (c : Csr), (s.retireInto c).me.m = s.me.m := by
  intro s c
  unfold State.retireInto
  split <;> simp
@[simp] theorem State.retireInto_me_sup : ∀ (s : State) (c : Csr), (s.retireInto c).me.sup = s.me.sup := by
  intro s c
  unfold State.retireInto
  split <;> simp
@[simp] theorem State.retireInto_me_pmp : ∀ (s : State) (c : Csr), (s.retireInto c).me.pmp = s.me.pmp := by
  intro s c
  unfold State.retireInto
  split <;> simp
@[simp] theorem State.retireInto_me_smmu : ∀ (s : State) (c : Csr), (s.retireInto c).me.smmu = s.me.smmu := by
  intro s c
  unfold State.retireInto
  split <;> simp
@[simp] theorem State.retireInto_me_tlb : ∀ (s : State) (c : Csr), (s.retireInto c).me.tlb = s.me.tlb := by
  intro s c
  unfold State.retireInto
  split <;> simp
@[simp] theorem State.retireInto_me_lmon : ∀ (s : State) (c : Csr), (s.retireInto c).me.lmon = s.me.lmon := by
  intro s c
  unfold State.retireInto
  split <;> simp
@[simp] theorem State.retireInto_me_gmon : ∀ (s : State) (c : Csr), (s.retireInto c).me.gmon = s.me.gmon := by
  intro s c
  unfold State.retireInto
  split <;> simp
@[simp] theorem State.retireInto_me_l1d : ∀ (s : State) (c : Csr), (s.retireInto c).me.l1d = s.me.l1d := by
  intro s c
  unfold State.retireInto
  split <;> simp
@[simp] theorem State.retireInto_me_icache : ∀ (s : State) (c : Csr), (s.retireInto c).me.icache = s.me.icache := by
  intro s c
  unfold State.retireInto
  split <;> simp
@[simp] theorem State.retireInto_me_fetched : ∀ (s : State) (c : Csr), (s.retireInto c).me.fetched = s.me.fetched := by
  intro s c
  unfold State.retireInto
  split <;> simp
@[simp] theorem State.retireInto_me_oldPtes : ∀ (s : State) (c : Csr), (s.retireInto c).me.oldPtes = s.me.oldPtes := by
  intro s c
  unfold State.retireInto
  split <;> simp
@[simp] theorem State.retireInto_me_lowPower : ∀ (s : State) (c : Csr), (s.retireInto c).me.lowPower = s.me.lowPower := by
  intro s c
  unfold State.retireInto
  split <;> simp
@[simp] theorem State.retireInto_me_inReset : ∀ (s : State) (c : Csr), (s.retireInto c).me.inReset = s.me.inReset := by
  intro s c
  unfold State.retireInto
  split <;> simp
@[simp] theorem State.drawn_draws : ∀ s : State, s.drawn.draws = s.draws + 1 := fun _ => rfl

/-! ### Registers -/

/-- Reading an integer register after writing one (10_state:R21). -/
theorem Hart.getX_setX (h : Hart) (r q : Reg) (v : Word) :
    (h.setX r v).getX q = if q = 0 then 0 else if q = r then v else h.getX q := by
  unfold Hart.getX Hart.setX
  by_cases hq : q = 0
  · simp only [hq, if_true]
  · simp only [hq, if_false]
    by_cases hr : r = 0
    · have : ¬ q = r := fun e => hq (e.trans hr)
      simp only [hr, if_true, hq, if_false]
    · simp only [hr, if_false]
      by_cases he : q = r
      · subst he
        simp only [if_true]
        exact Vector.getElem_set_self q.isLt
      · have : r.toNat ≠ q.toNat := fun h => he (BitVec.eq_of_toNat_eq h.symm)
        simp only [he, if_false]
        exact Vector.getElem_set_ne r.isLt q.isLt this

/-- Reading a floating-point register after writing one (10_state:R26). -/
theorem Hart.getF_setF (h : Hart) (r q : Reg) (v : Word) : (h.setF r v).getF q = if q = r then v else h.getF q := by
  unfold Hart.getF Hart.setF
  by_cases he : q = r
  · subst he
    simp
  · have : r.toNat ≠ q.toNat := fun h => he (BitVec.eq_of_toNat_eq h.symm)
    simp only [he, if_false]
    exact Vector.getElem_set_ne r.isLt q.isLt this

theorem Hart.getX_zero (h : Hart) : h.getX 0 = 0 := by simp only [Hart.getX, if_true]
theorem State.getX_zero (s : State) : s.getX 0 = 0 := Hart.getX_zero s.me

/-- Registers depend on the register files alone. -/
theorem Hart.getX_congr {h t : Hart} (e : t.x = h.x) (q : Reg) : t.getX q = h.getX q := by unfold Hart.getX; rw [e]
theorem Hart.getF_congr {h t : Hart} (e : t.f = h.f) (q : Reg) : t.getF q = h.getF q := by unfold Hart.getF; rw [e]
theorem State.getX_congr {s t : State} (e : t.me.x = s.me.x) (q : Reg) : t.getX q = s.getX q := Hart.getX_congr e q
theorem State.getF_congr {s t : State} (e : t.me.f = s.me.f) (q : Reg) : t.getF q = s.getF q := Hart.getF_congr e q

theorem regAfter_zero (s : State) (ws : List (Reg × Word)) : regAfter s ws 0 = 0 := by simp only [regAfter, if_true]

/-- Nothing written. -/
theorem regAfter_nil (s : State) (q : Reg) : regAfter s [] q = s.getX q := by
  unfold regAfter
  split
  · next h => rw [h, State.getX_zero]
  · rfl

/-- The write named first decides. -/
theorem regAfter_cons (s : State) (r : Reg) (v : Word) (ws : List (Reg × Word)) (q : Reg) :
    regAfter s ((r, v) :: ws) q = if q = 0 then 0 else if q = r then v else regAfter s ws q := by
  unfold regAfter
  by_cases h : q = 0
  · simp only [h, if_true]
  · simp only [h, if_false, List.find?_cons]
    by_cases h2 : q = r
    · simp only [h2, beq_self_eq_true, if_true]
    · have : (r == q) = false := by simpa using fun e : r = q => h2 e.symm
      simp only [this, h2, if_false]

/-- Registers after a write, in the words of the claims. -/
theorem State.getX_setX (s : State) (r q : Reg) (v : Word) : (s.setX r v).getX q = regAfter s [(r, v)] q := by
  rw [regAfter_cons, regAfter_nil]
  exact Hart.getX_setX s.me r q v

/-- Registers after two writes: the one named first comes last. -/
theorem State.getX_setX_setX (s : State) (r p q : Reg) (v w : Word) :
    ((s.setX p w).setX r v).getX q = regAfter s [(r, v), (p, w)] q := by
  rw [regAfter_cons, ← State.getX_setX]
  exact Hart.getX_setX (s.setX p w).me r q v

/-! ### Counters: what an executed instruction moves -/

/-- A hart after counting differs in the counters alone. -/
theorem Hart.tick_eq (h : Hart) : h.tick = { h.moved h.tick with pc := h.pc } := by
  unfold Hart.tick Hart.moved Hart.tickInstret Hart.tickCycles
  split <;> split <;> rfl

/-- A hart after counting clock cycles. -/
theorem Hart.tickCycles_eq (h : Hart) (k : Nat) :
    h.tickCycles k = { h with pmu := { h.pmu with mcycle := (h.tickCycles k).pmu.mcycle },
                              th := { h.th with mcounterof := (h.tickCycles k).th.mcounterof } } := by
  unfold Hart.tickCycles
  split <;> rfl

/-- An instruction that follows on moves the program counter and the counters alone. -/
theorem State.retire_eq (s : State) (n : Nat) : s.retire n = { s with me := s.me.moved (s.retire n).me } := by
  show State.mk _ _ _ _ _ _ _ _ _ _ _ _ = _
  unfold State.retire State.tick State.setPc
  dsimp only
  rw [Hart.tick_eq]
  rfl

/-- So does a write of a register, one that does not count included. -/
theorem State.retireInto_eq (s : State) (c : Csr) : s.retireInto c = { s with me := s.me.moved (s.retireInto c).me } := by
  unfold State.retireInto
  split
  · show State.mk _ _ _ _ _ _ _ _ _ _ _ _ = _
    unfold State.setPc
    dsimp only
    rw [Hart.tickCycles_eq]
    rfl
  · exact State.retire_eq s 4

/-- An instruction that jumps moves the program counter and the counters alone. -/
theorem State.jump_eq (s : State) (p : Word) : s.jump p = { s with me := s.me.moved (s.jump p).me } := by
  show State.mk _ _ _ _ _ _ _ _ _ _ _ _ = _
  unfold State.jump State.tick State.setPc
  dsimp only
  rw [Hart.tick_eq]
  rfl

end Sys2Proof.Machine
end

