-- ==== Sys2Proof/Laws/Memory.lean ====
section
/-! SUPPORT. Memory: reading after writing, the canonical form, little-endian values. -/

namespace Sys2Proof.Machine

/-! ### One byte -/

theorem Memory.read_put (a : Nat) (b : Byte) (m : List Host.Cell) (q : Nat) :
    Memory.read (Memory.put a b m) q = if q = a then b else Memory.read m q := by
  induction m with
  | nil =>
    by_cases h : q = a
    · simp [Memory.put, Memory.read, h]
    · have h' : ¬ a = q := fun e => h e.symm
      simp [Memory.put, Memory.read, h, h']
  | cons c rest ih =>
    unfold Memory.put
    split
    · by_cases h : q = a
      · simp [Memory.read, h]
      · have h' : ¬ a = q := fun e => h e.symm
        simp [Memory.read, h, h']
    · split
      · next h1 h2 =>
        by_cases h : q = a
        · simp [Memory.read, h]
        · have h' : ¬ a = q := fun e => h e.symm
          simp [Memory.read, h, h', ← h2]
      · next h1 h2 =>
        by_cases h : c.1 = q
        · have : ¬ q = a := by omega
          simp [Memory.read, h, this]
        · simp [Memory.read, h, ih]

theorem Memory.read_drop (a : Nat) (m : List Host.Cell) (q : Nat) :
    Memory.read (Memory.drop a m) q = if q = a then Memory.unlisted else Memory.read m q := by
  induction m with
  | nil => simp [Memory.drop, Memory.read]
  | cons c rest ih =>
    unfold Memory.drop
    by_cases h : c.1 = a
    · rw [if_pos h, ih]
      by_cases h2 : q = a
      · simp [h2]
      · have : ¬ c.1 = q := by omega
        simp [h2, Memory.read, this]
    · rw [if_neg h]
      by_cases h2 : c.1 = q
      · have : ¬ q = a := by omega
        simp [Memory.read, h2, this]
      · simp [Memory.read, h2, ih]

/-- A byte after a write of one byte (20_memory:R180). -/
theorem Memory.read_write (a : Nat) (b : Byte) (m : List Host.Cell) (q : Nat) :
    Memory.read (Memory.write a b m) q = if q = a then b else Memory.read m q := by
  unfold Memory.write
  split
  · next h => rw [Memory.read_drop, h]
  · exact Memory.read_put a b m q

/-- A byte after a write of several (20_memory:R180). -/
theorem Memory.read_writeBytes (a : Nat) (bs : List Byte) (m : List Host.Cell) (q : Nat) :
    Memory.read (Memory.writeBytes a bs m) q =
      if a ≤ q ∧ q < a + bs.length then bs.getD (q - a) 0 else Memory.read m q := by
  induction bs generalizing a m with
  | nil => rw [if_neg (by simp)]; rfl
  | cons b rest ih =>
    unfold Memory.writeBytes
    rw [ih, Memory.read_write]
    simp only [List.length_cons]
    by_cases h : q = a
    · subst h
      rw [if_neg (by omega), if_pos rfl, if_pos (by omega)]
      simp
    · by_cases h2 : a + 1 ≤ q ∧ q < a + 1 + rest.length
      · rw [if_pos h2, if_pos (by omega)]
        obtain ⟨k, hk⟩ : ∃ k, q - a = k + 1 := ⟨q - a - 1, by omega⟩
        have : q - (a + 1) = k := by omega
        rw [hk, this]
        rfl
      · rw [if_neg h2, if_neg h, if_neg (by omega)]

/-! ### The canonical form -/

/-- The canonical form, one cell at a time: every cell is listed for a reason and lies below those after it. -/
theorem Memory.wf_cons {c : Host.Cell} {m : List Host.Cell} :
    Memory.wf (c :: m) = true ↔ c.2 ≠ Memory.unlisted ∧ (∀ d ∈ m, c.1 < d.1) ∧ Memory.wf m = true := by
  induction m generalizing c with
  | nil => simp [Memory.wf]
  | cons d rest ih =>
    constructor
    · intro h
      simp only [Memory.wf, Bool.and_eq_true, decide_eq_true_eq, bne_iff_ne] at h
      obtain ⟨⟨h1, h2⟩, h3⟩ := h
      refine ⟨h1, ?_, h3⟩
      intro e he
      rcases List.mem_cons.1 he with rfl | he
      · exact h2
      · exact h2.trans ((ih.1 h3).2.1 e he)
    · rintro ⟨h1, h2, h3⟩
      simp only [Memory.wf, Bool.and_eq_true, decide_eq_true_eq, bne_iff_ne]
      exact ⟨⟨h1, h2 d (by simp)⟩, h3⟩

theorem Memory.mem_drop {a : Nat} {m : List Host.Cell} {c : Host.Cell} (h : c ∈ Memory.drop a m) : c ∈ m := by
  induction m with
  | nil => simp [Memory.drop] at h
  | cons d rest ih =>
    unfold Memory.drop at h
    split at h
    · exact List.mem_cons_of_mem _ (ih h)
    · rcases List.mem_cons.1 h with rfl | h
      · simp
      · exact List.mem_cons_of_mem _ (ih h)

theorem Memory.mem_put {a : Nat} {b : Byte} {m : List Host.Cell} {c : Host.Cell} (h : c ∈ Memory.put a b m) :
    c = (a, b) ∨ c ∈ m := by
  induction m with
  | nil => simpa [Memory.put] using h
  | cons d rest ih =>
    unfold Memory.put at h
    split at h
    · simpa using h
    · split at h
      · rcases List.mem_cons.1 h with rfl | h
        · simp
        · exact .inr (List.mem_cons_of_mem _ h)
      · rcases List.mem_cons.1 h with rfl | h
        · simp
        · rcases ih h with h | h
          · exact .inl h
          · exact .inr (List.mem_cons_of_mem _ h)

theorem Memory.wf_drop (a : Nat) (m : List Host.Cell) (h : Memory.wf m = true) : Memory.wf (Memory.drop a m) = true := by
  induction m with
  | nil => rfl
  | cons c rest ih =>
    have hc := Memory.wf_cons.1 h
    unfold Memory.drop
    split
    · exact ih hc.2.2
    · exact Memory.wf_cons.2 ⟨hc.1, fun d hd => hc.2.1 d (Memory.mem_drop hd), ih hc.2.2⟩

theorem Memory.wf_put (a : Nat) (b : Byte) (m : List Host.Cell) (hb : b ≠ Memory.unlisted) (h : Memory.wf m = true) :
    Memory.wf (Memory.put a b m) = true := by
  induction m with
  | nil => simpa [Memory.put, Memory.wf] using hb
  | cons c rest ih =>
    have hc := Memory.wf_cons.1 h
    unfold Memory.put
    split
    · next h1 =>
      refine Memory.wf_cons.2 ⟨hb, ?_, h⟩
      intro d hd
      rcases List.mem_cons.1 hd with rfl | hd
      · exact h1
      · exact h1.trans (hc.2.1 d hd)
    · split
      · next h1 h2 => exact Memory.wf_cons.2 ⟨hb, fun d hd => h2 ▸ hc.2.1 d hd, hc.2.2⟩
      · next h1 h2 =>
        refine Memory.wf_cons.2 ⟨hc.1, ?_, ih hc.2.2⟩
        intro d hd
        rcases Memory.mem_put hd with rfl | hd
        · show c.1 < a
          omega
        · exact hc.2.1 d hd

/-- A write keeps the canonical form (log 7). -/
theorem Memory.wf_write (a : Nat) (b : Byte) (m : List Host.Cell) (h : Memory.wf m = true) :
    Memory.wf (Memory.write a b m) = true := by
  unfold Memory.write
  split
  · exact Memory.wf_drop a m h
  · next hb => exact Memory.wf_put a b m hb h

/-- A write of several bytes keeps it too. -/
theorem Memory.wf_writeBytes (a : Nat) (bs : List Byte) (m : List Host.Cell) (h : Memory.wf m = true) :
    Memory.wf (Memory.writeBytes a bs m) = true := by
  induction bs generalizing a m with
  | nil => exact h
  | cons b rest ih => exact ih _ _ (Memory.wf_write a b m h)

/-- The memory of the reset state has the canonical form. -/
theorem reset_memory_wf : Memory.wf State.reset.mem = true := rfl

/-! ### Little-endian values -/

theorem bytesLe_length (v n : Nat) : (bytesLe v n).length = n := by
  induction n generalizing v with
  | zero => rfl
  | succ n ih => simp [bytesLe, ih]

/-- Byte `k` of a value (20_memory:R181). -/
theorem bytesLe_getD (v n k : Nat) (h : k < n) : (bytesLe v n).getD k 0 = BitVec.ofNat 8 (v / 256 ^ k) := by
  induction n generalizing v k with
  | zero => omega
  | succ n ih =>
    cases k with
    | zero => simp [bytesLe]
    | succ k =>
      have := ih (v / 256) k (by omega)
      simp only [bytesLe, List.getD_cons_succ, this, Nat.div_div_eq_div_mul, pow_succ, Nat.mul_comm]

/-- A number read is one of that many bytes. -/
theorem numberAt_lt (f : Nat → Byte) (a n : Nat) : numberAt f a n < 2 ^ (8 * n) := by
  induction n generalizing a with
  | zero => simp [numberAt]
  | succ n ih =>
    have h1 := ih (a + 1)
    have h2 := (f a).isLt
    have : 2 ^ (8 * (n + 1)) = 256 * 2 ^ (8 * n) := by rw [Nat.mul_add, pow_add]; ring
    simp only [numberAt]
    omega

/-- The same bytes make the same number. -/
theorem numberAt_congr {f g : Nat → Byte} {a n : Nat} (h : ∀ q, a ≤ q → q < a + n → f q = g q) :
    numberAt f a n = numberAt g a n := by
  induction n generalizing a with
  | zero => rfl
  | succ n ih =>
    simp only [numberAt]
    rw [h a (by omega) (by omega), ih fun q h1 h2 => h q (by omega) (by omega)]

/-- The bytes of a value make up the value. -/
theorem numberAt_of_bytes {f : Nat → Byte} {a v n : Nat} (h : ∀ k, k < n → f (a + k) = BitVec.ofNat 8 (v / 256 ^ k)) :
    numberAt f a n = v % 2 ^ (8 * n) := by
  induction n generalizing a v with
  | zero => simp [numberAt, Nat.mod_one]
  | succ n ih =>
    have h0 := h 0 (by omega)
    have ih' := ih (a := a + 1) (v := v / 256) fun k hk => by
      have := h (k + 1) (by omega)
      rw [Nat.add_assoc, Nat.add_comm 1 k, this, Nat.div_div_eq_div_mul, pow_succ, Nat.mul_comm]
    simp only [numberAt, ih']
    simp only [Nat.add_zero, pow_zero, Nat.div_one] at h0
    have e : 2 ^ (8 * (n + 1)) = 256 * 2 ^ (8 * n) := by rw [Nat.mul_add, pow_add]; ring
    rw [h0, e, Nat.mod_mul]
    simp

end Sys2Proof.Machine
end

