-- ==== Sys2Proof/Laws/Lines.lean ====
section
/-! SUPPORT. The lines of the caches: the byte a cache holds after lines are written back, taken out, brought in or stored in, and
what reads and stores do to the byte every access finds. -/

namespace Sys2Proof.Machine

/-! ### One cache -/

theorem lineData_getD (f : Nat → Byte) (n i : Nat) (h : i < 64) : (lineData f n).getD i 0 = f (64 * n + i) := by
  unfold lineData
  simp [List.getD_eq_getElem?_getD, h]

theorem lineData_length (f : Nat → Byte) (n : Nat) : (lineData f n).length = 64 := by simp [lineData]

/-- The bytes of a line whose data `f` has. -/
theorem byteAt_lineData {l : CacheLine} {f : Nat → Byte} {n a : Nat} (h : l.data = lineData f n) (ha : lineOf a = n) :
    l.byteAt a = f a := by
  unfold CacheLine.byteAt
  rw [h, lineData_getD f n (a % 64) (Nat.mod_lt _ (by decide))]
  unfold lineOf at ha
  congr 1
  omega

theorem byteAt_clean {f : Nat → Byte} {n a : Nat} {w : Bool} (ha : lineOf a = n) : (CacheLine.clean f n w).byteAt a = f a :=
  byteAt_lineData rfl ha

/-- The bytes of a line after others are put in it. -/
theorem byteAt_patched {l : CacheLine} {a q : Nat} {bs : List Byte} (hq : lineOf q = l.line) :
    (l.patched a bs).byteAt q = if a ≤ q ∧ q < a + bs.length then bs.getD (q - a) 0 else l.byteAt q :=
  byteAt_lineData (l := l.patched a bs)
    (f := fun q => if a ≤ q ∧ q < a + bs.length then bs.getD (q - a) 0 else l.byteAt q) rfl hq

/-- The bytes of a line after a store in it. -/
theorem byteAt_stored {l : CacheLine} {a q : Nat} {bs : List Byte} (hq : lineOf q = l.line) :
    (l.stored a bs).byteAt q = if a ≤ q ∧ q < a + bs.length then bs.getD (q - a) 0 else l.byteAt q := byteAt_patched hq

theorem byteIn_nil (a : Nat) : byteIn [] a = none := rfl

theorem byteIn_cons (l : CacheLine) (c : List CacheLine) (a : Nat) :
    byteIn (l :: c) a = if l.line = lineOf a then some (l.byteAt a) else byteIn c a := by
  unfold byteIn findLine
  by_cases h : l.line = lineOf a
  · simp [h]
  · simp [h, show (l.line == lineOf a) = false by simpa using h]

theorem dirtyByte_cons (l : CacheLine) (c : List CacheLine) (a : Nat) :
    dirtyByte (l :: c) a = if l.line = lineOf a ∧ l.dirty = true then some (l.byteAt a) else dirtyByte c a := by
  unfold dirtyByte
  by_cases h : l.line = lineOf a
  · cases hd : l.dirty <;> simp [h, hd]
  · simp [h, show (l.line == lineOf a) = false by simpa using h]

theorem holds_iff {c : List CacheLine} {n : Nat} : holds c n = true ↔ ∃ l ∈ c, l.line = n := by
  simp [holds, findLine, List.find?_isSome]

theorem holds_eq_false {c : List CacheLine} {n : Nat} : holds c n = false ↔ ∀ l ∈ c, l.line ≠ n := by
  rw [← Bool.not_eq_true, holds_iff]
  simp

/-- A cache holds a byte where it holds the line. -/
theorem byteIn_isSome (c : List CacheLine) (a : Nat) : (byteIn c a).isSome = holds c (lineOf a) := by
  unfold byteIn holds
  rw [Option.isSome_map]

theorem byteIn_eq_none {c : List CacheLine} {a : Nat} (h : holds c (lineOf a) = false) : byteIn c a = none := by
  rw [← byteIn_isSome] at h
  simpa using h

theorem byteIn_mem {c : List CacheLine} {a : Nat} {b : Byte} (h : byteIn c a = some b) :
    ∃ l ∈ c, l.line = lineOf a ∧ l.byteAt a = b := by
  induction c with
  | nil => cases h
  | cons l c ih =>
    rw [byteIn_cons] at h
    split at h
    · next hl =>
      cases h
      exact ⟨l, by simp, hl, rfl⟩
    · obtain ⟨m, hm, e⟩ := ih h
      exact ⟨m, List.mem_cons_of_mem _ hm, e⟩

/-- In a cache that holds no line twice, the line decides. -/
theorem line_unique {c : List CacheLine} (hc : c.Pairwise fun l m => l.line ≠ m.line) {l m : CacheLine} (hl : l ∈ c) (hm : m ∈ c)
    (e : l.line = m.line) : l = m := by
  induction c with
  | nil => simp at hl
  | cons k c ih =>
    rw [List.pairwise_cons] at hc
    rcases List.mem_cons.1 hl with h1 | h1 <;> rcases List.mem_cons.1 hm with h2 | h2
    · exact h1.trans h2.symm
    · exact absurd (h1 ▸ e) (hc.1 m h2)
    · exact absurd (h2 ▸ e.symm) (hc.1 l h1)
    · exact ih hc.2 h1 h2

theorem byteIn_of_mem {c : List CacheLine} (hc : c.Pairwise fun l m => l.line ≠ m.line) {l : CacheLine} (hl : l ∈ c) {a : Nat}
    (ha : l.line = lineOf a) : byteIn c a = some (l.byteAt a) := by
  have h : (byteIn c a).isSome = true := by
    rw [byteIn_isSome, holds_iff]
    exact ⟨l, hl, ha⟩
  obtain ⟨b, hb⟩ := Option.isSome_iff_exists.1 h
  obtain ⟨m, hm, e1, rfl⟩ := byteIn_mem hb
  rw [hb, line_unique hc hm hl (e1.trans ha.symm)]

/-- Lines that are not on the address do not matter. -/
theorem byteIn_filter {c : List CacheLine} {p : CacheLine → Bool} {a : Nat} (h : ∀ l ∈ c, l.line = lineOf a → p l = true) :
    byteIn (c.filter p) a = byteIn c a := by
  induction c with
  | nil => rfl
  | cons l c ih =>
    have ih' := ih fun m hm => h m (List.mem_cons_of_mem _ hm)
    by_cases hp : p l = true
    · rw [List.filter_cons_of_pos hp, byteIn_cons, byteIn_cons, ih']
    · rw [List.filter_cons_of_neg hp, byteIn_cons, ih', if_neg fun e => hp (h l (by simp) e)]

theorem byteIn_filter_none {c : List CacheLine} {p : CacheLine → Bool} {a : Nat} (h : ∀ l ∈ c, l.line = lineOf a → p l = false) :
    byteIn (c.filter p) a = none := by
  apply byteIn_eq_none
  rw [holds_eq_false]
  intro l hl e
  obtain ⟨h1, h2⟩ := List.mem_filter.1 hl
  rw [h l h1 e] at h2
  cases h2

/-- Marks on the lines do not matter. -/
theorem byteIn_map (c : List CacheLine) (g : CacheLine → CacheLine) (h : ∀ l, (g l).line = l.line ∧ (g l).data = l.data) (a : Nat) :
    byteIn (c.map g) a = byteIn c a := by
  induction c with
  | nil => rfl
  | cons l c ih =>
    rw [List.map_cons, byteIn_cons, byteIn_cons, ih, (h l).1]
    unfold CacheLine.byteAt
    rw [(h l).2]

theorem byteIn_cleaned (sel : CacheLine → Bool) (c : List CacheLine) (a : Nat) : byteIn (cleaned sel c) a = byteIn c a :=
  byteIn_map c _ (fun l => by split <;> exact ⟨rfl, rfl⟩) a

/-- The dirty bytes of a part of a cache. -/
theorem dirtyByte_filter (c : List CacheLine) (sel : CacheLine → Bool) (a : Nat) : dirtyByte (c.filter sel) a = dirtyAt c sel a := by
  unfold dirtyByte dirtyAt
  rw [List.find?_filter]
  congr 2
  funext l
  unfold lineOf
  cases sel l <;> simp [beq_eq_decide]

theorem dirtyAt_of_mem {c : List CacheLine} {sel : CacheLine → Bool} (hc : c.Pairwise fun l m => l.line ≠ m.line) {l : CacheLine}
    (hl : l ∈ c) {a : Nat} (ha : l.line = lineOf a) :
    dirtyAt c sel a = if (sel l && l.dirty) = true then some (l.byteAt a) else none := by
  unfold dirtyAt
  cases hf : c.find? fun m => m.line == a / 64 && (sel m && m.dirty) with
  | none =>
    have := List.find?_eq_none.1 hf l hl
    have e : l.line = a / 64 := ha
    simp only [e, beq_self_eq_true, Bool.true_and] at this
    rw [if_neg this]
    rfl
  | some m =>
    have h1 := List.find?_some hf
    rw [Bool.and_eq_true, beq_iff_eq] at h1
    have : m = l := line_unique hc (List.mem_of_find?_eq_some hf) hl (h1.1.trans ha.symm)
    subst this
    rw [if_pos h1.2]
    rfl

theorem dirtyAt_eq_none {c : List CacheLine} {sel : CacheLine → Bool} {a : Nat} (h : ∀ l ∈ c, l.line ≠ lineOf a) :
    dirtyAt c sel a = none := by
  unfold dirtyAt
  rw [List.find?_eq_none.2, Option.map_none]
  intro l hl hh
  rw [Bool.and_eq_true, beq_iff_eq] at hh
  exact h l hl hh.1

/-- A selection that looks at the line and the way alone. -/
def ByPlace (sel : CacheLine → Bool) : Prop := ∀ l m : CacheLine, l.line = m.line → l.way = m.way → sel l = sel m

theorem byPlace_onLine (n : Nat) : ByPlace (onLine n) := fun l m h _ => by simp [onLine, h]
theorem byPlace_everyLine : ByPlace everyLine := fun _ _ _ _ => rfl
theorem byPlace_inWay (w : Word) : ByPlace (inWay w) := fun l m h1 h2 => by simp [inWay, h1, h2]

/-- A selection that cleaning a dirty line does not change. -/
def Steady (sel : CacheLine → Bool) : Prop := ∀ l : CacheLine, l.dirty = true → sel { l with state := .clean } = sel l

theorem ByPlace.steady {sel : CacheLine → Bool} (h : ByPlace sel) : Steady sel := fun _ _ => h _ _ rfl rfl

theorem steady_leaving (n : Nat) : Steady fun l => l.line == n && l.leaving := by
  intro l h
  unfold CacheLine.dirty at h
  show (l.line == n && LineState.clean == LineState.leaving) = (l.line == n && l.state == LineState.leaving)
  rw [eq_of_beq h]
  rfl

/-- Cleaned lines taken out. -/
theorem without_cleaned {sel : CacheLine → Bool} (hs : Steady sel) (c : List CacheLine) :
    without sel (cleaned sel c) = c.filter fun l => !sel l := by
  induction c with
  | nil => rfl
  | cons l c ih =>
    unfold without cleaned at *
    rw [List.map_cons]
    cases h : sel l
    · simpa [h] using ih
    · cases hd : l.dirty
      · simpa [h, hd] using ih
      · simpa [h, hd, hs l hd] using ih

/-- Cleaned lines on their way out. -/
theorem expelled_cleaned {sel : CacheLine → Bool} (hs : Steady sel) (c : List CacheLine) :
    ExpelledTo c (expelled sel (cleaned sel c)) sel := by
  unfold ExpelledTo expelled
  simp only [cleaned, List.map_map]
  congr 1
  funext l
  cases h : sel l
  · simp [h]
  · cases hd : l.dirty
    · simp [h, hd]
    · simp [h, hd, hs l hd]

/-! ### Writing back -/

/-- The bytes of a cache after a write-back to it. -/
theorem byteIn_writeBack (ls c : List CacheLine) (a : Nat) : byteIn (writeBack ls c) a = (dirtyByte ls a).or (byteIn c a) := by
  induction ls with
  | nil => rfl
  | cons l rest ih =>
    unfold writeBack
    rw [dirtyByte_cons]
    dsimp only
    cases hd : l.dirty
    · simpa using ih
    · simp only [if_true, and_true]
      rw [byteIn_cons]
      by_cases h : l.line = lineOf a
      · rw [if_pos h, if_pos h]
        rfl
      · rw [if_neg h, if_neg h, byteIn_filter, ih]
        intro m _ hm
        simp [hm, Ne.symm h]

/-- The dirty bytes of a cache after it: what was written back, and what was dirty there. -/
theorem dirtyAt_writeBack (ls c : List CacheLine) (sel : CacheLine → Bool) (a : Nat)
    (hs : ∀ l m : CacheLine, l.line = m.line → sel l = sel m) (hl : ∀ l ∈ ls, sel l = true) :
    dirtyAt (writeBack ls c) sel a = (dirtyByte ls a).or (dirtyAt c sel a) := by
  induction ls with
  | nil => rfl
  | cons l rest ih =>
    have ih' := ih fun m hm => hl m (List.mem_cons_of_mem _ hm)
    have h1 := hl l (by simp)
    unfold writeBack
    rw [dirtyByte_cons]
    dsimp only
    cases hd : l.dirty
    · simpa using ih'
    · simp only [if_true, and_true]
      rw [← dirtyByte_filter] at ih' ⊢
      rw [List.filter_cons_of_pos (by rw [hs ⟨l.line, false, .dirty, l.data⟩ l rfl]; exact h1), dirtyByte_cons]
      by_cases h : l.line = lineOf a
      · simp only [h, and_self, if_true]
        rfl
      · simp only [h, false_and, if_false]
        rw [← ih']
        unfold dirtyByte
        rw [List.filter_filter, List.find?_filter, List.find?_filter]
        congr 2
        funext m
        by_cases hm : m.line = lineOf a
        · simp [hm, Ne.symm h]
        · simp [hm]

/-- Memory after a write-back to it. -/
theorem read_spill (ls : List CacheLine) (m : List Host.Cell) (a : Nat) :
    Memory.read (spill ls m) a = (dirtyByte ls a).getD (Memory.read m a) := by
  induction ls with
  | nil => rfl
  | cons l rest ih =>
    unfold spill
    rw [dirtyByte_cons]
    dsimp only
    cases hd : l.dirty
    · simpa using ih
    · simp only [if_true, and_true]
      rw [Memory.read_writeBytes, lineData_length]
      by_cases h : l.line = lineOf a
      · have ha : 64 * l.line ≤ a ∧ a < 64 * l.line + 64 := by unfold lineOf at h; omega
        rw [if_pos ha, if_pos h, lineData_getD _ _ _ (by omega)]
        simp [show 64 * l.line + (a - 64 * l.line) = a by omega]
      · have ha : ¬ (64 * l.line ≤ a ∧ a < 64 * l.line + 64) := by unfold lineOf at h; omega
        rw [if_neg ha, if_neg h, ih]

/-- A write-back keeps the canonical form of memory (log 7). -/
theorem wf_spill (ls : List CacheLine) (m : List Host.Cell) (h : Memory.wf m = true) : Memory.wf (spill ls m) = true := by
  induction ls with
  | nil => exact h
  | cons l rest ih =>
    unfold spill
    dsimp only
    split
    · exact Memory.wf_writeBytes _ _ _ ih
    · exact ih

theorem State.l2Byte_writeBack (s : State) (ls : List CacheLine) (a : Nat) :
    ({ s with l2 := writeBack ls s.l2 } : State).l2Byte a = (dirtyByte ls a).getD (s.l2Byte a) := by
  unfold State.l2Byte
  dsimp only
  rw [byteIn_writeBack]
  cases dirtyByte ls a <;> rfl

/-! ### One line of a cache -/

theorem dirtyByte_cleaned_onLine (n : Nat) (c : List CacheLine) (a : Nat) :
    dirtyByte (cleaned (onLine n) c) a = if lineOf a = n then none else dirtyByte c a := by
  unfold cleaned
  induction c with
  | nil => simp [dirtyByte]
  | cons l c ih =>
    rw [List.map_cons, dirtyByte_cons, ih, dirtyByte_cons]
    by_cases hl : l.line = lineOf a
    · by_cases ha : lineOf a = n
      · cases hd : l.dirty <;> simp [onLine, hl, ha, hd]
        rfl
      · simp [onLine, hl, ha]
    · by_cases hs : (onLine n l && l.dirty) = true <;> simp [hs, hl]

theorem dirtyByte_without_onLine (n : Nat) (c : List CacheLine) (a : Nat) :
    dirtyByte (without (onLine n) (cleaned (onLine n) c)) a = if lineOf a = n then none else dirtyByte c a := by
  rw [without_cleaned (byPlace_onLine n).steady, dirtyByte_filter]
  unfold dirtyAt dirtyByte onLine lineOf
  by_cases ha : a / 64 = n
  · rw [if_pos ha, List.find?_eq_none.2, Option.map_none]
    intro l _ h
    simp only [ha, Bool.and_eq_true, beq_iff_eq, Bool.not_eq_true', beq_eq_false_iff_ne] at h
    exact h.2.1 h.1
  · rw [if_neg ha]
    congr 2
    funext l
    by_cases hl : l.line = a / 64
    · simp [hl, ha]
    · rw [show (l.line == a / 64) = false by simpa using hl]
      rfl

theorem dirtyByte_filter_onLine (n : Nat) (c : List CacheLine) (a : Nat) :
    dirtyByte (c.filter (onLine n)) a = if lineOf a = n then dirtyByte c a else none := by
  rw [dirtyByte_filter]
  unfold dirtyAt dirtyByte onLine lineOf
  by_cases ha : a / 64 = n
  · rw [if_pos ha]
    congr 2
    funext l
    by_cases hl : l.line = a / 64
    · simp [hl, ha]
    · rw [show (l.line == a / 64) = false by simpa using hl]
      rfl
  · rw [if_neg ha, List.find?_eq_none.2, Option.map_none]
    intro l _ h
    simp only [Bool.and_eq_true, beq_iff_eq] at h
    exact ha (h.1.symm.trans h.2.1)

/-- Lines that are not on the address do not matter to its dirty byte. -/
theorem dirtyByte_filter_all {c : List CacheLine} {p : CacheLine → Bool} {a : Nat} (h : ∀ l ∈ c, l.line = lineOf a → p l = true) :
    dirtyByte (c.filter p) a = dirtyByte c a := by
  induction c with
  | nil => rfl
  | cons l c ih =>
    have ih' := ih fun m hm => h m (List.mem_cons_of_mem _ hm)
    by_cases hp : p l = true
    · rw [List.filter_cons_of_pos hp, dirtyByte_cons, dirtyByte_cons, ih']
    · rw [List.filter_cons_of_neg hp, dirtyByte_cons, ih', if_neg fun e => hp (h l (by simp) e.1)]

theorem dirtyByte_none {c : List CacheLine} {a : Nat} (h : holds c (lineOf a) = false) : dirtyByte c a = none := by
  unfold dirtyByte
  rw [List.find?_eq_none.2, Option.map_none]
  intro l hl hh
  rw [Bool.and_eq_true, beq_iff_eq] at hh
  exact holds_eq_false.1 h l hl hh.1

/-- The dirty bytes of a cache after a write-back to it. -/
theorem dirtyByte_writeBack (ls c : List CacheLine) (a : Nat) : dirtyByte (writeBack ls c) a = (dirtyByte ls a).or (dirtyByte c a) := by
  have h := dirtyAt_writeBack ls c everyLine a (fun _ _ _ => rfl) fun _ _ => rfl
  have e : ∀ d : List CacheLine, d.filter everyLine = d := fun d => List.filter_eq_self.2 fun _ _ => rfl
  rwa [← dirtyByte_filter, ← dirtyByte_filter, e, e] at h

/-- A line that has left a cache. -/
theorem gone_onLine (n : Nat) (c : List CacheLine) : holds (c.filter fun l => !onLine n l) n = false := by
  rw [holds_eq_false]
  intro l hl
  simpa [onLine] using (List.mem_filter.1 hl).2

/-- A cache holds one line as another does. -/
def SameIn (n : Nat) (c c' : List CacheLine) : Prop := c'.filter (onLine n) = c.filter (onLine n)

theorem SameIn.refl (n : Nat) (c : List CacheLine) : SameIn n c c := rfl

theorem SameIn.trans {n : Nat} {c d e : List CacheLine} (h1 : SameIn n c d) (h2 : SameIn n d e) : SameIn n c e := Eq.trans h2 h1

theorem SameIn.mem {n : Nat} {c c' : List CacheLine} (h : SameIn n c c') {l : CacheLine} (hl : l ∈ c') (e : l.line = n) : l ∈ c := by
  have : l ∈ c'.filter (onLine n) := List.mem_filter.2 ⟨hl, by simpa [onLine] using e⟩
  rw [h] at this
  exact (List.mem_filter.1 this).1

theorem SameIn.symm {n : Nat} {c c' : List CacheLine} (h : SameIn n c c') : SameIn n c' c := Eq.symm h

theorem SameIn.holds {n : Nat} {c c' : List CacheLine} (h : SameIn n c c') : holds c' n = holds c n := by
  rw [Bool.eq_iff_iff, holds_iff, holds_iff]
  exact ⟨fun ⟨l, hl, e⟩ => ⟨l, h.mem hl e, e⟩, fun ⟨l, hl, e⟩ => ⟨l, h.symm.mem hl e, e⟩⟩

theorem SameIn.byteIn {n a : Nat} {c c' : List CacheLine} (h : SameIn n c c') (ha : lineOf a = n) : byteIn c' a = byteIn c a := by
  have e : ∀ d : List CacheLine, Machine.byteIn (d.filter (onLine n)) a = Machine.byteIn d a := fun d =>
    byteIn_filter fun l _ hl => by simpa [onLine] using hl.trans ha
  rw [← e c', ← e c, h]

theorem SameIn.dirtyByte {n a : Nat} {c c' : List CacheLine} (h : SameIn n c c') (ha : lineOf a = n) :
    dirtyByte c' a = dirtyByte c a := by
  have e : ∀ d : List CacheLine, Machine.dirtyByte (d.filter (onLine n)) a = Machine.dirtyByte d a := fun d => by
    rw [dirtyByte_filter_onLine, if_pos ha]
  rw [← e c', ← e c, h]

theorem SameIn.filter {n : Nat} {c : List CacheLine} {p : CacheLine → Bool} (h : ∀ l ∈ c, l.line = n → p l = true) :
    SameIn n c (c.filter p) := by
  unfold SameIn
  rw [List.filter_filter]
  refine List.filter_congr fun l hl => ?_
  by_cases e : l.line = n
  · simp [onLine, e, h l hl e]
  · simp [onLine, e]

theorem SameIn.map {n : Nat} {c : List CacheLine} {g : CacheLine → CacheLine} (hl : ∀ l, (g l).line = l.line)
    (h : ∀ l, l.line = n → g l = l) : SameIn n c (c.map g) := by
  unfold SameIn
  rw [List.filter_map]
  have : (onLine n ∘ g) = onLine n := by
    funext l
    simp [onLine, hl]
  rw [this]
  conv => rhs; rw [← List.map_id (c.filter (onLine n))]
  refine List.map_congr_left fun l hm => ?_
  exact h l (by simpa [onLine] using (List.mem_filter.1 hm).2)

theorem SameIn.cons {n : Nat} {c c' : List CacheLine} {l : CacheLine} (h : SameIn n c c') (hl : l.line ≠ n) : SameIn n c (l :: c') := by
  unfold SameIn
  rw [List.filter_cons_of_neg (by simpa [onLine] using hl)]
  exact h

theorem SameIn.cleaned {n : Nat} {c : List CacheLine} {sel : CacheLine → Bool} (h : ∀ l, l.line = n → sel l = false) :
    SameIn n c (cleaned sel c) :=
  SameIn.map (fun l => by split <;> rfl) fun l hl => by rw [h l hl]; rfl

theorem SameIn.writeBack {n : Nat} {ls c : List CacheLine} (h : ∀ l ∈ ls, l.line ≠ n) : SameIn n c (writeBack ls c) := by
  induction ls with
  | nil => exact SameIn.refl n c
  | cons l rest ih =>
    have ih' := ih fun m hm => h m (List.mem_cons_of_mem _ hm)
    have hl := h l (by simp)
    unfold Machine.writeBack
    dsimp only
    split
    · refine (ih'.trans (SameIn.filter fun m _ hm => ?_)).cons hl
      rw [hm]
      simpa using Ne.symm hl
    · exact ih'

/-! ### What a read and the moves of lines leave -/

/-- What reads of memory may change: the lines of the D-caches and of the L2, memory where lines of it are written back, and the
count of free values. -/
def LineFrame (s t : State) : Prop :=
  t = { s with me := { s.me with l1d := t.me.l1d }, other := { s.other with l1d := t.other.l1d }, mem := t.mem, l2 := t.l2,
               draws := t.draws }

/-- What a store to memory may change: that, what the walker may hold, the other hart's monitors. -/
def StoreFrame (s t : State) : Prop :=
  t = { s with me := { s.me with l1d := t.me.l1d, oldPtes := t.me.oldPtes },
               other := { s.other with l1d := t.other.l1d, lmon := t.other.lmon, gmon := t.other.gmon },
               mem := t.mem, l2 := t.l2, draws := t.draws }

theorem LineFrame.refl (s : State) : LineFrame s s := rfl

theorem LineFrame.trans {s t u : State} (h1 : LineFrame s t) (h2 : LineFrame t u) : LineFrame s u := by
  unfold LineFrame at *
  rw [h2, h1]

theorem StoreFrame.refl (s : State) : StoreFrame s s := rfl

theorem StoreFrame.trans {s t u : State} (h1 : StoreFrame s t) (h2 : StoreFrame t u) : StoreFrame s u := by
  unfold StoreFrame at *
  rw [h2, h1]

theorem LineFrame.store {s t : State} (h : LineFrame s t) : StoreFrame s t := by
  unfold LineFrame at h
  unfold StoreFrame
  rw [h]

theorem StoreFrame.soc {s t : State} (h : StoreFrame s t) : t.soc = s.soc := by rw [h]
theorem StoreFrame.th {s t : State} (h : StoreFrame s t) : t.me.th = s.me.th := by rw [h]
theorem StoreFrame.otherTh {s t : State} (h : StoreFrame s t) : t.other.th = s.other.th := by rw [h]

theorem StoreFrame.dcacheOn {s t : State} (h : StoreFrame s t) : t.me.dcacheOn = s.me.dcacheOn := by
  unfold Hart.dcacheOn
  rw [h.th]

theorem StoreFrame.snooped {s t : State} (h : StoreFrame s t) (attr : BitVec 5) : t.snooped attr = s.snooped attr := by
  unfold State.snooped Hart.snoops
  rw [h.otherTh]

theorem StoreFrame.alike {s t : State} (h : StoreFrame s t) (attr attr' : BitVec 5) : t.Alike attr attr' ↔ s.Alike attr attr' := by
  unfold State.Alike
  rw [h.snooped, h.snooped]

theorem LineFrame.th {s t : State} (h : LineFrame s t) : t.me.th = s.me.th := h.store.th
theorem LineFrame.soc {s t : State} (h : LineFrame s t) : t.soc = s.soc := h.store.soc
theorem LineFrame.dcacheOn {s t : State} (h : LineFrame s t) : t.me.dcacheOn = s.me.dcacheOn := h.store.dcacheOn
theorem LineFrame.snooped {s t : State} (h : LineFrame s t) (attr : BitVec 5) : t.snooped attr = s.snooped attr := h.store.snooped attr
theorem LineFrame.alike {s t : State} (h : LineFrame s t) (attr attr' : BitVec 5) : t.Alike attr attr' ↔ s.Alike attr attr' :=
  h.store.alike attr attr'

/-- The byte that a cacheable access finds: in the own D-cache, in a dirty line of the other's, in the L2 or in memory. -/
theorem State.sees_cacheable (s : State) {attr : BitVec 5} (hc : cacheable attr = true) (own : Bool) (a : Nat) :
    s.sees attr own a = (if own then byteIn s.me.l1d a else none).getD
      ((if s.snooped attr then dirtyByte s.other.l1d a else none).getD (s.l2Byte a)) := by
  unfold State.sees State.below
  rw [if_pos hc]

/-- Line `n` stands in all caches and in memory as before. -/
structure State.SameLine (s t : State) (n : Nat) : Prop where
  mine  : SameIn n s.me.l1d t.me.l1d
  other : SameIn n s.other.l1d t.other.l1d
  l2    : SameIn n s.l2 t.l2
  mem   : ∀ a, lineOf a = n → Memory.read t.mem a = Memory.read s.mem a

theorem State.SameLine.refl (s : State) (n : Nat) : s.SameLine s n := ⟨rfl, rfl, rfl, fun _ _ => rfl⟩

theorem State.SameLine.trans {s t u : State} {n : Nat} (h1 : s.SameLine t n) (h2 : t.SameLine u n) : s.SameLine u n :=
  ⟨h1.mine.trans h2.mine, h1.other.trans h2.other, h1.l2.trans h2.l2, fun a ha => (h2.mem a ha).trans (h1.mem a ha)⟩

theorem State.SameLine.l2Byte {s t : State} {n : Nat} (h : s.SameLine t n) {a : Nat} (ha : lineOf a = n) : t.l2Byte a = s.l2Byte a := by
  unfold State.l2Byte
  rw [h.l2.byteIn ha, h.mem a ha]

theorem State.SameLine.sees {s t : State} {n : Nat} (h : s.SameLine t n) (f : StoreFrame s t) (attr : BitVec 5) (own : Bool) {a : Nat}
    (ha : lineOf a = n) : t.sees attr own a = s.sees attr own a := by
  unfold State.sees State.below
  rw [h.mine.byteIn ha, h.other.dirtyByte ha, h.l2Byte ha, h.mem a ha, f.snooped]

theorem State.SameLine.backed {s t : State} {n : Nat} (h : s.SameLine t n) (f : StoreFrame s t) {attr : BitVec 5}
    (hb : s.Backed attr n) : t.Backed attr n := by
  intro hc
  obtain ⟨h1, h2⟩ := hb hc
  refine ⟨fun l hl m hm e1 e2 => h1 l (h.mine.mem hl e1) m (h.mine.mem hm e2) e1 e2, fun a ha => ?_⟩
  have := h2 a ha
  rw [h.mine.dirtyByte ha, h.other.dirtyByte ha, h.l2.dirtyByte ha, h.l2Byte ha, h.mem a ha, f.snooped, f.dcacheOn, h.sees f attr _ ha]
  exact this

/-- Every access with these attributes finds the bytes of line `n` that it found before. -/
def Shows (attr : BitVec 5) (s t : State) (n : Nat) : Prop :=
  ∀ a, lineOf a = n → t.sees attr s.me.dcacheOn a = s.sees attr s.me.dcacheOn a

/-- So it does of every line that is backed, which stays so. -/
def Keeps (attr : BitVec 5) (s t : State) : Prop :=
  LineFrame s t ∧ ∀ n, s.Backed attr n → t.Backed attr n ∧ Shows attr s t n

theorem Keeps.refl (attr : BitVec 5) (s : State) : Keeps attr s s := ⟨rfl, fun _ h => ⟨h, fun _ _ => rfl⟩⟩

theorem Shows.trans {attr : BitVec 5} {s t u : State} {n : Nat} (h1 : Shows attr s t n) (h2 : Shows attr t u n)
    (f : StoreFrame s t) : Shows attr s u n := by
  intro a ha
  have := h2 a ha
  rw [f.dcacheOn] at this
  exact this.trans (h1 a ha)

theorem Keeps.trans {attr : BitVec 5} {s t u : State} (h1 : Keeps attr s t) (h2 : Keeps attr t u) : Keeps attr s u := by
  refine ⟨h1.1.trans h2.1, fun n h => ?_⟩
  obtain ⟨b1, e1⟩ := h1.2 n h
  obtain ⟨b2, e2⟩ := h2.2 n b1
  exact ⟨b2, e1.trans e2 h1.1.store⟩

theorem State.SameLine.shows {s t : State} {n : Nat} (h : s.SameLine t n) (f : StoreFrame s t) (attr : BitVec 5) : Shows attr s t n :=
  fun _ ha => h.sees f attr _ ha

/-- What moves one line alone. -/
theorem Keeps.of_line {attr : BitVec 5} {s t : State} (f : LineFrame s t) {n : Nat} (off : ∀ k, k ≠ n → s.SameLine t k)
    (on : s.Backed attr n → t.Backed attr n ∧ Shows attr s t n) : Keeps attr s t := by
  refine ⟨f, fun k hb => ?_⟩
  by_cases e : k = n
  · subst e
    exact on hb
  · exact ⟨(off k e).backed f.store hb, (off k e).shows f.store attr⟩

/-- No dirty byte of line `n` is in the other core's D-cache, where accesses snoop it. -/
def State.Claimed (s : State) (attr : BitVec 5) (n : Nat) : Prop :=
  s.snooped attr = true → ∀ a, lineOf a = n → dirtyByte s.other.l1d a = none

theorem State.Claimed.of_same {s t : State} {attr : BitVec 5} {n : Nat} (h : s.Claimed attr n) (f : StoreFrame s t)
    (ho : SameIn n s.other.l1d t.other.l1d) : t.Claimed attr n := fun hs a ha => by
  rw [ho.dirtyByte ha]
  exact h (f.snooped attr ▸ hs) a ha

/-- A snoop makes the other core write back the dirty line, and keep it or give it up: no byte moves (20_memory:R219). -/
theorem State.snoop_keeps {s t : State} {attr : BitVec 5} {n : Nat} (hs : s.snooped attr = true) (hc : cacheable attr = true)
    (ht : t = s.cleanOther (onLine n) ∨ t = s.claimOther (onLine n)) : Keeps attr s t ∧ Shows attr s t n ∧ t.Claimed attr n := by
  have f : LineFrame s t := by rcases ht with rfl | rfl <;> rfl
  have hm : t.me.l1d = s.me.l1d := by rcases ht with rfl | rfl <;> rfl
  have hmem : t.mem = s.mem := by rcases ht with rfl | rfl <;> rfl
  have hd : ∀ a, dirtyByte t.other.l1d a = if lineOf a = n then none else dirtyByte s.other.l1d a := by
    rcases ht with rfl | rfl
    · exact dirtyByte_cleaned_onLine n _
    · exact dirtyByte_without_onLine n _
  have hl2 : t.l2 = writeBack (s.other.l1d.filter (onLine n)) s.l2 := by rcases ht with rfl | rfl <;> rfl
  have hl : ∀ a, lineOf a = n → t.l2Byte a = (dirtyByte s.other.l1d a).getD (s.l2Byte a) := by
    intro a ha
    unfold State.l2Byte
    rw [hl2, hmem, byteIn_writeBack, dirtyByte_filter_onLine, if_pos ha]
    cases dirtyByte s.other.l1d a <;> rfl
  have sh : Shows attr s t n := by
    intro a ha
    rw [State.sees_cacheable t hc, State.sees_cacheable s hc, hm, f.snooped, hs, hd, if_pos ha, hl a ha]
    rfl
  have off : ∀ k, k ≠ n → s.SameLine t k := by
    intro k hk
    have hk' : ∀ l : CacheLine, l.line = k → onLine n l = false := fun l e => by simpa [onLine, e] using hk
    refine ⟨hm ▸ rfl, ?_, ?_, fun a _ => by rw [hmem]⟩
    · rcases ht with rfl | rfl
      · exact SameIn.cleaned hk'
      · exact (SameIn.cleaned hk').trans (SameIn.filter fun l _ e => by rw [hk' l e]; rfl)
    · rw [hl2]
      exact SameIn.writeBack fun l h e => Bool.false_ne_true ((hk' l e).symm.trans (List.mem_filter.1 h).2)
  refine ⟨Keeps.of_line f off fun hb => ⟨fun _ => ?_, sh⟩, sh, fun _ a ha => by rw [hd, if_pos ha]⟩
  obtain ⟨h1, h2⟩ := hb hc
  rw [hm]
  refine ⟨h1, fun a ha => ?_⟩
  obtain ⟨_, q2, q3, q4⟩ := h2 a ha
  dsimp only
  rw [f.dcacheOn, sh a ha, hd, if_pos (show lineOf a = n from ha), hl a ha]
  refine ⟨fun _ => rfl, fun b hb => ?_, fun _ h => ?_, ?_⟩
  · rcases hb with hb | hb
    · cases hb
    · exact q2 b (.inr hb)
  · cases hx : dirtyByte s.other.l1d a with
    | some b => exact q2 b (.inl hx)
    | none => exact q3 hx h
  · rw [hl2, hmem, dirtyByte_writeBack, dirtyByte_filter_onLine, if_pos (show lineOf a = n from ha)]
    cases dirtyByte s.other.l1d a with
    | some b => rfl
    | none => exact q4

/-! ### Room in the L2 -/

/-- Lines leave the L2 and the D-caches: the others stand as before (20_memory:R220). -/
theorem State.evictL2_same (s : State) {n k : Nat} (h : k ≠ n) : s.SameLine (s.evictL2 (onLine n)) k := by
  have hk : ∀ l : CacheLine, l.line = k → onLine n l = false := fun l e => by simpa [onLine, e] using h
  have hk' : ∀ c : List CacheLine, SameIn k c (without (onLine n) (cleaned (onLine n) c)) := fun c =>
    (SameIn.cleaned hk).trans (SameIn.filter fun l _ e => by rw [hk l e]; rfl)
  have hw : ∀ c d : List CacheLine, SameIn k d (writeBack (c.filter (onLine n)) d) := fun c d =>
    SameIn.writeBack fun l hl e => Bool.false_ne_true ((hk l e).symm.trans (List.mem_filter.1 hl).2)
  refine ⟨hk' _, hk' _, ((hw _ _).trans (hw _ _)).trans (hk' _), fun a ha => ?_⟩
  show Memory.read (spill (List.filter (onLine n) _) s.mem) a = _
  rw [read_spill, dirtyByte_filter_onLine, if_neg (by rw [ha]; exact h)]
  rfl

/-- What memory holds of a line that has left the caches. -/
theorem State.evictL2_mem (s : State) {n a : Nat} (ha : lineOf a = n) :
    Memory.read (s.evictL2 (onLine n)).mem a =
      ((dirtyByte s.other.l1d a).or ((dirtyByte s.me.l1d a).or (dirtyByte s.l2 a))).getD (Memory.read s.mem a) := by
  show Memory.read (spill (List.filter (onLine n) (writeBack (s.other.l1d.filter (onLine n))
    (writeBack (s.me.l1d.filter (onLine n)) s.l2))) s.mem) a = _
  rw [read_spill, dirtyByte_filter_onLine, if_pos ha, dirtyByte_writeBack, dirtyByte_writeBack, dirtyByte_filter_onLine,
    dirtyByte_filter_onLine, if_pos ha, if_pos ha]

/-- A line that leaves the L2 leaves the D-caches too. -/
theorem State.evictL2_gone (s : State) (n : Nat) :
    holds (s.evictL2 (onLine n)).me.l1d n = false ∧ holds (s.evictL2 (onLine n)).other.l1d n = false ∧
      holds (s.evictL2 (onLine n)).l2 n = false := by
  have g : ∀ c : List CacheLine, holds (without (onLine n) (cleaned (onLine n) c)) n = false := fun c => by
    rw [without_cleaned (byPlace_onLine n).steady]
    exact gone_onLine n c
  exact ⟨g _, g _, g _⟩

/-- A backed line can leave all caches: no byte moves (20_memory:R220). -/
theorem State.evictL2_keeps (s : State) (n : Nat) {attr : BitVec 5} (hc : cacheable attr = true) :
    Keeps attr s (s.evictL2 (onLine n)) := by
  have f : LineFrame s (s.evictL2 (onLine n)) := rfl
  refine Keeps.of_line f (fun k hk => State.evictL2_same s hk) fun hb => ?_
  obtain ⟨_, h2⟩ := hb hc
  obtain ⟨g1, g2, g3⟩ := State.evictL2_gone s n
  have hm : ∀ a, lineOf a = n → Memory.read (s.evictL2 (onLine n)).mem a = s.sees attr s.me.dcacheOn a := by
    intro a ha
    obtain ⟨_, q2, q3, q4⟩ := h2 a ha
    rw [State.evictL2_mem s ha]
    cases h3 : dirtyByte s.other.l1d a with
    | some b => exact q2 b (.inl h3)
    | none =>
      cases h4 : dirtyByte s.me.l1d a with
      | some b => exact q2 b (.inr h4)
      | none => exact q4.trans (q3 h3 h4)
  generalize s.evictL2 (onLine n) = t at f g1 g2 g3 hm
  have hl : ∀ a, lineOf a = n → t.l2Byte a = s.sees attr s.me.dcacheOn a := by
    intro a ha
    unfold State.l2Byte
    rw [byteIn_eq_none (by rw [ha]; exact g3), ← hm a ha]
    rfl
  have sh : Shows attr s t n := by
    intro a ha
    rw [State.sees_cacheable t hc, byteIn_eq_none (by rw [ha]; exact g1), dirtyByte_none (by rw [ha]; exact g2), ← hl a ha]
    cases s.me.dcacheOn <;> cases t.snooped attr <;> rfl
  refine ⟨fun _ => ⟨fun l hl _ _ e => absurd e (holds_eq_false.1 g1 l hl), fun a ha => ?_⟩, sh⟩
  have ha' : lineOf a = n := ha
  dsimp only
  rw [f.dcacheOn, sh a ha, dirtyByte_none (c := t.me.l1d) (by rw [ha']; exact g1),
    dirtyByte_none (c := t.other.l1d) (by rw [ha']; exact g2), dirtyByte_none (c := t.l2) (by rw [ha']; exact g3), hl a ha']
  refine ⟨fun _ => rfl, fun b hb => ?_, fun _ _ => rfl, hm a ha'⟩
  rcases hb with hb | hb <;> cases hb

/-- Making room: nothing, where there is room, else one other line of the set leaves all caches (20_memory:R220). -/
theorem State.makeRoom_cases (s : State) {n : Nat} (hn : holds s.l2 n = false) :
    s.makeRoom n = s ∨
      ∃ v ∈ s.l2, v.line % 1024 = n % 1024 ∧ v.line ≠ n ∧ s.makeRoom n = s.drawn.evictL2 (onLine v.line) := by
  unfold State.makeRoom
  split
  · exact .inl rfl
  · split
    · next v hv =>
      obtain ⟨h1, h2⟩ := List.mem_filter.1 (List.mem_of_getElem? hv)
      exact .inr ⟨v, h1, by simpa using h2, holds_eq_false.1 hn v h1, rfl⟩
    · exact .inl rfl

theorem State.makeRoom_spec (s : State) {n : Nat} (hn : holds s.l2 n = false) :
    LineFrame s (s.makeRoom n) ∧ s.SameLine (s.makeRoom n) n ∧
      ∀ attr, cacheable attr = true → Keeps attr s (s.makeRoom n) := by
  rcases State.makeRoom_cases s hn with e | ⟨v, _, _, hv, e⟩
  · rw [e]
    exact ⟨rfl, State.SameLine.refl s n, fun attr _ => Keeps.refl attr s⟩
  · rw [e]
    have d : ∀ attr, Keeps attr s s.drawn := fun attr => ⟨rfl, fun _ h => ⟨h, fun _ _ => rfl⟩⟩
    exact ⟨rfl, ⟨(State.evictL2_same s.drawn hv.symm).1, (State.evictL2_same s.drawn hv.symm).2,
      (State.evictL2_same s.drawn hv.symm).3, (State.evictL2_same s.drawn hv.symm).4⟩,
      fun attr hc => (d attr).trans (State.evictL2_keeps s.drawn v.line hc)⟩

/-- The L2 takes a line as memory has it: no byte moves. -/
theorem State.takeL2_keeps (s : State) {n : Nat} (hn : holds s.l2 n = false) {attr : BitVec 5} (hc : cacheable attr = true) :
    Keeps attr s (s.takeL2 n) ∧ Shows attr s (s.takeL2 n) n ∧ (∀ k, k ≠ n → s.SameLine (s.takeL2 n) k) ∧
      ∀ a, (s.takeL2 n).l2Byte a = s.l2Byte a := by
  have f : LineFrame s (s.takeL2 n) := rfl
  have hl : ∀ a, (s.takeL2 n).l2Byte a = s.l2Byte a := by
    intro a
    unfold State.l2Byte
    show (byteIn (CacheLine.clean (Memory.read s.mem) n false :: s.l2) a).getD (Memory.read s.mem a) = _
    rw [byteIn_cons]
    by_cases ha : n = lineOf a
    · rw [if_pos (by exact ha), byteAt_clean ha.symm, byteIn_eq_none (by rw [← ha]; exact hn)]
      rfl
    · rw [if_neg (by exact ha)]
  have hs : ∀ own a, (s.takeL2 n).sees attr own a = s.sees attr own a := by
    intro own a
    rw [State.sees_cacheable _ hc, State.sees_cacheable s hc, hl]
    rfl
  have off : ∀ k, k ≠ n → s.SameLine (s.takeL2 n) k := fun k hk =>
    ⟨rfl, rfl, (SameIn.refl k s.l2).cons (Ne.symm hk), fun _ _ => rfl⟩
  refine ⟨Keeps.of_line f off fun hb => ⟨fun _ => ?_, fun a _ => hs _ a⟩, fun a _ => hs _ a, off, hl⟩
  obtain ⟨h1, h2⟩ := hb hc
  refine ⟨h1, fun a ha => ?_⟩
  obtain ⟨q1, q2, q3, _⟩ := h2 a ha
  dsimp only
  rw [hs, hl]
  refine ⟨q1, q2, q3, ?_⟩
  have e : dirtyByte (s.takeL2 n).l2 a = none := by
    show dirtyByte (CacheLine.clean (Memory.read s.mem) n false :: s.l2) a = none
    rw [dirtyByte_cons, if_neg fun h => Bool.false_ne_true h.2, dirtyByte_none (by rw [show lineOf a = n from ha]; exact hn)]
  rw [e]
  unfold State.l2Byte
  rw [byteIn_eq_none (by rw [show lineOf a = n from ha]; exact hn)]
  rfl

/-- The L2 takes a line; the D-caches hold it as before. -/
theorem State.fillL2_spec (s : State) (n : Nat) :
    LineFrame s (s.fillL2 n) ∧ SameIn n s.me.l1d (s.fillL2 n).me.l1d ∧ SameIn n s.other.l1d (s.fillL2 n).other.l1d ∧
      (∀ a, lineOf a = n → (s.fillL2 n).l2Byte a = s.l2Byte a) ∧ holds (s.fillL2 n).l2 n = true ∧
      ∀ attr, cacheable attr = true → Keeps attr s (s.fillL2 n) ∧ Shows attr s (s.fillL2 n) n := by
  unfold State.fillL2
  split
  · next h => exact ⟨rfl, rfl, rfl, fun _ _ => rfl, h, fun attr _ => ⟨Keeps.refl attr s, fun _ _ => rfl⟩⟩
  · next h =>
    have hn : holds s.l2 n = false := by simpa using h
    obtain ⟨f, sl, k⟩ := State.makeRoom_spec s hn
    have hn' : holds (s.makeRoom n).l2 n = false := sl.l2.holds.trans hn
    have t := fun attr (hc : cacheable attr = true) => State.takeL2_keeps (s.makeRoom n) hn' hc
    have f' : LineFrame s ((s.makeRoom n).takeL2 n) := f.trans rfl
    refine ⟨f', sl.mine, sl.other, fun a ha => ?_, by simp [State.takeL2, holds_iff, CacheLine.clean], fun attr hc => ⟨(k attr hc).trans (t attr hc).1,
      (sl.shows f.store attr).trans (t attr hc).2.1 f.store⟩⟩
    exact ((t 0b01000 (by decide)).2.2.2 a).trans (sl.l2Byte ha)

/-! ### Lines of the own D-cache -/

/-- Lines leave the own D-cache: no byte of a backed line moves, and none of a line of which no copy leaves. -/
theorem State.flushMine_lines (s : State) {sel : CacheLine → Bool} (hp : Steady sel) :
    LineFrame s (s.flushMine sel) ∧ (s.flushMine sel).me.l1d = s.me.l1d.filter (fun l => !sel l) ∧
      (s.flushMine sel).other = s.other ∧
      (∀ n, (∀ l ∈ s.me.l1d, l.line = n → sel l = false) → s.SameLine (s.flushMine sel) n) ∧
      ∀ attr, cacheable attr = true → Keeps attr s (s.flushMine sel) := by
  have f : LineFrame s (s.flushMine sel) := rfl
  have hm : (s.flushMine sel).me.l1d = s.me.l1d.filter fun l => !sel l := without_cleaned hp _
  have off : ∀ n, (∀ l ∈ s.me.l1d, l.line = n → sel l = false) → s.SameLine (s.flushMine sel) n := by
    intro n h
    refine ⟨?_, rfl, ?_, fun _ _ => rfl⟩
    · rw [hm]
      exact SameIn.filter fun l hl e => by rw [h l hl e]; rfl
    · refine SameIn.writeBack fun l hl e => ?_
      obtain ⟨h1, h2⟩ := List.mem_filter.1 hl
      rw [h l h1 e] at h2
      cases h2
  refine ⟨f, hm, rfl, off, fun attr hc => ⟨f, fun n hb => ?_⟩⟩
  by_cases hx : ∃ l ∈ s.me.l1d, l.line = n ∧ sel l = true
  swap
  · have same := off n fun l hl e => by
      cases hs : sel l
      · rfl
      · exact absurd ⟨l, hl, e, hs⟩ hx
    exact ⟨same.backed f.store hb, same.shows f.store attr⟩
  obtain ⟨l, hl, e, hs⟩ := hx
  obtain ⟨h1, h2⟩ := hb hc
  have all : ∀ m ∈ s.me.l1d, m.line = n → sel m = true := fun m hm' em => h1 l hl m hm' e em ▸ hs
  have gone : holds (s.flushMine sel).me.l1d n = false := by
    rw [hm, holds_eq_false]
    intro m hmm em
    obtain ⟨g1, g2⟩ := List.mem_filter.1 hmm
    rw [all m g1 em] at g2
    cases g2
  have hd : ∀ a, lineOf a = n → dirtyByte (s.me.l1d.filter sel) a = dirtyByte s.me.l1d a := fun a ha =>
    dirtyByte_filter_all fun m hmm em => all m hmm (em.trans ha)
  have hl : ∀ a, lineOf a = n → (s.flushMine sel).l2Byte a = (dirtyByte s.me.l1d a).getD (s.l2Byte a) := by
    intro a ha
    rw [← hd a ha]
    exact State.l2Byte_writeBack s _ a
  have hl2 : ∀ a, lineOf a = n → dirtyByte (s.flushMine sel).l2 a = (dirtyByte s.me.l1d a).or (dirtyByte s.l2 a) := by
    intro a ha
    rw [← hd a ha]
    exact dirtyByte_writeBack _ _ a
  have sh : Shows attr s (s.flushMine sel) n := by
    intro a ha
    obtain ⟨q1, q2, q3, _⟩ := h2 a ha
    rw [State.sees_cacheable _ hc, byteIn_eq_none (by rw [ha]; exact gone), f.snooped, hl a ha]
    show (if s.me.dcacheOn then none else none : Option Byte).getD
      ((if s.snooped attr then dirtyByte s.other.l1d a else none).getD ((dirtyByte s.me.l1d a).getD (s.l2Byte a))) = _
    rw [ite_self]
    show (if s.snooped attr then dirtyByte s.other.l1d a else none).getD ((dirtyByte s.me.l1d a).getD (s.l2Byte a)) = _
    have e1 : (if s.snooped attr then dirtyByte s.other.l1d a else none) = dirtyByte s.other.l1d a := by
      cases hsn : s.snooped attr
      · rw [q1 hsn]
        rfl
      · rfl
    rw [e1]
    cases h3 : dirtyByte s.other.l1d a with
    | some b => exact q2 b (.inl h3)
    | none =>
      cases h4 : dirtyByte s.me.l1d a with
      | some b => exact q2 b (.inr h4)
      | none => exact q3 h3 h4
  refine ⟨fun _ => ⟨fun m hmm _ _ em => absurd em (holds_eq_false.1 gone m hmm), fun a ha => ?_⟩, sh⟩
  have ha' : lineOf a = n := ha
  obtain ⟨q1, q2, q3, q4⟩ := h2 a ha
  dsimp only
  rw [f.dcacheOn, sh a ha, dirtyByte_none (c := (s.flushMine sel).me.l1d) (by rw [ha']; exact gone), hl a ha', hl2 a ha', f.snooped]
  refine ⟨q1, fun b hb => ?_, fun h3 _ => ?_, ?_⟩
  · rcases hb with hb | hb
    · exact q2 b (.inl hb)
    · cases hb
  · cases h4 : dirtyByte s.me.l1d a with
    | some b => exact q2 b (.inr h4)
    | none => exact q3 h3 h4
  · cases dirtyByte s.me.l1d a with
    | some b => rfl
    | none => exact q4

/-- The own D-cache takes a line that it does not hold and no snooped core has dirty: no byte moves. -/
theorem State.takeMine_keeps (s : State) {n : Nat} (hn : holds s.me.l1d n = false) {attr : BitVec 5} (hc : cacheable attr = true)
    (hcl : s.Claimed attr n) (w : Bool) :
    Keeps attr s (s.setMyL1 (CacheLine.clean s.l2Byte n w :: s.me.l1d)) ∧
      Shows attr s (s.setMyL1 (CacheLine.clean s.l2Byte n w :: s.me.l1d)) n := by
  have f : LineFrame s (s.setMyL1 (CacheLine.clean s.l2Byte n w :: s.me.l1d)) := rfl
  have sh : Shows attr s (s.setMyL1 (CacheLine.clean s.l2Byte n w :: s.me.l1d)) n := by
    intro a ha
    rw [State.sees_cacheable _ hc, State.sees_cacheable s hc, byteIn_eq_none (c := s.me.l1d) (by rw [ha]; exact hn)]
    show (if s.me.dcacheOn then byteIn (CacheLine.clean s.l2Byte n w :: s.me.l1d) a else none).getD
      ((if s.snooped attr then dirtyByte s.other.l1d a else none).getD (s.l2Byte a)) = _
    rw [byteIn_cons, if_pos (show (CacheLine.clean s.l2Byte n w).line = lineOf a from ha.symm), byteAt_clean ha]
    have e1 : (if s.snooped attr then dirtyByte s.other.l1d a else none) = none := by
      cases hsn : s.snooped attr
      · rfl
      · exact hcl hsn a ha
    rw [e1]
    cases s.me.dcacheOn <;> rfl
  refine ⟨Keeps.of_line f (n := n) (fun k hk => ⟨(SameIn.refl k _).cons (Ne.symm hk), rfl, rfl, fun _ _ => rfl⟩) fun hb => ⟨fun _ => ?_, sh⟩, sh⟩
  obtain ⟨h1, h2⟩ := hb hc
  refine ⟨fun l hl m hm el em => ?_, fun a ha => ?_⟩
  · rcases List.mem_cons.1 hl with rfl | hl
    · rcases List.mem_cons.1 hm with rfl | hm
      · rfl
      · exact absurd em (holds_eq_false.1 hn m hm)
    · exact absurd el (holds_eq_false.1 hn l hl)
  · obtain ⟨q1, q2, q3, q4⟩ := h2 a ha
    have e : dirtyByte (s.setMyL1 (CacheLine.clean s.l2Byte n w :: s.me.l1d)).me.l1d a = dirtyByte s.me.l1d a := by
      show dirtyByte (CacheLine.clean s.l2Byte n w :: s.me.l1d) a = _
      rw [dirtyByte_cons, if_neg fun h => Bool.false_ne_true h.2]
    dsimp only
    rw [f.dcacheOn, sh a ha, e]
    exact ⟨q1, q2, q3, q4⟩

/-- The own D-cache takes a line that no snooped core has dirty (20_memory:R219). -/
theorem State.fill_spec (s : State) (n : Nat) :
    LineFrame s (s.fill n) ∧ holds (s.fill n).me.l1d n = true ∧ SameIn n s.other.l1d (s.fill n).other.l1d ∧
      ∀ attr, cacheable attr = true → s.Claimed attr n → Keeps attr s (s.fill n) ∧ Shows attr s (s.fill n) n := by
  unfold State.fill
  split
  · next h => exact ⟨rfl, h, rfl, fun attr _ _ => ⟨Keeps.refl attr s, fun _ _ => rfl⟩⟩
  · next h =>
    have hn : holds s.me.l1d n = false := by simpa using h
    obtain ⟨f1, m1, o1, _, _, k1⟩ := State.fillL2_spec s n
    dsimp only
    generalize s.fillL2 n = u at *
    have hp : ByPlace fun l => l.line % 512 == n % 512 && l.way == wayFor u.me.l1d n := fun l m h1 h2 => by simp [h1, h2]
    obtain ⟨f2, m2, o2, off, k2⟩ := State.flushMine_lines u hp.steady
    have hu : holds u.me.l1d n = false := m1.holds.trans hn
    have same := off n fun l hl e => absurd e (holds_eq_false.1 hu l hl)
    generalize u.flushMine (fun l => l.line % 512 == n % 512 && l.way == wayFor u.me.l1d n) = v at *
    have hv : holds v.me.l1d n = false := same.mine.holds.trans hu
    have f := f1.trans f2
    refine ⟨f.trans rfl, holds_iff.2 ⟨_, List.mem_cons_self, rfl⟩, ?_, fun attr hc hcl => ?_⟩
    · exact o1.trans same.other
    · have hcl' : v.Claimed attr n := hcl.of_same f.store (o1.trans same.other)
      obtain ⟨k3, s3⟩ := State.takeMine_keeps v hv hc hcl' (wayFor u.me.l1d n)
      obtain ⟨k1', s1⟩ := k1 attr hc
      exact ⟨(k1'.trans (k2 attr hc)).trans k3, (s1.trans (same.shows f2.store attr) f1.store).trans s3 f.store⟩

/-- A line on its way out leaves the own D-cache: no byte of a backed line moves. -/
theorem State.yieldLine_keeps (s : State) (n : Nat) {attr : BitVec 5} (hc : cacheable attr = true) : Keeps attr s (s.yieldLine n) := by
  have e : s.flushMine (fun l => l.line == n && l.leaving) = s.yieldLine n := by
    have h1 : writeBack (s.me.l1d.filter fun l => l.line == n && l.leaving) s.l2 = s.l2 := by
      have : ∀ ls : List CacheLine, (∀ l ∈ ls, l.dirty = false) → writeBack ls s.l2 = s.l2 := by
        intro ls
        induction ls with
        | nil => exact fun _ => rfl
        | cons l rest ih =>
          intro h
          unfold writeBack
          dsimp only
          rw [if_neg (by simp [h l (by simp)]), ih fun m hm => h m (List.mem_cons_of_mem _ hm)]
      refine this _ fun l hl => ?_
      have := (List.mem_filter.1 hl).2
      rw [Bool.and_eq_true] at this
      unfold CacheLine.leaving at this
      unfold CacheLine.dirty
      rw [eq_of_beq this.2]
      rfl
    have h2 := without_cleaned (steady_leaving n) s.me.l1d
    unfold State.flushMine State.cleanMine State.yieldLine State.invalMine State.setMyL1
    dsimp only
    rw [h1, h2]
    rfl
  exact e ▸ (State.flushMine_lines s (steady_leaving n)).2.2.2.2 attr hc

/-- A line on which a snoop leaves the other core no dirty byte, or that is not snooped. -/
theorem State.claim_keeps (s : State) {attr attr' : BitVec 5} (hA : s.Alike attr' attr) (hc : cacheable attr = true) (n : Nat)
    {u : State}
    (hu : u = (if s.snooped attr' then s.cleanOther (onLine n) else s) ∨
      u = (if s.snooped attr' then s.claimOther (onLine n) else s)) :
    Keeps attr s u ∧ Shows attr s u n ∧ u.Claimed attr n := by
  rw [hA.2] at hu
  by_cases hs : s.snooped attr = true
  · rw [if_pos hs, if_pos hs] at hu
    exact State.snoop_keeps hs hc hu
  · rw [if_neg hs, if_neg hs, or_self] at hu
    subst hu
    exact ⟨Keeps.refl attr u, fun _ _ => rfl, fun h => absurd h hs⟩

/-- A read changes the lines of the caches, and memory where lines are written back. -/
theorem State.touch_frame (s : State) (attr : BitVec 5) (a : Nat) : LineFrame s (s.touch attr a) := by
  unfold State.touch
  split
  · rfl
  · have h : LineFrame s (if s.snooped attr then s.cleanOther (onLine (lineOf a)) else s) := by split <;> rfl
    dsimp only
    generalize (if s.snooped attr = true then s.cleanOther (onLine (lineOf a)) else s) = u at h ⊢
    split
    · exact h
    · split
      · exact h.trans (State.fill_spec _ _).1
      · exact h.trans (State.fillL2_spec _ _).1

/-- A read moves no byte of a backed line, nor of its own line (20_memory:R187, R219). -/
theorem State.touch_keeps (s : State) {attr attr' : BitVec 5} (hA : s.Alike attr' attr) (a : Nat) :
    Keeps attr s (s.touch attr' a) ∧ Shows attr s (s.touch attr' a) (lineOf a) := by
  unfold State.touch
  split
  · exact ⟨Keeps.refl attr s, fun _ _ => rfl⟩
  · next h =>
    have hc : cacheable attr = true := by
      rw [← hA.1]
      revert h
      cases cacheable attr' <;> simp
    obtain ⟨k, sh, c⟩ := State.claim_keeps s hA hc (lineOf a) (.inl rfl)
    dsimp only
    generalize (if s.snooped attr' = true then s.cleanOther (onLine (lineOf a)) else s) = u at k sh c ⊢
    split
    · exact ⟨k, sh⟩
    · split
      · obtain ⟨k', s'⟩ := (State.fill_spec u (lineOf a)).2.2.2 attr hc c
        exact ⟨k.trans k', sh.trans s' k.1.store⟩
      · obtain ⟨k', s'⟩ := (State.fillL2_spec u (lineOf a)).2.2.2.2.2 attr hc
        exact ⟨k.trans k', sh.trans s' k.1.store⟩

theorem State.Alike.refl (s : State) (attr : BitVec 5) : s.Alike attr attr := ⟨rfl, rfl⟩

/-! ### Stores -/

/-- After a store of bytes, every access with these attributes finds them there, and elsewhere, on backed lines, what it found
before. -/
def Writes (attr : BitVec 5) (s t : State) (a : Nat) (bs : List Byte) : Prop :=
  StoreFrame s t ∧
    (∀ n, s.Backed attr n → t.Backed attr n ∧ ∀ q, lineOf q = n → t.sees attr s.me.dcacheOn q =
      if a ≤ q ∧ q < a + bs.length then bs.getD (q - a) 0 else s.sees attr s.me.dcacheOn q) ∧
    ∀ q, a ≤ q ∧ q < a + bs.length → t.sees attr s.me.dcacheOn q = bs.getD (q - a) 0

theorem Keeps.writes {attr : BitVec 5} {s t u : State} {a : Nat} {bs : List Byte} (h1 : Keeps attr s t)
    (h2 : Writes attr t u a bs) : Writes attr s u a bs := by
  obtain ⟨f, w1, w2⟩ := h2
  rw [h1.1.dcacheOn] at w1 w2
  refine ⟨h1.1.store.trans f, fun n h => ?_, w2⟩
  obtain ⟨b1, e1⟩ := h1.2 n h
  obtain ⟨b2, e2⟩ := w1 n b1
  exact ⟨b2, fun q hq => by rw [e2 q hq, e1 q hq]⟩

theorem mem_storeIn {c : List CacheLine} {n a : Nat} {bs : List Byte} {l : CacheLine} (h : l ∈ storeIn c n a bs) :
    ∃ m ∈ c, (m.line = n ∧ l = m.stored a bs) ∨ (m.line ≠ n ∧ l = m) := by
  obtain ⟨m, hm, rfl⟩ := List.mem_map.1 h
  refine ⟨m, hm, ?_⟩
  by_cases e : m.line = n
  · exact .inl ⟨e, if_pos (by simpa using e)⟩
  · exact .inr ⟨e, if_neg (by simpa using e)⟩

theorem storeIn_lines (c : List CacheLine) (n a : Nat) (bs : List Byte) :
    (storeIn c n a bs).map CacheLine.line = c.map CacheLine.line := by
  unfold storeIn
  rw [List.map_map]
  congr 1
  funext l
  show (if l.line == n then l.stored a bs else l).line = l.line
  split <;> rfl

theorem pairwise_line {c : List CacheLine} : (c.Pairwise fun l m => l.line ≠ m.line) ↔ (c.map CacheLine.line).Nodup := by
  rw [List.Nodup, List.pairwise_map]

/-- A store in a line that a cache holds. -/
theorem byteIn_storeIn (c : List CacheLine) (n a : Nat) (bs : List Byte) (hl : ∀ q, a ≤ q → q < a + bs.length → lineOf q = n)
    (q : Nat) :
    byteIn (storeIn c n a bs) q =
      (byteIn c q).map fun b => if a ≤ q ∧ q < a + bs.length then bs.getD (q - a) 0 else b := by
  induction c with
  | nil => rfl
  | cons l c ih =>
    show byteIn ((if l.line == n then l.stored a bs else l) :: storeIn c n a bs) q = _
    rw [byteIn_cons, byteIn_cons, ih]
    by_cases hn : l.line = n
    · have e : (l.line == n) = true := by simpa using hn
      rw [if_pos e]
      by_cases hq : l.line = lineOf q
      · rw [if_pos (by exact hq), if_pos hq, byteAt_stored hq.symm]
        rfl
      · rw [if_neg (by exact hq), if_neg hq]
    · have e : ¬ (l.line == n) = true := by simpa using hn
      rw [if_neg e]
      by_cases hq : l.line = lineOf q
      · rw [if_pos hq, if_pos hq]
        rw [Option.map_some, if_neg]
        exact fun h => hn (hq.trans (hl q h.1 h.2))
      · rw [if_neg hq, if_neg hq]

theorem patchedIn_lines (c : List CacheLine) (a : Nat) (bs : List Byte) : (patchedIn c a bs).map CacheLine.line = c.map CacheLine.line := by
  unfold patchedIn
  rw [List.map_map]
  congr 1
  funext l
  show (if l.line == lineOf a then l.patched a bs else l).line = l.line
  split <;> rfl

theorem patchedIn_of_not_holds {c : List CacheLine} {a : Nat} (h : holds c (lineOf a) = false) (bs : List Byte) :
    patchedIn c a bs = c := by
  unfold patchedIn
  conv => rhs; rw [← List.map_id c]
  refine List.map_congr_left fun l hl => ?_
  rw [if_neg (by simpa using holds_eq_false.1 h l hl)]
  rfl

/-- Other bytes in a line keep whether a byte of it is dirty. -/
theorem dirtyByte_patchedIn (c : List CacheLine) (a : Nat) (bs : List Byte) (hl : ∀ q, a ≤ q → q < a + bs.length → lineOf q = lineOf a)
    (q : Nat) :
    dirtyByte (patchedIn c a bs) q =
      (dirtyByte c q).map fun b => if a ≤ q ∧ q < a + bs.length then bs.getD (q - a) 0 else b := by
  induction c with
  | nil => rfl
  | cons l c ih =>
    show dirtyByte ((if l.line == lineOf a then l.patched a bs else l) :: patchedIn c a bs) q = _
    rw [dirtyByte_cons, dirtyByte_cons, ih]
    by_cases hn : l.line = lineOf a
    · have e : (l.line == lineOf a) = true := by simpa using hn
      rw [if_pos e]
      have hd : (l.patched a bs).dirty = l.dirty := rfl
      have hln : (l.patched a bs).line = l.line := rfl
      rw [hd, hln]
      by_cases hq : l.line = lineOf q ∧ l.dirty = true
      · rw [if_pos hq, if_pos hq, byteAt_patched hq.1.symm]
        rfl
      · rw [if_neg hq, if_neg hq]
    · have e : ¬ (l.line == lineOf a) = true := by simpa using hn
      rw [if_neg e]
      by_cases hq : l.line = lineOf q ∧ l.dirty = true
      · rw [if_pos hq, if_pos hq, Option.map_some, if_neg]
        exact fun h => hn (hq.1.trans (hl q h.1 h.2))
      · rw [if_neg hq, if_neg hq]

/-- A line stored in is dirty: its dirty bytes are its bytes. -/
theorem dirtyByte_storeIn (c : List CacheLine) (n a : Nat) (bs : List Byte) {q : Nat} (hq : lineOf q = n) :
    dirtyByte (storeIn c n a bs) q = byteIn (storeIn c n a bs) q := by
  induction c with
  | nil => rfl
  | cons l c ih =>
    show dirtyByte ((if l.line == n then l.stored a bs else l) :: storeIn c n a bs) q =
      byteIn ((if l.line == n then l.stored a bs else l) :: storeIn c n a bs) q
    rw [dirtyByte_cons, byteIn_cons, ih]
    by_cases hn : l.line = n
    · have e : (l.line == n) = true := by simpa using hn
      have hd : (l.stored a bs).dirty = true := rfl
      rw [if_pos e, hd]
      simp only [and_true]
    · have e : ¬ (l.line == n) = true := by simpa using hn
      rw [if_neg e, hq, if_neg hn, if_neg fun h => hn h.1]

/-- A store touches its line alone. -/
theorem SameIn.storeIn {k n a : Nat} {c : List CacheLine} {bs : List Byte} (h : k ≠ n) : SameIn k c (storeIn c n a bs) :=
  SameIn.map (fun l => by split <;> rfl) fun l hl => if_neg (by rw [hl]; simpa using h)

theorem SameIn.patchedIn {k a : Nat} {c : List CacheLine} {bs : List Byte} (h : k ≠ lineOf a) : SameIn k c (patchedIn c a bs) :=
  SameIn.map (fun l => by split <;> rfl) fun l hl => if_neg (by rw [hl]; simpa using h)

/-- A cache that holds a line once holds it once after an update of the lines. -/
theorem once_map {c : List CacheLine} {n : Nat} {g : CacheLine → CacheLine} (hg : ∀ l, (g l).line = l.line)
    (h : ∀ l ∈ c, ∀ m ∈ c, l.line = n → m.line = n → l = m) : ∀ l ∈ c.map g, ∀ m ∈ c.map g, l.line = n → m.line = n → l = m := by
  intro l hl m hm e1 e2
  obtain ⟨l', hl', rfl⟩ := List.mem_map.1 hl
  obtain ⟨m', hm', rfl⟩ := List.mem_map.1 hm
  rw [h l' hl' m' hm' ((hg l').symm.trans e1) ((hg m').symm.trans e2)]

/-- What stores on one line alone. -/
theorem Writes.of_line {attr : BitVec 5} {s t : State} {n a : Nat} {bs : List Byte} (f : StoreFrame s t)
    (hl : ∀ q, a ≤ q → q < a + bs.length → lineOf q = n) (off : ∀ k, k ≠ n → s.SameLine t k)
    (on : s.Backed attr n → t.Backed attr n)
    (sh : ∀ q, lineOf q = n → (a ≤ q ∧ q < a + bs.length) ∨ s.Backed attr n → t.sees attr s.me.dcacheOn q =
      if a ≤ q ∧ q < a + bs.length then bs.getD (q - a) 0 else s.sees attr s.me.dcacheOn q) : Writes attr s t a bs := by
  refine ⟨f, fun k hb => ?_, fun q hq => ?_⟩
  · by_cases e : k = n
    · subst e
      exact ⟨on hb, fun q hq => sh q hq (.inr hb)⟩
    · refine ⟨(off k e).backed f hb, fun q hq => ?_⟩
      rw [if_neg fun h => e (hq.symm.trans (hl q h.1 h.2))]
      exact (off k e).shows f attr q hq
  · rw [sh q (hl q hq.1 hq.2) (.inl hq), if_pos hq]

/-- A store in the own D-cache, which is on and holds the line. -/
theorem State.storeMine_writes (s : State) {attr : BitVec 5} (hc : cacheable attr = true) (hon : s.me.dcacheOn = true) {n a : Nat}
    {bs : List Byte} (hh : holds s.me.l1d n = true) (hcl : s.Claimed attr n) (hl : ∀ q, a ≤ q → q < a + bs.length → lineOf q = n) :
    Writes attr s (s.setMyL1 (storeIn s.me.l1d n a bs)) a bs := by
  have f : StoreFrame s (s.setMyL1 (storeIn s.me.l1d n a bs)) := rfl
  have hm : ∀ q, lineOf q = n → ∃ b, byteIn s.me.l1d q = some b := by
    intro q hq
    rw [← Option.isSome_iff_exists, byteIn_isSome, hq]
    exact hh
  have sh : ∀ q, lineOf q = n → (s.setMyL1 (storeIn s.me.l1d n a bs)).sees attr s.me.dcacheOn q =
      if a ≤ q ∧ q < a + bs.length then bs.getD (q - a) 0 else s.sees attr s.me.dcacheOn q := by
    intro q hq
    obtain ⟨b, hb⟩ := hm q hq
    rw [State.sees_cacheable _ hc, State.sees_cacheable s hc, hon]
    show (if true = true then byteIn (storeIn s.me.l1d n a bs) q else none).getD _ = _
    rw [byteIn_storeIn _ _ _ _ hl, hb]
    rfl
  refine Writes.of_line f hl (fun k hk => ⟨SameIn.storeIn hk, rfl, rfl, fun _ _ => rfl⟩) (fun hb _ => ?_) fun q hq _ => sh q hq
  obtain ⟨h1, h2⟩ := hb hc
  refine ⟨once_map (fun l => by split <;> rfl) h1, fun q hq => ?_⟩
  have hq' : lineOf q = n := hq
  obtain ⟨q1, _, _, q4⟩ := h2 q hq
  have ho : dirtyByte s.other.l1d q = none := by
    cases hs : s.snooped attr
    · exact q1 hs
    · exact hcl hs q hq
  obtain ⟨b, hb⟩ := hm q hq
  have hd : dirtyByte (s.setMyL1 (storeIn s.me.l1d n a bs)).me.l1d q =
      some (if a ≤ q ∧ q < a + bs.length then bs.getD (q - a) 0 else b) := by
    show dirtyByte (storeIn s.me.l1d n a bs) q = _
    rw [dirtyByte_storeIn _ _ _ _ hq', byteIn_storeIn _ _ _ _ hl, hb]
    rfl
  have hsee : s.sees attr s.me.dcacheOn q = b := by
    rw [State.sees_cacheable s hc, hon, if_pos rfl, hb]
    rfl
  dsimp only
  rw [f.dcacheOn, sh q hq, hd, hsee]
  refine ⟨fun _ => ho, fun c hcc => ?_, fun _ h => absurd h (Option.some_ne_none _), q4⟩
  rcases hcc with hcc | hcc
  · rw [show dirtyByte (s.setMyL1 (storeIn s.me.l1d n a bs)).other.l1d q = none from ho] at hcc
    cases hcc
  · cases hcc
    rfl

/-- A store below the own D-cache, which does not hold the line or is off: it changes the bytes of a line there too. -/
theorem Writes.of_below {attr : BitVec 5} {s t : State} {a : Nat} {bs : List Byte} (f : StoreFrame s t)
    (hm : t.me.l1d = patchedIn s.me.l1d a bs) (ho : t.other.l1d = s.other.l1d) (hca : cacheable attr = true)
    (hc : s.Claimed attr (lineOf a)) (hn : s.me.dcacheOn = true → holds s.me.l1d (lineOf a) = false)
    (hl : ∀ q, a ≤ q → q < a + bs.length → lineOf q = lineOf a) (off : ∀ k, k ≠ lineOf a → SameIn k s.l2 t.l2)
    (hmem : ∀ q, lineOf q ≠ lineOf a → Memory.read t.mem q = Memory.read s.mem q)
    (hb : ∀ q, lineOf q = lineOf a → t.l2Byte q = if a ≤ q ∧ q < a + bs.length then bs.getD (q - a) 0 else s.l2Byte q)
    (hd : ∀ q, lineOf q = lineOf a → (dirtyByte t.l2 q).getD (Memory.read t.mem q) = t.l2Byte q) : Writes attr s t a bs := by
  have own : ∀ c : List CacheLine, (c = s.me.l1d ∨ c = t.me.l1d) → ∀ q, lineOf q = lineOf a →
      (if s.me.dcacheOn then byteIn c q else none) = none := by
    intro c hcc q hq
    split
    · next hon =>
      refine byteIn_eq_none ?_
      rw [hq]
      rcases hcc with rfl | rfl
      · exact hn hon
      · rw [hm, patchedIn_of_not_holds (hn hon)]
        exact hn hon
    · rfl
  -- what an access finds is what the L2 has
  have low : ∀ q, lineOf q = lineOf a → s.sees attr s.me.dcacheOn q = s.l2Byte q ∧ t.sees attr s.me.dcacheOn q = t.l2Byte q := by
    intro q hq
    rw [State.sees_cacheable s hca, State.sees_cacheable t hca, own _ (.inl rfl) q hq, own _ (.inr rfl) q hq, f.snooped, ho]
    have e : (if s.snooped attr then dirtyByte s.other.l1d q else none) = none := by
      cases hs : s.snooped attr
      · rfl
      · exact hc hs q hq
    rw [e]
    exact ⟨rfl, rfl⟩
  have sh : ∀ q, lineOf q = lineOf a → t.sees attr s.me.dcacheOn q =
      if a ≤ q ∧ q < a + bs.length then bs.getD (q - a) 0 else s.sees attr s.me.dcacheOn q := by
    intro q hq
    obtain ⟨e1, e2⟩ := low q hq
    rw [e1, e2, hb q hq]
  refine Writes.of_line f hl (fun k hk => ⟨hm ▸ SameIn.patchedIn hk, ho ▸ rfl, off k hk, fun q hq => hmem q (hq ▸ hk)⟩)
    (fun hbk _ => ?_) fun q hq _ => sh q hq
  obtain ⟨h1, h2⟩ := hbk hca
  refine ⟨?_, fun q hq => ?_⟩
  · rw [hm]
    exact once_map (fun l => by split <;> rfl) h1
  · have hq' : lineOf q = lineOf a := hq
    obtain ⟨q1, q2, q3, _⟩ := h2 q hq
    have hno : dirtyByte s.other.l1d q = none := by
      cases hs : s.snooped attr
      · exact q1 hs
      · exact hc hs q hq
    dsimp only
    rw [f.dcacheOn, ho, hno, hm, dirtyByte_patchedIn _ _ _ hl]
    refine ⟨fun _ => rfl, fun b hbb => ?_, fun _ _ => (low q hq').2.symm, hd q hq'⟩
    rcases hbb with hbb | hbb
    · cases hbb
    · rw [sh q hq']
      obtain ⟨b', hb', rfl⟩ := Option.map_eq_some_iff.1 hbb
      rw [q2 b' (.inr hb')]

/-- A cacheable store, once no other copy is in the way (20_memory:R219, R220). -/
theorem State.storeCached_writes (s : State) {attr : BitVec 5} (hca : cacheable attr = true) (a : Nat) (bs : List Byte)
    (hc : s.Claimed attr (lineOf a)) (hl : ∀ q, a ≤ q → q < a + bs.length → lineOf q = lineOf a) :
    Writes attr s (s.storeCached a bs) a bs := by
  have ky := State.yieldLine_keeps s (lineOf a) hca
  have hcy : (s.yieldLine (lineOf a)).Claimed attr (lineOf a) := hc.of_same ky.1.store rfl
  unfold State.storeCached
  dsimp only
  refine ky.writes ?_
  generalize s.yieldLine (lineOf a) = s at hcy ⊢
  clear ky hc
  rename_i s0
  have hc := hcy
  clear hcy
  split
  · next hd =>
    rw [Bool.and_eq_true] at hd
    obtain ⟨f, hh, ho, k⟩ := State.fill_spec s (lineOf a)
    refine (k attr hca hc).1.writes ?_
    exact State.storeMine_writes _ hca (f.dcacheOn.trans hd.1) hh (hc.of_same f.store ho) hl
  · next hd =>
    have hn : s.me.dcacheOn = true → holds s.me.l1d (lineOf a) = false := by
      intro ho
      rw [ho, Bool.true_and, Bool.or_eq_true, not_or] at hd
      simpa using hd.1
    split
    · next ht =>
      -- the L2 takes the line, and holds it then
      obtain ⟨f, m1, o1, _, hh, k⟩ := State.fillL2_spec s (lineOf a)
      refine (k attr hca).1.writes ?_
      have hc' := hc.of_same f.store o1
      have hn' : (s.fillL2 (lineOf a)).me.dcacheOn = true → holds (s.fillL2 (lineOf a)).me.l1d (lineOf a) = false := by
        rw [f.dcacheOn, m1.holds]
        exact hn
      generalize s.fillL2 (lineOf a) = u at hh hc' hn'
      have held : ∀ q, lineOf q = lineOf a → ∃ b, byteIn u.l2 q = some b := by
        intro q hq
        rw [← Option.isSome_iff_exists, byteIn_isSome, hq]
        exact hh
      refine Writes.of_below rfl rfl rfl hca hc' hn' hl (fun k hk => SameIn.storeIn hk) (fun _ _ => rfl) (fun q hq => ?_) fun q hq => ?_
      · obtain ⟨b, hb⟩ := held q hq
        unfold State.l2Byte
        show (byteIn (storeIn u.l2 (lineOf a) a bs) q).getD _ = _
        rw [byteIn_storeIn _ _ _ _ hl, hb]
        rfl
      · obtain ⟨b, hb⟩ := held q hq
        unfold State.l2Byte
        show (dirtyByte (storeIn u.l2 (lineOf a) a bs) q).getD _ = (byteIn (storeIn u.l2 (lineOf a) a bs) q).getD _
        rw [dirtyByte_storeIn _ _ _ _ hq]
    · next h2 =>
      have hno : holds s.l2 (lineOf a) = false := by
        cases h : holds s.l2 (lineOf a)
        · rfl
        · exfalso
          apply h2
          unfold State.l2Takes
          show (holds s.l2 (lineOf a) || _) = true
          rw [h, Bool.true_or]
      have hb : ∀ q, lineOf q = lineOf a → byteIn s.l2 q = none := fun q hq => byteIn_eq_none (by rw [hq]; exact hno)
      refine Writes.of_below rfl rfl rfl hca hc hn hl (fun _ _ => rfl) (fun q hq => ?_) (fun q hq => ?_) fun q hq => ?_
      · show Memory.read (Memory.writeBytes a bs s.mem) q = _
        rw [Memory.read_writeBytes, if_neg fun h => hq (hl q h.1 h.2)]
      · unfold State.l2Byte
        show (byteIn s.l2 q).getD (Memory.read (Memory.writeBytes a bs s.mem) q) = _
        rw [Memory.read_writeBytes, hb q hq]
        rfl
      · unfold State.l2Byte
        show (dirtyByte s.l2 q).getD _ = (byteIn s.l2 q).getD _
        rw [hb q hq, dirtyByte_none (by rw [hq]; exact hno)]

/-- A store of bytes on one line (20_memory:R181, R187, R192, R219). -/
theorem State.storeData_writes (s : State) {attr attr' : BitVec 5} (hA : s.Alike attr' attr) (a : Nat) (bs : List Byte)
    (hl : a % 64 + bs.length ≤ 64) : Writes attr s (s.storeData attr' a bs) a bs := by
  have hl' : ∀ q, a ≤ q → q < a + bs.length → lineOf q = lineOf a := by
    intro q h1 h2
    unfold lineOf
    omega
  unfold State.storeData
  split
  · next h =>
    have hca : ¬ cacheable attr = true := by
      rw [← hA.1]
      simpa using h
    have sh : ∀ q, (s.storePast a bs).sees attr s.me.dcacheOn q =
        if a ≤ q ∧ q < a + bs.length then bs.getD (q - a) 0 else s.sees attr s.me.dcacheOn q := by
      intro q
      unfold State.sees
      rw [if_neg hca, if_neg hca]
      exact Memory.read_writeBytes _ _ _ _
    exact ⟨rfl, fun n _ => ⟨fun h => absurd h hca, fun q _ => sh q⟩, fun q hq => by rw [sh, if_pos hq]⟩
  · next h =>
    have hca : cacheable attr = true := by
      rw [← hA.1]
      simpa using h
    obtain ⟨k, _, c⟩ := State.claim_keeps s hA hca (lineOf a) (.inr rfl)
    exact k.writes (State.storeCached_writes _ hca a bs c hl')

/-- A store of bytes changes, beside memory, the lines of the caches. -/
theorem State.storeCached_frame (s : State) (a : Nat) (bs : List Byte) : StoreFrame s (s.storeCached a bs) := by
  have y : LineFrame s (s.yieldLine (lineOf a)) := rfl
  unfold State.storeCached
  dsimp only
  split
  · exact ((y.trans (State.fill_spec _ (lineOf a)).1).store).trans rfl
  · split
    · exact ((y.trans (State.fillL2_spec _ (lineOf a)).1).store).trans rfl
    · exact rfl

theorem State.storeData_frame (s : State) (attr : BitVec 5) (a : Nat) (bs : List Byte) : StoreFrame s (s.storeData attr a bs) := by
  unfold State.storeData
  split
  · exact rfl
  · refine StoreFrame.trans ?_ (State.storeCached_frame _ a bs)
    split <;> rfl

theorem State.notePte_frame (s : State) (attr : BitVec 5) (a : Nat) : StoreFrame s (s.notePte attr a) := rfl
theorem State.announce_frame (s : State) (a : Nat) : StoreFrame s (s.announce a) := rfl

/-! ### Memory keeps its canonical form (log 7) -/

theorem State.fillL2_wf (s : State) (n : Nat) (h : Memory.wf s.mem = true) : Memory.wf (s.fillL2 n).mem = true := by
  unfold State.fillL2
  split
  · exact h
  · show Memory.wf (s.makeRoom n).mem = true
    unfold State.makeRoom
    split
    · exact h
    · split
      · exact wf_spill _ _ h
      · exact h

theorem State.fill_wf (s : State) (n : Nat) (h : Memory.wf s.mem = true) : Memory.wf (s.fill n).mem = true := by
  unfold State.fill
  split
  · exact h
  · exact State.fillL2_wf s n h

theorem State.touch_wf (s : State) (attr : BitVec 5) (a : Nat) (h : Memory.wf s.mem = true) :
    Memory.wf (s.touch attr a).mem = true := by
  unfold State.touch
  split
  · exact h
  · have h' : Memory.wf (if s.snooped attr then s.cleanOther (onLine (lineOf a)) else s).mem = true := by split <;> exact h
    dsimp only
    generalize (if s.snooped attr = true then s.cleanOther (onLine (lineOf a)) else s) = u at h' ⊢
    split
    · exact h'
    · split
      · exact State.fill_wf u _ h'
      · exact State.fillL2_wf u _ h'

theorem State.storeData_wf (s : State) (attr : BitVec 5) (a : Nat) (bs : List Byte) (h : Memory.wf s.mem = true) :
    Memory.wf (s.storeData attr a bs).mem = true := by
  have cached : ∀ u : State, Memory.wf u.mem = true → Memory.wf (u.storeCached a bs).mem = true := by
    intro u hu
    unfold State.storeCached
    dsimp only
    split
    · exact State.fill_wf _ _ hu
    · split
      · exact State.fillL2_wf _ _ hu
      · exact Memory.wf_writeBytes _ _ _ hu
  unfold State.storeData
  split
  · exact Memory.wf_writeBytes _ _ _ h
  · apply cached
    split
    · exact h
    · exact h

end Sys2Proof.Machine
end

