-- ==== Sys2Proof/Laws/Access.lean ====
section
/-! SUPPORT. What looking an address up, fetching, loading and storing can do: the state they leave, the exceptions they
raise, and the value or the bytes where the access lands in ordinary memory. -/

namespace Sys2Proof.Machine

/-! ### Results -/

/-- A part of an instruction that goes on satisfies `Q`, one that raises satisfies `E`. -/
def Res.Sat {α : Type} (r : Res α) (Q : α → State → Prop) (E : Nat → Word → State → Prop) : Prop :=
  match r with
  | .ok v s => Q v s
  | .trap c i s => E c i s
  | .fault _ => True
  | .refused _ => True

theorem Res.Sat.andThen {α β : Type} {r : Res α} {k : α → State → Res β} {Q : α → State → Prop} {Q' : β → State → Prop}
    {E : Nat → Word → State → Prop} (h : r.Sat Q E) (hk : ∀ v s, Q v s → (k v s).Sat Q' E) : (r.andThen k).Sat Q' E := by
  cases r with
  | ok v s => exact hk v s h
  | trap c i s => exact h
  | fault e => trivial
  | refused e => trivial

theorem Res.Sat.mono {α : Type} {r : Res α} {Q Q' : α → State → Prop} {E E' : Nat → Word → State → Prop}
    (h : r.Sat Q E) (hq : ∀ v s, Q v s → Q' v s) (he : ∀ c i s, E c i s → E' c i s) : r.Sat Q' E' := by
  cases r with
  | ok v s => exact hq v s h
  | trap c i s => exact he c i s h
  | fault e => trivial
  | refused e => trivial

theorem Res.Sat.of_trap {α : Type} {r : Res α} {Q : α → State → Prop} {E : Nat → Word → State → Prop}
    (h : r.Sat Q E) {c : Nat} {i : Word} {s : State} (hr : r = .trap c i s) : E c i s := by subst hr; exact h

theorem Res.Sat.of_ok {α : Type} {r : Res α} {Q : α → State → Prop} {E : Nat → Word → State → Prop}
    (h : r.Sat Q E) {v : α} {s : State} (hr : r = .ok v s) : Q v s := by subst hr; exact h

@[simp] theorem Res.ok_andThen {α β : Type} (v : α) (s : State) (k : α → State → Res β) : (Res.ok v s).andThen k = k v s := rfl
/-- What goes on to the end went on in its first part. -/
theorem Res.andThen_eq_ok {α β : Type} {r : Res α} {k : α → State → Res β} {v : β} {s : State}
    (h : r.andThen k = .ok v s) : ∃ w s', r = .ok w s' ∧ k w s' = .ok v s := by
  cases r with
  | ok w s' => exact ⟨w, s', rfl, h⟩
  | trap c i s' => cases h
  | fault e => cases h
  | refused e => cases h

@[simp] theorem Res.trap_andThen {α β : Type} (c : Nat) (i : Word) (s : State) (k : α → State → Res β) :
    (Res.trap c i s : Res α).andThen k = .trap c i s := rfl

/-- What raises in a part ends the whole. -/
theorem Res.andThen_eq_trap {α β : Type} {r : Res α} {k : α → State → Res β} {c : Nat} {i : Word} {s : State}
    (h : r.andThen k = .trap c i s) : r = .trap c i s ∨ ∃ v s', r = .ok v s' ∧ k v s' = .trap c i s := by
  cases r with
  | ok v s' => exact .inr ⟨v, s', rfl, h⟩
  | trap c' i' s' =>
    cases h
    exact .inl rfl
  | fault e => cases h
  | refused e => cases h

/-! ### Hidden state -/

theorem Hidden.refl (s : State) : Hidden s s := rfl

theorem Hidden.trans {s t u : State} (h1 : Hidden s t) (h2 : Hidden t u) : Hidden s u := by
  unfold Hidden at *
  rw [h2, h1]

theorem Hidden.drawn (s : State) : Hidden s s.drawn := rfl

/-- What stays when only hidden state moves. -/
theorem Hidden.mem {s t : State} (h : Hidden s t) : t.mem = s.mem := by rw [h]
theorem Hidden.soc {s t : State} (h : Hidden s t) : t.soc = s.soc := by rw [h]
theorem Hidden.other {s t : State} (h : Hidden s t) : t.other = s.other := by rw [h]
theorem Hidden.x {s t : State} (h : Hidden s t) : t.me.x = s.me.x := by rw [h]
theorem Hidden.f {s t : State} (h : Hidden s t) : t.me.f = s.me.f := by rw [h]
theorem Hidden.me {s t : State} (h : Hidden s t) : t.me = { s.me with tlb := t.me.tlb } := by
  have := congrArg State.me h
  exact this
theorem Hidden.m {s t : State} (h : Hidden s t) : t.me.m = s.me.m := by rw [h]
theorem Hidden.pc {s t : State} (h : Hidden s t) : t.me.pc = s.me.pc := by rw [h]
theorem Hidden.getX {s t : State} (h : Hidden s t) (q : Reg) : t.getX q = s.getX q := State.getX_congr h.x q
theorem Hidden.getF {s t : State} (h : Hidden s t) (q : Reg) : t.getF q = s.getF q := State.getF_congr h.f q
theorem Hidden.plain {s t : State} (h : Hidden s t) (pl : Place) : Plain t pl ↔ Plain s pl := by
  unfold Plain
  rw [h.soc]

theorem Hidden.refill (s : State) (l : Leaf) (va : Word) : Hidden s (s.refill l va) := rfl

theorem Hidden.fillMicro (s : State) (k : Access) (e : TlbEntry) : Hidden s (s.fillMicro k e) := by
  unfold State.fillMicro
  dsimp only
  split <;> rfl

theorem Hidden.refillFor (s : State) (k : Access) (l : Leaf) (va : Word) : Hidden s (s.refillFor k l va) := by
  unfold State.refillFor
  split
  · exact Hidden.refill s l va
  · exact (Hidden.refill s l va).trans (Hidden.fillMicro _ k _)

/-- What accesses find depends on the D-caches, the L2, memory and whether the other core snoops. -/
theorem State.sees_congr {s t : State} (h1 : t.me.l1d = s.me.l1d) (h2 : t.other.l1d = s.other.l1d) (h3 : t.other.th = s.other.th)
    (h4 : t.l2 = s.l2) (h5 : t.mem = s.mem) : SameBytes s t := by
  intro attr own a
  unfold State.sees State.below State.l2Byte State.snooped Hart.snoops
  rw [h1, h2, h3, h4, h5]

/-- What accesses find does not depend on hidden state. -/
theorem Hidden.sees {s t : State} (h : Hidden s t) (attr : BitVec 5) (own : Bool) (a : Nat) : t.sees attr own a = s.sees attr own a := by
  unfold State.sees State.below State.l2Byte State.snooped
  rw [h]

theorem Hidden.dcacheOn {s t : State} (h : Hidden s t) : t.me.dcacheOn = s.me.dcacheOn := by
  unfold Hart.dcacheOn
  rw [h]

theorem Hidden.number {s t : State} (h : Hidden s t) (attr : BitVec 5) (a n : Nat) : t.number attr a n = s.number attr a n := by
  unfold State.number
  exact numberAt_congr fun q _ _ => by rw [h.sees, h.dcacheOn]

theorem Hidden.alike {s t : State} (h : Hidden s t) (attr attr' : BitVec 5) : t.Alike attr attr' ↔ s.Alike attr attr' := by
  unfold State.Alike State.snooped
  rw [h]

theorem Hidden.backed {s t : State} (h : Hidden s t) (attr : BitVec 5) (n : Nat) : t.Backed attr n ↔ s.Backed attr n := by
  unfold State.Backed State.sees State.below State.l2Byte State.snooped Hart.dcacheOn
  rw [h]

theorem Hidden.apart {s t : State} (h : Hidden s t) (ps : List Part) : t.Apart ps ↔ s.Apart ps := by
  unfold State.Apart
  simp only [h.alike, h.backed]

theorem Hidden.loaded {s t : State} (h : Hidden s t) (ps : List Part) : t.loaded ps = s.loaded ps := by
  induction ps with
  | nil => rfl
  | cons p rest ih => simp only [State.loaded, ih, h.number]

theorem Hidden.byteAfter {s t : State} (h : Hidden s t) (attr : BitVec 5) (cs : List Chunk) (a : Nat) :
    Machine.byteAfter t attr cs a = Machine.byteAfter s attr cs a := by
  unfold Machine.byteAfter
  rw [h.sees, h.dcacheOn]

/-- Accesses with attributes of the same effect find the same bytes (20_memory:R187). -/
theorem State.Alike.sees {s : State} {attr attr' : BitVec 5} (h : s.Alike attr attr') (own : Bool) (a : Nat) :
    s.sees attr own a = s.sees attr' own a := by
  unfold State.sees State.below
  rw [h.1, h.2]

/-! ### From an address to a place -/

/-- Reading a page-table entry leaves all but the count of free values. -/
theorem State.readPte_hidden (s : State) (pa : BitVec 40) : Hidden s (s.readPte pa).2.2 := by
  unfold State.readPte
  split
  · exact Hidden.drawn s
  · dsimp only
    split
    · exact Hidden.refl s
    · split <;> exact Hidden.drawn s

/-- The walk finds a leaf or raises an access fault or a page fault with the address looked up (21_mmu_pmp:R234, R243). -/
theorem State.walk_sat (s : State) (k : Access) (va : Word) (table n : Nat) :
    (s.walk k va table n).Sat (fun _ s' => Hidden s s')
      (fun c i s' => Hidden s s' ∧ i = va ∧ (c = k.accessFault ∨ c = k.pageFault)) := by
  induction n generalizing s table with
  | zero => exact ⟨Hidden.refl s, rfl, .inr rfl⟩
  | succ n ih =>
    unfold State.walk
    dsimp only
    split
    · exact ⟨Hidden.refl s, rfl, .inl rfl⟩
    · split
      · trivial
      · split
        · exact ⟨Hidden.refl s, rfl, .inr rfl⟩
        · have h := State.readPte_hidden s (BitVec.ofNat 40 (table * 4096 + field va (12 + 9 * n) 9 * 8))
          revert h
          generalize s.readPte _ = r
          intro h
          split
          · exact ⟨h, rfl, .inr rfl⟩
          · split
            · refine Res.Sat.andThen (Q := fun _ s' => Hidden s s') ?_ fun _ _ h2 => h2
              exact (ih r.2.2 _).mono (fun _ _ h2 => h.trans h2) fun _ _ _ h2 => ⟨h.trans h2.1, h2.2⟩
            · split
              · exact ⟨h, rfl, .inr rfl⟩
              · exact h

theorem State.throughTlb_sat (s : State) (k : Access) (p : Priv) (va : Word) (e : TlbEntry) :
    (s.throughTlb k p va e).Sat (fun _ s' => s' = s) (fun c i s' => s' = s ∧ i = va ∧ c = k.pageFault) := by
  unfold State.throughTlb
  split
  · rfl
  · exact ⟨rfl, rfl, rfl⟩

theorem State.throughTable_sat (s : State) (k : Access) (p : Priv) (va : Word) :
    (s.throughTable k p va).Sat (fun _ s' => Hidden s s')
      (fun c i s' => Hidden s s' ∧ i = va ∧ (c = k.accessFault ∨ c = k.pageFault)) := by
  refine (State.walk_sat s k va _ 3).andThen fun l s' h => ?_
  dsimp only
  split
  · exact h.trans (Hidden.refillFor s' k l va)
  · exact ⟨h, rfl, .inr rfl⟩

theorem State.lookup_sat (s : State) (k : Access) (p : Priv) (va : Word) :
    (s.lookup k p va).Sat (fun _ s' => Hidden s s')
      (fun c i s' => Hidden s s' ∧ i = va ∧ (c = k.accessFault ∨ c = k.pageFault)) := by
  have through : ∀ e, (s.throughTlb k p va e).Sat (fun _ s' => Hidden s s')
      (fun c i s' => Hidden s s' ∧ i = va ∧ (c = k.accessFault ∨ c = k.pageFault)) := fun e =>
    (State.throughTlb_sat s k p va e).mono (fun _ s' h => h ▸ Hidden.refl s)
      fun _ _ s' h => ⟨h.1 ▸ Hidden.refl s, h.2.1, .inr h.2.2⟩
  unfold State.lookup
  split
  · exact through _
  · split
    · exact (through _).andThen fun pl s' h => h.trans (Hidden.fillMicro s' k _)
    · split
      · exact ⟨Hidden.refl s, rfl, .inr rfl⟩
      · exact State.throughTable_sat s k p va
    · trivial
  · trivial

/-- Translation gives a place or raises an access fault or a page fault with the address looked up (21_mmu_pmp:R243). -/
theorem State.translate_sat (s : State) (k : Access) (va : Word) :
    (s.translate k va).Sat (fun _ s' => Hidden s s')
      (fun c i s' => Hidden s s' ∧ i = va ∧ (c = k.accessFault ∨ c = k.pageFault)) := by
  unfold State.translate
  dsimp only
  split
  · split
    · unfold State.lookupLeaving
      split
      · exact State.lookup_sat s k _ va
      · have h := Hidden.drawn s
        split
        · exact (State.throughTlb_sat s.drawn k _ va _).mono (fun _ s' e => e ▸ h)
            fun _ _ s' e => ⟨e.1 ▸ h, e.2.1, .inr e.2.2⟩
        · exact (State.lookup_sat s.drawn k _ va).mono (fun _ _ e => h.trans e) fun _ _ _ e => ⟨h.trans e.1, e.2⟩
    · exact ⟨Hidden.refl s, rfl, .inr rfl⟩
  · split
    · exact ⟨Hidden.refl s, rfl, .inl rfl⟩
    · exact Hidden.refl s

/-- The checks of a place pass and leave the state, or raise an access fault (20_memory:R185, R196). -/
theorem State.checkPlace_sat (s : State) (k : Access) (va : Word) (pl : Place) :
    (s.checkPlace k va pl).Sat (fun q s' => s' = s ∧ q = pl) (fun c i s' => Hidden s s' ∧ i = va ∧ c = k.accessFault) := by
  unfold State.checkPlace
  split
  · exact ⟨Hidden.refl s, rfl, rfl⟩
  · split
    · trivial
    · split
      · exact ⟨Hidden.refl s, rfl, rfl⟩
      · exact ⟨rfl, rfl⟩

/-- Translation and the checks give a place or raise an access fault or a page fault (20_memory:R185). -/
theorem State.resolve_sat (s : State) (k : Access) (va : Word) :
    (s.resolve k va).Sat (fun _ s' => Hidden s s')
      (fun c i s' => Hidden s s' ∧ i = va ∧ (c = k.accessFault ∨ c = k.pageFault)) := by
  refine Res.Sat.andThen (State.translate_sat s k va) fun pl s1 h1 => ?_
  exact (State.checkPlace_sat s1 k va pl).mono (fun _ s' h => h.1 ▸ h1) fun _ _ _ h => ⟨h1.trans h.1, h.2.1, .inl h.2.2⟩

/-- The place has the address's offset in its 4 KB page. -/
def SameOffset (pl : Place) (va : Word) : Prop := pl.pa.toNat % 4096 = va.toNat % 4096

theorem pageAddress_offset (ppn : BitVec 28) (level : Nat) (va : Word) : (pageAddress ppn level va).toNat % 4096 = va.toNat % 4096 := by
  unfold pageAddress
  rw [BitVec.toNat_ofNat, Nat.mod_mod_of_dvd _ (by decide), pow_add, show 2 ^ 12 = 4096 by rfl]
  rw [Nat.add_mod, show ppn.toNat / 2 ^ (9 * level) * (4096 * 2 ^ (9 * level)) = 4096 * (ppn.toNat / 2 ^ (9 * level) * 2 ^ (9 * level)) by ring,
    Nat.mul_mod_right, Nat.zero_add, Nat.mod_mod, Nat.mod_mul_right_mod]

theorem State.throughTlb_offset (s : State) (k : Access) (p : Priv) (va : Word) (e : TlbEntry) :
    (s.throughTlb k p va e).Sat (fun pl _ => SameOffset pl va) (fun _ _ _ => True) := by
  unfold State.throughTlb
  split
  · exact pageAddress_offset _ _ va
  · trivial

theorem State.lookup_offset (s : State) (k : Access) (p : Priv) (va : Word) :
    (s.lookup k p va).Sat (fun pl _ => SameOffset pl va) (fun _ _ _ => True) := by
  unfold State.lookup
  split
  · exact State.throughTlb_offset s k p va _
  · split
    · exact (State.throughTlb_offset s k p va _).andThen fun pl _ h => h
    · split
      · trivial
      · unfold State.throughTable
        refine ((State.walk_sat s k va _ 3).mono (Q' := fun _ _ => True) (E' := fun _ _ _ => True) (fun _ _ _ => trivial)
          fun _ _ _ _ => trivial).andThen fun l s' _ => ?_
        dsimp only
        split
        · exact pageAddress_offset _ _ va
        · trivial
    · trivial
  · trivial

theorem State.translate_offset (s : State) (k : Access) (va : Word) :
    (s.translate k va).Sat (fun pl _ => SameOffset pl va) (fun _ _ _ => True) := by
  unfold State.translate
  dsimp only
  split
  · split
    · unfold State.lookupLeaving
      split
      · exact State.lookup_offset s k _ va
      · split
        · exact State.throughTlb_offset _ k _ va _
        · exact State.lookup_offset _ k _ va
    · trivial
  · split
    · trivial
    · show (va.setWidth 40).toNat % 4096 = va.toNat % 4096
      rw [BitVec.toNat_setWidth, Nat.mod_mod_of_dvd _ (by decide)]

/-- The place of an address has its offset (21_mmu_pmp:R234 step 7). -/
theorem State.resolve_offset {s s' : State} {k : Access} {va : Word} {pl : Place} (h : s.resolve k va = .ok pl s') :
    SameOffset pl va := by
  obtain ⟨q, s1, h1, h2⟩ := Res.andThen_eq_ok h
  rw [((State.checkPlace_sat s1 k va q).of_ok h2).2]
  exact (State.translate_offset s k va).of_ok h1

/-! ### The parts of an access -/

/-- The part lies on one line (48_thead_cache_sync:R690). -/
def OneLine (p : Part) : Prop := p.place.pa.toNat % 64 + p.size ≤ 64

/-- The bytes of a part on one line are on its line. -/
theorem Part.Covers.line {p : Part} {a : Nat} (h : p.Covers a) (hl : OneLine p) : lineOf a = lineOf p.place.pa.toNat := by
  unfold OneLine at hl
  obtain ⟨h1, h2⟩ := h
  unfold lineOf
  omega

/-- The parts of an access: one whole, aligned, or single bytes. -/
def PartsOf (va : Word) (n : Nat) (ps : List Part) : Prop :=
  (∃ pl, ps = [⟨pl, n⟩] ∧ va.toNat % n = 0 ∧ SameOffset pl va) ∨ ∀ p ∈ ps, p.size = 1

/-- An aligned access lies on one line. -/
theorem oneLine_of_aligned {pl : Place} {va : Word} {n : Nat} (hn : 64 % n = 0) (ha : va.toNat % n = 0) (ho : SameOffset pl va) :
    OneLine ⟨pl, n⟩ := by
  have h1 : n ∣ 64 := Nat.dvd_of_mod_eq_zero hn
  have h2 : n ∣ pl.pa.toNat % 64 := by
    have e : pl.pa.toNat % 64 = va.toNat % 64 := by
      unfold SameOffset at ho
      omega
    rw [e]
    exact (Nat.dvd_mod_iff h1).2 (Nat.dvd_of_mod_eq_zero ha)
  obtain ⟨k, hk⟩ := h2
  obtain ⟨m, hm⟩ := h1
  have hlt : pl.pa.toNat % 64 < 64 := Nat.mod_lt _ (by decide)
  show pl.pa.toNat % 64 + n ≤ 64
  have hlt' : n * k < n * m := by omega
  have : k < m := Nat.lt_of_mul_lt_mul_left hlt'
  have h3 : n * (k + 1) ≤ n * m := Nat.mul_le_mul_left n this
  rw [hk]
  rw [Nat.mul_add, Nat.mul_one] at h3
  omega

theorem PartsOf.oneLine {va : Word} {n : Nat} {ps : List Part} (h : PartsOf va n ps) (hn : 64 % n = 0) : ∀ p ∈ ps, OneLine p := by
  intro p hp
  rcases h with ⟨pl, rfl, ha, ho⟩ | h
  · rw [List.mem_singleton.1 hp]
    exact oneLine_of_aligned hn ha ho
  · unfold OneLine
    rw [h p hp]
    omega

theorem State.planBytes_sat (s : State) (k : Access) (start va : Word) (n : Nat) :
    (s.planBytes k start va n).Sat (fun ps s' => Hidden s s' ∧ ∀ p ∈ ps, p.size = 1)
      (fun c _ s' => Hidden s s' ∧ (c = k.accessFault ∨ c = k.pageFault ∨ c = k.misaligned)) := by
  induction n generalizing s va with
  | zero => exact ⟨Hidden.refl s, by simp⟩
  | succ n ih =>
    refine Res.Sat.andThen (Q := fun _ s' => Hidden s s') ?_ fun pl s1 h1 => ?_
    · exact (State.translate_sat s k va).mono (fun _ _ h => h) fun _ _ _ h => ⟨h.1, by tauto⟩
    · split
      · exact ⟨h1, by simp⟩
      · refine Res.Sat.andThen (Q := fun _ s' => Hidden s s') ?_ fun pl s2 h2 => ?_
        · exact (State.checkPlace_sat s1 k va pl).mono (fun _ s' h => h.1 ▸ h1) fun _ _ _ h => ⟨h1.trans h.1, .inl h.2.2⟩
        · refine Res.Sat.andThen (Q := fun ps s' => Hidden s s' ∧ ∀ p ∈ ps, p.size = 1) ?_ fun ps s3 h3 => ?_
          · exact (ih s2 (va + 1)).mono (fun _ _ h => ⟨h2.trans h.1, h.2⟩) fun _ _ _ h => ⟨h2.trans h.1, h.2⟩
          · refine ⟨h3.1, ?_⟩
            intro p hp
            rcases List.mem_cons.1 hp with rfl | hp
            · rfl
            · exact h3.2 p hp

/-- Where an access goes, or the exception it raises; a single byte is never misaligned (20_memory:R185, R190, R191). -/
theorem State.plan_sat (s : State) (k : Access) (atomic : Bool) (va : Word) (n : Nat) :
    (s.plan k atomic va n).Sat (fun ps s' => Hidden s s' ∧ PartsOf va n ps)
      (fun c _ s' => Hidden s s' ∧ (c = k.accessFault ∨ c = k.pageFault ∨ (c = k.misaligned ∧ n ≠ 1))) := by
  unfold State.plan
  split
  · next ha =>
    cases h : s.resolve k va with
    | ok pl s1 => exact ⟨(State.resolve_sat s k va).of_ok h, .inl ⟨pl, rfl, ha, State.resolve_offset h⟩⟩
    | trap c i s1 =>
      obtain ⟨h1, _, h2⟩ := (State.resolve_sat s k va).of_trap h
      exact ⟨h1, by tauto⟩
    | fault e => trivial
    | refused e => trivial
  · next hm =>
    have hn : n ≠ 1 := by
      rintro rfl
      exact hm (Nat.mod_one _)
    split
    · exact ⟨Hidden.refl s, .inr (.inr ⟨rfl, hn⟩)⟩
    · exact (State.planBytes_sat s k va va n).mono (fun _ _ h => ⟨h.1, .inr h.2⟩) fun _ _ _ h => ⟨h.1, by tauto⟩

/-- An atomic access is one part. -/
theorem State.plan_atomic (s : State) (k : Access) (va : Word) (n : Nat) :
    (s.plan k true va n).Sat
      (fun ps s' => Hidden s s' ∧ va.toNat % n = 0 ∧ ∃ pl, ps = [⟨pl, n⟩] ∧ s.resolve k va = .ok pl s')
      (fun c _ s' => Hidden s s' ∧ (c = k.accessFault ∨ c = k.pageFault ∨ c = k.misaligned)) := by
  unfold State.plan
  split
  · next hm =>
    cases h : s.resolve k va with
    | ok pl s1 => exact ⟨(State.resolve_sat s k va).of_ok h, hm, pl, rfl, rfl⟩
    | trap c i s1 =>
      obtain ⟨h1, _, h2⟩ := (State.resolve_sat s k va).of_trap h
      exact ⟨h1, by tauto⟩
    | fault e => trivial
    | refused e => trivial
  · exact ⟨Hidden.refl s, .inr (.inr rfl)⟩

/-! ### Reading and writing parts -/

theorem State.readPart_plain (s : State) (k : Access) (p : Part) (h : Plain s p.place) :
    s.readPart k p = (s.number p.place.attr p.place.pa.toNat p.size, s.touch p.place.attr p.place.pa.toNat) := by
  unfold State.readPart
  rw [if_neg (by simp [h.1])]

theorem StoreFrame.plain {s t : State} (h : StoreFrame s t) (pl : Place) : Plain t pl ↔ Plain s pl := by
  unfold Plain
  rw [h.soc]

/-- Where no byte of a part moves, an access finds the number it found before. -/
theorem State.number_congr {s t : State} {attr attr' : BitVec 5} (f : StoreFrame s t) (hA : s.Alike attr' attr) {a n : Nat}
    (h : ∀ q, a ≤ q → q < a + n → t.sees attr s.me.dcacheOn q = s.sees attr s.me.dcacheOn q) :
    t.number attr' a n = s.number attr' a n := by
  unfold State.number
  refine numberAt_congr fun q h1 h2 => ?_
  rw [f.dcacheOn, ((f.alike attr' attr).2 hA).sees, hA.sees]
  exact h q h1 h2

/-- The lines that parts lie on are backed. -/
def State.AllBacked (s : State) (attr : BitVec 5) (ps : List Part) : Prop := ∀ p ∈ ps, ∀ a, p.Covers a → s.Backed attr (a / 64)

theorem Keeps.loaded {attr : BitVec 5} {s t : State} (k : Keeps attr s t) {ps : List Part} (hb : s.AllBacked attr ps)
    (hA : ∀ p ∈ ps, s.Alike p.place.attr attr) : t.loaded ps = s.loaded ps := by
  induction ps with
  | nil => rfl
  | cons q rest ih =>
    simp only [State.loaded]
    rw [ih (fun r hm => hb r (List.mem_cons_of_mem _ hm)) fun r hm => hA r (List.mem_cons_of_mem _ hm),
      State.number_congr k.1.store (hA q (by simp)) fun a h1 h2 => (k.2 (a / 64) (hb q (by simp) a ⟨h1, h2⟩)).2 a rfl]

theorem Keeps.allBacked {attr : BitVec 5} {s t : State} (k : Keeps attr s t) {ps : List Part} (hb : s.AllBacked attr ps) :
    t.AllBacked attr ps := fun p hp a ha => (k.2 _ (hb p hp a ha)).1

/-- Reading parts of ordinary memory: no byte of a backed line moves that an access with attributes as all of them have finds, and
none of the one line of a single part; and the number is that of the bytes there, unless one part displaces another's line that is
not backed (20_memory:R181, R219). -/
theorem State.readParts_plain (s : State) (k : Access) (ps : List Part) (h : ∀ p ∈ ps, Plain s p.place) :
    LineFrame s (s.readParts k ps).2 ∧
      (∀ attr, (∀ p ∈ ps, s.Alike p.place.attr attr) →
        Keeps attr s (s.readParts k ps).2 ∧ (s.AllBacked attr ps → (s.readParts k ps).1 = s.loaded ps) ∧
        ∀ p, ps = [p] → Shows attr s (s.readParts k ps).2 (lineOf p.place.pa.toNat)) ∧
      (s.Apart ps → (s.readParts k ps).1 = s.loaded ps) := by
  suffices H : LineFrame s (s.readParts k ps).2 ∧
      ∀ attr, (∀ p ∈ ps, s.Alike p.place.attr attr) →
        Keeps attr s (s.readParts k ps).2 ∧ (s.AllBacked attr ps → (s.readParts k ps).1 = s.loaded ps) ∧
        ∀ p, ps = [p] → Shows attr s (s.readParts k ps).2 (lineOf p.place.pa.toNat) by
    refine ⟨H.1, H.2, ?_⟩
    rintro (⟨p, rfl⟩ | ⟨attr, h1, h2⟩)
    · simp only [State.readParts, State.readPart_plain s k p (h p (by simp)), State.loaded]
    · exact (H.2 attr h1).2.1 h2
  induction ps generalizing s with
  | nil => exact ⟨rfl, fun attr _ => ⟨Keeps.refl attr s, fun _ => rfl, fun _ h => by cases h⟩⟩
  | cons p rest ih =>
    have hf := State.touch_frame s p.place.attr p.place.pa.toNat
    have := ih (s.touch p.place.attr p.place.pa.toNat) fun q hq => (hf.store.plain _).2 (h q (List.mem_cons_of_mem _ hq))
    unfold State.readParts
    rw [State.readPart_plain s k p (h p (by simp))]
    dsimp only
    refine ⟨hf.trans this.1, fun attr hA => ?_⟩
    obtain ⟨kt, st⟩ := State.touch_keeps s (hA p (by simp)) p.place.pa.toNat
    obtain ⟨k2, e2, _⟩ := this.2 attr fun q hq => (hf.alike _ _).2 (hA q (List.mem_cons_of_mem _ hq))
    refine ⟨kt.trans k2, fun hb => ?_, fun q hq => ?_⟩
    · have hb' : s.AllBacked attr rest := fun q hq => hb q (List.mem_cons_of_mem _ hq)
      rw [e2 (kt.allBacked hb'), kt.loaded hb' fun q hq => hA q (List.mem_cons_of_mem _ hq)]
      rfl
    · obtain ⟨rfl, rfl⟩ := List.cons_eq_cons.1 hq
      exact st

/-- So accesses find what they found before. -/
theorem State.readParts_sees {s s' : State} (hh : Hidden s s') (k : Access) {ps : List Part} (h : ∀ p ∈ ps, Plain s p.place)
    (hl : ∀ p ∈ ps, OneLine p) : Sees s (s'.readParts k ps).2 ps [] := by
  have hr := State.readParts_plain s' k ps fun p hp => (hh.plain _).2 (h p hp)
  intro attr hA a hb
  obtain ⟨kk, _, st⟩ := hr.2.1 attr fun p hp => (hh.alike _ _).2 (hA p hp)
  have key : (s'.readParts k ps).2.sees attr s'.me.dcacheOn a = s'.sees attr s'.me.dcacheOn a := by
    rcases hb with hb | ⟨p, rfl, hp⟩
    · exact (kk.2 _ ((hh.backed attr _).2 hb)).2 a rfl
    · exact st p rfl a (hp.line (hl p (by simp)))
  rw [← hh.dcacheOn, key, hh.sees, hh.dcacheOn]
  rfl

/-- What reads may change: the lines of the D-caches and of the L2, memory where they are written back, the TLB, the count of free
values. -/
def ReadFrame (s t : State) : Prop :=
  t = { s with me := { s.me with tlb := t.me.tlb, l1d := t.me.l1d }, other := { s.other with l1d := t.other.l1d }, mem := t.mem,
               l2 := t.l2, draws := t.draws }

theorem ReadFrame.trans {s t u : State} (h1 : ReadFrame s t) (h2 : ReadFrame t u) : ReadFrame s u := by
  unfold ReadFrame at *
  rw [h2, h1]

theorem Hidden.reads {s t : State} (h : Hidden s t) : ReadFrame s t := by
  unfold Hidden at h
  unfold ReadFrame
  rw [h]

theorem LineFrame.reads {s t : State} (h : LineFrame s t) : ReadFrame s t := by
  unfold LineFrame at h
  unfold ReadFrame
  rw [h]

/-- A device read changes at most the PLIC: a claim (61_clint_plic:R878). -/
theorem State.devRead_eq (s : State) (p : Priv) (off : Nat) :
    (s.devRead p off).2 = { s with plic := (s.devRead p off).2.plic } := by
  unfold State.devRead State.devReadReg
  split
  · split <;> rfl
  · rfl

/-- Reading a part leaves all but the caches' lines, hidden state and, by a word load, the PLIC. -/
theorem State.readPart_spec (s : State) (k : Access) (p : Part) :
    ∃ u, ReadFrame s u ∧ (s.readPart k p).2 = { u with plic := (s.readPart k p).2.plic } ∧
      (p.size ≠ 4 ∨ k ≠ .load ∨ s.soc.inWindow p.place.pa = false → ReadFrame s (s.readPart k p).2) := by
  unfold State.readPart
  split
  · next hw =>
    split
    · next h =>
      refine ⟨s, rfl, State.devRead_eq s _ _, ?_⟩
      rintro (hn | hn | hn)
      · exact absurd h.2 hn
      · exact absurd h.1 hn
      · rw [hn] at hw
        cases hw
    · exact ⟨s.drawn, rfl, rfl, fun _ => rfl⟩
  · have h := (State.touch_frame s p.place.attr p.place.pa.toNat).reads
    exact ⟨_, h, rfl, fun _ => h⟩

/-- Reading the parts of an access leaves all but the caches' lines, hidden state and the PLIC. -/
theorem State.readParts_spec (s : State) (k : Access) (ps : List Part) :
    ∃ u, ReadFrame s u ∧ (s.readParts k ps).2 = { u with plic := (s.readParts k ps).2.plic } := by
  induction ps generalizing s with
  | nil => exact ⟨s, rfl, rfl⟩
  | cons p rest ih =>
    obtain ⟨u, hu, e, _⟩ := State.readPart_spec s k p
    obtain ⟨w, hw, e2⟩ := ih (s.readPart k p).2
    refine ⟨{ w with plic := u.plic }, ?_, ?_⟩
    · rw [e] at hw
      unfold ReadFrame at *
      rw [hw, hu]
    · show (State.readParts _ k rest).2 = _
      exact e2

/-- Writing a part of ordinary memory (20_memory:R181). -/
theorem State.writePart_plain (s : State) (plain : Bool) (p : Part) (v : Nat) (h : Plain s p.place) :
    s.writePart plain p v =
      ((s.announce p.place.pa.toNat).notePte p.place.attr p.place.pa.toNat).storeData p.place.attr p.place.pa.toNat
        (bytesLe v p.size) := by
  unfold State.writePart
  dsimp only
  rw [if_neg (by simp [State.announce, h.2]), if_neg (by simp [State.announce, h.1])]

theorem State.writePart_frame (s : State) (plain : Bool) (p : Part) (v : Nat) (h : Plain s p.place) :
    StoreFrame s (s.writePart plain p v) := by
  rw [State.writePart_plain s plain p v h]
  exact ((State.announce_frame s _).trans (State.notePte_frame _ _ _)).trans (State.storeData_frame _ _ _ _)

/-- What every access finds after one part is written. -/
theorem State.writePart_writes (s : State) (plain : Bool) (p : Part) (v : Nat) (h : Plain s p.place) (hl : OneLine p)
    {attr : BitVec 5} (hA : s.Alike p.place.attr attr) :
    Writes attr s (s.writePart plain p v) p.place.pa.toNat (bytesLe v p.size) := by
  have w := State.storeData_writes ((s.announce p.place.pa.toNat).notePte p.place.attr p.place.pa.toNat) (attr := attr)
    (attr' := p.place.attr) hA p.place.pa.toNat (bytesLe v p.size) (by rw [bytesLe_length]; exact hl)
  refine ⟨State.writePart_frame s plain p v h, ?_⟩
  rw [State.writePart_plain s plain p v h]
  exact w.2

/-- Bytes stored, as a chunk. -/
theorem Writes.byteAfter {attr : BitVec 5} {s t : State} {a n v : Nat} (w : Writes attr s t a (bytesLe v n)) {q : Nat}
    (hb : s.Backed attr (q / 64) ∨ (a ≤ q ∧ q < a + n)) : t.sees attr s.me.dcacheOn q = byteAfter s attr [⟨a, n, v⟩] q := by
  have key : t.sees attr s.me.dcacheOn q =
      if a ≤ q ∧ q < a + n then (bytesLe v n).getD (q - a) 0 else s.sees attr s.me.dcacheOn q := by
    obtain ⟨_, w1, w2⟩ := w
    rw [bytesLe_length] at w1 w2
    rcases hb with hb | hb
    · exact (w1 _ hb).2 q rfl
    · rw [if_pos hb]
      exact w2 q hb
  rw [key]
  unfold Machine.byteAfter
  by_cases hq : a ≤ q ∧ q < a + n
  · simp only [hq, and_self, if_true, List.find?_cons, decide_true]
    exact bytesLe_getD v n _ (by omega)
  · simp only [hq, if_false, List.find?_cons, decide_false, List.find?_nil]

/-- Chunks stored after others. -/
theorem byteAfter_append (s t : State) (attr : BitVec 5) (cs ds : List Chunk) (q : Nat)
    (h : t.sees attr t.me.dcacheOn q = byteAfter s attr cs q) : byteAfter t attr ds q = byteAfter s attr (ds ++ cs) q := by
  unfold byteAfter
  rw [List.find?_append]
  cases hd : ds.find? fun c => decide (c.base ≤ q ∧ q < c.base + c.size) with
  | some c => rfl
  | none =>
    dsimp only [Option.none_or]
    rw [h]
    rfl

/-- Whether a store is plain makes no difference in ordinary memory. -/
theorem State.writePart_any (s : State) (b b' : Bool) (p : Part) (v : Nat) (h : Plain s p.place) :
    s.writePart b p v = s.writePart b' p v := by
  rw [State.writePart_plain s b p v h, State.writePart_plain s b' p v h]

/-- Writing parts of ordinary memory: every access with attributes as all of them have finds the bytes of the chunks, and
elsewhere, on backed lines, what it found before (20_memory:R181, R190). -/
theorem State.writeParts_plain (s : State) (ps : List Part) (v : Nat) (h : ∀ p ∈ ps, Plain s p.place) (hl : ∀ p ∈ ps, OneLine p) :
    StoreFrame s (s.writeParts true ps v) ∧
      ∀ attr, (∀ p ∈ ps, s.Alike p.place.attr attr) →
        (∀ n, s.Backed attr n → (s.writeParts true ps v).Backed attr n) ∧
          ∀ q, s.Backed attr (q / 64) ∨ (∃ p, ps = [p] ∧ p.Covers q) →
            (s.writeParts true ps v).sees attr s.me.dcacheOn q = byteAfter s attr (chunksOf ps v) q := by
  induction ps generalizing s v with
  | nil => exact ⟨rfl, fun attr _ => ⟨fun _ hb => hb, fun q _ => rfl⟩⟩
  | cons p rest ih =>
    have hp := h p (by simp)
    have f1 := State.writePart_frame s true p v hp
    have := ih (s.writePart true p v) (v / 2 ^ (8 * p.size))
      (fun q hq => (f1.plain _).2 (h q (List.mem_cons_of_mem _ hq))) fun q hq => hl q (List.mem_cons_of_mem _ hq)
    refine ⟨f1.trans this.1, fun attr hA => ?_⟩
    have w := State.writePart_writes s true p v hp (hl p (by simp)) (hA p (by simp))
    obtain ⟨b2, e2⟩ := this.2 attr fun q hq => (f1.alike _ _).2 (hA q (List.mem_cons_of_mem _ hq))
    refine ⟨fun n hb => b2 n (w.2.1 n hb).1, fun q hq => ?_⟩
    rw [f1.dcacheOn] at e2
    show ((s.writePart true p v).writeParts true rest _).sees attr s.me.dcacheOn q = _
    rcases hq with hq | ⟨p', hp', hq⟩
    · rw [e2 q (.inl (w.2.1 _ hq).1)]
      exact byteAfter_append s _ attr _ _ q (by rw [f1.dcacheOn]; exact w.byteAfter (.inl hq))
    · obtain ⟨rfl, rfl⟩ := List.cons_eq_cons.1 hp'
      exact w.byteAfter (.inr hq)

/-! ### Whole accesses -/

/-- The codes of a load. -/
theorem mem_loadCodes {n c : Nat} (h : c = Access.accessFault .load ∨ c = Access.pageFault .load ∨
    (c = Access.misaligned .load ∧ n ≠ 1)) : c ∈ loadCodes n := by
  unfold loadCodes
  simp only [Access.accessFault, Access.pageFault, Access.misaligned] at h
  split <;> simp <;> tauto

/-- The codes of a store. -/
theorem mem_storeCodes {n c : Nat} (h : c = Access.accessFault .store ∨ c = Access.pageFault .store ∨
    (c = Access.misaligned .store ∧ n ≠ 1)) : c ∈ storeCodes n := by
  unfold storeCodes
  simp only [Access.accessFault, Access.pageFault, Access.misaligned] at h
  split <;> simp <;> tauto

/-- A load that lands in ordinary memory: the number it reads, and what it leaves. -/
theorem State.memRead_lands {s s' : State} {va : Word} {n : Nat} {ps : List Part} (hn : 64 % n = 0) (h : Lands s .load va n ps s') :
    s.memRead va n = .ok (s'.readParts .load ps).1 (s'.readParts .load ps).2 ∧ Hidden s s' ∧
      LineFrame s' (s'.readParts .load ps).2 ∧ Sees s (s'.readParts .load ps).2 ps [] ∧
      (s.Apart ps → (s'.readParts .load ps).1 = s.loaded ps) := by
  have hs := (State.plan_sat s .load false va n).of_ok h.1
  have hr := State.readParts_plain s' .load ps fun p hp => (hs.1.plain _).2 (h.2 p hp)
  refine ⟨?_, hs.1, hr.1, State.readParts_sees hs.1 .load h.2 (hs.2.oneLine hn), fun ha => ?_⟩
  · unfold State.memRead
    rw [h.1, Res.ok_andThen]
  · rw [hr.2.2 ((hs.1.apart ps).2 ha), hs.1.loaded]

/-- The exceptions of a load (40_rv64i:R333). -/
theorem State.memRead_trap {s s' : State} {va : Word} {n c : Nat} {i : Word} (h : s.memRead va n = .trap c i s') :
    c ∈ loadCodes n ∧ Hidden s s' := by
  rcases Res.andThen_eq_trap h with h1 | ⟨ps, s1, h1, h2⟩
  · obtain ⟨hh, hc⟩ := (State.plan_sat s .load false va n).of_trap h1
    exact ⟨mem_loadCodes hc, hh⟩
  · cases h2

/-- A store that lands in ordinary memory writes its bytes. -/
theorem State.memWrite_lands {s s' : State} {va : Word} {n v : Nat} {ps : List Part} (hn : 64 % n = 0)
    (h : Lands s .store va n ps s') :
    Hidden s s' ∧ ∃ t, s.memWrite va n v = .ok () t ∧ StoreFrame s' t ∧ Sees s t ps (chunksOf ps v) := by
  have hs := (State.plan_sat s .store false va n).of_ok h.1
  refine ⟨hs.1, s'.writeParts true ps v, ?_, ?_⟩
  · unfold State.memWrite
    rw [h.1, Res.ok_andThen]
  · have := State.writeParts_plain s' ps v (fun p hp => (hs.1.plain _).2 (h.2 p hp)) (hs.2.oneLine hn)
    refine ⟨this.1, fun attr hA q hb => ?_⟩
    rw [← hs.1.dcacheOn, (this.2 attr fun p hp => (hs.1.alike _ _).2 (hA p hp)).2 q (hb.imp_left (hs.1.backed attr _).2),
      hs.1.byteAfter]

/-- The exceptions of a store (40_rv64i:R333). -/
theorem State.memWrite_trap {s s' : State} {va : Word} {n v c : Nat} {i : Word} (h : s.memWrite va n v = .trap c i s') :
    c ∈ storeCodes n ∧ Hidden s s' ∧ ∀ w, s.memWrite va n w = .trap c i s' := by
  rcases Res.andThen_eq_trap h with h1 | ⟨ps, s1, h1, h2⟩
  · obtain ⟨hh, hc⟩ := (State.plan_sat s .store false va n).of_trap h1
    refine ⟨mem_storeCodes hc, hh, fun w => ?_⟩
    unfold State.memWrite
    rw [h1, Res.trap_andThen]
  · cases h2

/-! ### Fetching -/

theorem Fetches.refl (s : State) : Fetches s s := rfl

theorem Fetches.trans {s t u : State} (h1 : Fetches s t) (h2 : Fetches t u) : Fetches s u := by
  unfold Fetches at *
  rw [h2, h1]

theorem Hidden.fetches {s t : State} (h : Hidden s t) : Fetches s t := by
  unfold Hidden at h
  unfold Fetches
  rw [h]

theorem State.fillIcache_fetches (s : State) (attr : BitVec 5) (va : Word) (a : Nat) : Fetches s (s.fillIcache attr va a) := by
  unfold State.fillIcache
  split <;> rfl

theorem State.afterFetch_fetches (s : State) (attr : BitVec 5) (va : Word) (a : Nat) : Fetches s (s.afterFetch attr va a) := by
  unfold State.afterFetch
  split
  · rfl
  · exact State.fillIcache_fetches s attr va a

/-- Fetching brings lines into the I-cache and translations into the TLB, and raises 1 or 12 (20_memory:R189). -/
theorem State.fetchParcel_sat (s : State) (va : Word) :
    (s.fetchParcel va).Sat (fun _ s' => Fetches s s') (fun c _ s' => Fetches s s' ∧ (c = 1 ∨ c = 12)) := by
  refine Res.Sat.andThen (Q := fun _ s' => Hidden s s') ?_ fun pl s1 h1 => ?_
  · exact (State.resolve_sat s .fetch va).mono (fun _ _ h => h) fun _ _ _ h => ⟨h.1.fetches, h.2.2⟩
  · split
    · exact ⟨h1.fetches, .inl rfl⟩
    · exact h1.fetches.trans (State.afterFetch_fetches s1 _ _ _)

theorem State.fetch_sat (s : State) :
    s.fetch.Sat (fun _ s' => Fetches s s') (fun c _ s' => Fetches s s' ∧ (c = 1 ∨ c = 12)) := by
  refine (State.fetchParcel_sat s _).andThen fun p0 s1 h1 => ?_
  split
  · refine Res.Sat.andThen (Q := fun _ s' => Fetches s s') ?_ fun p1 s2 h2 => h2
    exact (State.fetchParcel_sat s1 _).mono (fun _ _ h => h1.trans h) fun _ _ _ h => ⟨h1.trans h.1, h.2⟩
  · exact h1

end Sys2Proof.Machine
end

