-- ==== Sys2Proof/Laws/Bits.lean ====
section
/-! SUPPORT. Bits of registers after the field operations of Machine/Ops.lean. -/

namespace Sys2Proof.Machine

theorem bit_eq (w : Word) (n : Nat) : bit w n = w.getLsbD n := rfl

theorem getLsbD_one_shiftLeft (n k : Nat) : (1#64 <<< n).getLsbD k = (decide (k < 64) && decide (k = n)) := by
  simp only [BitVec.getLsbD_shiftLeft, BitVec.getLsbD_one]
  by_cases h : k < 64
  · by_cases h2 : k = n
    · simp [h, h2]
    · simp [h2]
      omega
  · simp [h]

/-- `setBit` sets its bit and leaves the others. -/
theorem getLsbD_setBit (w : Word) (n : Nat) (b : Bool) (k : Nat) :
    (setBit w n b).getLsbD k = if k = n ∧ k < 64 then b else w.getLsbD k := by
  have e := getLsbD_one_shiftLeft n k
  have hi : ¬ k < 64 → w.getLsbD k = false := fun h => BitVec.getLsbD_of_ge w k (by omega)
  cases b
  · simp only [setBit, Bool.false_eq_true, if_false, BitVec.getLsbD_and, BitVec.getLsbD_not, e]
    by_cases h : k < 64 <;> by_cases h2 : k = n <;> simp_all
  · simp only [setBit, if_true, BitVec.getLsbD_or, e]
    by_cases h : k < 64 <;> by_cases h2 : k = n <;> simp_all

/-- The bits of a mask. -/
theorem getLsbD_maskOf (lo len k : Nat) :
    (maskOf lo len).getLsbD k = (decide (k < 64) && decide (lo ≤ k ∧ k < lo + len)) := by
  have h : ∀ j, Nat.testBit ((2 ^ len - 1) * 2 ^ lo) j = decide (lo ≤ j ∧ j < lo + len) := by
    intro j
    rw [Nat.testBit_mul_two_pow, Nat.testBit_two_pow_sub_one]
    by_cases h1 : lo ≤ j <;> simp [h1]
    omega
  simp [maskOf, BitVec.getLsbD_ofNat, h]

/-- `blend` takes the bits under the mask from the new value. -/
theorem getLsbD_blend (mask old new : Word) (k : Nat) :
    (blend mask old new).getLsbD k = if mask.getLsbD k then new.getLsbD k else old.getLsbD k := by
  unfold blend
  simp only [BitVec.getLsbD_or, BitVec.getLsbD_and, BitVec.getLsbD_not]
  by_cases hk : k < 64
  · cases h : mask.getLsbD k <;> simp only [hk, decide_true, Bool.not_false, Bool.not_true, Bool.and_true, Bool.and_false,
      Bool.or_false, Bool.false_or, Bool.false_eq_true, if_true, if_false]
  · simp only [BitVec.getLsbD_of_ge _ k (show 64 ≤ k by omega), Bool.false_and, Bool.or_false, ite_self]

/-- A field read as a number is below its size. -/
theorem field_lt (w : Word) (lo len : Nat) : field w lo len < 2 ^ len := Nat.mod_lt _ (by positivity)

/-- The bits of a field. -/
theorem testBit_field (w : Word) (lo len k : Nat) :
    (field w lo len).testBit k = (decide (k < len) && w.getLsbD (lo + k)) := by
  simp [field, Nat.testBit_mod_two_pow, Nat.testBit_div_two_pow, BitVec.getLsbD, Nat.add_comm]

/-- Two registers with the same bits in a field have the same field. -/
theorem field_congr {v w : Word} {lo len : Nat} (h : ∀ k, lo ≤ k → k < lo + len → v.getLsbD k = w.getLsbD k) :
    field v lo len = field w lo len := by
  apply Nat.eq_of_testBit_eq
  intro k
  rw [testBit_field, testBit_field]
  by_cases hk : k < len <;> simp [hk]
  exact h _ (by omega) (by omega)

/-- The bits after `setField`. -/
theorem getLsbD_setField (w : Word) (lo len v k : Nat) :
    (setField w lo len v).getLsbD k =
      if k < 64 ∧ lo ≤ k ∧ k < lo + len then v.testBit (k - lo) else w.getLsbD k := by
  unfold setField
  rw [getLsbD_blend, getLsbD_maskOf]
  by_cases hk : k < 64
  · by_cases h : lo ≤ k ∧ k < lo + len
    · simp only [hk, h, BitVec.getLsbD_ofNat, Nat.testBit_mul_two_pow, decide_true, Bool.true_and, and_self, if_true]
    · simp only [hk, h, decide_false, Bool.and_false, and_false, Bool.false_eq_true, if_false]
  · simp [hk]

/-- A field just written. -/
theorem field_setField (w : Word) (lo len v : Nat) (hv : v < 2 ^ len) (h : lo + len ≤ 64) :
    field (setField w lo len v) lo len = v := by
  apply Nat.eq_of_testBit_eq
  intro k
  rw [testBit_field, getLsbD_setField]
  by_cases hk : k < len
  · have h1 : lo + k < 64 := by omega
    simp [hk, h1]
  · simp only [hk, decide_false, Bool.false_and]
    exact (Nat.testBit_lt_two_pow (lt_of_lt_of_le hv (Nat.pow_le_pow_right (by decide) (by omega)))).symm

/-- A field that a write of one bit outside it leaves. -/
theorem field_setBit (w : Word) (n : Nat) (b : Bool) (lo len : Nat) (h : n < lo ∨ lo + len ≤ n) :
    field (setBit w n b) lo len = field w lo len := by
  apply field_congr
  intro k h1 h2
  rw [getLsbD_setBit, if_neg (by omega)]

/-- A field that a write of another one leaves. -/
theorem field_setField_of_disjoint (w : Word) (lo len v lo' len' : Nat) (h : lo + len ≤ lo' ∨ lo' + len' ≤ lo) :
    field (setField w lo len v) lo' len' = field w lo' len' := by
  apply field_congr
  intro k h1 h2
  rw [getLsbD_setField, if_neg (by omega)]

/-- Equal bits below 64 make equal registers. -/
theorem word_ext {v w : Word} (h : ∀ k, k < 64 → v.getLsbD k = w.getLsbD k) : v = w :=
  BitVec.eq_of_getLsbD_eq fun i hi => h i hi

/-- A register has no bit outside a mask. -/
theorem and_not_eq_zero {w m : Word} : w &&& ~~~m = 0 ↔ ∀ k, k < 64 → m.getLsbD k = false → w.getLsbD k = false := by
  constructor
  · intro h k hk hm
    have := congrArg (fun x => BitVec.getLsbD x k) h
    simp only [BitVec.getLsbD_and, BitVec.getLsbD_not, hk, hm, decide_true, Bool.not_false, Bool.and_true] at this
    simpa using this
  · intro h
    apply word_ext
    intro k hk
    cases hm : m.getLsbD k <;> simp only [BitVec.getLsbD_and, BitVec.getLsbD_not, BitVec.getLsbD_zero, hk, hm,
      decide_true, Bool.not_true, Bool.not_false, Bool.and_true, Bool.and_false]
    · exact (h k hk hm).trans (by simp)
    · simp

end Sys2Proof.Machine
end

