-- ==== Sys2Proof/Laws/Shapes.lean ====
section
/-! SUPPORT. One lemma for each shape of an instruction, in the words of Safety.lean: what it answers and what it leaves. -/

namespace Sys2Proof.Machine

/-! ### Computation and control transfer -/

/-- An instruction that writes a register and is followed by the next. -/
theorem State.writeX_computes (s : State) (len : Nat) (rd : Reg) (v : Word) :
    Computes s (s.writeX len rd v) (s.me.pc + BitVec.ofNat 64 len) [(rd, v)] := by
  have e := State.retire_eq (s.setX rd v) len
  refine ⟨(s.setX rd v).retire len, rfl, by simp, fun q => ?_, ?_, State.sees_congr (by simp) (by simp) (by simp) (by simp) (by simp)⟩
  · rw [← State.getX_setX]
    exact State.getX_congr (by simp) q
  · rw [e]
    unfold State.setX Hart.setX
    split <;> rfl

/-- An instruction that only goes on. -/
theorem State.retire_computes (s : State) (len : Nat) :
    Computes s (.next (s.retire len)) (s.me.pc + BitVec.ofNat 64 len) [] := by
  have e := State.retire_eq s len
  refine ⟨_, rfl, by simp, fun q => ?_, ?_, State.sees_congr (by simp) (by simp) (by simp) (by simp) (by simp)⟩
  · rw [regAfter_nil]
    exact State.getX_congr (by simp) q
  · rw [e]
    rfl

/-- An instruction that only jumps. -/
theorem State.jump_computes (s : State) (p : Word) : Computes s (.next (s.jump p)) p [] := by
  have e := State.jump_eq s p
  refine ⟨_, rfl, by simp, fun q => ?_, ?_, State.sees_congr (by simp) (by simp) (by simp) (by simp) (by simp)⟩
  · rw [regAfter_nil]
    exact State.getX_congr (by simp) q
  · rw [e]
    rfl

/-- A conditional branch. -/
theorem State.branch_computes (s : State) (taken : Word → Word → Bool) (rs1 rs2 : Reg) (off : BitVec 12) :
    Computes s (s.branch taken rs1 rs2 off)
      (if taken (s.getX rs1) (s.getX rs2) then s.me.pc + branchOffset off else s.me.pc + 4) [] := by
  unfold State.branch
  split
  · exact State.jump_computes s _
  · exact State.retire_computes s 4

/-- A jump that writes the link register. -/
theorem State.link_computes (s : State) (len : Nat) (rd : Reg) (target : Word) :
    Computes s (s.link len rd target) target [(rd, s.me.pc + BitVec.ofNat 64 len)] := by
  have e := State.jump_eq (s.setX rd (s.me.pc + BitVec.ofNat 64 len)) target
  refine ⟨_, rfl, by simp, fun q => ?_, ?_, State.sees_congr (by simp) (by simp) (by simp) (by simp) (by simp)⟩
  · rw [← State.getX_setX]
    exact State.getX_congr (by simp) q
  · rw [e]
    unfold State.setX Hart.setX
    split <;> rfl

/-! ### Loads and stores -/

/-- What accesses find, carried over to a state with the same memory and caches. -/
theorem Sees.of_same {s u t : State} {ps : List Part} {cs : List Chunk} (h : Sees s u ps cs) (hs : SameBytes u t) :
    Sees s t ps cs := fun attr hA a hb => (hs attr _ a).trans (h attr hA a hb)

/-- The end of a load: registers written in the state after the read. -/
theorem Loads.of_frame {s s' u : State} (h : Hidden s s') (f : LineFrame s' u) {ps : List Part} (hs : Sees s u ps []) (len : Nat)
    (ws : List (Reg × Word)) (x : Vector Word 32)
    (hx : ∀ q, ({ u with me := { u.me with x := x } } : State).getX q = regAfter u ws q) :
    Loads s (.next (({ u with me := { u.me with x := x } } : State).retire len)) (s.me.pc + BitVec.ofNat 64 len) ps ws := by
  have e := State.retire_eq { u with me := { u.me with x := x } } len
  have hux : u.me.x = s.me.x := by
    unfold LineFrame at f
    rw [f]
    exact h.x
  have hup : u.me.pc = s.me.pc := by
    unfold LineFrame at f
    rw [f]
    exact h.pc
  refine ⟨_, rfl, by simp [hup], fun q => ?_, ?_, hs.of_same (State.sees_congr (by simp) (by simp) (by simp) (by simp) (by simp))⟩
  · have h1 : regAfter u ws q = regAfter s ws q := by
      unfold regAfter
      rw [State.getX_congr hux]
    rw [← h1, ← hx q]
    exact State.getX_congr (by simp) q
  · rw [e]
    unfold LineFrame at f
    rw [f]
    unfold Hidden at h
    rw [h]
    rfl

/-- A register write as a write of the register file. -/
theorem State.setX_eq (s : State) (r : Reg) (v : Word) : s.setX r v = { s with me := { s.me with x := (s.setX r v).me.x } } := by
  unfold State.setX Hart.setX
  split <;> rfl

/-- A load into an integer register. -/
theorem State.loadX_rule (s : State) (len : Nat) (signed : Bool) {n : Nat} (hn : 64 % n = 0) (rd : Reg) (va : Word) :
    LoadRule s (s.loadX len signed n rd va) (s.me.pc + BitVec.ofNat 64 len) va n fun v => [(rd, loadWord signed n v)] := by
  constructor
  · intro ps s' h
    obtain ⟨h1, h2, h3, h4, h5⟩ := State.memRead_lands hn h
    refine ⟨?_, h5⟩
    unfold State.loadX
    rw [h1, Res.ok_andThen]
    generalize s'.readParts .load ps = r at h3 h4
    have := Loads.of_frame h2 h3 h4 len [(rd, loadWord signed n r.1)] _ (fun q => by
      rw [← State.setX_eq]
      exact State.getX_setX r.2 rd q (loadWord signed n r.1))
    rw [← State.setX_eq] at this
    exact this
  · intro c i s' h
    obtain ⟨h1, h2⟩ := State.memRead_trap h
    refine ⟨h1, h2, ?_⟩
    unfold State.loadX
    rw [h]
    rfl

/-- A base-update load of two different registers. -/
theorem State.loadUpdate_rule (s : State) (c : Code) (signed : Bool) {n : Nat} (hn : 64 % n = 0) (after : Bool) (rd rs1 : Reg)
    (step : Word) (hr : rd ≠ rs1) :
    LoadRule s (s.loadUpdate c signed n after rd rs1 step) (s.me.pc + 4)
      (if after then s.getX rs1 else s.getX rs1 + step) n
      fun v => [(rd, loadWord signed n v), (rs1, s.getX rs1 + step)] := by
  constructor
  · intro ps s' h
    obtain ⟨h1, h2, h3, h4, h5⟩ := State.memRead_lands hn h
    refine ⟨?_, h5⟩
    unfold State.loadUpdate
    rw [if_neg hr]
    dsimp only
    rw [h1, Res.ok_andThen]
    generalize s'.readParts .load ps = r at h3 h4
    have e : ∀ t : State, (t.setX rs1 (s.getX rs1 + step)).setX rd (loadWord signed n r.1) =
        { t with me := { t.me with x := ((t.setX rs1 (s.getX rs1 + step)).setX rd (loadWord signed n r.1)).me.x } } := by
      intro t
      rw [State.setX_eq (t.setX rs1 _), State.setX_eq t]
    have := Loads.of_frame h2 h3 h4 4 [(rd, loadWord signed n r.1), (rs1, s.getX rs1 + step)] _ (fun q => by
      rw [← e]
      exact State.getX_setX_setX r.2 rd rs1 q _ _)
    rw [← e] at this
    exact this
  · intro c' i s' h
    obtain ⟨h1, h2⟩ := State.memRead_trap h
    refine ⟨h1, h2, ?_⟩
    unfold State.loadUpdate
    rw [if_neg hr]
    dsimp only
    rw [h]
    rfl

/-- The dirty mark of the floating-point unit: FS = 11. -/
theorem Hart.dirtyFp_mstatus (h : Hart) : h.dirtyFp.m.mstatus = h.m.mstatus ||| 0x6000 := by
  show setField _ _ _ _ = _
  apply word_ext
  intro k hk
  rw [getLsbD_setField, BitVec.getLsbD_or]
  have hm : (0x6000 : Word).getLsbD k = decide (13 ≤ k ∧ k < 15) := by
    have := getLsbD_maskOf 13 2 k
    rw [show maskOf 13 2 = (0x6000 : Word) by decide] at this
    rw [this]
    simp [hk]
  rw [hm]
  by_cases h13 : k = 13
  · subst h13
    simp [mstatusFS]
  · by_cases h14 : k = 14
    · subst h14
      simp [mstatusFS]
      decide
    · have h1 : ¬ (k < 64 ∧ mstatusFS ≤ k ∧ k < mstatusFS + 2) := by simp only [mstatusFS]; omega
      have h2 : ¬ (13 ≤ k ∧ k < 15) := by omega
      rw [if_neg h1, decide_eq_false h2, Bool.or_false]

/-- A floating-point load. -/
theorem State.loadF_rule (s : State) (len : Nat) {n : Nat} (hn : 64 % n = 0) (fd : Reg) (va : Word) :
    LoadFRule s (s.loadF len n fd va) (s.me.pc + BitVec.ofNat 64 len) va n fd := by
  constructor
  · intro ps s' h
    obtain ⟨h1, h2, h3, h4, h5⟩ := State.memRead_lands hn h
    refine ⟨?_, h5⟩
    unfold State.loadF
    rw [h1, Res.ok_andThen]
    generalize s'.readParts .load ps = r at h3 h4
    have e := State.retire_eq (r.2.setF fd (boxed (8 * n) r.1)).fpDirty len
    have hpc : r.2.me.pc = s'.me.pc := by
      unfold LineFrame at h3
      rw [h3]
    have hm : r.2.me.m = s'.me.m := by
      unfold LineFrame at h3
      rw [h3]
    have hf : r.2.me.f = s'.me.f := by
      unfold LineFrame at h3
      rw [h3]
    refine ⟨_, rfl, by simp [hpc, h2.pc], fun q => ?_, ?_, ?_, h4.of_same (State.sees_congr (by simp) (by simp) (by simp) (by simp) (by simp))⟩
    · have a : ∀ q, ((r.2.setF fd (boxed (8 * n) r.1)).fpDirty.retire len).getF q = (r.2.setF fd (boxed (8 * n) r.1)).getF q :=
        fun q => State.getF_congr (by simp) q
      have b : r.2.getF q = s.getF q := (State.getF_congr hf q).trans (h2.getF q)
      rw [a, ← b]
      exact Hart.getF_setF r.2.me fd q _
    · simp only [State.retire_me, Hart.tick_m, State.fpDirty_me]
      rw [Hart.dirtyFp_mstatus, State.setF_me, Hart.setF_m, hm, h2.m]
      rfl
    · rw [e]
      unfold LineFrame at h3
      rw [h3]
      unfold Hidden at h2
      rw [h2]
      rfl
  · intro c i s' h
    obtain ⟨h1, h2⟩ := State.memRead_trap h
    refine ⟨h1, h2, ?_⟩
    unfold State.loadF
    rw [h]
    rfl

/-- The end of a store: what the frame of a store allows, registers written, the status as given. -/
theorem Stores.of_frame {s s1 t : State} (h1 : Hidden s s1) (h2 : StoreFrame s1 t) (len : Nat) {ps : List Part} {cs : List Chunk}
    (hm : Sees s t ps cs) (ws : List (Reg × Word)) (x : Vector Word 32)
    (hx : ∀ q, ({ t with me := { t.me with x := x } } : State).getX q = regAfter t ws q) :
    Stores s (.next (({ t with me := { t.me with x := x } } : State).retire len)) (s.me.pc + BitVec.ofNat 64 len) ps cs ws
      s.me.m.mstatus := by
  have e := State.retire_eq { t with me := { t.me with x := x } } len
  have ht : t.me.x = s.me.x := by
    unfold StoreFrame at h2
    rw [h2]
    exact h1.x
  have hp : t.me.pc = s.me.pc := by
    unfold StoreFrame at h2
    rw [h2]
    exact h1.pc
  have hs : t.me.m = s.me.m := by
    unfold StoreFrame at h2
    rw [h2]
    exact h1.m
  refine ⟨_, rfl, by simp [hp], fun q => ?_, hm.of_same (State.sees_congr (by simp) (by simp) (by simp) (by simp) (by simp)), by simp [hs],
    ?_⟩
  · have h3 : regAfter t ws q = regAfter s ws q := by
      unfold regAfter
      rw [State.getX_congr ht]
    rw [← h3, ← hx q]
    exact State.getX_congr (by simp) q
  · rw [e]
    unfold StoreFrame at h2
    rw [h2]
    unfold Hidden at h1
    rw [h1]
    rfl

/-- No register written, as a write of the register file. -/
theorem State.same_x (t : State) (q : Reg) : ({ t with me := { t.me with x := t.me.x } } : State).getX q = regAfter t [] q := by
  rw [regAfter_nil]

/-- A store. -/
theorem State.storeV_rule (s : State) (len : Nat) {n : Nat} (hn : 64 % n = 0) (v va : Word) :
    StoreRule s (s.storeV len n v va) (s.me.pc + BitVec.ofNat 64 len) va n v [] s.me.m.mstatus := by
  constructor
  · intro ps s' h
    obtain ⟨h1, t, h2, h3, h4⟩ := State.memWrite_lands (v := v.toNat) hn h
    unfold State.storeV
    rw [h2, Res.ok_andThen]
    exact Stores.of_frame h1 h3 len h4 [] t.me.x (State.same_x t)
  · intro c i s' h
    obtain ⟨h1, h2, h3⟩ := State.memWrite_trap h
    refine ⟨h1, h2, ?_⟩
    unfold State.storeV
    rw [h]
    rfl

/-- A base-update store. -/
theorem State.storeUpdate_rule (s : State) {n : Nat} (hn : 64 % n = 0) (after : Bool) (rs2 rs1 : Reg) (step : Word) :
    StoreRule s (s.storeUpdate n after rs2 rs1 step) (s.me.pc + 4) (if after then s.getX rs1 else s.getX rs1 + step) n
      (s.getX rs2) [(rs1, s.getX rs1 + step)] s.me.m.mstatus := by
  constructor
  · intro ps s' h
    obtain ⟨h1, t, h2, h3, h4⟩ := State.memWrite_lands (v := (s.getX rs2).toNat) hn h
    unfold State.storeUpdate
    dsimp only
    rw [h2, Res.ok_andThen]
    have := Stores.of_frame h1 h3 4 h4 [(rs1, s.getX rs1 + step)] _ (fun q => by
      rw [← State.setX_eq]
      exact State.getX_setX t rs1 q _)
    rw [← State.setX_eq] at this
    exact this
  · intro c i s' h
    obtain ⟨h1, h2, h3⟩ := State.memWrite_trap h
    refine ⟨h1, h2, ?_⟩
    unfold State.storeUpdate
    dsimp only
    rw [h]
    rfl

/-- A floating-point store. -/
theorem State.storeF_rule (s : State) (len : Nat) {n : Nat} (hn : 64 % n = 0) (fs2 : Reg) (va : Word) :
    StoreRule s (s.storeF len n fs2 va) (s.me.pc + BitVec.ofNat 64 len) va n (s.getF fs2) [] s.statusDirty := by
  constructor
  · intro ps s' h
    obtain ⟨h1, t, h2, h3, h4⟩ := State.memWrite_lands (v := (s.getF fs2).toNat) hn h
    unfold State.storeF
    rw [h2, Res.ok_andThen]
    have e := State.retire_eq t.fpDirty len
    have hm : t.me.m = s.me.m := by
      unfold StoreFrame at h3
      rw [h3]
      exact h1.m
    have hx : t.me.x = s.me.x := by
      unfold StoreFrame at h3
      rw [h3]
      exact h1.x
    have hp : t.me.pc = s.me.pc := by
      unfold StoreFrame at h3
      rw [h3]
      exact h1.pc
    refine ⟨_, rfl, by simp [hp], fun q => ?_, h4.of_same (State.sees_congr (by simp) (by simp) (by simp) (by simp) (by simp)), ?_, ?_⟩
    · rw [regAfter_nil]
      exact State.getX_congr (by simp [hx]) q
    · simp only [State.retire_me, Hart.tick_m, State.fpDirty_me]
      rw [Hart.dirtyFp_mstatus, hm]
      rfl
    · rw [e]
      unfold StoreFrame at h3
      rw [h3]
      unfold Hidden at h1
      rw [h1]
      rfl
  · intro c i s' h
    obtain ⟨h1, h2, h3⟩ := State.memWrite_trap h
    refine ⟨h1, h2, ?_⟩
    unfold State.storeF
    rw [h]
    rfl

/-! ### Pairs -/

/-- A pair load of three different registers. -/
theorem State.loadPair_rule (s : State) (c : Code) (signed : Bool) {n : Nat} (hn : 64 % n = 0) (rd1 rd2 rs1 : Reg) (va : Word)
    (hd : distinct3 rd1 rd2 rs1 = true) :
    LoadPairRule s (s.loadPair c signed n rd1 rd2 rs1 va) va n
      fun v w => [(rd2, loadWord signed n w), (rd1, loadWord signed n v)] := by
  constructor
  · intro ps s1 qs s2 h1 h2
    have g1 := (State.plan_sat s .load false va n).of_ok h1.1
    have g2 := (State.plan_sat s1 .load false (va + BitVec.ofNat 64 n) n).of_ok h2.1
    have hh := g1.1.trans g2.1
    have r1 := State.readParts_plain s2 .load ps fun p hp => (hh.plain _).2 (h1.2 p hp)
    have r2 := State.readParts_plain (s2.readParts .load ps).2 .load qs fun p hp =>
      (r1.1.store.plain _).2 ((g2.1.plain _).2 (h2.2 p hp))
    dsimp only
    unfold State.loadPair State.memReadPair
    rw [if_pos hd, h1.1, Res.ok_andThen, h2.1, Res.ok_andThen]
    dsimp only
    rw [Res.ok_andThen]
    have keep : ∀ attr, (∀ p ∈ ps ++ qs, s2.Alike p.place.attr attr) →
        Keeps attr s2 ((s2.readParts .load ps).2.readParts .load qs).2 := fun attr hA =>
      ((r1.2.1 attr fun p hp => hA p (List.mem_append_left _ hp)).1).trans
        (r2.2.1 attr fun p hp => (r1.1.alike _ _).2 (hA p (List.mem_append_right _ hp))).1
    -- two reads are the read of all parts, in what they leave
    have app : ∀ (u : State) (k : Access) (ps qs : List Part), (u.readParts k (ps ++ qs)).2 = ((u.readParts k ps).2.readParts k qs).2 := by
      intro u k ps
      induction ps generalizing u with
      | nil => exact fun _ => rfl
      | cons p rest ih => exact fun qs => ih (u.readPart k p).2 qs
    refine ⟨?_, fun ha => ?_, fun ha => ?_⟩
    · have hs : Sees s ((s2.readParts .load ps).2.readParts .load qs).2 (ps ++ qs) [] := by
        rw [← app]
        refine State.readParts_sees hh .load (fun p hp => ?_) fun p hp => ?_
        · rcases List.mem_append.1 hp with hp | hp
          · exact h1.2 p hp
          · exact (g1.1.plain _).1 (h2.2 p hp)
        · rcases List.mem_append.1 hp with hp | hp
          · exact g1.2.oneLine hn p hp
          · exact g2.2.oneLine hn p hp
      generalize (s2.readParts .load ps).2.readParts .load qs = r at r2 hs
      generalize (s2.readParts .load ps).1 = v
      have f := r1.1.trans r2.1
      have e : ∀ v w : Word, (r.2.setX rd1 v).setX rd2 w =
          { r.2 with me := { r.2.me with x := ((r.2.setX rd1 v).setX rd2 w).me.x } } := by
        intro v w
        rw [State.setX_eq (r.2.setX rd1 v), State.setX_eq r.2]
      have := Loads.of_frame hh f hs 4 [(rd2, loadWord signed n r.1), (rd1, loadWord signed n v)] _ (fun q => by
        rw [← e]
        exact State.getX_setX_setX r.2 rd2 rd1 q _ _)
      rw [← e] at this
      exact this
    · rw [r1.2.2 ((hh.apart ps).2 ha), hh.loaded]
    · rcases (hh.apart _).2 ha with ⟨p, hp⟩ | ⟨attr, hA, hb⟩
      · cases ps with
        | nil =>
          rw [r2.2.2 (.inl ⟨p, hp⟩)]
          exact hh.loaded qs
        | cons q rest =>
          have hq : qs = [] := by
            have := congrArg List.length hp
            simp only [List.length_append, List.length_cons, List.length_nil] at this
            exact List.eq_nil_of_length_eq_zero (by omega)
          subst hq
          rfl
      · have k := (r1.2.1 attr fun p hp => hA p (List.mem_append_left _ hp)).1
        have hA2 : ∀ p ∈ qs, s2.Alike p.place.attr attr := fun p hp => hA p (List.mem_append_right _ hp)
        have hb2 : s2.AllBacked attr qs := fun p hp => hb p (List.mem_append_right _ hp)
        rw [(r2.2.1 attr fun p hp => (r1.1.alike _ _).2 (hA2 p hp)).2.1 (k.allBacked hb2), k.loaded hb2 hA2, hh.loaded]
  · intro c' i s' h
    have key : c' ∈ loadCodes n ∧ Hidden s s' := by
      rcases Res.andThen_eq_trap h with h1 | ⟨ps, s1, h1, h⟩
      · obtain ⟨a, b⟩ := (State.plan_sat s .load false va n).of_trap h1
        exact ⟨mem_loadCodes b, a⟩
      · obtain ⟨a, _⟩ := (State.plan_sat s .load false va n).of_ok h1
        rcases Res.andThen_eq_trap h with h2 | ⟨qs, s2, h2, h⟩
        · obtain ⟨a2, b⟩ := (State.plan_sat s1 .load false (va + BitVec.ofNat 64 n) n).of_trap h2
          exact ⟨mem_loadCodes b, a.trans a2⟩
        · cases h
    refine ⟨key.1, key.2, ?_⟩
    unfold State.loadPair
    rw [if_pos hd, h]
    rfl

/-- A pair store. -/
theorem State.storePair_rule (s : State) {n : Nat} (hn : 64 % n = 0) (rd1 rd2 : Reg) (va : Word) :
    StorePairRule s (s.storePair n rd1 rd2 va) va n (s.getX rd1) (s.getX rd2) := by
  constructor
  · intro ps s1 qs s2 h1 h2
    have g1 := (State.plan_sat s .store false va n).of_ok h1.1
    have g2 := (State.plan_sat s1 .store false (va + BitVec.ofNat 64 n) n).of_ok h2.1
    have hh := g1.1.trans g2.1
    have w1 := State.writeParts_plain s2 ps (s.getX rd1).toNat (fun p hp => (hh.plain _).2 (h1.2 p hp)) (g1.2.oneLine hn)
    have w2 := State.writeParts_plain (s2.writeParts true ps (s.getX rd1).toNat) qs (s.getX rd2).toNat
      (fun p hp => (w1.1.plain _).2 ((g2.1.plain _).2 (h2.2 p hp))) (g2.2.oneLine hn)
    unfold State.storePair State.memWritePair
    rw [h1.1, Res.ok_andThen, h2.1, Res.ok_andThen, Res.ok_andThen]
    refine Stores.of_frame hh (w1.1.trans w2.1) 4 (fun attr hA q hb => ?_) [] _ (State.same_x _)
    have hA' : ∀ p ∈ ps ++ qs, s2.Alike p.place.attr attr := fun p hp => (hh.alike _ _).2 (hA p hp)
    obtain ⟨b1, e1⟩ := w1.2 attr fun p hp => hA' p (List.mem_append_left _ hp)
    obtain ⟨_, e2⟩ := w2.2 attr fun p hp => (w1.1.alike _ _).2 (hA' p (List.mem_append_right _ hp))
    rw [w1.1.dcacheOn] at e2
    rw [← hh.dcacheOn, ← hh.byteAfter]
    rcases hb with hb | ⟨p, hp, hq⟩
    · have hb2 := (hh.backed attr _).2 hb
      rw [e2 q (.inl (b1 _ hb2)), byteAfter_append s2 _ attr _ _ q (by rw [w1.1.dcacheOn]; exact e1 q (.inl hb2))]
    · -- one part in all: the other access has none
      cases ps with
      | nil =>
        have e := e2 q (.inr ⟨p, hp, hq⟩)
        rw [List.nil_append] at hp
        subst hp
        rw [e]
        exact byteAfter_append s2 s2 attr [] _ q rfl
      | cons p' rest =>
        have hqs : rest = [] ∧ qs = [] := by
          have := congrArg List.length hp
          simp only [List.length_append, List.length_cons, List.length_nil] at this
          exact ⟨List.eq_nil_of_length_eq_zero (by omega), List.eq_nil_of_length_eq_zero (by omega)⟩
        obtain ⟨rfl, rfl⟩ := hqs
        exact e1 q (.inr ⟨p, hp, hq⟩)
  · intro c i s' h
    have key : c ∈ storeCodes n ∧ Hidden s s' := by
      rcases Res.andThen_eq_trap h with h1 | ⟨ps, s1, h1, h⟩
      · obtain ⟨a, b⟩ := (State.plan_sat s .store false va n).of_trap h1
        exact ⟨mem_storeCodes b, a⟩
      · obtain ⟨a, hp⟩ := (State.plan_sat s .store false va n).of_ok h1
        rcases Res.andThen_eq_trap h with h2 | ⟨qs, s2, h2, h⟩
        · obtain ⟨a2, b⟩ := (State.plan_sat s1 .store false (va + BitVec.ofNat 64 n) n).of_trap h2
          exact ⟨mem_storeCodes b, a.trans a2⟩
        · cases h
    refine ⟨key.1, key.2, ?_⟩
    unfold State.storePair
    rw [h]
    rfl

end Sys2Proof.Machine
end

