-- ==== Sys2Proof/Laws/Atomic.lean ====
section
/-! SUPPORT. Atomic accesses: AMO, LR and SC in the words of Safety.lean. -/

namespace Sys2Proof.Machine

/-- The end of an instruction that may store and may move this hart's monitors. -/
theorem Reserves.of_frame {s s1 t : State} (h1 : Hidden s s1) (h2 : StoreFrame s1 t) {pl : Place} {n : Nat} {cs : List Chunk}
    (hm : Sees s t [⟨pl, n⟩] cs) (lmon : Option Reservation) (gmon : Option Reservation) (rd : Reg) (v : Word) :
    Reserves s (.next ((({ t with me := { t.me with lmon := lmon, gmon := gmon } } : State).setX rd v).retire 4)) pl n cs [(rd, v)]
      lmon gmon := by
  have e := State.retire_eq (({ t with me := { t.me with lmon := lmon, gmon := gmon } } : State).setX rd v) 4
  have ht : t.me.x = s.me.x := by
    unfold StoreFrame at h2
    rw [h2]
    exact h1.x
  have hp : t.me.pc = s.me.pc := by
    unfold StoreFrame at h2
    rw [h2]
    exact h1.pc
  refine ⟨_, rfl, by simp [hp], fun q => ?_, hm.of_same (State.sees_congr (by simp) (by simp) (by simp) (by simp) (by simp)), by simp,
    by simp, ?_⟩
  · rw [regAfter_cons, regAfter_nil]
    have a : ∀ u : State, (u.retire 4).getX q = u.getX q := fun u => State.getX_congr (by simp) q
    rw [a, State.getX_setX, regAfter_cons, regAfter_nil]
    have b : ({ t with me := { t.me with lmon := lmon, gmon := gmon } } : State).getX q = s.getX q := State.getX_congr ht q
    rw [b]
  · rw [e]
    unfold StoreFrame at h2
    rw [h2]
    unfold Hidden at h1
    rw [h1]
    unfold State.setX Hart.setX
    split <;> rfl

/-- Where an atomic access lands, its plan is one part of ordinary memory. -/
theorem LandsAtomic.plan {s : State} {k : Access} {va : Word} {n : Nat} {pl : Place} (h : LandsAtomic s k va n pl) :
    ∃ s', s.plan k true va n = .ok [⟨pl, n⟩] s' ∧ Hidden s s' ∧ Plain s' pl ∧
      (cacheable pl.attr || s'.soc.exclusiveMonitor) = true ∧ (64 % n = 0 → OneLine ⟨pl, n⟩) := by
  obtain ⟨h1, ⟨s', h2⟩, h3, h4⟩ := h
  have hh := (State.resolve_sat s k va).of_ok h2
  refine ⟨s', ?_, hh, (hh.plain pl).2 h3, ?_, fun hn => oneLine_of_aligned hn h1 (State.resolve_offset h2)⟩
  · unfold State.plan
    rw [if_pos h1, h2, Res.ok_andThen]
  · rw [hh.soc]
    simpa using h4

/-- No monitor is missing: the test before an atomic access passes. -/
theorem atomic_test {s : State} {pl : Place} {n : Nat} (h : (cacheable pl.attr || s.soc.exclusiveMonitor) = true) :
    ([⟨pl, n⟩] : List Part).any s.unmonitored = false := by
  simp only [List.any_cons, List.any_nil, Bool.or_false, State.unmonitored]
  revert h
  cases cacheable pl.attr <;> cases s.soc.exclusiveMonitor <;> simp

/-- What every access finds after the one part of an atomic access is read, and then written. -/
theorem State.rmw_sees {s : State} {k : Access} {pl : Place} {n : Nat} (h : Plain s pl) (hl : OneLine ⟨pl, n⟩) :
    (s.readParts k [⟨pl, n⟩]).1 = s.number pl.attr pl.pa.toNat n ∧ LineFrame s (s.readParts k [⟨pl, n⟩]).2 ∧
      Sees s (s.readParts k [⟨pl, n⟩]).2 [⟨pl, n⟩] [] ∧
      ∀ v b, StoreFrame s ((s.readParts k [⟨pl, n⟩]).2.writePart b ⟨pl, n⟩ v) ∧
          Sees s ((s.readParts k [⟨pl, n⟩]).2.writePart b ⟨pl, n⟩ v) [⟨pl, n⟩] [⟨pl.pa.toNat, n, v⟩] := by
  have r := State.readParts_plain s k [⟨pl, n⟩] (by simpa using h)
  have e : (s.readParts k [⟨pl, n⟩]).1 = s.number pl.attr pl.pa.toNat n := by
    rw [r.2.2 (.inl ⟨_, rfl⟩)]
    simp [State.loaded]
  refine ⟨e, r.1, State.readParts_sees (Hidden.refl s) k (by simpa using h) (by simpa using hl), fun v b => ?_⟩
  have hp := (r.1.store.plain pl).2 h
  refine ⟨r.1.store.trans (State.writePart_frame _ b ⟨pl, n⟩ v hp), fun attr hA a hb => ?_⟩
  have k1 := (r.2.1 attr hA).1
  refine (k1.writes (State.writePart_writes _ b ⟨pl, n⟩ v hp hl ((r.1.alike _ _).2 (hA ⟨pl, n⟩ (by simp))))).byteAfter (hb.imp_right ?_)
  rintro ⟨p, hp, hc⟩
  cases hp
  exact hc

/-- What every access finds, seen from a state that differs in hidden state. -/
theorem Sees.of_hidden {s s' t : State} (h : Hidden s s') {ps : List Part} {cs : List Chunk} (hs : Sees s' t ps cs) : Sees s t ps cs := by
  intro attr hA a hb
  have := hs attr (fun p hp => (h.alike _ _).2 (hA p hp)) a (hb.imp_left (h.backed attr _).2)
  rwa [h.dcacheOn, h.byteAfter] at this

/-- The codes of an atomic access (42_rv64a:R432). -/
theorem atomic_codes {k : Access} (hk : k = .store ∨ k = .lr ∨ k = .amo) {c : Nat}
    (h : c = k.accessFault ∨ c = k.pageFault ∨ c = k.misaligned) : c ∈ [6, 7, 15] := by
  rcases hk with rfl | rfl | rfl <;> simp only [Access.accessFault, Access.pageFault, Access.misaligned] at h <;> simp <;> tauto

/-- An AMO. -/
theorem State.amo_rule (s : State) {n : Nat} (hn : 64 % n = 0) (f : BitVec (8 * n) → BitVec (8 * n) → BitVec (8 * n))
    (rd rs2 rs1 : Reg) : AmoRule s (s.amo n f rd rs2 rs1) n rd rs2 rs1 f := by
  constructor
  · intro pl h
    obtain ⟨s', h1, h2, h3, h4, h5⟩ := h.plan
    obtain ⟨e, _, _, w⟩ := State.rmw_sees (k := .amo) h3 (h5 hn)
    dsimp only
    unfold State.amo State.memAmo
    rw [h1, Res.ok_andThen, if_neg (by rw [atomic_test h4]; simp)]
    dsimp only
    rw [Res.ok_andThen, e, h2.number]
    obtain ⟨fr, se⟩ := w (f (BitVec.ofNat (8 * n) (s.number pl.attr pl.pa.toNat n)) ((s.getX rs2).setWidth (8 * n))).toNat false
    have := Stores.of_frame h2 fr 4 (se.of_hidden h2)
      [(rd, (BitVec.ofNat (8 * n) (s.number pl.attr pl.pa.toNat n)).signExtend 64)] _
      (fun q => by
        rw [← State.setX_eq]
        exact State.getX_setX _ rd q _)
    rw [← State.setX_eq] at this
    exact this
  · intro g c i s' h
    have hp := State.plan_atomic s .amo (s.getX rs1) n
    have key : c ∈ [6, 7, 15] ∧ Hidden s s' ∧ ∀ g, s.memAmo (s.getX rs1) n g = .trap c i s' := by
      rcases Res.andThen_eq_trap h with h1 | ⟨ps, s1, h1, h⟩
      · obtain ⟨a, b⟩ := hp.of_trap h1
        refine ⟨atomic_codes (.inr (.inr rfl)) b, a, fun g => ?_⟩
        unfold State.memAmo
        rw [h1, Res.trap_andThen]
      · split at h <;> cases h
    refine ⟨key.1, key.2.1, ?_⟩
    unfold State.amo
    rw [key.2.2]
    rfl

/-- LR. -/
theorem State.loadReserved_rule (s : State) {n : Nat} (hn : 64 % n = 0) (rd rs1 : Reg) : LrRule s (s.loadReserved n rd rs1) n rd rs1 := by
  constructor
  · intro pl h
    obtain ⟨s', h1, h2, h3, h4, h5⟩ := h.plan
    obtain ⟨e, fr, se, _⟩ := State.rmw_sees (k := .lr) h3 (h5 hn)
    unfold State.loadReserved State.memLr
    rw [h1, Res.ok_andThen, if_neg (by rw [atomic_test h4]; simp)]
    dsimp only
    rw [Res.ok_andThen, e, h2.number]
    have hg : (s'.readParts .lr [⟨pl, n⟩]).2.me.gmon = s.me.gmon := by
      unfold LineFrame at fr
      rw [fr]
      show s'.me.gmon = _
      rw [h2]
    rw [hg]
    exact Reserves.of_frame h2 fr.store (se.of_hidden h2) _ _ rd _
  · intro c i s' h
    have hp := State.plan_atomic s .lr (s.getX rs1) n
    have key : c ∈ [6, 7, 15] ∧ Hidden s s' := by
      rcases Res.andThen_eq_trap h with h1 | ⟨ps, s1, h1, h⟩
      · obtain ⟨a, b⟩ := hp.of_trap h1
        exact ⟨atomic_codes (.inr (.inl rfl)) b, a⟩
      · obtain ⟨a, _, pl, rfl, _⟩ := hp.of_ok h1
        split at h
        · cases h
          exact ⟨by simp, a⟩
        · cases h
    refine ⟨key.1, key.2, ?_⟩
    unfold State.loadReserved
    rw [h]
    rfl

/-- What the monitors decide, in words. -/
theorem State.scPasses_iff {s s' : State} (h : Hidden s s') (pl : Place) (n : Nat) :
    s'.scPasses ⟨pl, n⟩ = true ↔ ScHolds s pl n := by
  have hm : s'.me.lmon = s.me.lmon := by rw [h]
  have hg : s'.me.gmon = s.me.gmon := by rw [h]
  have ht : s'.me.th = s.me.th := by rw [h]
  unfold State.scPasses ScHolds Hart.dcacheOn bit mhcrDE
  rw [hm, hg, ht, h.soc]
  simp only [Bool.and_eq_true, Bool.or_eq_true, beq_iff_eq]
  tauto

/-- A chunk holds no more of a value than its bytes. -/
theorem byteAfter_mod (s : State) (attr : BitVec 5) (a n v q : Nat) :
    byteAfter s attr [⟨a, n, v % 2 ^ (8 * n)⟩] q = byteAfter s attr [⟨a, n, v⟩] q := by
  unfold byteAfter
  simp only [List.find?_cons, List.find?_nil]
  by_cases hq : a ≤ q ∧ q < a + n
  · simp only [hq, and_self, decide_true]
    apply BitVec.eq_of_toNat_eq
    simp only [BitVec.toNat_ofNat]
    obtain ⟨k, hk⟩ : ∃ k, q - a = k := ⟨_, rfl⟩
    have hkn : k < n := by omega
    rw [hk]
    have e256 : (256 : Nat) ^ k = 2 ^ (8 * k) := by rw [pow_mul]; norm_num
    rw [e256]
    have : 2 ^ (8 * n) = 2 ^ (8 * k) * (2 ^ 8 * 2 ^ (8 * (n - k - 1))) := by
      rw [← pow_add, ← pow_add]
      congr 1
      omega
    rw [this, Nat.mod_mul_right_div_self, Nat.mod_mul_right_mod]
  · simp only [hq, decide_false]

/-- SC. -/
theorem State.storeConditional_rule (s : State) (n : Nat) (hn : n = 4 ∨ n = 8) (rd rs2 rs1 : Reg) :
    ScRule s (s.storeConditional n rd rs2 rs1) n rd rs2 rs1 := by
  have hn' : 64 % n = 0 := by rcases hn with rfl | rfl <;> rfl
  constructor
  · intro pl s' h1 h2 h3
    have hh := (State.resolve_sat s .store (s.getX rs1)).of_ok h2
    have hp : s.plan .store true (s.getX rs1) n = .ok [⟨pl, n⟩] s' := by
      unfold State.plan
      rw [if_pos h1, h2, Res.ok_andThen]
    have h3' := (hh.plain pl).2 h3
    have hl := oneLine_of_aligned hn' h1 (State.resolve_offset h2)
    have hg : s'.me.gmon = s.me.gmon := by rw [hh]
    have hb := State.scPasses_iff hh pl n
    unfold State.storeConditional State.memSc
    rw [hp, Res.ok_andThen]
    dsimp only
    rw [Res.ok_andThen]
    constructor
    · intro hs
      have hb' := hb.2 hs
      have fr := State.writePart_frame s' false ⟨pl, n⟩ ((s.getX rs2).toNat % 2 ^ (8 * n)) h3'
      have hmg : (s'.writePart false ⟨pl, n⟩ ((s.getX rs2).toNat % 2 ^ (8 * n))).me.gmon = s.me.gmon := by
        rw [fr]
        exact hg
      simp only [hb', if_true]
      rw [hmg]
      refine Reserves.of_frame hh fr (fun attr hA q hbk => ?_) none _ rd 0
      have w := State.writePart_writes s' false ⟨pl, n⟩ ((s.getX rs2).toNat % 2 ^ (8 * n)) h3' hl
        ((hh.alike _ _).2 (hA ⟨pl, n⟩ (by simp)))
      rw [← byteAfter_mod, ← hh.dcacheOn, ← hh.byteAfter]
      refine w.byteAfter (hbk.imp (hh.backed attr _).2 ?_)
      rintro ⟨p, hp, hc⟩
      cases hp
      exact hc
    · intro hs
      have hb' : s'.scPasses ⟨pl, n⟩ = false := by
        cases h : s'.scPasses ⟨pl, n⟩
        · rfl
        · exact absurd (hb.1 h) hs
      simp only [hb', Bool.false_eq_true, if_false]
      rw [hg]
      exact Reserves.of_frame hh (StoreFrame.refl s') (fun attr _ q _ => hh.sees attr _ q) none _ rd 1
  · intro v c i s' h
    have hp := State.plan_atomic s .store (s.getX rs1) n
    rcases Res.andThen_eq_trap h with h1 | ⟨ps, s1, h1, h⟩
    · obtain ⟨a, b⟩ := hp.of_trap h1
      refine ⟨atomic_codes (.inl rfl) b, a, ?_⟩
      unfold State.storeConditional State.memSc
      rw [h1, Res.trap_andThen]
      rfl
    · obtain ⟨_, _, pl, rfl, _⟩ := hp.of_ok h1
      cases h

end Sys2Proof.Machine
end

