-- ==== Sys2Proof/Laws/Cache.lean ====
section
/-! SUPPORT. The cache operations in the words of Safety.lean: which lines are written back, which leave which caches, and that
every move of lines leaves the caches whole and in their places. -/

namespace Sys2Proof.Machine

/-- What a cache operation may change: the lines of the caches, and memory. -/
def CacheFrame (s t : State) : Prop :=
  t = { s with me := { s.me with l1d := t.me.l1d, icache := t.me.icache },
               other := { s.other with l1d := t.other.l1d, icache := t.other.icache }, mem := t.mem, l2 := t.l2 }

theorem CacheFrame.refl (s : State) : CacheFrame s s := rfl

theorem CacheFrame.trans {s t u : State} (h1 : CacheFrame s t) (h2 : CacheFrame t u) : CacheFrame s u := by
  unfold CacheFrame at *
  rw [h2, h1]

theorem CacheFrame.x {s t : State} (h : CacheFrame s t) : t.me.x = s.me.x := by rw [h]
theorem CacheFrame.pc {s t : State} (h : CacheFrame s t) : t.me.pc = s.me.pc := by rw [h]
theorem CacheFrame.getX {s t : State} (h : CacheFrame s t) (q : Reg) : t.getX q = s.getX q := State.getX_congr h.x q

/-! ### Selections -/

/-- A selection that looks at the line alone. -/
def ByLine (sel : CacheLine → Bool) : Prop := ∀ l m : CacheLine, l.line = m.line → sel l = sel m

theorem ByLine.byPlace {sel : CacheLine → Bool} (h : ByLine sel) : ByPlace sel := fun l m e _ => h l m e
theorem byLine_onLine (n : Nat) : ByLine (onLine n) := fun l m h => by simp [onLine, h]
theorem byLine_everyLine : ByLine everyLine := fun _ _ _ => rfl

/-- The selections, in words. -/
theorem onLine_eq (a : Nat) : onLine (lineOf a) = lineAt a := rfl
theorem everyLine_eq : everyLine = anyLine := rfl
theorem inWay_eq (w : Word) : inWay w = atWay w := rfl

/-! ### Clean and flush -/

theorem CleanedTo.of_cleaned (sel : CacheLine → Bool) (c : List CacheLine) : CleanedTo c (cleaned sel c) sel := rfl

/-- What has been written back is in the L2, dirty there. -/
def InL2 (s u : State) (sel : CacheLine → Bool) (both : Bool) : Prop :=
  WrittenToL2 s u sel both ∧ (ByLine sel → ∀ a, dirtyAt u.l2 sel a = (s.dirtyAbove sel both a).or (dirtyAt s.l2 sel a))

theorem State.cleanMine_inL2 (s : State) (sel : CacheLine → Bool) : InL2 s (s.cleanMine sel) sel false := by
  refine ⟨⟨rfl, fun a => ?_⟩, fun hs a => ?_⟩
  · show byteIn (writeBack (s.me.l1d.filter sel) s.l2) a = _
    rw [byteIn_writeBack, dirtyByte_filter]
    rfl
  · show dirtyAt (writeBack (s.me.l1d.filter sel) s.l2) sel a = _
    rw [dirtyAt_writeBack _ _ _ _ hs fun l hl => (List.mem_filter.1 hl).2, dirtyByte_filter]
    rfl

theorem State.cleanBoth_inL2 (s : State) (sel : CacheLine → Bool) : InL2 s (s.cleanBoth sel) sel true := by
  have m := State.cleanMine_inL2 s sel
  refine ⟨⟨rfl, fun a => ?_⟩, fun hs a => ?_⟩
  · show byteIn (writeBack (s.other.l1d.filter sel) (s.cleanMine sel).l2) a = _
    rw [byteIn_writeBack, dirtyByte_filter, m.1.2 a, ← Option.or_assoc]
    rfl
  · show dirtyAt (writeBack (s.other.l1d.filter sel) (s.cleanMine sel).l2) sel a = _
    rw [dirtyAt_writeBack _ _ _ _ hs fun l hl => (List.mem_filter.1 hl).2, dirtyByte_filter, m.2 hs a, ← Option.or_assoc]
    rfl

/-- What cleaning lines leaves. -/
theorem State.cleanMine_spec (s : State) (sel : CacheLine → Bool) :
    CacheFrame s (s.cleanMine sel) ∧ CleansLines s (s.cleanMine sel) sel false false :=
  ⟨rfl, ⟨rfl, rfl⟩, .of_cleaned sel _, rfl, (State.cleanMine_inL2 s sel).1⟩

theorem State.cleanBoth_spec (s : State) (sel : CacheLine → Bool) :
    CacheFrame s (s.cleanBoth sel) ∧ CleansLines s (s.cleanBoth sel) sel true false :=
  ⟨rfl, ⟨rfl, rfl⟩, .of_cleaned sel _, CleanedTo.of_cleaned sel _, (State.cleanBoth_inL2 s sel).1⟩

/-- What cleaning and invalidating lines leaves. -/
theorem State.flushMine_spec (s : State) {sel : CacheLine → Bool} (hs : ByPlace sel) :
    CacheFrame s (s.flushMine sel) ∧ FlushesLines s (s.flushMine sel) sel false false :=
  ⟨rfl, ⟨rfl, rfl⟩, without_cleaned hs.steady _, rfl, (State.cleanMine_inL2 s sel).1⟩

theorem State.flushBoth_spec (s : State) {sel : CacheLine → Bool} (hs : ByPlace sel) :
    CacheFrame s (s.flushBoth sel) ∧ FlushesLines s (s.flushBoth sel) sel true false :=
  ⟨rfl, ⟨rfl, rfl⟩, without_cleaned hs.steady _, expelled_cleaned hs.steady s.other.l1d, (State.cleanBoth_inL2 s sel).1⟩

/-- The L2 passes the selected lines on to memory. -/
theorem InL2.passedOn {s u : State} {sel : CacheLine → Bool} {both : Bool} (hs : ByLine sel) (h : InL2 s u sel both) {t : State}
    (hm : t.mem = (u.cleanL2 sel).mem) {after : List CacheLine → Prop} (ha : after u.l2) : WrittenToMemory s t sel both after := by
  refine ⟨fun a => ?_, u.l2, h.1.2, ha⟩
  rw [hm]
  show Memory.read (spill (u.l2.filter sel) u.mem) a = _
  rw [read_spill, dirtyByte_filter, h.2 hs a, h.1.1]

theorem State.cleanAll_spec (s : State) {sel : CacheLine → Bool} (hs : ByLine sel) :
    CacheFrame s (s.cleanAll sel) ∧ CleansLines s (s.cleanAll sel) sel true true :=
  ⟨rfl, ⟨rfl, rfl⟩, .of_cleaned sel _, CleanedTo.of_cleaned sel _, (State.cleanBoth_inL2 s sel).passedOn hs rfl (.of_cleaned sel _)⟩

theorem State.cleanMineL2_spec (s : State) {sel : CacheLine → Bool} (hs : ByLine sel) :
    CacheFrame s ((s.cleanMine sel).cleanL2 sel) ∧ CleansLines s ((s.cleanMine sel).cleanL2 sel) sel false true :=
  ⟨rfl, ⟨rfl, rfl⟩, .of_cleaned sel _, rfl, (State.cleanMine_inL2 s sel).passedOn hs rfl (.of_cleaned sel _)⟩

/-- What the L2 gives up by a broadcast is gone. -/
theorem L2Loses.of_emptied {s t : State} {sel : CacheLine → Bool} {c : List CacheLine} (h : t.l2 = c.filter fun l => !sel l) :
    L2Loses s t sel true c := by
  have e : ∀ l : CacheLine, (!(sel l && !(!true && s.other.l1d.any fun m => m.line == l.line && m.state != .leaving))) = !sel l := by
    intro l
    cases sel l <;> rfl
  unfold L2Loses
  simp only [e]
  rw [h]
  conv => lhs; rw [← List.map_id (c.filter fun l => !sel l)]
  refine List.map_congr_left fun l hl => ?_
  rw [if_neg (by simpa using (List.mem_filter.1 hl).2)]
  rfl

/-- What the L2 gives up without one comes back where the other core keeps it; whether it was cleaned before makes no difference. -/
theorem L2Loses.of_renewed {s t u : State} {sel : CacheLine → Bool} (hs : ByLine sel) {c d : List CacheLine}
    (hd : d = c ∨ d = cleaned sel c) (ho : u.other = s.other) (hm : t.mem = u.mem)
    (h : t.l2 = renewed u.mem sel (without (fun l => sel l && !u.otherKeeps l) d)) : L2Loses s t sel false c := by
  have k : ∀ l : CacheLine, u.otherKeeps l = s.other.l1d.any fun m => m.line == l.line && m.state != .leaving := by
    intro l
    unfold State.otherKeeps
    rw [ho]
    rfl
  have e : ∀ c : List CacheLine, renewed u.mem sel (without (fun l => sel l && !u.otherKeeps l) (cleaned sel c)) =
      renewed u.mem sel (without (fun l => sel l && !u.otherKeeps l) c) := by
    intro c
    have hf : ∀ l : CacheLine, (if sel l && l.dirty then { l with state := .clean } else l : CacheLine).line = l.line ∧
        (if sel l && l.dirty then { l with state := .clean } else l : CacheLine).way = l.way := fun l => by
      split <;> exact ⟨rfl, rfl⟩
    unfold renewed without cleaned
    rw [List.filter_map, List.map_map]
    have hp : ((fun l => !(sel l && !u.otherKeeps l)) ∘ fun l : CacheLine => if sel l && l.dirty then { l with state := .clean } else l) =
        fun l => !(sel l && !u.otherKeeps l) := by
      funext l
      simp only [Function.comp_apply]
      rw [hs _ l (hf l).1]
      unfold State.otherKeeps
      rw [(hf l).1]
    rw [hp]
    refine List.map_congr_left fun l _ => ?_
    simp only [Function.comp_apply]
    rw [hs _ l (hf l).1, (hf l).1, (hf l).2]
    by_cases hl : sel l = true
    · rw [if_pos hl, if_pos hl]
    · rw [if_neg hl, if_neg hl, if_neg fun h => hl (Bool.and_eq_true _ _ ▸ h).1]
  have h' : t.l2 = renewed u.mem sel (without (fun l => sel l && !u.otherKeeps l) c) := by
    rcases hd with rfl | rfl
    · exact h
    · exact h.trans (e c)
  unfold L2Loses
  rw [h', hm]
  unfold renewed without
  simp only [k, Bool.not_false, Bool.true_and]

theorem State.flushAll_spec (s : State) {sel : CacheLine → Bool} (hs : ByLine sel) :
    CacheFrame s (s.flushAll sel) ∧ FlushesLines s (s.flushAll sel) sel true true := by
  have h : InL2 s (s.flushBoth sel) sel true := State.cleanBoth_inL2 s sel
  exact ⟨rfl, ⟨rfl, rfl⟩, without_cleaned hs.byPlace.steady _, expelled_cleaned hs.byPlace.steady s.other.l1d,
    h.passedOn hs rfl (L2Loses.of_emptied (without_cleaned hs.byPlace.steady _))⟩

/-- Without a broadcast the other core's D-cache is left alone (48_thead_cache_sync:R692). -/
theorem State.flushMineL2_spec (s : State) {sel : CacheLine → Bool} (hs : ByLine sel) :
    CacheFrame s (((s.flushMine sel).cleanL2 sel).renewL2 sel) ∧
      FlushesLines s (((s.flushMine sel).cleanL2 sel).renewL2 sel) sel false true := by
  have h : InL2 s (s.flushMine sel) sel false := State.cleanMine_inL2 s sel
  exact ⟨rfl, ⟨rfl, rfl⟩, without_cleaned hs.byPlace.steady _, rfl,
    h.passedOn hs rfl (L2Loses.of_renewed (u := (s.flushMine sel).cleanL2 sel) hs (.inr rfl) rfl rfl rfl)⟩

/-- Lines that leave the L2 leave both D-caches at once (20_memory:R220). -/
theorem State.evictL2_spec (s : State) {sel : CacheLine → Bool} (hs : ByLine sel) :
    CacheFrame s (s.evictL2 sel) ∧ EvictsLines s (s.evictL2 sel) sel := by
  have h : InL2 s ((s.flushMine sel).claimOther sel) sel true := State.cleanBoth_inL2 s sel
  exact ⟨rfl, ⟨rfl, rfl⟩, without_cleaned hs.byPlace.steady _, without_cleaned hs.byPlace.steady s.other.l1d,
    h.passedOn hs rfl (without_cleaned hs.byPlace.steady _)⟩

/-! ### Dropped lines -/

/-- What invalidating lines leaves. -/
theorem State.invalMine_spec (s : State) (sel : CacheLine → Bool) :
    CacheFrame s (s.invalMine sel) ∧ DropsLines s (s.invalMine sel) sel false false :=
  ⟨rfl, ⟨rfl, rfl⟩, rfl, rfl, rfl, rfl⟩

theorem State.invalMineL2_spec (s : State) {sel : CacheLine → Bool} (hs : ByLine sel) :
    CacheFrame s ((s.invalMine sel).renewL2 sel) ∧ DropsLines s ((s.invalMine sel).renewL2 sel) sel false true :=
  ⟨rfl, ⟨rfl, rfl⟩, rfl, rfl, L2Loses.of_renewed (u := s.invalMine sel) hs (.inl rfl) rfl rfl rfl, rfl⟩

theorem State.invalAll_spec (s : State) (sel : CacheLine → Bool) :
    CacheFrame s (s.invalAll sel) ∧ DropsLines s (s.invalAll sel) sel true true :=
  ⟨rfl, ⟨rfl, rfl⟩, rfl, rfl, L2Loses.of_emptied rfl, rfl⟩

/-- The running hart's broadcasts complete: no byte of memory or of the L2 moves. -/
theorem State.complete_eq (s : State) : s.complete = { s with other := settled s.other } := by
  have h : ∀ l : CacheLine, (!l.leaving) = (l.state != .leaving) := fun _ => rfl
  unfold State.complete Hart.settle settled without
  simp only [h]

/-! ### The caches stay whole, and their lines in their places -/

theorem Whole.filter {c : List CacheLine} (h : Whole c) (p : CacheLine → Bool) : Whole (c.filter p) :=
  ⟨h.1.filter p, fun l hl => h.2 l (List.mem_filter.1 hl).1⟩

theorem Whole.map {c : List CacheLine} (h : Whole c) {g : CacheLine → CacheLine} (hl : ∀ l, (g l).line = l.line)
    (hd : ∀ l ∈ c, (g l).data.length = 64) : Whole (c.map g) := by
  refine ⟨?_, fun l hm => ?_⟩
  · rw [List.pairwise_map]
    exact h.1.imp fun h => by rwa [hl, hl]
  · obtain ⟨m, hm', rfl⟩ := List.mem_map.1 hm
    exact hd m hm'

theorem Placed.filter {c : List CacheLine} (h : Placed c) (p : CacheLine → Bool) : Placed (c.filter p) := List.Pairwise.filter p h

theorem Placed.map {c : List CacheLine} (h : Placed c) {g : CacheLine → CacheLine}
    (hl : ∀ l, (g l).line = l.line ∧ (g l).way = l.way) : Placed (c.map g) := by
  unfold Placed
  rw [List.pairwise_map]
  exact List.Pairwise.imp (fun {l m} h => by rwa [(hl l).1, (hl l).2, (hl m).1, (hl m).2]) h

theorem Whole.cleaned {c : List CacheLine} (h : Whole c) (sel : CacheLine → Bool) : Whole (cleaned sel c) :=
  h.map (fun l => by split <;> rfl) fun l hl => by
    have := h.2 l hl
    split <;> exact this

theorem Whole.expelled {c : List CacheLine} (h : Whole c) (sel : CacheLine → Bool) : Whole (expelled sel c) :=
  h.map (fun l => by split <;> rfl) fun l hl => by
    have := h.2 l hl
    split <;> exact this

theorem Placed.cleaned {c : List CacheLine} (h : Placed c) (sel : CacheLine → Bool) : Placed (cleaned sel c) :=
  h.map fun l => by split <;> exact ⟨rfl, rfl⟩

theorem Placed.expelled {c : List CacheLine} (h : Placed c) (sel : CacheLine → Bool) : Placed (expelled sel c) :=
  h.map fun l => by split <;> exact ⟨rfl, rfl⟩

theorem Whole.storeIn {c : List CacheLine} (h : Whole c) (n a : Nat) (bs : List Byte) : Whole (storeIn c n a bs) :=
  h.map (fun l => by split <;> rfl) fun l hl => by
    have := h.2 l hl
    split
    · simp [CacheLine.stored, CacheLine.patched, lineData_length]
    · exact this

theorem Placed.storeIn {c : List CacheLine} (h : Placed c) (n a : Nat) (bs : List Byte) : Placed (storeIn c n a bs) :=
  h.map fun l => by split <;> exact ⟨rfl, rfl⟩

theorem Whole.writeBack {ls c : List CacheLine} (h : Whole c) (hl : ∀ l ∈ ls, l.data.length = 64) : Whole (writeBack ls c) := by
  induction ls with
  | nil => exact h
  | cons l rest ih =>
    have ih' := ih fun m hm => hl m (List.mem_cons_of_mem _ hm)
    unfold Machine.writeBack
    dsimp only
    split
    · refine ⟨List.pairwise_cons.2 ⟨fun m hm e => ?_, (ih'.filter _).1⟩, fun m hm => ?_⟩
      · have := (List.mem_filter.1 hm).2
        simp only [bne_iff_ne, ne_eq] at this
        exact this e.symm
      · rcases List.mem_cons.1 hm with rfl | hm
        · exact hl l (by simp)
        · exact (ih'.filter _).2 m hm
    · exact ih'

/-- A line brought in that was not there. -/
theorem Whole.cons {c : List CacheLine} (h : Whole c) {n : Nat} (hn : holds c n = false) (f : Nat → Byte) (w : Bool) :
    Whole (CacheLine.clean f n w :: c) := by
  refine ⟨List.pairwise_cons.2 ⟨fun m hm e => holds_eq_false.1 hn m hm e.symm, h.1⟩, fun m hm => ?_⟩
  rcases List.mem_cons.1 hm with rfl | hm
  · exact lineData_length _ _
  · exact h.2 m hm

theorem Whole.patchedIn {c : List CacheLine} (h : Whole c) (a : Nat) (bs : List Byte) : Whole (patchedIn c a bs) :=
  h.map (fun l => by split <;> rfl) fun l hl => by
    have := h.2 l hl
    split
    · simp [CacheLine.patched, lineData_length]
    · exact this

theorem Placed.patchedIn {c : List CacheLine} (h : Placed c) (a : Nat) (bs : List Byte) : Placed (patchedIn c a bs) :=
  h.map fun l => by split <;> exact ⟨rfl, rfl⟩

/-! ### The L2 keeps its size -/

theorem Fits.filter {c : List CacheLine} (h : Fits c) (p : CacheLine → Bool) : Fits (c.filter p) := by
  intro n
  refine le_trans ?_ (h n)
  rw [List.filter_filter, List.filter_congr (fun _ _ => Bool.and_comm _ _), ← List.filter_filter]
  exact List.length_filter_le _ _

theorem Fits.map {c : List CacheLine} (h : Fits c) {g : CacheLine → CacheLine} (hl : ∀ l, (g l).line = l.line) : Fits (c.map g) := by
  intro n
  rw [List.filter_map, List.length_map]
  simpa [Function.comp_def, hl] using h n

theorem Fits.cons {c : List CacheLine} (h : Fits c) {n : Nat} (hr : roomFor c n = true) (f : Nat → Byte) (w : Bool) :
    Fits (CacheLine.clean f n w :: c) := by
  intro k
  unfold roomFor at hr
  have hr' := of_decide_eq_true hr
  by_cases hk : n % 1024 = k
  · subst hk
    rw [List.filter_cons_of_pos (by simp [CacheLine.clean]), List.length_cons]
    omega
  · rw [List.filter_cons_of_neg (by simpa [CacheLine.clean] using hk)]
    exact h k

/-- A write-back of lines that the L2 holds adds none to it. -/
theorem Fits.writeBack {ls c : List CacheLine} (h : Fits c) (hl : ∀ l ∈ ls, l.dirty = true → holds c l.line = true) :
    Fits (writeBack ls c) ∧ ∀ n, holds c n = true → holds (writeBack ls c) n = true := by
  induction ls with
  | nil => exact ⟨h, fun _ h => h⟩
  | cons l rest ih =>
    obtain ⟨i1, i2⟩ := ih fun m hm => hl m (List.mem_cons_of_mem _ hm)
    unfold Machine.writeBack
    dsimp only
    split
    swap
    · exact ⟨i1, i2⟩
    next hd =>
    have held := i2 _ (hl l (by simp) hd)
    refine ⟨fun n => ?_, fun n hn => ?_⟩
    · have hf := i1.filter (fun m => m.line != l.line) n
      by_cases hn : l.line % 1024 = n
      · subst hn
        rw [List.filter_cons_of_pos (by simp), List.length_cons]
        obtain ⟨m, hm, e⟩ := holds_iff.1 held
        have hlt : (((Machine.writeBack rest c).filter fun k => k.line % 1024 == l.line % 1024).filter fun k => k.line != l.line).length <
            ((Machine.writeBack rest c).filter fun k => k.line % 1024 == l.line % 1024).length :=
          List.length_filter_lt_length_iff_exists.2 ⟨m, List.mem_filter.2 ⟨hm, by simp [e]⟩, by simp [e]⟩
        have h16 := i1 (l.line % 1024)
        rw [List.filter_filter, List.filter_congr (fun _ _ => Bool.and_comm _ _), ← List.filter_filter] at hlt
        omega
      · rw [List.filter_cons_of_neg (by simpa using hn)]
        exact hf
    · obtain ⟨m, hm, e⟩ := holds_iff.1 (i2 n hn)
      by_cases hln : l.line = n
      · exact holds_iff.2 ⟨_, List.mem_cons_self, hln⟩
      · exact holds_iff.2 ⟨m, List.mem_cons_of_mem _ (List.mem_filter.2 ⟨hm, by simp [e, Ne.symm hln]⟩), e⟩

/-! ### The L2 includes the D-caches -/

theorem Included.mono {c c' l2 : List CacheLine} (h : Included c l2)
    (hc : ∀ l ∈ c', l.leaving = false → ∃ m ∈ c, m.leaving = false ∧ m.line = l.line) : Included c' l2 := by
  intro l hl he
  obtain ⟨m, hm, e1, e2⟩ := hc l hl he
  exact e2 ▸ h m hm e1

theorem Included.below {c l2 l2' : List CacheLine} (h : Included c l2) (hl : ∀ n, holds l2 n = true → holds l2' n = true) :
    Included c l2' := fun l hm he => hl _ (h l hm he)

theorem Included.filter {c l2 : List CacheLine} (h : Included c l2) (p : CacheLine → Bool) : Included (c.filter p) l2 :=
  h.mono fun l hl he => ⟨l, (List.mem_filter.1 hl).1, he, rfl⟩

/-- An update of lines that sends none back from its way out. -/
theorem Included.map {c l2 : List CacheLine} (h : Included c l2) {g : CacheLine → CacheLine}
    (hg : ∀ l ∈ c, (g l).line = l.line ∧ ((g l).leaving = false → l.leaving = false)) : Included (c.map g) l2 := by
  refine h.mono fun l hl he => ?_
  obtain ⟨m, hm, rfl⟩ := List.mem_map.1 hl
  exact ⟨m, hm, (hg m hm).2 he, (hg m hm).1.symm⟩

theorem not_leaving {l : CacheLine} (h : l.dirty = true) : l.leaving = false := by
  unfold CacheLine.dirty at h
  unfold CacheLine.leaving
  rw [eq_of_beq h]
  rfl

theorem Included.cleaned {c l2 : List CacheLine} (h : Included c l2) (sel : CacheLine → Bool) : Included (cleaned sel c) l2 :=
  h.map fun l _ => by
    by_cases hs : (sel l && l.dirty) = true
    · rw [if_pos hs]
      exact ⟨rfl, fun _ => not_leaving (Bool.and_eq_true _ _ ▸ hs).2⟩
    · rw [if_neg hs]
      exact ⟨rfl, fun h => h⟩

theorem Included.expelled {c l2 : List CacheLine} (h : Included c l2) (sel : CacheLine → Bool) : Included (expelled sel c) l2 :=
  h.map fun l _ => by
    cases hs : sel l
    · exact ⟨rfl, fun h => h⟩
    · exact ⟨rfl, fun h => Bool.noConfusion (show true = false from h)⟩

theorem Included.patchedIn {c l2 : List CacheLine} (h : Included c l2) (a : Nat) (bs : List Byte) : Included (patchedIn c a bs) l2 :=
  h.map fun l _ => by split <;> exact ⟨rfl, fun h => h⟩

/-- Selected lines leave the L2: none of them is in the D-cache any longer, but for one on its way out. -/
theorem Included.without {c l2 : List CacheLine} (h : Included c l2) {sel : CacheLine → Bool} (hs : ByLine sel)
    (hc : ∀ l ∈ c, l.leaving = false → sel l = false) : Included c (without sel l2) := by
  intro l hl he
  obtain ⟨m, hm, e⟩ := holds_iff.1 (h l hl he)
  exact holds_iff.2 ⟨m, List.mem_filter.2 ⟨hm, by rw [hs m l e, hc l hl he]; rfl⟩, e⟩

/-- The lines of a cache are the same lines. -/
theorem holds_map (c : List CacheLine) {g : CacheLine → CacheLine} (hg : ∀ l, (g l).line = l.line) (n : Nat) :
    holds (c.map g) n = holds c n := by
  rw [Bool.eq_iff_iff, holds_iff, holds_iff]
  simp [hg]

/-! ### The I-caches -/

theorem CodeWhole.filter {c : List CodeLine} (h : CodeWhole c) (p : CodeLine → Bool) : CodeWhole (c.filter p) := by
  refine ⟨h.1.filter p, fun e he => h.2.1 e (List.mem_filter.1 he).1, fun set => le_trans ?_ (h.2.2 set)⟩
  rw [List.filter_filter, List.filter_congr (fun _ _ => Bool.and_comm _ _), ← List.filter_filter]
  exact List.length_filter_le _ _

theorem CodeWhole.nil : CodeWhole [] := ⟨List.Pairwise.nil, fun _ h => absurd h List.not_mem_nil, fun _ => Nat.zero_le _⟩

theorem CodeWhole.expelled {c : List CodeLine} (h : CodeWhole c) (sel : CodeLine → Bool) : CodeWhole (expelledCode sel c) := by
  have hg : ∀ e : CodeLine, ((if sel e then { e with line := { e.line with state := .leaving } } else e : CodeLine).set = e.set) ∧
      (if sel e then { e with line := { e.line with state := .leaving } } else e : CodeLine).line.line = e.line.line ∧
      (if sel e then { e with line := { e.line with state := .leaving } } else e : CodeLine).line.data = e.line.data := by
    intro e
    split <;> exact ⟨rfl, rfl, rfl⟩
  unfold expelledCode
  refine ⟨?_, fun e he => ?_, fun set => ?_⟩
  · rw [List.pairwise_map]
    exact h.1.imp fun {e f} hh => by rwa [(hg e).1, (hg f).1, (hg e).2.1, (hg f).2.1]
  · obtain ⟨f, hf, rfl⟩ := List.mem_map.1 he
    rw [(hg f).2.2]
    exact h.2.1 f hf
  · rw [List.filter_map, List.length_map]
    refine le_trans (le_of_eq ?_) (h.2.2 set)
    congr 1
    refine List.filter_congr fun e _ => ?_
    simp only [Function.comp_apply, (hg e).1]

/-- One line fewer of a kind. -/
theorem length_filter_eraseP {α : Type} {p : α → Bool} {c : List α} (h : ∃ e ∈ c, p e = true) :
    ((c.eraseP p).filter p).length + 1 = (c.filter p).length := by
  induction c with
  | nil => simp at h
  | cons e c ih =>
    by_cases he : p e = true
    · rw [List.eraseP_cons_of_pos he, List.filter_cons_of_pos he, List.length_cons]
    · obtain ⟨f, hf, hp⟩ := h
      rcases List.mem_cons.1 hf with rfl | hf
      · exact absurd hp he
      · rw [List.eraseP_cons_of_neg he, List.filter_cons_of_neg he, List.filter_cons_of_neg he, ih ⟨f, hf, hp⟩]

/-- Room for one more line: what stays was there, and the set has at most one. -/
theorem codeRoom_spec {c : List CodeLine} (h : CodeWhole c) (set : Nat) :
    CodeWhole (codeRoom c set) ∧ (∀ e ∈ codeRoom c set, e ∈ c) ∧ ((codeRoom c set).filter fun e => e.set == set).length ≤ 1 := by
  unfold codeRoom
  split
  · next hl => exact ⟨h, fun _ h => h, by omega⟩
  · next hl =>
    have sub : ((c.reverse.eraseP fun e => e.set == set).reverse).Sublist c := by
      have := (List.eraseP_sublist (p := fun e : CodeLine => e.set == set) (l := c.reverse)).reverse
      rwa [List.reverse_reverse] at this
    refine ⟨⟨h.1.sublist sub, fun e he => h.2.1 e (sub.subset he), fun k => ?_⟩, fun e he => sub.subset he, ?_⟩
    · exact le_trans (sub.filter _).length_le (h.2.2 k)
    · have hne : ∃ e ∈ c.reverse, (e.set == set) = true := by
        by_contra hn
        have : (c.filter fun e => e.set == set) = [] :=
          List.filter_eq_nil_iff.2 fun e he hs => hn ⟨e, List.mem_reverse.2 he, hs⟩
        rw [this] at hl
        simp at hl
      have hc := length_filter_eraseP hne
      rw [List.filter_reverse, List.length_reverse] at hc
      rw [List.filter_reverse, List.length_reverse]
      have := h.2.2 set
      omega

theorem CodeWhole.cons {c : List CodeLine} (h : CodeWhole c) {set n : Nat} (f : Nat → Byte)
    (hn : c.find? (fun e => e.at set n) = none) : CodeWhole (⟨set, CacheLine.clean f n false⟩ :: codeRoom c set) := by
  obtain ⟨h1, h2, h3⟩ := codeRoom_spec h set
  refine ⟨List.pairwise_cons.2 ⟨fun e he hh => ?_, h1.1⟩, fun e he => ?_, fun k => ?_⟩
  · have := List.find?_eq_none.1 hn e (h2 e he)
    unfold CodeLine.at at this
    rw [Bool.and_eq_true, beq_iff_eq, beq_iff_eq] at this
    exact this ⟨hh.1.symm, hh.2.symm⟩
  · rcases List.mem_cons.1 he with rfl | he
    · exact lineData_length _ _
    · exact h1.2.1 e he
  · by_cases hk : set = k
    · subst hk
      rw [List.filter_cons_of_pos (by simp), List.length_cons]
      omega
    · rw [List.filter_cons_of_neg (by simpa using hk)]
      exact h1.2.2 k

/-! ### Every operation keeps the caches sound -/

/-- The caches are whole and of their size, the lines of the D-caches in their places, and the L2 includes both D-caches
(00_scope:R1, 20_memory:R219, R220, R222). -/
structure State.Sound (s : State) : Prop where
  mine     : Whole s.me.l1d ∧ Placed s.me.l1d
  others   : Whole s.other.l1d ∧ Placed s.other.l1d
  l2       : Whole s.l2 ∧ Fits s.l2
  included : Included s.me.l1d s.l2 ∧ Included s.other.l1d s.l2
  code     : CodeWhole s.me.icache ∧ CodeWhole s.other.icache

theorem State.Inv.sound {s : State} (h : s.Inv) : s.Sound := ⟨h.me.l1d, h.other.l1d, h.l2, h.included, h.me.icache, h.other.icache⟩

/-- Cleaned and taken out, a line is gone. -/
theorem without_off {sel : CacheLine → Bool} (hs : Steady sel) {c : List CacheLine} {l : CacheLine}
    (h : l ∈ without sel (cleaned sel c)) : sel l = false := by
  rw [without_cleaned hs] at h
  simpa using (List.mem_filter.1 h).2

/-- On its way out, or not selected. -/
theorem expelled_off {sel : CacheLine → Bool} {c : List CacheLine} {l : CacheLine} (h : l ∈ expelled sel c)
    (he : l.leaving = false) : sel l = false := by
  obtain ⟨m, _, rfl⟩ := List.mem_map.1 h
  by_cases hm : sel m = true
  · rw [if_pos hm] at he
    exact Bool.noConfusion (show true = false from he)
  · rw [if_neg hm]
    simpa using hm

namespace State.Sound

/-- The L2 after a write-back of lines of a D-cache that it includes. -/
theorem written {s : State} (h : s.Sound) {c ls : List CacheLine} (hw : Whole c) (hi : Included c s.l2) (hl : ∀ l ∈ ls, l ∈ c) :
    (Whole (writeBack ls s.l2) ∧ Fits (writeBack ls s.l2)) ∧ ∀ n, holds s.l2 n = true → holds (writeBack ls s.l2) n = true := by
  obtain ⟨h1, h2⟩ := h.l2.2.writeBack (ls := ls) fun l hm hd => hi l (hl l hm) (not_leaving hd)
  exact ⟨⟨h.l2.1.writeBack fun l hm => hw.2 l (hl l hm), h1⟩, h2⟩

theorem cleanMine {s : State} (h : s.Sound) (sel : CacheLine → Bool) : (s.cleanMine sel).Sound := by
  obtain ⟨w, k⟩ := h.written h.mine.1 h.included.1 (ls := s.me.l1d.filter sel) fun l hl => (List.mem_filter.1 hl).1
  exact ⟨⟨h.mine.1.cleaned sel, h.mine.2.cleaned sel⟩, h.others, w, ⟨(h.included.1.cleaned sel).below k, h.included.2.below k⟩, h.code⟩

theorem cleanOther {s : State} (h : s.Sound) (sel : CacheLine → Bool) : (s.cleanOther sel).Sound := by
  obtain ⟨w, k⟩ := h.written h.others.1 h.included.2 (ls := s.other.l1d.filter sel) fun l hl => (List.mem_filter.1 hl).1
  exact ⟨h.mine, ⟨h.others.1.cleaned sel, h.others.2.cleaned sel⟩, w, ⟨h.included.1.below k, (h.included.2.cleaned sel).below k⟩, h.code⟩

theorem cleanBoth {s : State} (h : s.Sound) (sel : CacheLine → Bool) : (s.cleanBoth sel).Sound := (h.cleanMine sel).cleanOther sel

theorem invalMine {s : State} (h : s.Sound) (sel : CacheLine → Bool) : (s.invalMine sel).Sound :=
  ⟨⟨h.mine.1.filter _, h.mine.2.filter _⟩, h.others, h.l2, ⟨h.included.1.filter _, h.included.2⟩, h.code⟩

theorem flushMine {s : State} (h : s.Sound) (sel : CacheLine → Bool) : (s.flushMine sel).Sound := (h.cleanMine sel).invalMine sel

theorem invalOther {s : State} (h : s.Sound) (sel : CacheLine → Bool) : (s.invalOther sel).Sound :=
  ⟨h.mine, ⟨h.others.1.expelled sel, h.others.2.expelled sel⟩, h.l2, ⟨h.included.1, h.included.2.expelled sel⟩, h.code⟩

theorem flushOther {s : State} (h : s.Sound) (sel : CacheLine → Bool) : (s.flushOther sel).Sound := (h.cleanOther sel).invalOther sel

theorem flushBoth {s : State} (h : s.Sound) (sel : CacheLine → Bool) : (s.flushBoth sel).Sound := (h.flushMine sel).flushOther sel

/-- Lines leave the other core's D-cache. -/
theorem dropOther {s : State} (h : s.Sound) (sel : CacheLine → Bool) : (s.setOtherL1 (without sel s.other.l1d)).Sound :=
  ⟨h.mine, ⟨h.others.1.filter _, h.others.2.filter _⟩, h.l2, ⟨h.included.1, h.included.2.filter _⟩, h.code⟩

theorem claimOther {s : State} (h : s.Sound) (sel : CacheLine → Bool) : (s.claimOther sel).Sound := (h.cleanOther sel).dropOther sel

theorem cleanL2 {s : State} (h : s.Sound) (sel : CacheLine → Bool) : (s.cleanL2 sel).Sound := by
  have hg : ∀ l : CacheLine, (if sel l && l.dirty then { l with state := .clean } else l : CacheLine).line = l.line := by
    intro l
    split <;> rfl
  have k : ∀ n, holds s.l2 n = true → holds (cleaned sel s.l2) n = true := fun n hn => (holds_map s.l2 hg n).trans hn
  exact ⟨h.mine, h.others, ⟨h.l2.1.cleaned sel, h.l2.2.map hg⟩, ⟨h.included.1.below k, h.included.2.below k⟩, h.code⟩

/-- Lines leave the L2 that are in no D-cache, but for such as are on their way out. -/
theorem invalL2 {s : State} (h : s.Sound) {sel : CacheLine → Bool} (hs : ByLine sel)
    (hm : ∀ l ∈ s.me.l1d, l.leaving = false → sel l = false) (ho : ∀ l ∈ s.other.l1d, l.leaving = false → sel l = false) :
    (s.invalL2 sel).Sound :=
  ⟨h.mine, h.others, ⟨h.l2.1.filter _, h.l2.2.filter _⟩, ⟨h.included.1.without hs hm, h.included.2.without hs ho⟩, h.code⟩

theorem flushL2 {s : State} (h : s.Sound) {sel : CacheLine → Bool} (hs : ByLine sel)
    (hm : ∀ l ∈ s.me.l1d, l.leaving = false → sel l = false) (ho : ∀ l ∈ s.other.l1d, l.leaving = false → sel l = false) :
    (s.flushL2 sel).Sound := (h.cleanL2 sel).invalL2 hs hm ho

theorem cleanAll {s : State} (h : s.Sound) (sel : CacheLine → Bool) : (s.cleanAll sel).Sound := (h.cleanBoth sel).cleanL2 sel

theorem flushAll {s : State} (h : s.Sound) {sel : CacheLine → Bool} (hs : ByLine sel) : (s.flushAll sel).Sound :=
  (h.flushBoth sel).flushL2 hs (fun _ hl _ => without_off hs.byPlace.steady hl) fun _ hl he => expelled_off hl he

theorem invalAll {s : State} (h : s.Sound) {sel : CacheLine → Bool} (hs : ByLine sel) : (s.invalAll sel).Sound :=
  ((h.invalMine sel).invalOther sel).invalL2 hs (fun l hl _ => by simpa using (List.mem_filter.1 hl).2)
    fun _ hl he => expelled_off hl he

/-- The L2 gives up lines that this core's D-cache does not hold; those that the other's keeps come back. -/
theorem renewL2 {s : State} (h : s.Sound) {sel : CacheLine → Bool} (hs : ByLine sel)
    (hm : ∀ l ∈ s.me.l1d, l.leaving = false → sel l = false) : (s.renewL2 sel).Sound := by
  have hk : ByLine fun l => sel l && !s.otherKeeps l := fun l m e => by
    show (sel l && !s.otherKeeps l) = (sel m && !s.otherKeeps m)
    unfold State.otherKeeps
    rw [hs l m e, e]
  have ho : ∀ l ∈ s.other.l1d, l.leaving = false → (sel l && !s.otherKeeps l) = false := fun l hl he => by
    have : s.otherKeeps l = true := List.any_eq_true.2 ⟨l, hl, by rw [he]; simp⟩
    rw [this]
    simp
  have i := h.invalL2 hk (fun l hl he => by rw [hm l hl he]; rfl) ho
  have hg : ∀ l : CacheLine, (if sel l then CacheLine.clean (Memory.read s.mem) l.line l.way else l).line = l.line := by
    intro l
    split <;> rfl
  have k : ∀ n, holds (without (fun l => sel l && !s.otherKeeps l) s.l2) n = true → holds (s.renewL2 sel).l2 n = true :=
    fun n hn => (holds_map _ hg n).trans hn
  refine ⟨h.mine, h.others, ⟨i.l2.1.map hg fun l hl => ?_, i.l2.2.map hg⟩, ⟨i.included.1.below k, i.included.2.below k⟩, h.code⟩
  have := i.l2.1.2 l hl
  split
  · exact lineData_length _ _
  · exact this

theorem evictL2 {s : State} (h : s.Sound) {sel : CacheLine → Bool} (hs : ByLine sel) : (s.evictL2 sel).Sound :=
  ((h.flushMine sel).claimOther sel).flushL2 hs (fun _ hl _ => without_off hs.byPlace.steady hl)
    fun _ hl _ => without_off hs.byPlace.steady (c := s.other.l1d) hl

/-- Where a line of a full set of the L2 has left it, there is room. -/
theorem evicted_room {s : State} (h : s.Sound) {v : CacheLine} (hv : v ∈ s.l2) {n : Nat} (hn : v.line % 1024 = n % 1024) :
    roomFor (s.evictL2 (onLine v.line)).l2 n = true := by
  obtain ⟨_, k1⟩ := h.written h.mine.1 h.included.1 (ls := s.me.l1d.filter (onLine v.line)) fun l hl => (List.mem_filter.1 hl).1
  have hf := h.flushMine (onLine v.line)
  obtain ⟨w2, k2⟩ := hf.written hf.others.1 hf.included.2 (ls := s.other.l1d.filter (onLine v.line))
    fun l hl => (List.mem_filter.1 hl).1
  obtain ⟨m, hm, e⟩ := holds_iff.1 (k2 _ (k1 _ (holds_iff.2 ⟨v, hv, rfl⟩)))
  have el : (s.evictL2 (onLine v.line)).l2 =
      (writeBack (s.other.l1d.filter (onLine v.line)) (s.flushMine (onLine v.line)).l2).filter fun l => !onLine v.line l :=
    without_cleaned (byPlace_onLine v.line).steady _
  generalize writeBack (s.other.l1d.filter (onLine v.line)) (s.flushMine (onLine v.line)).l2 = c at w2 hm el
  unfold roomFor
  rw [el, decide_eq_true_eq]
  have hlt : ((c.filter fun l => l.line % 1024 == n % 1024).filter fun l => !onLine v.line l).length <
      (c.filter fun l => l.line % 1024 == n % 1024).length :=
    List.length_filter_lt_length_iff_exists.2 ⟨m, List.mem_filter.2 ⟨hm, by simp [e, hn]⟩, by simp [onLine, e]⟩
  have h16 := w2.2 (n % 1024)
  rw [List.filter_filter, List.filter_congr (fun _ _ => Bool.and_comm _ _), ← List.filter_filter] at hlt
  omega

/-- Room is made for a line that the L2 does not hold. -/
theorem makeRoom {s : State} (h : s.Sound) {n : Nat} (hn : holds s.l2 n = false) :
    (s.makeRoom n).Sound ∧ roomFor (s.makeRoom n).l2 n = true := by
  have hd : s.drawn.Sound := ⟨h.mine, h.others, h.l2, h.included, h.code⟩
  unfold State.makeRoom
  split
  · next hr => exact ⟨h, hr⟩
  · next hr =>
    split
    · next v hv =>
      obtain ⟨h1, h2⟩ := List.mem_filter.1 (List.mem_of_getElem? hv)
      exact ⟨hd.evictL2 (byLine_onLine v.line), hd.evicted_room h1 (by simpa using h2)⟩
    · next hv =>
      exfalso
      unfold roomFor at hr
      unfold l2Victim at hv
      rw [List.getElem?_eq_none_iff] at hv
      have hl : 16 ≤ (s.l2.filter fun l => l.line % 1024 == n % 1024).length := by simpa using hr
      exact absurd (Nat.mod_lt (Config.freeChoice s.draws) (by omega)) (Nat.not_lt.2 hv)

/-- The L2 takes a line. -/
theorem fillL2 {s : State} (h : s.Sound) (n : Nat) : (s.fillL2 n).Sound := by
  unfold State.fillL2
  split
  · exact h
  · next hn =>
    have hn' : holds s.l2 n = false := by simpa using hn
    obtain ⟨hr, room⟩ := h.makeRoom hn'
    have hno : holds (s.makeRoom n).l2 n = false := (State.makeRoom_spec s hn').2.1.l2.holds.trans hn'
    generalize s.makeRoom n = u at hr room hno
    have k : ∀ k, holds u.l2 k = true → holds (u.takeL2 n).l2 k = true := by
      intro k hk
      obtain ⟨l, hl, e⟩ := holds_iff.1 hk
      exact holds_iff.2 ⟨l, List.mem_cons_of_mem _ hl, e⟩
    exact ⟨hr.mine, hr.others, ⟨hr.l2.1.cons hno _ _, hr.l2.2.cons room _ _⟩, ⟨hr.included.1.below k, hr.included.2.below k⟩, hr.code⟩

/-- The own D-cache takes a line: the line that stood in its place is gone (20_memory:R219). Where it did not hold it, the L2 holds
it then. -/
theorem fill {s : State} (h : s.Sound) (n : Nat) :
    (s.fill n).Sound ∧ ((holds s.me.l1d n = true ∧ s.fill n = s) ∨ holds (s.fill n).l2 n = true) := by
  unfold State.fill
  split
  · next hh => exact ⟨h, .inl ⟨hh, rfl⟩⟩
  · next hn =>
    have h2 := h.fillL2 n
    obtain ⟨_, m1, _, _, held, _⟩ := State.fillL2_spec s n
    dsimp only
    generalize s.fillL2 n = u at h2 m1 held ⊢
    have hu : holds u.me.l1d n = false := m1.holds.trans (by simpa using hn)
    have hp : ByPlace fun l => l.line % 512 == n % 512 && l.way == wayFor u.me.l1d n := fun l m h1 h2 => by simp [h1, h2]
    have h' := h2.flushMine fun l => l.line % 512 == n % 512 && l.way == wayFor u.me.l1d n
    have k' := (h2.written h2.mine.1 h2.included.1
      (ls := u.me.l1d.filter fun l => l.line % 512 == n % 512 && l.way == wayFor u.me.l1d n)
      fun l hl => (List.mem_filter.1 hl).1).2
    have hm : (u.flushMine fun l => l.line % 512 == n % 512 && l.way == wayFor u.me.l1d n).me.l1d =
        u.me.l1d.filter fun l => !(l.line % 512 == n % 512 && l.way == wayFor u.me.l1d n) :=
      without_cleaned hp.steady u.me.l1d
    refine ⟨⟨⟨h'.mine.1.cons ?_ _ _, List.pairwise_cons.2 ⟨fun m hmm => ?_, h'.mine.2⟩⟩, h'.others, h'.l2,
      ⟨fun l hl he => ?_, h'.included.2⟩, h'.code⟩, .inr (k' n held)⟩
    · rw [hm, holds_eq_false]
      intro l hl e
      exact holds_eq_false.1 hu l (List.mem_filter.1 hl).1 e
    · rw [hm] at hmm
      have := (List.mem_filter.1 hmm).2
      rintro ⟨e1, e2⟩
      have e1' : m.line % 512 = n % 512 := e1.symm
      have e2' : m.way = wayFor u.me.l1d n := e2.symm
      simp [e1', e2'] at this
    · rcases List.mem_cons.1 hl with rfl | hl
      · exact k' n held
      · exact h'.included.1 l hl he

theorem touch {s : State} (h : s.Sound) (attr : BitVec 5) (a : Nat) : (s.touch attr a).Sound := by
  unfold State.touch
  split
  · exact h
  · have h' : (if s.snooped attr = true then s.cleanOther (onLine (lineOf a)) else s).Sound := by
      split
      · exact h.cleanOther _
      · exact h
    dsimp only
    generalize (if s.snooped attr = true then s.cleanOther (onLine (lineOf a)) else s) = u at h' ⊢
    split
    · exact h'
    · split
      · exact (h'.fill _).1
      · exact h'.fillL2 _

/-- Other bytes in the own D-cache. -/
theorem patchMine {s : State} (h : s.Sound) (a : Nat) (bs : List Byte) : (s.patchMine a bs).Sound :=
  ⟨⟨h.mine.1.patchedIn a bs, h.mine.2.patchedIn a bs⟩, h.others, h.l2, ⟨h.included.1.patchedIn a bs, h.included.2⟩, h.code⟩

/-- A store in the own D-cache, in a line that the L2 holds. -/
theorem storeMine {s : State} (h : s.Sound) {n : Nat} (hn : holds s.l2 n = true) (a : Nat) (bs : List Byte) :
    (s.setMyL1 (storeIn s.me.l1d n a bs)).Sound := by
  refine ⟨⟨h.mine.1.storeIn _ _ _, h.mine.2.storeIn _ _ _⟩, h.others, h.l2, ⟨fun l hl he => ?_, h.included.2⟩, h.code⟩
  obtain ⟨m, hm, ⟨e, rfl⟩ | ⟨_, rfl⟩⟩ := mem_storeIn hl
  · show holds s.l2 m.line = true
    rw [e]
    exact hn
  · exact h.included.1 l hm he

/-- A store in the L2. -/
theorem storeL2 {s : State} (h : s.Sound) (n a : Nat) (bs : List Byte) : ({ s with l2 := storeIn s.l2 n a bs } : State).Sound := by
  have hg : ∀ l : CacheLine, (if l.line == n then l.stored a bs else l).line = l.line := by
    intro l
    split <;> rfl
  have k : ∀ k, holds s.l2 k = true → holds (storeIn s.l2 n a bs) k = true := fun k hk => (holds_map s.l2 hg k).trans hk
  exact ⟨h.mine, h.others, ⟨h.l2.1.storeIn n a bs, h.l2.2.map hg⟩, ⟨h.included.1.below k, h.included.2.below k⟩, h.code⟩

theorem storePast {s : State} (h : s.Sound) (a : Nat) (bs : List Byte) : (s.storePast a bs).Sound := by
  have hg : ∀ l : CacheLine, (if l.line == lineOf a then l.patched a bs else l).line = l.line := by
    intro l
    split <;> rfl
  have k : ∀ k, holds s.l2 k = true → holds (Machine.patchedIn s.l2 a bs) k = true := fun k hk => (holds_map s.l2 hg k).trans hk
  have l2 : Whole (Machine.patchedIn s.l2 a bs) ∧ Fits (Machine.patchedIn s.l2 a bs) := ⟨h.l2.1.patchedIn a bs, h.l2.2.map hg⟩
  unfold State.storePast
  split
  · exact ⟨⟨h.mine.1.patchedIn a bs, h.mine.2.patchedIn a bs⟩, ⟨h.others.1.patchedIn a bs, h.others.2.patchedIn a bs⟩, l2,
      ⟨(h.included.1.patchedIn a bs).below k, (h.included.2.patchedIn a bs).below k⟩, h.code⟩
  · exact ⟨⟨h.mine.1.patchedIn a bs, h.mine.2.patchedIn a bs⟩, h.others, l2,
      ⟨(h.included.1.patchedIn a bs).below k, h.included.2.below k⟩, h.code⟩

/-- After a line on its way out is gone, the L2 holds what the own D-cache holds there. -/
theorem yielded {s : State} (h : s.Sound) {n : Nat} (hn : holds (s.yieldLine n).me.l1d n = true) : holds (s.yieldLine n).l2 n = true := by
  obtain ⟨l, hl, e⟩ := holds_iff.1 hn
  obtain ⟨hl1, hl2⟩ := List.mem_filter.1 hl
  rw [← e]
  exact h.included.1 l hl1 (by simpa [e] using hl2)

theorem storeCached {s : State} (h : s.Sound) (a : Nat) (bs : List Byte) : (s.storeCached a bs).Sound := by
  have hy := h.yielded (n := lineOf a)
  have h' : (s.yieldLine (lineOf a)).Sound := h.invalMine _
  unfold State.storeCached
  dsimp only
  generalize s.yieldLine (lineOf a) = u at hy h' ⊢
  split
  · next hd =>
    obtain ⟨hf, hl⟩ := h'.fill (lineOf a)
    refine hf.storeMine ?_ a bs
    rcases hl with ⟨hh, e⟩ | hl
    · rw [e]
      exact hy hh
    · exact hl
  · refine State.Sound.patchMine ?_ a bs
    split
    · exact (h'.fillL2 _).storeL2 (lineOf a) a bs
    · exact ⟨h'.mine, h'.others, h'.l2, h'.included, h'.code⟩

/-- A store keeps the caches sound. -/
theorem storeData {s : State} (h : s.Sound) (attr : BitVec 5) (a : Nat) (bs : List Byte) : (s.storeData attr a bs).Sound := by
  unfold State.storeData
  split
  · exact h.storePast a bs
  · refine State.Sound.storeCached ?_ a bs
    split
    · exact h.claimOther _
    · exact h

theorem complete {s : State} (h : s.Sound) : s.complete.Sound :=
  ⟨h.mine, ⟨h.others.1.filter _, h.others.2.filter _⟩, h.l2, ⟨h.included.1, h.included.2.filter _⟩, ⟨h.code.1, h.code.2.filter _⟩⟩

theorem settleMe {s : State} (h : s.Sound) : s.settleMe.Sound :=
  ⟨⟨h.mine.1.filter _, h.mine.2.filter _⟩, h.others, h.l2, ⟨h.included.1.filter _, h.included.2⟩, ⟨h.code.1.filter _, h.code.2⟩⟩

theorem fillIcache {s : State} (h : s.Sound) (attr : BitVec 5) (va : Word) (a : Nat) : (s.fillIcache attr va a).Sound := by
  unfold State.fillIcache
  split
  · next hn =>
    rw [Bool.and_eq_true] at hn
    refine ⟨h.mine, h.others, h.l2, h.included, ⟨h.code.1.cons _ ?_, h.code.2⟩⟩
    have := hn.2
    unfold Hart.codeLine at this
    simpa using this
  · exact h

theorem invalIcache {s : State} (h : s.Sound) (sel : CodeLine → Bool) (broadcast : Bool) : (s.invalIcache sel broadcast).Sound := by
  unfold State.invalIcache
  cases broadcast
  · exact ⟨h.mine, h.others, h.l2, h.included, ⟨h.code.1.filter _, h.code.2⟩⟩
  · exact ⟨h.mine, h.others, h.l2, h.included, ⟨h.code.1.filter _, h.code.2.expelled sel⟩⟩

theorem fenceI {s : State} (h : s.Sound) : s.fenceI.Sound := by
  have h' : (if bit s.me.th.mxstatus mxstatusINSDE then s.cleanMine everyLine else s).Sound := by
    split
    · exact h.cleanMine _
    · exact h
  unfold State.fenceI
  dsimp only
  generalize (if bit s.me.th.mxstatus mxstatusINSDE then s.cleanMine everyLine else s) = u at h' ⊢
  have c := h'.complete
  split
  · exact ⟨h'.mine, h'.others, h'.l2, h'.included, ⟨.nil, h'.code.2⟩⟩
  · exact ⟨c.mine, c.others, c.l2, c.included, ⟨.nil, .nil⟩⟩

end State.Sound

/-! ### In instructions -/

/-- As before, the TLB and the free values of a lookup aside. -/
theorem MaintainsVa.of_hidden {s s' t : State} (h1 : Hidden s s') (h2 : CacheFrame s' t) :
    MaintainsVa s (.next (t.retire 4)) (t.retire 4) := by
  have e := State.retire_eq t 4
  refine ⟨rfl, by simp [h2.pc, h1.pc], ?_⟩
  rw [e]
  unfold CacheFrame at h2
  rw [h2]
  unfold Hidden at h1
  rw [h1]
  rfl

/-- After a cache operation the instruction goes on. -/
theorem Maintains.of_frame {s t : State} (h : CacheFrame s t) : Maintains s (.next (t.retire 4)) (t.retire 4) :=
  ⟨MaintainsVa.of_hidden (Hidden.refl s) h, by
    rw [State.retire_eq t 4]
    unfold CacheFrame at h
    rw [h]
    rfl⟩

/-- The gate of a cache instruction. -/
theorem State.cacheGate_rule (s : State) (c : BitVec 32) (userOk : Bool) (r : Result) (k : Prop)
    (h : s.me.theadOn = true → (s.me.priv ≠ .user ∨ userOk = true) → s.cacheGate (.full c) userOk r = r → k) :
    CacheRule s (s.cacheGate (.full c) userOk r) c userOk k := by
  constructor
  · rintro ⟨h1, h2⟩
    refine h h1 h2 ?_
    unfold State.cacheGate State.theadGate
    rw [if_pos h1, if_neg]
    rintro ⟨h3, h4⟩
    rcases h2 with h2 | h2
    · exact h2 h3
    · rw [h4] at h2
      cases h2
  · intro h1
    unfold State.cacheGate State.theadGate
    by_cases hon : s.me.theadOn = true
    · rw [if_pos hon]
      rcases h1 with h1 | h1
      · rw [hon] at h1
        cases h1
      · rw [if_pos h1]
        rfl
    · rw [if_neg hon]
      rfl

end Sys2Proof.Machine
end

