-- ==== Sys2Proof/Laws/Encoding.lean ====
section
/-! SUPPORT. Instruction words as concatenations of their fields, and the pieces of a word that the decoder reads. -/

namespace Sys2Proof

/-- A concatenation as a number. -/
theorem append_toNat {n m : Nat} (x : BitVec n) (y : BitVec m) : (x ++ y).toNat = x.toNat * 2 ^ m + y.toNat := by
  rw [BitVec.toNat_append, ← Nat.shiftLeft_add_eq_or_of_lt y.isLt, Nat.shiftLeft_eq]

/-- Some bits of a field as a number. -/
theorem extract_toNat {n : Nat} (x : BitVec n) (lo len : Nat) : (x.extractLsb' lo len).toNat = x.toNat / 2 ^ lo % 2 ^ len := by
  rw [BitVec.extractLsb'_toNat, Nat.shiftRight_eq_div_pow]

/-- A 32-bit code is the word whose number its pieces make. -/
theorem word32_eq {f7 b a f3 d op : Nat} {w : BitVec 32}
    (h : w.toNat = f7 * 33554432 + b * 1048576 + a * 32768 + f3 * 4096 + d * 128 + op) : word32 f7 b a f3 d op = w := by
  unfold word32
  rw [← h, BitVec.ofNat_toNat, BitVec.setWidth_eq]

/-- A 16-bit code is the word whose number its pieces make. -/
theorem word16_eq {f3 e r t q : Nat} {w : BitVec 16} (h : w.toNat = f3 * 8192 + e * 4096 + r * 128 + t * 4 + q) :
    word16 f3 e r t q = w := by
  unfold word16
  rw [← h, BitVec.ofNat_toNat, BitVec.setWidth_eq]

end Sys2Proof
end

