-- ==== Sys2Proof/Laws/System.lean ====
section
/-! SUPPORT. Control and status registers, floating-point shapes, gates and fences in the words of Safety.lean. -/

namespace Sys2Proof.Machine

/-! ### Writes of control and status registers -/

/-- What an operation of `smcir` may change: the TLB, its registers, the free values used. -/
def TlbFrame (s t : State) : Prop := t = { s with me := { s.me with smmu := t.me.smmu, tlb := t.me.tlb }, draws := t.draws }

theorem TlbFrame.of (s : State) (m : TlbCsr) (l : Tlb) (d : Nat) :
    TlbFrame s { s with me := { s.me with smmu := m, tlb := l }, draws := d } := rfl

theorem TlbFrame.refl (s : State) : TlbFrame s s := rfl

theorem TlbFrame.trans {s t u : State} (h1 : TlbFrame s t) (h2 : TlbFrame t u) : TlbFrame s u := by
  unfold TlbFrame at *
  rw [h2, h1]

theorem State.tlbRead_frame (s : State) : TlbFrame s s.tlbRead := by
  unfold State.tlbRead
  dsimp only
  split
  · exact TlbFrame.of s _ s.me.tlb s.draws
  · exact TlbFrame.of s _ s.me.tlb (s.draws + 2)

theorem State.onMe_frame (s : State) (b : Bool) (f : Hart → Hart)
    (h : ∀ x : Hart, f x = { x with smmu := (f x).smmu, tlb := (f x).tlb }) : TlbFrame s (s.onMe b f) := by
  unfold State.onMe
  split
  · unfold TlbFrame
    dsimp only
    rw [h]
  · rfl

theorem State.smcirWrite_frame (s : State) (v : Word) : TlbFrame s (s.smcirWrite v) := by
  unfold State.smcirWrite
  dsimp only
  refine TlbFrame.trans ?_ (State.onMe_frame _ _ _ fun x => rfl)
  refine TlbFrame.trans ?_ (State.onMe_frame _ _ _ fun x => rfl)
  refine TlbFrame.trans ?_ (State.onMe_frame _ _ _ fun x => rfl)
  have hr : ∀ t : State, TlbFrame t (if bit v 28 then t.tlbWriteRandom else t) := by
    intro t
    split <;> rfl
  refine TlbFrame.trans ?_ (hr _)
  refine TlbFrame.trans ?_ (State.onMe_frame _ _ _ fun x => rfl)
  have hq : ∀ t : State, TlbFrame t (if bit v 30 then t.tlbRead else t) := by
    intro t
    split
    · exact State.tlbRead_frame t
    · rfl
  refine TlbFrame.trans ?_ (hq _)
  refine TlbFrame.trans ?_ (State.onMe_frame _ _ _ fun x => rfl)
  exact State.onMe_frame _ _ _ fun x => rfl

/-- A write of `mcor` acts as cache operations and leaves the operation bits cleared. -/
theorem State.mcorWrite_eq (s : State) (v : Word) :
    ∃ t, CacheFrame s t ∧ s.mcorWrite v =
      { t with me := { t.me with th := { t.me.th with mcor := v &&& 3 } } } := by
  have h1 : ∀ s : State, ∃ t, CacheFrame s t ∧
      (if bit v 1 then
        if bit v 5 && bit v 4 then s.flushMine everyLine else if bit v 5 then s.cleanMine everyLine
        else if bit v 4 then s.invalMine everyLine else s
      else s) = t := fun s => ⟨_, by
    split
    · split
      · exact rfl
      · split
        · exact rfl
        · split
          · exact (State.invalMine_spec s everyLine).1
          · exact rfl
    · exact rfl, rfl⟩
  obtain ⟨t, ht, he⟩ := h1 s
  refine ⟨if bit v 0 && bit v 4 then t.invalIcache (fun _ => true) false else t, ?_, ?_⟩
  · split
    · exact CacheFrame.trans (t := t) ht rfl
    · exact ht
  · unfold State.mcorWrite
    dsimp only
    rw [he]

/-- The software interrupt bit of a core is in its CLINT registers and in its latch. -/
theorem State.setSsip_eq (s : State) (id : HartId) (b latch : Bool) : let t := s.setSsip id b latch
    t = { s with me := { s.me with m := { s.me.m with ssipLatch := t.me.m.ssipLatch } },
                 other := { s.other with m := { s.other.m with ssipLatch := t.other.m.ssipLatch } },
                 clint0 := { s.clint0 with ssip := t.clint0.ssip }, clint1 := { s.clint1 with ssip := t.clint1.ssip } } := by
  unfold State.setSsip Hart.noteSsip
  cases id <;> dsimp only [State.setClint, State.clint] <;> split <;> split <;> rfl

/-- What no write of a control and status register touches. -/
theorem State.csrWrite_frame (s : State) (c : Csr) (v : Word) :
    (s.csrWrite c v).me.pc = s.me.pc ∧ (s.csrWrite c v).me.x = s.me.x ∧ (s.csrWrite c v).me.f = s.me.f ∧
      (s.csrWrite c v).me.priv = s.me.priv ∧ (s.csrWrite c v).me.id = s.me.id ∧ (s.csrWrite c v).me.lmon = s.me.lmon ∧
      (s.csrWrite c v).me.gmon = s.me.gmon ∧ (s.csrWrite c v).soc = s.soc ∧ (s.csrWrite c v).inputs = s.inputs ∧
      (s.csrWrite c v).mtime = s.mtime ∧ (s.csrWrite c v).plic = s.plic := by
  have hs : ∀ t : State, TlbFrame s t → t.me.pc = s.me.pc ∧ t.me.x = s.me.x ∧ t.me.f = s.me.f ∧
      t.me.priv = s.me.priv ∧ t.me.id = s.me.id ∧ t.me.lmon = s.me.lmon ∧ t.me.gmon = s.me.gmon ∧
      t.soc = s.soc ∧ t.inputs = s.inputs ∧ t.mtime = s.mtime ∧ t.plic = s.plic := by
    intro t h
    unfold TlbFrame at h
    rw [h]
    simp
  have hi : ∀ b, (s.setSsip s.me.id b true).me.pc = s.me.pc ∧ (s.setSsip s.me.id b true).me.x = s.me.x ∧
      (s.setSsip s.me.id b true).me.f = s.me.f ∧ (s.setSsip s.me.id b true).me.priv = s.me.priv ∧
      (s.setSsip s.me.id b true).me.id = s.me.id ∧ (s.setSsip s.me.id b true).me.lmon = s.me.lmon ∧
      (s.setSsip s.me.id b true).me.gmon = s.me.gmon ∧ (s.setSsip s.me.id b true).soc = s.soc ∧
      (s.setSsip s.me.id b true).inputs = s.inputs ∧ (s.setSsip s.me.id b true).mtime = s.mtime ∧
      (s.setSsip s.me.id b true).plic = s.plic := by
    intro b
    rw [State.setSsip_eq]
    simp
  cases c
  case smcir => exact hs _ (State.smcirWrite_frame s v)
  case mcor =>
    obtain ⟨t, h, e⟩ := State.mcorWrite_eq s v
    show (s.mcorWrite v).me.pc = _ ∧ _
    unfold CacheFrame at h
    simp only [State.csrWrite]
    rw [e]
    refine ⟨?_, ?_, ?_, ?_, ?_, ?_, ?_, ?_, ?_, ?_, ?_⟩ <;> rw [h]
  case mcins =>
    simp only [State.csrWrite, State.mcinsWrite]
    split <;> simp
  case mip => exact hi _
  case sip =>
    simp only [State.csrWrite]
    split
    · exact hi _
    · simp
  all_goals simp [State.csrWrite]

/-- No write of a control and status register but that of `mcor` moves a byte of memory or of the caches. -/
theorem State.csrWrite_same (s : State) (c : Csr) (v : Word) (hc : c ≠ .mcor) : SameBytes s (s.csrWrite c v) := by
  have hs : ∀ t : State, TlbFrame s t → SameBytes s t := by
    intro t h
    unfold TlbFrame at h
    rw [h]
    exact State.sees_congr rfl rfl rfl rfl rfl
  have hi : ∀ b, SameBytes s (s.setSsip s.me.id b true) := by
    intro b
    rw [State.setSsip_eq]
    exact State.sees_congr rfl rfl rfl rfl rfl
  cases c
  case smcir => exact hs _ (State.smcirWrite_frame s v)
  case mcor => exact absurd rfl hc
  case mcins =>
    simp only [State.csrWrite, State.mcinsWrite]
    split <;> exact State.sees_congr rfl rfl rfl rfl rfl
  case mip => exact hi _
  case sip =>
    simp only [State.csrWrite]
    split
    · exact hi _
    · exact fun _ _ _ => rfl
  all_goals exact State.sees_congr rfl rfl rfl rfl rfl

/-- The numbers of the registers. -/
theorem csrOf_number (c : Csr) : csrOf c.number = some c := by
  cases c
  case mhpmevent k => fin_cases k <;> rfl
  case pmpaddr k => fin_cases k <;> rfl
  case shpmcounter k => fin_cases k <;> rfl
  case mhpmcounter k => fin_cases k <;> rfl
  case hpmcounter k => fin_cases k <;> rfl
  all_goals rfl

theorem number_csrOf {n : Nat} {c : Csr} (h : csrOf n = some c) : c.number = n := by
  have run : ∀ (m off lo : Nat) (f : Fin m → Csr), (∀ k, (f k).number = lo + k.val) → csrRun m off f = some c →
      c.number = lo + off := by
    intro m off lo f hf hr
    unfold csrRun at hr
    split at hr
    · cases hr
      exact hf _
    · cases hr
  unfold csrOf at h
  split at h
  · have := run 29 (n - 0x323) 0x323 Csr.mhpmevent (fun _ => rfl) h
    omega
  · split at h
    · have := run 8 (n - 0x3b0) 0x3b0 Csr.pmpaddr (fun _ => rfl) h
      omega
    · split at h
      · have := run 29 (n - 0x5e3) 0x5e3 Csr.shpmcounter (fun _ => rfl) h
        omega
      · split at h
        · have := run 29 (n - 0xb03) 0xb03 Csr.mhpmcounter (fun _ => rfl) h
          omega
        · split at h
          · have := run 29 (n - 0xc03) 0xc03 Csr.hpmcounter (fun _ => rfl) h
            omega
          · split at h <;> first | (cases h; rfl) | cases h

/-- The level of a register, by its number (10_state:R33). -/
theorem Csr.level_number (c : Csr) : (c.level = .user ↔ UserCsr c.number) ∧
    (c.level = .supervisor ↔ SupervisorCsrNo c.number) := by
  unfold UserCsr SupervisorCsrNo
  cases c
  case mhpmevent k => exact ⟨by simp [Csr.level, Csr.number]; omega, by simp [Csr.level, Csr.number]; omega⟩
  case pmpaddr k => exact ⟨by simp [Csr.level, Csr.number]; omega, by simp [Csr.level, Csr.number]; omega⟩
  case shpmcounter k => exact ⟨by simp [Csr.level, Csr.number]; omega, by simp [Csr.level, Csr.number]; omega⟩
  case mhpmcounter k => exact ⟨by simp [Csr.level, Csr.number]; omega, by simp [Csr.level, Csr.number]; omega⟩
  case hpmcounter k => exact ⟨by simp [Csr.level, Csr.number]; omega, by simp [Csr.level, Csr.number]; omega⟩
  all_goals decide

theorem Csr.readOnly_number (c : Csr) : c.readOnly = true ↔ ¬ (c.number ≠ 0x5c1 ∧ c.number ≠ 0x7c7 ∧ c.number < 0xc00) := by
  cases c
  case mhpmevent k => simp [Csr.readOnly, Csr.number]; omega
  case pmpaddr k => simp [Csr.readOnly, Csr.number]; omega
  case shpmcounter k => simp [Csr.readOnly, Csr.number]; omega
  case mhpmcounter k => simp [Csr.readOnly, Csr.number]; omega
  case hpmcounter k => simp [Csr.readOnly, Csr.number]; omega
  all_goals decide

theorem Csr.isFp_number (c : Csr) : c.isFp = true ↔ c.number ≤ 0x003 ∨ c.number = 0x800 := by
  cases c
  case mhpmevent k => simp [Csr.isFp, Csr.number]; omega
  case pmpaddr k => simp [Csr.isFp, Csr.number]; omega
  case shpmcounter k => simp [Csr.isFp, Csr.number]; omega
  case mhpmcounter k => simp [Csr.isFp, Csr.number]; omega
  case hpmcounter k => simp [Csr.isFp, Csr.number]; omega
  all_goals decide

theorem Csr.userCounter_number (c : Csr) : c.userCounter =
    if 0xc00 ≤ c.number ∧ c.number ≤ 0xc1f then some (c.number - 0xc00) else none := by
  cases c
  case mhpmevent k => rw [if_neg (by simp [Csr.number]; omega)]; rfl
  case pmpaddr k => rw [if_neg (by simp [Csr.number]; omega)]; rfl
  case shpmcounter k => rw [if_neg (by simp [Csr.number]; omega)]; rfl
  case mhpmcounter k => rw [if_neg (by simp [Csr.number]; omega)]; rfl
  case hpmcounter k => rw [if_pos (by simp [Csr.number]; omega)]; simp [Csr.userCounter, Csr.number]; omega
  all_goals rfl

theorem Csr.supervisorCounter_number (c : Csr) : c.supervisorCounter =
    if 0x5e0 ≤ c.number ∧ c.number ≤ 0x5ff then some (c.number - 0x5e0) else none := by
  cases c
  case mhpmevent k => rw [if_neg (by simp [Csr.number]; omega)]; rfl
  case pmpaddr k => rw [if_neg (by simp [Csr.number]; omega)]; rfl
  case shpmcounter k => rw [if_pos (by simp [Csr.number]; omega)]; simp [Csr.supervisorCounter, Csr.number]; omega
  case mhpmcounter k => rw [if_neg (by simp [Csr.number]; omega)]; rfl
  case hpmcounter k => rw [if_neg (by simp [Csr.number]; omega)]; rfl
  all_goals rfl

theorem Csr.satp_number (c : Csr) : c = .satp ↔ c.number = 0x180 := by
  cases c
  case mhpmevent k => simp [Csr.number]; omega
  case pmpaddr k => simp [Csr.number]; omega
  case shpmcounter k => simp [Csr.number]; omega
  case mhpmcounter k => simp [Csr.number]; omega
  case hpmcounter k => simp [Csr.number]; omega
  all_goals decide

/-- Who may access a register, by its number (10_state:R32). -/
theorem Hart.csrAllowed_iff (h : Hart) (c : Csr) (write : Bool) :
    h.csrAllowed c write = true ↔ h.MayAccess c.number write := by
  obtain ⟨l1, l2⟩ := c.level_number
  have ro := c.readOnly_number
  have fp := c.isFp_number
  have uc := c.userCounter_number
  have sc := c.supervisorCounter_number
  have st := c.satp_number
  unfold Hart.csrAllowed Hart.MayAccess
  rw [← l1, ← l2, ← fp, ← st, uc, sc]
  generalize c.number = n at *
  have hr : (!(write && c.readOnly)) = true ↔ (write = true → n ≠ 0x5c1 ∧ n ≠ 0x7c7 ∧ n < 0xc00) := by
    cases write
    · simp
    · rw [Bool.true_and, Bool.not_eq_true']
      constructor
      · intro e _
        by_contra hc
        rw [ro.2 hc] at e
        cases e
      · intro e
        by_contra hc
        exact ro.1 (by simpa using hc) (e rfl)
  have hl : decide (c.level.code ≤ h.priv.code) = true ↔
      (h.priv = .user → c.level = .user) ∧ (h.priv = .supervisor → c.level = .user ∨ c.level = .supervisor) := by
    cases c.level <;> cases h.priv <;> simp [Priv.code]
  have hf : (!c.isFp || h.fpOn) = true ↔ (c.isFp = true → field h.m.mstatus 13 2 ≠ 0) := by
    unfold Hart.fpOn mstatusFS
    cases c.isFp <;> simp
  have hu : (match (if 0xc00 ≤ n ∧ n ≤ 0xc1f then some (n - 0xc00) else none : Option Nat) with
      | some n => h.counterEnabled n
      | none => true) = true ↔
      (0xc00 ≤ n → n ≤ 0xc1f → (h.priv ≠ .machine → h.m.mcounteren.getLsbD (n - 0xc00) = true) ∧
        (h.priv = .user → h.sup.scounteren.getLsbD (n - 0xc00) = true)) := by
    by_cases hn : 0xc00 ≤ n ∧ n ≤ 0xc1f
    · rw [if_pos hn]
      unfold Hart.counterEnabled bit
      cases h.priv <;> simp [hn.1, hn.2]
    · rw [if_neg hn]
      simp only [true_iff]
      intro h1 h2
      exact absurd ⟨h1, h2⟩ hn
  have hs : (match (if 0x5e0 ≤ n ∧ n ≤ 0x5ff then some (n - 0x5e0) else none : Option Nat) with
      | some n => !write || h.priv == .machine || bit h.th.mcounterwen n
      | none => true) = true ↔
      (0x5e0 ≤ n → n ≤ 0x5ff → write = true → h.priv ≠ .machine → h.th.mcounterwen.getLsbD (n - 0x5e0) = true) := by
    by_cases hn : 0x5e0 ≤ n ∧ n ≤ 0x5ff
    · rw [if_pos hn]
      unfold bit
      cases write <;> cases h.priv <;> simp [hn.1, hn.2]
    · rw [if_neg hn]
      simp only [true_iff]
      intro h1 h2
      exact absurd ⟨h1, h2⟩ hn
  have ht : (!(c == .satp && h.priv == .supervisor && bit h.m.mstatus mstatusTVM)) = true ↔
      (c = .satp → h.priv = .supervisor → h.m.mstatus.getLsbD 20 = false) := by
    unfold bit mstatusTVM
    by_cases hc : c = .satp
    · cases h.priv <;> simp [hc]
    · simp [hc]
  simp only [Bool.and_eq_true, hr, hl, hf, ht]
  constructor
  · rintro ⟨⟨⟨⟨⟨h1, h2⟩, h3⟩, h4⟩, h5⟩, h6⟩
    exact ⟨h1.1, h1.2, h2, h3, h6, hu.1 h4, fun a b c d => hs.1 h5 a b c (by rw [d]; decide)⟩
  · rintro ⟨h1, h2, h3, h4, h5, h6, h7⟩
    refine ⟨⟨⟨⟨⟨⟨h1, h2⟩, h3⟩, h4⟩, hu.2 h6⟩, hs.2 fun a b c d => ?_⟩, h5⟩
    cases hp : h.priv
    · have hn := l1.1 (h1 hp)
      unfold UserCsr at hn
      omega
    · exact h7 a b c hp
    · exact absurd hp d

/-- A CSR instruction. -/
theorem State.csrOp_rule (s : State) (w : BitVec 32) (csr : BitVec 12) (write : Bool) (f : Word → Word) (rd : Reg) :
    CsrRule s (s.csrOp (.full w) csr write f rd) w csr write rd f := by
  have stop : ∀ c, csrOf csr.toNat = some c → s.me.csrAllowed c write = false →
      s.csrOp (.full w) csr write f rd = .next (s.raise 2 (w.setWidth 64)) := by
    intro c h1 h2
    unfold State.csrOp
    rw [h1]
    dsimp only
    rw [if_neg (by simp [h2])]
    rfl
  refine ⟨fun c hn ha => ?_, fun h => ?_⟩
  · have h1 : csrOf csr.toNat = some c := hn ▸ csrOf_number c
    have h2 : s.me.csrAllowed c write = true := (Hart.csrAllowed_iff s.me c write).2 (hn ▸ ha)
    unfold State.csrOp
    rw [h1]
    dsimp only
    rw [if_pos h2]
    have fr := State.csrWrite_frame (s.retireInto c) c (f (s.csrRead c))
    have key : ∀ u : State, u.me.pc = s.me.pc + 4 → u.me.x = s.me.x → u.me.f = s.me.f → u.me.priv = s.me.priv →
        (c ≠ .mcor → SameBytes s u) → ∀ o : Option Word,
        (match o with
          | some v => ((s.retireInto c).csrWrite c v).refetchMine
          | none => (s.retire 4).refetchMine) = u.refetchMine →
        AccessesCsr s (.next (u.refetchMine.setX rd (s.csrRead c))) rd c o := by
      intro u hp hx hf hpr hm o ho
      have hsame : SameBytes u (u.refetchMine.setX rd (s.csrRead c)) :=
        State.sees_congr (by simp) (by simp) (by simp) (by simp) (by simp)
      refine ⟨_, rfl, by simp [hp], fun q => ?_, by simp [hf], by simp [hpr],
        fun hc attr own a => (hsame attr own a).trans (hm hc attr own a), ?_, ?_⟩
      · have := State.getX_setX u.refetchMine rd q (s.csrRead c)
        rw [regAfter_cons, regAfter_nil] at this ⊢
        rw [this, State.getX_congr (s := s) (t := u.refetchMine) (by simp [hx])]
      · rw [State.setX_me, Hart.setX_fetched, State.refetchMine_me, Hart.drain_fetched]
      · refine Eq.trans ?_ ho.symm
        rw [← hx]
        unfold State.setX Hart.setX
        split <;> rfl
    cases write
    · exact key (s.retire 4) (by simp) (by simp) (by simp) (by simp)
        (fun _ => State.sees_congr (by simp) (by simp) (by simp) (by simp) (by simp)) none rfl
    · refine key ((s.retireInto c).csrWrite c (f (s.csrRead c))) ?_ ?_ ?_ ?_ (fun hc attr own a => ?_) (some _) rfl
      · simp [fr.1]
      · rw [fr.2.1]
        simp
      · rw [fr.2.2.1]
        simp
      · rw [fr.2.2.2.1]
        simp
      · exact (State.csrWrite_same _ c _ hc attr own a).trans
          (State.sees_congr (s := s) (t := s.retireInto c) (by simp) (by simp) (by simp) (by simp) (by simp) attr own a)
  · cases h1 : csrOf csr.toNat with
    | none =>
      unfold State.csrOp
      rw [h1]
      rfl
    | some c =>
      have hn := number_csrOf h1
      refine stop c h1 ?_
      rcases h with h | h
      · exact absurd hn (h c)
      · rw [← hn, ← Hart.csrAllowed_iff] at h
        simpa using h

/-! ### Floating point -/

/-- The floating-point registers and flags after the flags accrue and the instruction goes on. -/
theorem FpFrame.of_accrue {s : State} (u : State) (fl : Flags) (x f : Vector Word 32) (d : Nat)
    (hu : u = { s with me := { s.me with x := x, f := f }, draws := d }) : FpFrame s ((u.accrue fl).retire 4) fl := by
  have e := State.retire_eq (u.accrue fl) 4
  subst hu
  refine ⟨by simp, by simp, by simp, ?_, ?_, State.sees_congr (by simp) (by simp) (by simp) (by simp) (by simp)⟩
  · simp only [State.retire_me, Hart.tick_m, State.accrue_me]
    rw [Hart.dirtyFp_mstatus]
    rfl
  · rw [e]
    rfl

/-- A result to a floating-point register. -/
theorem State.writeF_rule (s : State) (f : Fmt) (hf : f.mw = 10 ∧ f.ew = 5 ∨ f.mw = 23 ∧ f.ew = 8 ∨ f.mw = 52 ∧ f.ew = 11)
    (fd : Reg) (out : FpOut) : WritesF s (s.writeF f fd out) f fd out := by
  have key : ∀ (b : Nat) (d : Nat), ResultIs s f out b →
      WritesF s (.next (((({ s with draws := d } : State).setF fd (boxed f.width b)).accrue out.flags).retire 4)) f fd out := by
    intro b d hb
    refine ⟨_, b, rfl, hb, fun q => ?_, fun q => ?_, FpFrame.of_accrue _ _ s.me.x _ d rfl⟩
    · have h1 : ∀ u : State, ((u.accrue out.flags).retire 4).getF q = u.getF q := fun u => State.getF_congr (by simp) q
      rw [h1]
      exact Hart.getF_setF _ fd q _
    · exact State.getX_congr (by simp) q
  unfold State.writeF State.resultBits
  cases h : out.bits with
  | some b => exact key b s.draws (by unfold ResultIs; rw [h])
  | none =>
    dsimp only
    cases hd : s.me.fp.dqNaN with
    | false =>
      simp only [Bool.false_eq_true, if_false]
      exact key f.nanBits s.draws (by unfold ResultIs; rw [h]; simp [hd])
    | true =>
      simp only [if_true]
      refine key _ (s.draws + 1) ?_
      unfold ResultIs
      rw [h]
      simp only [hd, if_true]
      obtain ⟨ew, mw⟩ := f
      generalize (Config.freeWord s.draws).toNat = w
      have hs : ∀ n : Bool, (Fmt.mk ew mw).signBits n = if n then 2 ^ (ew + mw) else 0 := fun _ => rfl
      have aux : ∀ n : Bool, ∀ r, r < 2 ^ (mw - 1) →
          (Fmt.mk ew mw).isNan ((Fmt.mk ew mw).signBits n + ((Fmt.mk ew mw).nanBits + r)) = true ∧
          (Fmt.mk ew mw).isSnan ((Fmt.mk ew mw).signBits n + ((Fmt.mk ew mw).nanBits + r)) = false ∧
          (Fmt.mk ew mw).signBits n + ((Fmt.mk ew mw).nanBits + r) < 2 ^ (Fmt.mk ew mw).width := by
        intro n r hr
        simp only at hf
        rcases hf with ⟨rfl, rfl⟩ | ⟨rfl, rfl⟩ | ⟨rfl, rfl⟩ <;> cases n <;>
          simp only [Fmt.isNan, Fmt.isSnan, Fmt.mag, Fmt.signBits, Fmt.nanBits, Fmt.infBits, Fmt.width, if_true,
            Bool.false_eq_true, if_false, Bool.and_eq_false_iff, decide_eq_true_eq, beq_eq_false_iff_ne, ne_eq] <;>
          norm_num at hr ⊢ <;> omega
      exact aux _ _ (Nat.mod_lt _ (by positivity))

/-- A result to an integer register. -/
theorem State.writeXF_rule (s : State) (rd : Reg) (v : Word) (fl : Flags) : WritesXF s (s.writeXF rd v fl) rd v fl := by
  refine ⟨_, rfl, fun q => ?_, fun q => ?_, FpFrame.of_accrue _ _ (s.setX rd v).me.x s.me.f s.draws ?_⟩
  · have h1 : ∀ u : State, ((u.accrue fl).retire 4).getX q = u.getX q := fun u => State.getX_congr (by simp) q
    rw [h1]
    exact State.getX_setX s rd q v
  · exact State.getF_congr (by simp) q
  · exact State.setX_eq s rd v

/-- The gate of a floating-point instruction. -/
theorem State.fpGate_rule (s : State) (c : BitVec 32) (r : Result) :
    (s.me.fpOn = false → s.fpGate (.full c) r = .next (s.raise 2 (c.setWidth 64))) ∧
      (s.me.fpOn = true → s.fpGate (.full c) r = r) := by
  refine ⟨fun h1 => ?_, fun h1 => ?_⟩
  · unfold State.fpGate
    rw [if_neg (by simp [h1])]
    rfl
  · unfold State.fpGate
    rw [if_pos h1]

/-! ### Fences -/

/-- The entries an SFENCE removes, in words. -/
theorem fenceHits_iff (s : State) (rs1 rs2 : Reg) (e : TlbEntry) :
    fenceHits rs1 rs2 (s.getX rs1) (s.getX rs2) e = true ↔ FenceHits s rs1 rs2 e := by
  unfold fenceHits FenceHits
  have hv : (vpnOf (s.getX rs1)).toNat = (s.getX rs1).toNat / 2 ^ 12 % 2 ^ 27 := by
    unfold vpnOf field
    rw [BitVec.toNat_ofNat, Nat.mod_mod]
  dsimp only
  rw [hv]
  simp only [Bool.and_eq_true, Bool.or_eq_true, beq_iff_eq, Bool.not_eq_true']
  cases pageLevel e.pageSize with
  | none => simp
  | some l => simp

/-- The state after an SFENCE. -/
theorem State.fenceTlb_spec (s : State) (rs1 rs2 : Reg) (broadcast : Bool) :
    let t := (s.fenceTlb rs1 rs2 broadcast).retire 4
    t.me.pc = s.me.pc + 4 ∧
      (∀ part ∈ [Tlb.joint, Tlb.fetch, Tlb.data, Tlb.leaving], ∀ e,
        e ∈ part t.me.tlb ↔ e ∈ part s.me.tlb ∧ ¬ FenceHits s rs1 rs2 e) ∧
      (∀ part ∈ [Tlb.joint, Tlb.fetch, Tlb.data], ∀ e,
        e ∈ part t.other.tlb ↔ e ∈ part s.other.tlb ∧ ¬ (broadcast = true ∧ FenceHits s rs1 rs2 e)) ∧
      (∀ e, e ∈ t.other.tlb.leaving ↔ e ∈ s.other.tlb.leaving ∨
        (broadcast = true ∧ FenceHits s rs1 rs2 e ∧ ∃ part ∈ [Tlb.joint, Tlb.fetch, Tlb.data], e ∈ part s.other.tlb)) ∧
      t = { s with me := { s.me.moved t.me with tlb := t.me.tlb, oldPtes := [], fetched := [] },
                   other := { s.other with tlb := t.other.tlb, oldPtes := t.other.oldPtes } } ∧
      t.other.oldPtes = (if broadcast then s.other.oldPtes.map fun o => { o with leaving := true } else s.other.oldPtes) ∧
      SameBytes s t := by
  have e := State.retire_eq (s.fenceTlb rs1 rs2 broadcast) 4
  dsimp only
  refine ⟨by simp [State.fenceTlb], fun part hp x => ?_, fun part hp x => ?_, fun x => ?_, ?_, ?_,
    fun attr own a => (State.sees_congr (s := s.fenceTlb rs1 rs2 broadcast) (by simp) (by simp) (by simp) (by simp) (by simp) attr own a).trans
      (State.sees_congr (s := s) (t := s.fenceTlb rs1 rs2 broadcast) rfl ?_ ?_ rfl rfl attr own a)⟩
  · simp only [State.retire_me, Hart.tick_tlb]
    unfold State.fenceTlb Hart.dropTlb
    rw [← fenceHits_iff]
    simp only [List.mem_cons, List.not_mem_nil, or_false] at hp
    rcases hp with rfl | rfl | rfl | rfl <;> simp [Tlb.drop]
  · simp only [State.retire_other]
    unfold State.fenceTlb
    rw [← fenceHits_iff]
    simp only [List.mem_cons, List.not_mem_nil, or_false] at hp
    rcases hp with rfl | rfl | rfl <;> cases broadcast <;> simp [Hart.expelTlb, Tlb.expel]
  · simp only [State.retire_other]
    unfold State.fenceTlb
    rw [← fenceHits_iff]
    cases broadcast
    · simp
    · simp only [if_true, Hart.expelTlb, Tlb.expel, List.mem_append, List.mem_filter, true_and, List.mem_cons, List.not_mem_nil, or_false,
        exists_eq_or_imp, exists_eq_left]
      tauto
  · rw [e]
    unfold State.fenceTlb
    cases broadcast <;> rfl
  · rw [State.retire_other]
    unfold State.fenceTlb
    cases broadcast <;> rfl
  · unfold State.fenceTlb
    cases broadcast <;> rfl
  · unfold State.fenceTlb
    cases broadcast <;> rfl

end Sys2Proof.Machine
end

