-- ==== Sys2Proof/Tests/Slice0.lean ====
section
/-! SUPPORT. Tests: what the well-formedness check refuses, one word decoded for every row of the opcode table, the spec's
test vectors one step each, and a state and operands that meet the hypotheses of each statement. -/

open Sys2Proof Sys2Proof.Machine

namespace Sys2Proof.Tests

noncomputable section

set_option Elab.async false

/-! ### A small state

After reset, with the T-Head extension and the floating-point unit on and the program counter at 0x1000. -/

def lab : State := ((State.reset.csrWrite .mxstatus 0x408000).csrWrite .mstatus 0x2000).setPc 0x1000

/-- An integer register, a floating-point register, `n` bytes of memory set. -/
def px (r : Nat) (v : Nat) (s : State) : State := s.setX (.ofNat 5 r) (.ofNat 64 v)
def pf (r : Nat) (v : Nat) (s : State) : State := s.setF (.ofNat 5 r) (.ofNat 64 v)
def putBytes (a : Nat) : List Byte → State → State
  | [], s => s
  | b :: t, s => putBytes (a + 1) t { s with mem := Memory.write a b s.mem }
def pm (n a v : Nat) (s : State) : State := putBytes a (bytesLe v n) s

/-- A mode, the D-cache on, a reservation, a rounding mode, the unit off, the T-Head extension off. -/
def inMode (p : Priv) (s : State) : State := { s with me := { s.me with priv := p } }
def sm (s : State) : State := inMode .supervisor s
def um (s : State) : State := inMode .user s
def de (s : State) : State := s.csrWrite .mhcr 2
def nde (s : State) : State := s.csrWrite .mhcr 0

/-- The L1 caches as `mhcr` says, and the L2 refilled by their misses (`mccr2.RFE`). -/
def on (mhcr : Word) (s : State) : State := (s.csrWrite .mccr2 9).csrWrite .mhcr mhcr
def res (a : BitVec 40) (n : Nat) (s : State) : State := { s with me := { s.me with lmon := some ⟨a, n⟩ } }
def frm (n : Nat) (s : State) : State := { s with me := { s.me with fp := { s.me.fp with frm := .ofNat 3 n } } }
def nofs (s : State) : State := s.csrWrite .mstatus 0
def nothead (s : State) : State := s.csrWrite .mxstatus 0x8000

/-- What is checked of the state after: a register, memory, the local monitor, a CSR, the flags, the pc, a trap. -/
def cx (r : Nat) (v : Nat) (s : State) : Bool := (s.getX (.ofNat 5 r)).toNat == v
def cf (r : Nat) (v : Nat) (s : State) : Bool := (s.getF (.ofNat 5 r)).toNat == v
def cm (n a v : Nat) (s : State) : Bool := s.number (s.soc.attrOf (.ofNat 40 a)) a n == v
def cres (o : Option Reservation) (s : State) : Bool := s.me.lmon == o
def csr (c : Csr) (v : Word) (s : State) : Bool := s.csrRead c == v
def cfl (v : Nat) (s : State) : Bool :=
  s.me.fp.fflags.toNat == v && s.me.fp.fe == (v != 0) && field s.me.m.mstatus 13 2 == 3
def cpc (v : Nat) (s : State) : Bool := s.me.pc.toNat == v
def trapped (c tv : Nat) (s : State) : Bool :=
  s.me.m.mcause.toNat == c && s.me.m.mtval.toNat == tv && s.me.m.mepc == 0x1000 && s.me.pc == 0 && s.me.priv == .machine

/-- One decoded instruction run on the small state, changed by `pre`, passes every check of `post`. -/
def one (c : Code) (pre : List (State → State)) (post : List (State → Bool)) : Bool :=
  match decodeCode c with
  | .ok i =>
    match exec i (pre.foldl (fun s f => f s) lab) with
    | .next t => post.all fun p => p t
    | _ => false
  | .error _ => false

/-- Every code of the list decodes to the instruction beside it, and the instruction encodes to it. -/
def reads (l : List (Code × Instr)) : Bool :=
  l.all fun p => decide (decodeTableWord (8 * p.1.len) p.1.value.toNat = some p.2) && decide (encode p.2 = p.1)

/-- Every code of the list is refused. -/
def refuses (l : List Code) : Bool := l.all fun c => (decodeCode c).toBool == false

/-! ### Decoding

One word for every row of the opcode table, its bits written from the encoding in the instruction's own rule. -/

theorem test_decode_integer :
    (reads [
        (.full 0b00000001110010001000101110110011#32, .add 0x17#5 0x11#5 0x1c#5),
        (.full 0b10111101011010011000111000010011#32, .addi 0x1c#5 0x13#5 0xbd6#12),
        (.full 0b00001101010001100000000100011011#32, .addiw 2#5 0xc#5 0xd4#12),
        (.full 0b00000000000101001000100010111011#32, .addw 0x11#5 9#5 1#5),
        (.full 0b01000001010110110000001110110011#32, .sub 7#5 0x16#5 0x15#5),
        (.full 0b01000001000011011000101100111011#32, .subw 0x16#5 0x1b#5 0x10#5),
        (.full 0b00000001110110101111100100110011#32, .and 0x12#5 0x15#5 0x1d#5),
        (.full 0b11110101110010101111001110010011#32, .andi 7#5 0x15#5 0xf5c#12),
        (.full 0b00000000111010100110100100110011#32, .or 0x12#5 0x14#5 0xe#5),
        (.full 0b11110111111100110110011000010011#32, .ori 0xc#5 6#5 0xf7f#12),
        (.full 0b00000000011101101100000110110011#32, .xor 3#5 0xd#5 7#5),
        (.full 0b01010100111101000100101000010011#32, .xori 0x14#5 8#5 0x54f#12),
        (.full 0b00000000110111011001011100110011#32, .sll 0xe#5 0x1b#5 0xd#5),
        (.full 0b00000010010010001001000110010011#32, .slli 3#5 0x11#5 0x24#6),
        (.full 0b00000001100101010001000110011011#32, .slliw 3#5 0xa#5 0x19#5),
        (.full 0b00000001011111111001000100111011#32, .sllw 2#5 0x1f#5 0x17#5)] &&
      reads [
        (.full 0b00000001010110110101111000110011#32, .srl 0x1c#5 0x16#5 0x15#5),
        (.full 0b00000010010100001101110100010011#32, .srli 0x1a#5 1#5 0x25#6),
        (.full 0b00000001111111011101010000011011#32, .srliw 8#5 0x1b#5 0x1f#5),
        (.full 0b00000000011111010101001000111011#32, .srlw 4#5 0x1a#5 7#5),
        (.full 0b01000001011000001101111110110011#32, .sra 0x1f#5 1#5 0x16#5),
        (.full 0b01000011010011000101101100010011#32, .srai 0x16#5 0x18#5 0x34#6),
        (.full 0b01000001110111100101100010011011#32, .sraiw 0x11#5 0x1c#5 0x1d#5),
        (.full 0b01000000011111000101110110111011#32, .sraw 0x1b#5 0x18#5 7#5),
        (.full 0b00000001110110011010100010110011#32, .slt 0x11#5 0x13#5 0x1d#5),
        (.full 0b00000000011100010011111100110011#32, .sltu 0x1e#5 2#5 7#5),
        (.full 0b01110100101001100010011110010011#32, .slti 0xf#5 0xc#5 0x74a#12),
        (.full 0b00001110010000101011010000010011#32, .sltiu 8#5 5#5 0xe4#12),
        (.full 0b11111111111111111111111110110111#32, .lui 0x1f#5 0xfffff#20),
        (.full 0b10100001011000011101100100010111#32, .auipc 0x12#5 0xa161d#20)]) = true := by decide +kernel

theorem test_decode_branches :
    (reads [
        (.full 0b01101011101011110000000111100011#32, .beq 0x1e#5 0x1a#5 0x751#12),
        (.full 0b11111111110100100001111101100011#32, .bne 4#5 0x1d#5 0xbff#12),
        (.full 0b01010001010101001100111101100011#32, .blt 9#5 0x15#5 0x28f#12),
        (.full 0b01100111010111101101111001100011#32, .bge 0x1d#5 0x15#5 0x33e#12),
        (.full 0b11101111111010001110001111100011#32, .bltu 0x11#5 0x1e#5 0xf73#12),
        (.full 0b10000011111000101111001101100011#32, .bgeu 5#5 0x1e#5 0x813#12),
        (.full 0b11111111111111111111111111101111#32, .jal 0x1f#5 0xfffff#20),
        (.full 0b01001110010000100000101111100111#32, .jalr 0x17#5 4#5 0x4e4#12)]) = true := by decide +kernel

theorem test_decode_memory :
    (reads [
        (.full 0b01000111111001011000101110000011#32, .lb 0x17#5 0xb#5 0x47e#12),
        (.full 0b01001011001110011100001100000011#32, .lbu 6#5 0x13#5 0x4b3#12),
        (.full 0b11000110000100100001000110000011#32, .lh 3#5 4#5 0xc61#12),
        (.full 0b10000000000101101101000100000011#32, .lhu 2#5 0xd#5 0x801#12),
        (.full 0b01011000011110000010110100000011#32, .lw 0x1a#5 0x10#5 0x587#12),
        (.full 0b01011001100111001110111100000011#32, .lwu 0x1e#5 0x19#5 0x599#12),
        (.full 0b01010101100101110011000110000011#32, .ld 3#5 0xe#5 0x559#12),
        (.full 0b01011100101011011000110100100011#32, .sb 0xa#5 0x1b#5 0x5da#12),
        (.full 0b10101011101111010001111010100011#32, .sh 0x1b#5 0x1a#5 0xabd#12),
        (.full 0b11000111110001100010111100100011#32, .sw 0x1c#5 0xc#5 0xc7e#12),
        (.full 0b11011101111111000011110000100011#32, .sd 0x1f#5 0x18#5 0xdd8#12),
        (.full 0b10011111110000110000101110001111#32, .fence 9#4 0xf#4 0xc#4 6#5 0x17#5),
        (.full 0b00101110001101110001101110001111#32, .fenceI 0x2e3#12 0xe#5 0x17#5)]) = true := by decide +kernel

theorem test_decode_system :
    (reads [
        (.full 0b01111000101110011001001111110011#32, .csrrw 7#5 0x78b#12 0x13#5),
        (.full 0b01010001001111011010011111110011#32, .csrrs 0xf#5 0x513#12 0x1b#5),
        (.full 0b10101001100110110011110001110011#32, .csrrc 0x18#5 0xa99#12 0x16#5),
        (.full 0b00111100111000111101000011110011#32, .csrrwi 1#5 0x3ce#12 7#5),
        (.full 0b11011101110011000110100011110011#32, .csrrsi 0x11#5 0xddc#12 0x18#5),
        (.full 0b01011111101101101111001111110011#32, .csrrci 7#5 0x5fb#12 0xd#5),
        (.full 0b00000000000000000000000001110011#32, .ecall),
        (.full 0b00000000000100000000000001110011#32, .ebreak),
        (.full 0b00010000001000000000000001110011#32, .sret),
        (.full 0b00110000001000000000000001110011#32, .mret),
        (.full 0b00010010101110100000000001110011#32, .sfenceVma 0x14#5 0xb#5),
        (.full 0b00010000010100000000000001110011#32, .wfi)]) = true := by decide +kernel

theorem test_decode_muldiv :
    (reads [
        (.full 0b00000011111100010100010110110011#32, .div 0xb#5 2#5 0x1f#5),
        (.full 0b00000010111100101101100100110011#32, .divu 0x12#5 5#5 0xf#5),
        (.full 0b00000010100001110101000010111011#32, .divuw 1#5 0xe#5 8#5),
        (.full 0b00000011111101110100111010111011#32, .divw 0x1d#5 0xe#5 0x1f#5),
        (.full 0b00000010000101100000110100110011#32, .mul 0x1a#5 0xc#5 1#5),
        (.full 0b00000010001110111001011000110011#32, .mulh 0xc#5 0x17#5 3#5),
        (.full 0b00000011011100001010010000110011#32, .mulhsu 8#5 1#5 0x17#5),
        (.full 0b00000011011110000011110100110011#32, .mulhu 0x1a#5 0x10#5 0x17#5),
        (.full 0b00000011101010000000100110111011#32, .mulw 0x13#5 0x10#5 0x1a#5),
        (.full 0b00000011000101101110001000110011#32, .rem 4#5 0xd#5 0x11#5),
        (.full 0b00000010010001111111110000110011#32, .remu 0x18#5 0xf#5 4#5),
        (.full 0b00000011111111001111100110111011#32, .remuw 0x13#5 0x19#5 0x1f#5),
        (.full 0b00000010101110010110001000111011#32, .remw 4#5 0x12#5 0xb#5)]) = true := by decide +kernel

theorem test_decode_atomic :
    (reads [
        (.full 0b00000111111110101011110010101111#32, .amoaddD 0x19#5 0x1f#5 0x15#5 1#1 1#1),
        (.full 0b00000110101110100010101100101111#32, .amoaddW 0x16#5 0xb#5 0x14#5 1#1 1#1),
        (.full 0b01100110000110111011101010101111#32, .amoandD 0x15#5 1#5 0x17#5 1#1 1#1),
        (.full 0b01100110101011010010111110101111#32, .amoandW 0x1f#5 0xa#5 0x1a#5 1#1 1#1),
        (.full 0b10100110000101100011101100101111#32, .amomaxD 0x16#5 1#5 0xc#5 1#1 1#1),
        (.full 0b10100111110111011010110110101111#32, .amomaxW 0x1b#5 0x1d#5 0x1b#5 1#1 1#1),
        (.full 0b11100111111111111011111110101111#32, .amomaxuD 0x1f#5 0x1f#5 0x1f#5 1#1 1#1),
        (.full 0b11100111011010000010010100101111#32, .amomaxuW 0xa#5 0x16#5 0x10#5 1#1 1#1),
        (.full 0b10000111111111111011111110101111#32, .amominD 0x1f#5 0x1f#5 0x1f#5 1#1 1#1),
        (.full 0b10000110100010101010100110101111#32, .amominW 0x13#5 8#5 0x15#5 1#1 1#1),
        (.full 0b11000111101111110011001010101111#32, .amominuD 5#5 0x1b#5 0x1e#5 1#1 1#1),
        (.full 0b11000111111111111010111110101111#32, .amominuW 0x1f#5 0x1f#5 0x1f#5 1#1 1#1),
        (.full 0b01000110011110100011001100101111#32, .amoorD 6#5 7#5 0x14#5 1#1 1#1),
        (.full 0b01000111011011101010100000101111#32, .amoorW 0x10#5 0x16#5 0x1d#5 1#1 1#1),
        (.full 0b00001110001101011011100100101111#32, .amoswapD 0x12#5 3#5 0xb#5 1#1 1#1),
        (.full 0b00001110010011000010001110101111#32, .amoswapW 7#5 4#5 0x18#5 1#1 1#1)] &&
      reads [
        (.full 0b00100110100000011011010100101111#32, .amoxorD 0xa#5 8#5 3#5 1#1 1#1),
        (.full 0b00100111111110011010000110101111#32, .amoxorW 3#5 0x1f#5 0x13#5 1#1 1#1),
        (.full 0b00010110000011110011011110101111#32, .lrD 0xf#5 0x1e#5 1#1 1#1),
        (.full 0b00010110000011010010001110101111#32, .lrW 7#5 0x1a#5 1#1 1#1),
        (.full 0b00011111111111111011111110101111#32, .scD 0x1f#5 0x1f#5 0x1f#5 1#1 1#1),
        (.full 0b00011110110110101010101000101111#32, .scW 0x14#5 0xd#5 0x15#5 1#1 1#1)]) = true := by decide +kernel

theorem test_decode_single :
    (reads [
        (.full 0b00000001100101010011001001010011#32, .faddS 4#5 0xa#5 0x19#5 3#3),
        (.full 0b11100000000000101001001001010011#32, .fclassS 4#5 5#5),
        (.full 0b11000000001011100100001111010011#32, .fcvtLS 7#5 0x1c#5 4#3),
        (.full 0b11000000001111000001111101010011#32, .fcvtLuS 0x1e#5 0x18#5 1#3),
        (.full 0b11010000001011001001101111010011#32, .fcvtSL 0x17#5 0x19#5 1#3),
        (.full 0b11010000001111000100101111010011#32, .fcvtSLu 0x17#5 0x18#5 4#3),
        (.full 0b11010000000000101011101001010011#32, .fcvtSW 0x14#5 5#5 3#3),
        (.full 0b11010000000111110011001111010011#32, .fcvtSWu 7#5 0x1e#5 3#3),
        (.full 0b11000000000011000001100101010011#32, .fcvtWS 0x12#5 0x18#5 1#3),
        (.full 0b11000000000101000100111001010011#32, .fcvtWuS 0x1c#5 8#5 4#3),
        (.full 0b00011001011110110010000011010011#32, .fdivS 1#5 0x16#5 0x17#5 2#3),
        (.full 0b10100001101101000010011111010011#32, .feqS 0xf#5 8#5 0x1b#5),
        (.full 0b10100001010001111000000111010011#32, .fleS 3#5 0xf#5 0x14#5),
        (.full 0b10100001010000100001001111010011#32, .fltS 7#5 4#5 0x14#5),
        (.full 0b00110001000011001010001010000111#32, .flw 5#5 0x19#5 0x310#12),
        (.full 0b11011000011100010100111101000011#32, .fmaddS 0x1e#5 2#5 7#5 0x1b#5 4#3)] &&
      reads [
        (.full 0b00101000000110000001101111010011#32, .fmaxS 0x17#5 0x10#5 1#5),
        (.full 0b00101000001101110000100101010011#32, .fminS 0x12#5 0xe#5 3#5),
        (.full 0b00001001000100111010011111000111#32, .fmsubS 0xf#5 7#5 0x11#5 1#5 2#3),
        (.full 0b00010001111011011001110011010011#32, .fmulS 0x19#5 0x1b#5 0x1e#5 1#3),
        (.full 0b11110000000011010000110001010011#32, .fmvWX 0x18#5 0x1a#5),
        (.full 0b11100000000001100000010011010011#32, .fmvXW 9#5 0xc#5),
        (.full 0b01100000101011001001001011001111#32, .fnmaddS 5#5 0x19#5 0xa#5 0xc#5 1#3),
        (.full 0b00010001000111101111010111001011#32, .fnmsubS 0xb#5 0x1d#5 0x11#5 2#5 7#3),
        (.full 0b00100001110100011000010001010011#32, .fsgnjS 8#5 3#5 0x1d#5),
        (.full 0b00100001010101111001100101010011#32, .fsgnjnS 0x12#5 0xf#5 0x15#5),
        (.full 0b00100000011010110010011001010011#32, .fsgnjxS 0xc#5 0x16#5 6#5),
        (.full 0b01011000000001110010001101010011#32, .fsqrtS 6#5 0xe#5 2#3),
        (.full 0b00001000101010111011011011010011#32, .fsubS 0xd#5 0x17#5 0xa#5 3#3),
        (.full 0b10101110110010110010000100100111#32, .fsw 0xc#5 0x16#5 0xae2#12)]) = true := by decide +kernel

theorem test_decode_double :
    (reads [
        (.full 0b00000011101101101011000101010011#32, .faddD 2#5 0xd#5 0x1b#5 3#3),
        (.full 0b11100010000000101001101011010011#32, .fclassD 0x15#5 5#5),
        (.full 0b11010010001011000100010101010011#32, .fcvtDL 0xa#5 0x18#5 4#3),
        (.full 0b11010010001110001001100111010011#32, .fcvtDLu 0x13#5 0x11#5 1#3),
        (.full 0b01000010000001010001001001010011#32, .fcvtDS 4#5 0xa#5 1#3),
        (.full 0b11010010000011001001010111010011#32, .fcvtDW 0xb#5 0x19#5 1#3),
        (.full 0b11010010000110101011110001010011#32, .fcvtDWu 0x18#5 0x15#5 3#3),
        (.full 0b11000010001011111001011111010011#32, .fcvtLD 0xf#5 0x1f#5 1#3),
        (.full 0b11000010001101000111111111010011#32, .fcvtLuD 0x1f#5 8#5 7#3),
        (.full 0b01000000000110110111010111010011#32, .fcvtSD 0xb#5 0x16#5 7#3),
        (.full 0b11000010000011100111010111010011#32, .fcvtWD 0xb#5 0x1c#5 7#3),
        (.full 0b11000010000111101111101111010011#32, .fcvtWuD 0x17#5 0x1d#5 7#3),
        (.full 0b00011011001010011010000011010011#32, .fdivD 1#5 0x13#5 0x12#5 2#3),
        (.full 0b10100011101010101010111111010011#32, .feqD 0x1f#5 0x15#5 0x1a#5),
        (.full 0b11110000101110001011111100000111#32, .fld 0x1e#5 0x11#5 0xf0b#12),
        (.full 0b10100011110011000000000111010011#32, .fleD 3#5 0x18#5 0x1c#5)] &&
      reads [
        (.full 0b10100011011101101001001011010011#32, .fltD 5#5 0xd#5 0x17#5),
        (.full 0b01010010001111110100100001000011#32, .fmaddD 0x10#5 0x1e#5 3#5 0xa#5 4#3),
        (.full 0b00101010101111100001001101010011#32, .fmaxD 6#5 0x1c#5 0xb#5),
        (.full 0b00101011100001111000100001010011#32, .fminD 0x10#5 0xf#5 0x18#5),
        (.full 0b11011010000110111011101101000111#32, .fmsubD 0x16#5 0x17#5 1#5 0x1b#5 3#3),
        (.full 0b00010011000001100010011111010011#32, .fmulD 0xf#5 0xc#5 0x10#5 2#3),
        (.full 0b11110010000011011000011001010011#32, .fmvDX 0xc#5 0x1b#5),
        (.full 0b11100010000000011000110011010011#32, .fmvXD 0x19#5 3#5),
        (.full 0b01101011001111110100100001001111#32, .fnmaddD 0x10#5 0x1e#5 0x13#5 0xd#5 4#3),
        (.full 0b11111011111111111111111111001011#32, .fnmsubD 0x1f#5 0x1f#5 0x1f#5 0x1f#5 7#3),
        (.full 0b00001100011001011011110100100111#32, .fsd 6#5 0xb#5 0xda#12),
        (.full 0b00100011110011011000110101010011#32, .fsgnjD 0x1a#5 0x1b#5 0x1c#5),
        (.full 0b00100010011100110001010011010011#32, .fsgnjnD 9#5 6#5 7#5),
        (.full 0b00100010011010100010010101010011#32, .fsgnjxD 0xa#5 0x14#5 6#5),
        (.full 0b01011010000010100010011111010011#32, .fsqrtD 0xf#5 0x14#5 2#3),
        (.full 0b00001011111110111001010001010011#32, .fsubD 8#5 0x17#5 0x1f#5 1#3)]) = true := by decide +kernel

theorem test_decode_compressed :
    (reads [
        (.half 0b1001101000001110#16, .cAdd 0x14#5 3#5),
        (.half 0b0001111111111101#16, .cAddi 0x1f#5 0x3f#6),
        (.half 0b0011111111111101#16, .cAddiw 0x1f#5 0x3f#6),
        (.half 0b0001100101000100#16, .cAddi4spn 1#3 0x2d#8),
        (.half 0b0110000100001001#16, .cAddi16sp 8#6),
        (.half 0b1001111010110001#16, .cAddw 5#3 4#3),
        (.half 0b1000111101101001#16, .cAnd 6#3 2#3),
        (.half 0b1001100100110101#16, .cAndi 2#3 0x2d#6),
        (.half 0b1101100111100001#16, .cBeqz 3#3 0xe8#8),
        (.half 0b1111000011000101#16, .cBnez 1#3 0xd0#8),
        (.half 0b1001000000000010#16, .cEbreak),
        (.half 0b0010110111110000#16, .cFld 4#3 3#3 0x1b#5),
        (.half 0b0011011001010110#16, .cFldsp 0xc#5 0x2e#6),
        (.half 0b1011011111110100#16, .cFsd 5#3 7#3 0x1d#5),
        (.half 0b1011111111111110#16, .cFsdsp 0x1f#5 0x3f#6),
        (.half 0b1011111111111101#16, .cJ 0x7ff#11)] &&
      reads [
        (.half 0b1001110100000010#16, .cJalr 0x1a#5),
        (.half 0b1000111110000010#16, .cJr 0x1f#5),
        (.half 0b0110010010110100#16, .cLd 5#3 1#3 9#5),
        (.half 0b0110011100110010#16, .cLdsp 0xe#5 0x21#6),
        (.half 0b0101111111111101#16, .cLi 0x1f#5 0x3f#6),
        (.half 0b0111011100011001#16, .cLui 0xe#5 0x26#6),
        (.half 0b0100111000111000#16, .cLw 6#3 4#3 0x16#5),
        (.half 0b0101111111111110#16, .cLwsp 0x1f#5 0x3f#6),
        (.half 0b1000010010001110#16, .cMv 9#5 3#5),
        (.half 0b0000000000000001#16, .cNop),
        (.half 0b1000111101010101#16, .cOr 6#3 5#3),
        (.half 0b1110011111001100#16, .cSd 3#3 7#3 0x11#5),
        (.half 0b1111000000000110#16, .cSdsp 1#5 4#6),
        (.half 0b0001111111111110#16, .cSlli 0x1f#5 0x3f#6),
        (.half 0b1000011110110101#16, .cSrai 7#3 0xd#6),
        (.half 0b1001001111111101#16, .cSrli 7#3 0x3f#6)] &&
      reads [
        (.half 0b1101101010100100#16, .cSw 1#3 5#3 0x1c#5),
        (.half 0b1101111111111110#16, .cSwsp 0x1f#5 0x3f#6),
        (.half 0b1000111010001001#16, .cSub 5#3 2#3),
        (.half 0b1001111010011001#16, .cSubw 5#3 6#3),
        (.half 0b1000110010110001#16, .cXor 1#3 4#3)]) = true := by decide +kernel

theorem test_decode_theadArith :
    (reads [
        (.full 0b00000100110101111001001010001011#32, .addsl 5#5 0xf#5 0xd#5 2#2),
        (.full 0b00100000000100011001101010001011#32, .mula 0x15#5 3#5 1#5),
        (.full 0b00101001000000010001011110001011#32, .mulah 0xf#5 2#5 0x10#5),
        (.full 0b00100100000101111001110000001011#32, .mulaw 0x18#5 0xf#5 1#5),
        (.full 0b00100011101101001001010110001011#32, .muls 0xb#5 9#5 0x1b#5),
        (.full 0b00101010100000011001011100001011#32, .mulsh 0xe#5 3#5 8#5),
        (.full 0b00100110101000001001001100001011#32, .mulsw 6#5 1#5 0xa#5),
        (.full 0b01000001110111100001011100001011#32, .mveqz 0xe#5 0x1c#5 0x1d#5),
        (.full 0b01000010001000011001001010001011#32, .mvnez 5#5 3#5 2#5),
        (.full 0b00010000111001101001101100001011#32, .srri 0x16#5 0xd#5 0xe#6),
        (.full 0b00010100010100111001111010001011#32, .srriw 0x1d#5 7#5 5#5),
        (.full 0b01101110101101001010000100001011#32, .ext 2#5 9#5 0x1b#6 0x2b#6),
        (.full 0b01100010111000111011111010001011#32, .extu 0x1d#5 7#5 0x18#6 0x2e#6),
        (.full 0b10000100000001110001101000001011#32, .ff0 0x14#5 0xe#5),
        (.full 0b10000110000001001001101110001011#32, .ff1 0x17#5 9#5),
        (.full 0b10000010000001010001100110001011#32, .rev 0x13#5 0xa#5)] &&
      reads [
        (.full 0b10010000000010101001000010001011#32, .revw 1#5 0x15#5),
        (.full 0b10001000011010101001111000001011#32, .tst 0x1c#5 0x15#5 6#6),
        (.full 0b10000000000010010001011010001011#32, .tstnbz 0xd#5 0x12#5)]) = true := by decide +kernel

theorem test_decode_theadMem :
    (reads [
        (.full 0b01100111000000001110111110001011#32, .flrd 0x1f#5 1#5 0x10#5 3#2),
        (.full 0b01000111111111100110110010001011#32, .flrw 0x19#5 0x1c#5 0x1f#5 3#2),
        (.full 0b01110101111011100110110100001011#32, .flurd 0x1a#5 0x1c#5 0x1e#5 2#2),
        (.full 0b01010110101000101110000100001011#32, .flurw 2#5 5#5 0xa#5 3#2),
        (.full 0b01100011101001000111111010001011#32, .fsrd 0x1d#5 8#5 0x1a#5 1#2),
        (.full 0b01000011101001100111010000001011#32, .fsrw 8#5 0xc#5 0x1a#5 1#2),
        (.full 0b01110100111011101111010010001011#32, .fsurd 9#5 0x1d#5 0xe#5 2#2),
        (.full 0b01010101101111000111001110001011#32, .fsurw 7#5 0x18#5 0x1b#5 2#2),
        (.full 0b00011010010011111100001110001011#32, .lbia 7#5 0x1f#5 4#5 1#2),
        (.full 0b00001111110110010100111000001011#32, .lbib 0x1c#5 0x12#5 0x1d#5 3#2),
        (.full 0b10011011101011100100011110001011#32, .lbuia 0xf#5 0x1c#5 0x1a#5 1#2),
        (.full 0b10001111011110010100001110001011#32, .lbuib 7#5 0x12#5 0x17#5 3#2),
        (.full 0b11111101011100110100100110001011#32, .ldd 0x13#5 0x17#5 6#5 2#2),
        (.full 0b01111011000110000100010110001011#32, .ldia 0xb#5 0x10#5 0x11#5 1#2),
        (.full 0b01101110011000101100101010001011#32, .ldib 0x15#5 5#5 6#5 3#2),
        (.full 0b00111101101011001100010000001011#32, .lhia 8#5 0x19#5 0x1a#5 2#2)] &&
      reads [
        (.full 0b00101100110011100100011010001011#32, .lhib 0xd#5 0x1c#5 0xc#5 2#2),
        (.full 0b10111110000110010100100010001011#32, .lhuia 0x11#5 0x12#5 1#5 3#2),
        (.full 0b10101110100001010100110110001011#32, .lhuib 0x1b#5 0xa#5 8#5 3#2),
        (.full 0b00000010010101011100101100001011#32, .lrb 0x16#5 0xb#5 5#5 1#2),
        (.full 0b10000111101001100100010010001011#32, .lrbu 9#5 0xc#5 0x1a#5 3#2),
        (.full 0b01100110110101011100101000001011#32, .lrd 0x14#5 0xb#5 0xd#5 3#2),
        (.full 0b00100101010000001100011000001011#32, .lrh 0xc#5 1#5 0x14#5 2#2),
        (.full 0b10100101000010001100110100001011#32, .lrhu 0x1a#5 0x11#5 0x10#5 2#2),
        (.full 0b01000111010110111100110100001011#32, .lrw 0x1a#5 0x17#5 0x15#5 3#2),
        (.full 0b11000011010101000100110000001011#32, .lrwu 0x18#5 8#5 0x15#5 1#2),
        (.full 0b00010101000101011100101110001011#32, .lurb 0x17#5 0xb#5 0x11#5 2#2),
        (.full 0b10010101111010111100100110001011#32, .lurbu 0x13#5 0x17#5 0x1e#5 2#2),
        (.full 0b01110110100101110100101000001011#32, .lurd 0x14#5 0xe#5 9#5 3#2),
        (.full 0b00110100010001001100011100001011#32, .lurh 0xe#5 9#5 4#5 2#2),
        (.full 0b10110011101101110100111110001011#32, .lurhu 0x1f#5 0xe#5 0x1b#5 1#2),
        (.full 0b01010010010010000100100110001011#32, .lurw 0x13#5 0x10#5 4#5 1#2)] &&
      reads [
        (.full 0b11010011001001100100100110001011#32, .lurwu 0x13#5 0xc#5 0x12#5 1#2),
        (.full 0b11100010111101010100000100001011#32, .lwd 2#5 0xf#5 0xa#5 1#2),
        (.full 0b01011111000011101100111000001011#32, .lwia 0x1c#5 0x1d#5 0x10#5 3#2),
        (.full 0b01001100101011110100100010001011#32, .lwib 0x11#5 0x1e#5 0xa#5 2#2),
        (.full 0b11110010111100110100111010001011#32, .lwud 0x1d#5 0xf#5 6#5 1#2),
        (.full 0b11011101110101011100000010001011#32, .lwuia 1#5 0xb#5 0x1d#5 2#2),
        (.full 0b11001100010111101100011010001011#32, .lwuib 0xd#5 0x1d#5 5#5 2#2),
        (.full 0b00011111101101110101110010001011#32, .sbia 0x19#5 0xe#5 0x1b#5 3#2),
        (.full 0b00001010101000101101111100001011#32, .sbib 0x1e#5 5#5 0xa#5 1#2),
        (.full 0b11111111110010011101111110001011#32, .sdd 0x1f#5 0x1c#5 0x13#5 3#2),
        (.full 0b01111100100110010101011100001011#32, .sdia 0xe#5 0x12#5 9#5 2#2),
        (.full 0b01101010010011001101110100001011#32, .sdib 0x1a#5 0x19#5 4#5 1#2),
        (.full 0b00111010010110010101001100001011#32, .shia 6#5 0x12#5 5#5 1#2),
        (.full 0b00101111111011000101010000001011#32, .shib 8#5 0x18#5 0x1e#5 3#2),
        (.full 0b00000011011011111101110010001011#32, .srb 0x19#5 0x1f#5 0x16#5 1#2),
        (.full 0b01100101011000110101111000001011#32, .srd 0x1c#5 6#5 0x16#5 2#2)] &&
      reads [
        (.full 0b00100011100110100101111010001011#32, .srh 0x1d#5 0x14#5 0x19#5 1#2),
        (.full 0b01000011110000100101001100001011#32, .srw 6#5 4#5 0x1c#5 1#2),
        (.full 0b00010110000101011101101010001011#32, .surb 0x15#5 0xb#5 1#5 3#2),
        (.full 0b01110010010110110101111010001011#32, .surd 0x1d#5 0x16#5 5#5 1#2),
        (.full 0b00110101110010000101001110001011#32, .surh 7#5 0x10#5 0x1c#5 2#2),
        (.full 0b01010101101011100101110000001011#32, .surw 0x18#5 0x1c#5 0x1a#5 2#2),
        (.full 0b01011111110110101101110100001011#32, .swia 0x1a#5 0x15#5 0x1d#5 3#2),
        (.full 0b01001111101110001101111010001011#32, .swib 0x1d#5 0x11#5 0x1b#5 3#2),
        (.full 0b11100100101110110101111000001011#32, .swd 0x1c#5 0xb#5 0x16#5 2#2)]) = true := by decide +kernel

theorem test_decode_theadCache :
    (reads [
        (.full 0b00000000000100000000000000001011#32, .dcacheCall),
        (.full 0b00000000001100000000000000001011#32, .dcacheCiall),
        (.full 0b00000010101111000000000000001011#32, .dcacheCipa 0x18#5),
        (.full 0b00000010001111111000000000001011#32, .dcacheCisw 0x1f#5),
        (.full 0b00000010011111111000000000001011#32, .dcacheCiva 0x1f#5),
        (.full 0b00000010100111111000000000001011#32, .dcacheCpa 0x1f#5),
        (.full 0b00000010100011111000000000001011#32, .dcacheCpal1 0x1f#5),
        (.full 0b00000010010110111000000000001011#32, .dcacheCva 0x17#5),
        (.full 0b00000010010001100000000000001011#32, .dcacheCval1 0xc#5),
        (.full 0b00000010101000011000000000001011#32, .dcacheIpa 3#5),
        (.full 0b00000010001011000000000000001011#32, .dcacheIsw 0x18#5),
        (.full 0b00000010011011111000000000001011#32, .dcacheIva 0x1f#5),
        (.full 0b00000000001000000000000000001011#32, .dcacheIall),
        (.full 0b00000001000000000000000000001011#32, .icacheIall),
        (.full 0b00000001000100000000000000001011#32, .icacheIalls),
        (.full 0b00000011100001011000000000001011#32, .icacheIpa 0xb#5)] &&
      reads [
        (.full 0b00000011000010110000000000001011#32, .icacheIva 0x16#5),
        (.full 0b00000001010100000000000000001011#32, .l2cacheCall),
        (.full 0b00000001011100000000000000001011#32, .l2cacheCiall),
        (.full 0b00000001011000000000000000001011#32, .l2cacheIall),
        (.full 0b00000010000111111000000000001011#32, .dcacheCsw 0x1f#5),
        (.full 0b00000101100101111000000000001011#32, .sfenceVmas 0xf#5 0x19#5),
        (.full 0b00000001100000000000000000001011#32, .sync),
        (.full 0b00000001100100000000000000001011#32, .syncS),
        (.full 0b00000001101000000000000000001011#32, .syncI),
        (.full 0b00000001101100000000000000001011#32, .syncIs)]) = true := by decide +kernel

theorem test_decode_half :
    (reads [
        (.full 0b00000101111111111111111111010011#32, .faddH 0x1f#5 0x1f#5 0x1f#5 7#3),
        (.full 0b11100100000001011001111011010011#32, .fclassH 0x1d#5 0xb#5),
        (.full 0b01000010001010010010100111010011#32, .fcvtDH 0x13#5 0x12#5 2#3),
        (.full 0b01000100000110100111111011010011#32, .fcvtHD 0x1d#5 0x14#5 7#3),
        (.full 0b11010100001010011111000011010011#32, .fcvtHL 1#5 0x13#5 7#3),
        (.full 0b11010100001101111001110011010011#32, .fcvtHLu 0x19#5 0xf#5 1#3),
        (.full 0b01000100000011010100000111010011#32, .fcvtHS 3#5 0x1a#5 4#3),
        (.full 0b11010100000011100001110111010011#32, .fcvtHW 0x1b#5 0x1c#5 1#3),
        (.full 0b11010100000111001010100111010011#32, .fcvtHWu 0x13#5 0x19#5 2#3),
        (.full 0b11000100001010110011100011010011#32, .fcvtLH 0x11#5 0x16#5 3#3),
        (.full 0b11000100001100100010111011010011#32, .fcvtLuH 0x1d#5 4#5 2#3),
        (.full 0b01000000001001100111101001010011#32, .fcvtSH 0x14#5 0xc#5 7#3),
        (.full 0b11000100000010000111001001010011#32, .fcvtWH 4#5 0x10#5 7#3),
        (.full 0b11000100000101110011010111010011#32, .fcvtWuH 0xb#5 0xe#5 3#3),
        (.full 0b00011101101000100111111001010011#32, .fdivH 0x1c#5 4#5 0x1a#5 7#3),
        (.full 0b10100101010001010010111111010011#32, .feqH 0x1f#5 0xa#5 0x14#5)] &&
      reads [
        (.full 0b10100100001101011000011111010011#32, .fleH 0xf#5 0xb#5 3#5),
        (.full 0b01100010010001001001001010000111#32, .flh 5#5 9#5 0x624#12),
        (.full 0b10100101000100100001011101010011#32, .fltH 0xe#5 4#5 0x11#5),
        (.full 0b01110100101010010100001011000011#32, .fmaddH 5#5 0x12#5 0xa#5 0xe#5 4#3),
        (.full 0b00101101100100101001000111010011#32, .fmaxH 3#5 5#5 0x19#5),
        (.full 0b00101101000001001000110111010011#32, .fminH 0x1b#5 9#5 0x10#5),
        (.full 0b11100101111110100001001011000111#32, .fmsubH 5#5 0x14#5 0x1f#5 0x1c#5 1#3),
        (.full 0b00010101110101001010000011010011#32, .fmulH 1#5 9#5 0x1d#5 2#3),
        (.full 0b11110100000011000000010011010011#32, .fmvHX 9#5 0x18#5),
        (.full 0b11100100000011101000110011010011#32, .fmvXH 0x19#5 0x1d#5),
        (.full 0b00100100000111010010011001001111#32, .fnmaddH 0xc#5 0x1a#5 1#5 4#5 2#3),
        (.full 0b01110101011100110111100111001011#32, .fnmsubH 0x13#5 6#5 0x17#5 0xe#5 7#3),
        (.full 0b00100101100000011000011101010011#32, .fsgnjH 0xe#5 3#5 0x18#5),
        (.full 0b00100100111110101001101111010011#32, .fsgnjnH 0x17#5 0x15#5 0xf#5),
        (.full 0b00100101110010010010001001010011#32, .fsgnjxH 4#5 0x12#5 0x1c#5),
        (.full 0b11111000001000011001010000100111#32, .fsh 2#5 3#5 0xf88#12)] &&
      reads [
        (.full 0b01011100000000101100001111010011#32, .fsqrtH 7#5 5#5 4#3),
        (.full 0b00001101100110001111011011010011#32, .fsubH 0xd#5 0x11#5 0x19#5 7#3)]) = true := by decide +kernel

/-! ### One step each

The vectors of 95_test_vectors section 2: words, registers and bytes before, and what the spec says stands after. -/

theorem test_step_integer :
    (one (.full 0x2081b3#32) [px 1 0xffffffffffffffff, px 2 1] [cx 3 0, cpc 0x1004] &&
      one (.full 0x208033#32) [px 1 5, px 2 6] [cx 0 0, cpc 0x1004] &&
      one (.full 0xfff08193#32) [px 1 0] [cx 3 0xffffffffffffffff, cpc 0x1004] &&
      one (.full 0x10819b#32) [px 1 0x7fffffff] [cx 3 0xffffffff80000000, cpc 0x1004] &&
      one (.full 0x2081bb#32) [px 1 0xffffffff00000001, px 2 0x1ffffffff] [cx 3 0, cpc 0x1004] &&
      one (.full 0x402081b3#32) [px 1 0, px 2 1] [cx 3 0xffffffffffffffff, cpc 0x1004] &&
      one (.full 0x402081bb#32) [px 1 0x80000000, px 2 1] [cx 3 0x7fffffff, cpc 0x1004] &&
      one (.full 0x800001b7#32) [] [cx 3 0xffffffff80000000, cpc 0x1004] &&
      one (.full 0xfffff197#32) [] [cx 3 0, cpc 0x1004] &&
      one (.full 0x2091b3#32) [px 1 1, px 2 64] [cx 3 1, cpc 0x1004] &&
      one (.full 0x2091b3#32) [px 1 1, px 2 63] [cx 3 0x8000000000000000, cpc 0x1004] &&
      one (.full 0x2091bb#32) [px 1 1, px 2 32] [cx 3 1, cpc 0x1004]) = true := by decide +kernel

theorem test_step_integer_2 :
    (one (.full 0x2091bb#32) [px 1 1, px 2 31] [cx 3 0xffffffff80000000, cpc 0x1004] &&
      one (.full 0x3f09193#32) [px 1 3] [cx 3 0x8000000000000000, cpc 0x1004] &&
      one (.full 0x10d193#32) [px 1 0x8000000000000000] [cx 3 0x4000000000000000, cpc 0x1004] &&
      one (.full 0x4010d193#32) [px 1 0x8000000000000000] [cx 3 0xc000000000000000, cpc 0x1004] &&
      one (.full 0x43f0d193#32) [px 1 0x8000000000000000] [cx 3 0xffffffffffffffff, cpc 0x1004] &&
      one (.full 0xd19b#32) [px 1 0x80000000] [cx 3 0xffffffff80000000, cpc 0x1004] &&
      one (.full 0x41f0d19b#32) [px 1 0x180000000] [cx 3 0xffffffffffffffff, cpc 0x1004] &&
      one (.full 0x4020d1bb#32) [px 1 0x40000000, px 2 33] [cx 3 0x20000000, cpc 0x1004] &&
      one (.full 0x20a1b3#32) [px 1 0xffffffffffffffff, px 2 1] [cx 3 1, cpc 0x1004] &&
      one (.full 0x20b1b3#32) [px 1 0xffffffffffffffff, px 2 1] [cx 3 0, cpc 0x1004] &&
      one (.full 0x2031b3#32) [px 2 0] [cx 3 0, cpc 0x1004] &&
      one (.full 0xfff0a193#32) [px 1 0x8000000000000000] [cx 3 1, cpc 0x1004]) = true := by decide +kernel

theorem test_step_integer_3 :
    (one (.full 0xfff0b193#32) [px 1 5] [cx 3 1, cpc 0x1004] &&
      one (.full 0x10b193#32) [px 1 0] [cx 3 1, cpc 0x1004] &&
      one (.full 0xfff0c193#32) [px 1 0xff00ff00ff00ff] [cx 3 0xff00ff00ff00ff00, cpc 0x1004] &&
      one (.full 0x7ff0f193#32) [px 1 0xffffffffffffffff] [cx 3 0x7ff, cpc 0x1004] &&
      one (.full 0x8000e193#32) [px 1 0] [cx 3 0xfffffffffffff800, cpc 0x1004]) = true := by decide +kernel

theorem test_step_branches :
    (one (.full 0x208463#32) [px 1 7, px 2 7] [cpc 0x1008] &&
      one (.full 0x208463#32) [px 1 7, px 2 8] [cpc 0x1004] &&
      one (.full 0xfe209ee3#32) [px 1 1, px 2 0] [cpc 0xffc] &&
      one (.full 0x20c863#32) [px 1 0xffffffffffffffff, px 2 0] [cpc 0x1010] &&
      one (.full 0x20e863#32) [px 1 0xffffffffffffffff, px 2 0] [cpc 0x1004] &&
      one (.full 0x20d863#32) [px 1 0x8000000000000000, px 2 0x8000000000000000] [cpc 0x1010] &&
      one (.full 0x8020f063#32) [px 1 1, px 2 0] [cpc 0] &&
      one (.full 0x1000ef#32) [] [cx 1 0x1004, cpc 0x1800] &&
      one (.full 0xfffff06f#32) [] [cx 0 0, cpc 0xffe] &&
      one (.full 0x1280e7#32) [px 5 0x2002] [cx 1 0x1004, cpc 0x2002] &&
      one (.full 0x282e7#32) [px 5 0x3000] [cx 5 0x1004]) = true := by decide +kernel

theorem test_step_memory :
    (one (.full 0x708183#32) [px 1 0x2000, pm 8 0x2000 0x8877665544332211] [cx 3 0xffffffffffffff88, cpc 0x1004] &&
      one (.full 0xc183#32) [px 1 0x2000, pm 8 0x2000 0x8877665544332211] [cx 3 17, cpc 0x1004] &&
      one (.full 0x609183#32) [px 1 0x2000, pm 8 0x2000 0x8877665544332211] [cx 3 0xffffffffffff8877, cpc 0x1004] &&
      one (.full 0x60d183#32) [px 1 0x2000, pm 8 0x2000 0x8877665544332211] [cx 3 0x8877, cpc 0x1004] &&
      one (.full 0x40a183#32) [px 1 0x2000, pm 8 0x2000 0x8877665544332211] [cx 3 0xffffffff88776655, cpc 0x1004] &&
      one (.full 0x40e183#32) [px 1 0x2000, pm 8 0x2000 0x8877665544332211] [cx 3 0x88776655, cpc 0x1004] &&
      one (.full 0xff80b183#32) [px 1 0x2008, pm 8 0x2000 0x8877665544332211] [cx 3 0x8877665544332211, cpc 0x1004] &&
      one (.full 0x10a183#32) [px 1 0x2000, pm 8 0x2000 0x8877665544332211] [cx 3 0x55443322, cpc 0x1004] &&
      one (.full 0xb083#32) [px 1 0x2000, pm 8 0x2000 0x8877665544332211] [cx 1 0x8877665544332211, cpc 0x1004] &&
      one (.full 0x2081a3#32) [px 1 0x2000, px 2 0x1234, pm 8 0x2000 0] [cm 8 0x2000 0x34000000, cpc 0x1004] &&
      one (.full 0x209123#32) [px 1 0x2000, px 2 0xabcd1234, pm 8 0x2000 0xffffffffffffffff] [cm 8 0x2000 0xffffffff1234ffff, cpc 0x1004] &&
      one (.full 0xfe20ae23#32) [px 1 0x2008, px 2 0x1122334455667788, pm 8 0x2000 0] [cm 8 0x2000 0x5566778800000000, cpc 0x1004]) = true := by decide +kernel

theorem test_step_memory_2 :
    (one (.full 0x20b023#32) [px 1 0x2000, px 2 0x8877665544332211, pm 8 0x2000 0] [cm 8 0x2000 0x8877665544332211, cpc 0x1004]) = true := by decide +kernel

theorem test_step_muldiv :
    (one (.full 0x22081b3#32) [px 1 0xffffffffffffffff, px 2 0xffffffffffffffff] [cx 3 1, cpc 0x1004] &&
      one (.full 0x22091b3#32) [px 1 0x8000000000000000, px 2 0x8000000000000000] [cx 3 0x4000000000000000, cpc 0x1004] &&
      one (.full 0x220b1b3#32) [px 1 0x8000000000000000, px 2 2] [cx 3 1, cpc 0x1004] &&
      one (.full 0x220a1b3#32) [px 1 0x8000000000000000, px 2 0xffffffffffffffff] [cx 3 0x8000000000000000, cpc 0x1004] &&
      one (.full 0x22081bb#32) [px 1 0xffffffff, px 2 0xffffffff] [cx 3 1, cpc 0x1004] &&
      one (.full 0x220c1b3#32) [px 1 0x8000000000000000, px 2 0xffffffffffffffff] [cx 3 0x8000000000000000, cpc 0x1004] &&
      one (.full 0x220c1b3#32) [px 1 7, px 2 0xfffffffffffffffe] [cx 3 0xfffffffffffffffd, cpc 0x1004] &&
      one (.full 0x220d1b3#32) [px 1 5, px 2 0] [cx 3 0xffffffffffffffff, cpc 0x1004] &&
      one (.full 0x220e1b3#32) [px 1 0x8000000000000000, px 2 0xffffffffffffffff] [cx 3 0, cpc 0x1004] &&
      one (.full 0x220e1b3#32) [px 1 7, px 2 0xfffffffffffffffe] [cx 3 1, cpc 0x1004] &&
      one (.full 0x220f1b3#32) [px 1 0xffffffffffffffff, px 2 0] [cx 3 0xffffffffffffffff, cpc 0x1004] &&
      one (.full 0x220c1bb#32) [px 1 0x7fffffff00000007, px 2 0x100000000] [cx 3 0xffffffffffffffff, cpc 0x1004]) = true := by decide +kernel

theorem test_step_muldiv_2 :
    (one (.full 0x220d1bb#32) [px 1 0x80000000, px 2 1] [cx 3 0xffffffff80000000, cpc 0x1004] &&
      one (.full 0x220e1bb#32) [px 1 0x80000001, px 2 0] [cx 3 0xffffffff80000001, cpc 0x1004] &&
      one (.full 0x220f1bb#32) [px 1 0xfffffff9, px 2 4] [cx 3 1, cpc 0x1004]) = true := by decide +kernel

theorem test_step_atomic :
    (one (.full 0x100522af#32) [de, px 10 0x2000, pm 4 0x2000 0x80000000] [cx 5 0xffffffff80000000, cres (some ⟨0x2000, 4⟩), cpc 0x1004] &&
      one (.full 0x1875232f#32) [de, px 10 0x2000, px 7 0x11223344aabbccdd, res 0x2000 4] [cm 4 0x2000 0xaabbccdd, cx 6 0, cres none, cpc 0x1004] &&
      one (.full 0x1875232f#32) [de, px 10 0x2000, px 7 1, pm 4 0x2000 5] [cx 6 1, cm 4 0x2000 5, cres none, cpc 0x1004] &&
      one (.full 0x1875332f#32) [de, px 10 0x2000, px 10 0x2004] [trapped 6 0x2004] &&
      one (.full 0x100532af#32) [de, px 10 0x2000, px 10 0x2001] [trapped 6 0x2001] &&
      one (.full 0x6522af#32) [de, px 10 0x2000, pm 4 0x2000 0x7fffffff, px 6 0xffffffff00000001] [cx 5 0x7fffffff, cm 4 0x2000 0x80000000, cpc 0x1004] &&
      one (.full 0x6522af#32) [de, px 10 0x2000, pm 4 0x2000 0xffffffff, px 6 1] [cx 5 0xffffffffffffffff, cm 4 0x2000 0, cpc 0x1004] &&
      one (.full 0x66532af#32) [de, px 10 0x2000, pm 8 0x2000 0xffffffffffffffff, px 6 2] [cx 5 0xffffffffffffffff, cm 8 0x2000 1, cpc 0x1004] &&
      one (.full 0x865332f#32) [de, px 10 0x2000, pm 8 0x2000 0x1111, px 6 0x2222] [cx 6 0x1111, cm 8 0x2000 0x2222, cpc 0x1004] &&
      one (.full 0xa06522af#32) [de, px 10 0x2000, pm 4 0x2000 0x80000000, px 6 1] [cx 5 0xffffffff80000000, cm 4 0x2000 1, cpc 0x1004] &&
      one (.full 0xe06522af#32) [de, px 10 0x2000, pm 4 0x2000 0x80000000, px 6 1] [cx 5 0xffffffff80000000, cm 4 0x2000 0x80000000, cpc 0x1004] &&
      one (.full 0xc06532af#32) [de, px 10 0x2000, pm 8 0x2000 0xffffffffffffffff, px 6 0] [cx 5 0xffffffffffffffff, cm 8 0x2000 0, cpc 0x1004]) = true := by decide +kernel

theorem test_step_atomic_2 :
    (one (.full 0x806532af#32) [de, px 10 0x2000, pm 8 0x2000 0xffffffffffffffff, px 6 0] [cx 5 0xffffffffffffffff, cm 8 0x2000 0xffffffffffffffff, cpc 0x1004] &&
      one (.full 0x2065202f#32) [de, px 10 0x2000, pm 4 0x2000 0xf0f0f0f, px 6 0xffffffff] [cm 4 0x2000 0xf0f0f0f0, cx 0 0, cpc 0x1004] &&
      one (.full 0x406532af#32) [de, px 10 0x2000, px 10 0x2004] [trapped 6 0x2004]) = true := by decide +kernel

theorem test_step_csr :
    (one (.full 0x340312f3#32) [(State.csrWrite · .mscratch 0x1111), px 6 0x2222] [cx 5 0x1111, csr .mscratch 0x2222, cpc 0x1004] &&
      one (.full 0x34031073#32) [px 6 0x3333] [csr .mscratch 0x3333, cpc 0x1004] &&
      one (.full 0x301022f3#32) [] [cx 5 0x800000000094112d, cpc 0x1004] &&
      one (.full 0xf14022f3#32) [State.switchHart] [cx 5 1] &&
      one (.full 0xf13062f3#32) [] [cx 5 0, cpc 0x1004] &&
      one (.full 0x30047073#32) [(State.csrWrite · .mstatus 0x2008)] [cpc 0x1004, csr .mstatus 0xa00002000] &&
      one (.full 0x1fd073#32) [frm 3] [cpc 0x1004, csr .fcsr 0x7f, csr .frm 3]) = true := by decide +kernel

theorem test_step_theadArith :
    (one (.full 0x20918b#32) [px 1 0xffffffffffffffff, px 2 1] [cx 3 0, cpc 0x1004] &&
      one (.full 0x620918b#32) [px 1 0, px 2 0x2000000000000001] [cx 3 8, cpc 0x1004] &&
      one (.full 0x2020918b#32) [px 1 0xffffffffffffffff, px 2 2, px 3 1] [cx 3 0xffffffffffffffff, cpc 0x1004] &&
      one (.full 0x2020900b#32) [px 1 3, px 2 4] [cx 0 0, cpc 0x1004] &&
      one (.full 0x2220918b#32) [px 1 2, px 2 3, px 3 6] [cx 3 0, cpc 0x1004] &&
      one (.full 0x2420918b#32) [px 1 0x10000, px 2 0x10000, px 3 0x1ffffffff] [cx 3 0xffffffffffffffff, cpc 0x1004] &&
      one (.full 0x2620918b#32) [px 1 2, px 2 3, px 3 5] [cx 3 0xffffffffffffffff, cpc 0x1004] &&
      one (.full 0x2820918b#32) [px 1 0x12348000, px 2 0x7fff, px 3 0] [cx 3 0xffffffffc0008000, cpc 0x1004] &&
      one (.full 0x2a20918b#32) [px 1 3, px 2 4, px 3 10] [cx 3 0xfffffffffffffffe, cpc 0x1004] &&
      one (.full 0x4020918b#32) [px 1 7, px 2 1, px 3 9] [cx 3 9, cpc 0x1004] &&
      one (.full 0x4220918b#32) [px 1 7, px 2 0x100000000, px 3 9] [cx 3 7, cpc 0x1004] &&
      one (.full 0x1000918b#32) [px 1 0x123] [cx 3 0x123, cpc 0x1004]) = true := by decide +kernel

theorem test_step_theadArith_2 :
    (one (.full 0x13f0918b#32) [px 1 0x8000000000000001] [cx 3 3, cpc 0x1004] &&
      one (.full 0x15f0918b#32) [px 1 0xdeadbeef40000000] [cx 3 0xffffffff80000000, cpc 0x1004] &&
      one (.full 0xfc00a18b#32) [px 1 0x8000000000000001] [cx 3 0x8000000000000001, cpc 0x1004] &&
      one (.full 0x1c70a18b#32) [px 1 0x80] [cx 3 0xffffffffffffffff, cpc 0x1004] &&
      one (.full 0xfe00b18b#32) [px 1 0xdeadbeef00000000] [cx 3 0xdeadbeef, cpc 0x1004] &&
      one (.full 0xb18b#32) [px 1 3] [cx 3 1, cpc 0x1004] &&
      one (.full 0x8400918b#32) [px 1 0] [cx 3 0, cpc 0x1004] &&
      one (.full 0x8400918b#32) [px 1 0xfffffffffffffffe] [cx 3 63, cpc 0x1004] &&
      one (.full 0x8600918b#32) [px 1 0] [cx 3 64, cpc 0x1004] &&
      one (.full 0x8600918b#32) [px 1 1] [cx 3 63, cpc 0x1004] &&
      one (.full 0x8200918b#32) [px 1 0x102030405060708] [cx 3 0x807060504030201, cpc 0x1004] &&
      one (.full 0x9000918b#32) [px 1 0xaaaaaaaa01020380] [cx 3 0xffffffff80030201, cpc 0x1004]) = true := by decide +kernel

theorem test_step_theadArith_3 :
    (one (.full 0x8bf0918b#32) [px 1 0x8000000000000000] [cx 3 1, cpc 0x1004] &&
      one (.full 0x8800918b#32) [px 1 0x8000000000000000] [cx 3 0, cpc 0x1004] &&
      one (.full 0x8000918b#32) [px 1 0xff010000000100] [cx 3 0xff0000ffffff00ff, cpc 0x1004] &&
      one (.full 0x8000918b#32) [px 1 0xffffffffffffffff] [cx 3 0, cpc 0x1004]) = true := by decide +kernel

theorem test_step_theadMem :
    (one (.full 0x4420c18b#32) [px 1 0x2000, px 2 1, pm 8 0x2000 0x8000000180000002] [cx 3 0xffffffff80000001, cpc 0x1004] &&
      one (.full 0x6620c18b#32) [px 1 0x2008, px 2 0xffffffffffffffff, pm 8 0x2000 0x8000000180000002] [cx 3 0x8000000180000002, cpc 0x1004] &&
      one (.full 0x7620c18b#32) [px 1 0x1ff8, px 2 0xffffffff00000001, pm 8 0x2000 0x8000000180000002] [cx 3 0x8000000180000002, cpc 0x1004] &&
      one (.full 0x8020c18b#32) [px 1 0x2000, px 2 7, pm 8 0x2000 0x8000000180000002] [cx 3 0x80, cpc 0x1004] &&
      one (.full 0x20c18b#32) [px 1 0x2000, px 2 7, pm 8 0x2000 0x8000000180000002] [cx 3 0xffffffffffffff80, cpc 0x1004] &&
      one (.full 0x4420d18b#32) [px 1 0x2000, px 2 1, px 3 0x1122334455667788, pm 8 0x2000 0] [cm 8 0x2000 0x5566778800000000, cpc 0x1004] &&
      one (.full 0x5c10c18b#32) [px 1 0x2000, pm 8 0x2000 0x8000000180000002] [cx 3 0xffffffff80000002, cx 1 0x2004, cpc 0x1004] &&
      one (.full 0x4c10c18b#32) [px 1 0x2000, pm 8 0x2000 0x8000000180000002] [cx 3 0xffffffff80000001, cx 1 0x2004, cpc 0x1004] &&
      one (.full 0x7f00c18b#32) [px 1 0x2000, pm 8 0x2000 0x8000000180000002] [cx 3 0x8000000180000002, cx 1 0x1f80, cpc 0x1004] &&
      one (.full 0x89f0c18b#32) [px 1 0x2008, pm 8 0x2000 0x8000000180000002] [cx 3 0x80, cx 1 0x2007, cpc 0x1004] &&
      one (.full 0x7e20d10b#32) [px 1 0x2000, px 2 0x8000000180000002, pm 8 0x2000 0] [cx 1 0x2010, cm 8 0x2000 0x8000000180000002, cpc 0x1004] &&
      one (.full 0x4c10d08b#32) [px 1 0x2000, pm 8 0x2000 0] [cx 1 0x2004, cm 8 0x2000 0x200000000000, cpc 0x1004]) = true := by decide +kernel

theorem test_step_theadMem_2 :
    (one (.full 0xfa40c18b#32) [px 1 0x1ff0, pm 8 0x2000 0x8000000180000002, pm 8 0x2008 0x8877665544332211] [cx 3 0x8000000180000002, cx 4 0x8877665544332211, cpc 0x1004] &&
      one (.full 0xe040c18b#32) [px 1 0x2000, pm 8 0x2000 0x8000000180000002] [cx 3 0xffffffff80000002, cx 4 0xffffffff80000001, cpc 0x1004] &&
      one (.full 0xf240c18b#32) [px 1 0x1ff8, pm 8 0x2000 0x8000000180000002] [cx 3 0x80000002, cx 4 0x80000001, cpc 0x1004] &&
      one (.full 0xf840d18b#32) [px 1 0x2000, px 3 1, px 4 2, pm 8 0x2000 0xffffffffffffffff, pm 8 0x2008 0xffffffffffffffff] [cm 8 0x2000 1, cm 8 0x2008 2, cpc 0x1004] &&
      one (.full 0xe640d18b#32) [px 1 0x1fe8, px 3 0xaaaaaaaa11111111, px 4 0xbbbbbbbb22222222, pm 8 0x2000 0] [cm 8 0x2000 0x2222222211111111, cpc 0x1004]) = true := by decide +kernel

theorem test_step_compressed :
    (one (.half 0x157d#16) [pm 8 0x2000 0x8877665544332211, px 10 0] [cx 10 0xffffffffffffffff, cpc 0x1002] &&
      one (.half 0x2505#16) [pm 8 0x2000 0x8877665544332211, px 10 0x7fffffff] [cx 10 0xffffffff80000000, cpc 0x1002] &&
      one (.half 0x5501#16) [pm 8 0x2000 0x8877665544332211, px 10 5] [cx 10 0xffffffffffffffe0, cpc 0x1002] &&
      one (.half 0x7501#16) [pm 8 0x2000 0x8877665544332211] [cx 10 0xfffffffffffe0000, cpc 0x1002] &&
      one (.half 0x7101#16) [pm 8 0x2000 0x8877665544332211, px 2 0x10000] [cx 2 0xfe00, cpc 0x1002] &&
      one (.half 0x1fe0#16) [pm 8 0x2000 0x8877665544332211, px 2 0x10000] [cx 8 0x103fc, cpc 0x1002] &&
      one (.half 0x157e#16) [pm 8 0x2000 0x8877665544332211, px 10 1] [cx 10 0x8000000000000000, cpc 0x1002] &&
      one (.half 0x8005#16) [pm 8 0x2000 0x8877665544332211, px 8 0x8000000000000000] [cx 8 0x4000000000000000, cpc 0x1002] &&
      one (.half 0x8405#16) [pm 8 0x2000 0x8877665544332211, px 8 0x8000000000000000] [cx 8 0xc000000000000000, cpc 0x1002] &&
      one (.half 0x9841#16) [pm 8 0x2000 0x8877665544332211, px 8 0x12345] [cx 8 0x12340, cpc 0x1002] &&
      one (.half 0x852e#16) [pm 8 0x2000 0x8877665544332211, px 11 77] [cx 10 77, cpc 0x1002] &&
      one (.half 0x952e#16) [pm 8 0x2000 0x8877665544332211, px 10 0xffffffffffffffff, px 11 2] [cx 10 1, cpc 0x1002]) = true := by decide +kernel

theorem test_step_compressed_2 :
    (one (.half 0x8c05#16) [pm 8 0x2000 0x8877665544332211, px 8 0, px 9 1] [cx 8 0xffffffffffffffff, cpc 0x1002] &&
      one (.half 0x9c05#16) [pm 8 0x2000 0x8877665544332211, px 8 0x80000000, px 9 1] [cx 8 0x7fffffff, cpc 0x1002] &&
      one (.half 0x9c25#16) [pm 8 0x2000 0x8877665544332211, px 8 0x7fffffff, px 9 1] [cx 8 0xffffffff80000000, cpc 0x1002] &&
      one (.half 0x8c21#16) [pm 8 0x2000 0x8877665544332211, px 8 0x1234] [cx 8 0, cpc 0x1002] &&
      one (.half 0x9282#16) [pm 8 0x2000 0x8877665544332211, px 5 0x2000] [cx 1 0x1002] &&
      one (.half 0x757e#16) [pm 8 0x2000 0x8877665544332211, px 2 0x1e08] [cx 10 0x8877665544332211, cpc 0x1002] &&
      one (.half 0x4502#16) [pm 8 0x2000 0x8877665544332211, px 2 0x2004] [cx 10 0xffffffff88776655, cpc 0x1002] &&
      one (.half 0x5c64#16) [pm 8 0x2000 0x8877665544332211, px 8 0x1f84] [cx 9 0x44332211, cpc 0x1002] &&
      one (.half 0x7c64#16) [pm 8 0x2000 0x8877665544332211, px 8 0x1f08] [cx 9 0x8877665544332211, cpc 0x1002] &&
      one (.half 0xe42e#16) [pm 8 0x2000 0x8877665544332211, px 2 0x1ff8, px 11 0x8877665544332211] [cm 8 0x2000 0x8877665544332211, cpc 0x1002] &&
      one (.half 0xdfae#16) [pm 8 0x2000 0x8877665544332211, px 2 0x1f04, px 11 0x8877665544332211] [cm 4 0x2000 0x44332211, cpc 0x1002] &&
      one (.half 0xc044#16) [pm 8 0x2000 0x8877665544332211, px 8 0x1ffc, px 9 0x8877665544332211] [cm 4 0x2000 0x44332211, cpc 0x1002]) = true := by decide +kernel

theorem test_step_compressed_3 :
    (one (.half 0xe004#16) [pm 8 0x2000 0x8877665544332211, px 8 0x2000, px 9 0x8877665544332211] [cm 8 0x2000 0x8877665544332211, cpc 0x1002] &&
      one (.half 0x1#16) [pm 8 0x2000 0x8877665544332211] [cpc 0x1002]) = true := by decide +kernel

theorem test_step_single :
    (one (.full 0x20f1d3#32) [pf 1 0xffffffff3f800000, pf 2 0xffffffff40000000] [cf 3 0xffffffff40400000, cfl 0, cpc 0x1004] &&
      one (.full 0x20f1d3#32) [pf 1 0x3f800000, pf 2 0xffffffff40000000] [cf 3 0xffffffff7fc00000, cfl 0, cpc 0x1004] &&
      one (.full 0x810f1d3#32) [pf 1 0xffffffff3f800000] [cf 3 0xffffffff00000000, cfl 0, cpc 0x1004] &&
      one (.full 0x1020f1d3#32) [pf 1 0xffffffff7f7fffff, pf 2 0xffffffff40000000] [cf 3 0xffffffff7f800000, cfl 5, cpc 0x1004] &&
      one (.full 0x102091d3#32) [pf 1 0xffffffff7f7fffff, pf 2 0xffffffff40000000] [cf 3 0xffffffff7f7fffff, cfl 5, cpc 0x1004] &&
      one (.full 0x1820f1d3#32) [pf 1 0xffffffff3f800000, pf 2 0xffffffff80000000] [cf 3 0xffffffffff800000, cfl 8, cpc 0x1004] &&
      one (.full 0x1820f1d3#32) [pf 2 0xffffffff00000000, pf 1 0xffffffff00000000] [cf 3 0xffffffff7fc00000, cfl 16, cpc 0x1004] &&
      one (.full 0x5800f1d3#32) [pf 1 0xffffffffbf800000] [cf 3 0xffffffff7fc00000, cfl 16, cpc 0x1004] &&
      one (.full 0x5800f1d3#32) [pf 1 0xffffffff80000000] [cf 3 0xffffffff80000000, cfl 0, cpc 0x1004] &&
      one (.full 0x1820f243#32) [pf 1 0xffffffff7f800000, pf 2 0xffffffff00000000, pf 3 0xffffffff7fc00000] [cf 4 0xffffffff7fc00000, cfl 16, cpc 0x1004] &&
      one (.full 0x282081d3#32) [pf 1 0xffffffff7f800001, pf 2 0xffffffff3f800000] [cf 3 0xffffffff3f800000, cfl 16, cpc 0x1004] &&
      one (.full 0x282081d3#32) [pf 1 0xffffffff7fc00001, pf 2 0xffffffffffc00000] [cf 3 0xffffffff7fc00000, cfl 0, cpc 0x1004]) = true := by decide +kernel

theorem test_step_single_2 :
    (one (.full 0x282091d3#32) [pf 1 0xffffffff80000000, pf 2 0xffffffff00000000] [cf 3 0xffffffff00000000, cfl 0, cpc 0x1004] &&
      one (.full 0xa020a2d3#32) [pf 1 0xffffffff7fc00000, pf 2 0xffffffff3f800000] [cx 5 0, cfl 0, cpc 0x1004] &&
      one (.full 0xa020a2d3#32) [pf 1 0xffffffff7f800001, pf 2 0xffffffff3f800000] [cx 5 0, cfl 16, cpc 0x1004] &&
      one (.full 0xa02092d3#32) [pf 1 0xffffffff7fc00000, pf 2 0xffffffff3f800000] [cx 5 0, cfl 16, cpc 0x1004] &&
      one (.full 0xa02082d3#32) [pf 1 0xffffffffff800000, pf 2 0xffffffffff800000] [cx 5 1, cfl 0, cpc 0x1004] &&
      one (.full 0xe00092d3#32) [pf 1 0] [cx 5 0x200, cfl 0, cpc 0x1004] &&
      one (.full 0xe00092d3#32) [pf 1 0xffffffff80000000] [cx 5 8, cfl 0, cpc 0x1004] &&
      one (.full 0xc000f2d3#32) [pf 1 0xffffffff7fc00000] [cx 5 0x7fffffff, cfl 16, cpc 0x1004] &&
      one (.full 0xc000f2d3#32) [pf 1 0xffffffffcf800000] [cx 5 0xffffffff80000000, cfl 16, cpc 0x1004] &&
      one (.full 0xc010f2d3#32) [pf 1 0xffffffffbf800000] [cx 5 0, cfl 16, cpc 0x1004] &&
      one (.full 0xc01092d3#32) [pf 1 0xffffffffbf000000] [cx 5 0, cfl 1, cpc 0x1004] &&
      one (.full 0xc020f2d3#32) [pf 1 0xffffffff7f800000] [cx 5 0x7fffffffffffffff, cfl 16, cpc 0x1004]) = true := by decide +kernel

theorem test_step_single_3 :
    (one (.full 0xc030f2d3#32) [pf 1 0xffffffffff800000] [cx 5 0, cfl 16, cpc 0x1004] &&
      one (.full 0xd002f1d3#32) [px 5 0xffffffff7fffffff] [cf 3 0xffffffff4f000000, cfl 1, cpc 0x1004] &&
      one (.full 0xd012f1d3#32) [px 5 0xffffffffffffffff] [cf 3 0xffffffff4f800000, cfl 1, cpc 0x1004] &&
      one (.full 0xd022f1d3#32) [px 5 0xffffffffffffffff] [cf 3 0xffffffffbf800000, cfl 0, cpc 0x1004] &&
      one (.full 0xe00082d3#32) [pf 1 0x12345678bf800000] [cx 5 0xffffffffbf800000, cfl 0, cpc 0x1004] &&
      one (.full 0xf00281d3#32) [px 5 0x123456783f800000] [cf 3 0xffffffff3f800000, cfl 0, cpc 0x1004] &&
      one (.full 0x201091d3#32) [pf 1 0x3f800000] [cf 3 0xffffffffffc00000, cfl 0, cpc 0x1004] &&
      one (.full 0x452187#32) [px 10 0x2000, pm 4 0x2004 0x7f800001] [cf 3 0xffffffff7f800001, cfl 0, cpc 0x1004] &&
      one (.full 0x352027#32) [px 10 0x2000, pf 3 0x4008000000000000] [cm 4 0x2000 0, cfl 0, cpc 0x1004]) = true := by decide +kernel

theorem test_step_double :
    (one (.full 0x220f1d3#32) [pf 1 0x3ff0000000000000, pf 2 0x3ca0000000000000] [cf 3 0x3ff0000000000000, cfl 1, cpc 0x1004] &&
      one (.full 0x220f1d3#32) [pf 1 0xffffffff3f800000, pf 2 0x3ff0000000000000] [cf 3 0x7ff8000000000000, cfl 0, cpc 0x1004] &&
      one (.full 0x5a00f1d3#32) [pf 1 0x4000000000000000] [cf 3 0x3ff6a09e667f3bcd, cfl 1, cpc 0x1004] &&
      one (.full 0x1a20f1d3#32) [pf 1 0x3ff0000000000000, pf 2 0x4024000000000000] [cf 3 0x3fb999999999999a, cfl 1, cpc 0x1004] &&
      one (.full 0x2a2091d3#32) [pf 1 0x7ff0000000000001, pf 2 0xfff0000000000000] [cf 3 0xfff0000000000000, cfl 16, cpc 0x1004] &&
      one (.full 0x4010f1d3#32) [pf 1 0x7e37e43c8800759c] [cf 3 0xffffffff7f800000, cfl 5, cpc 0x1004] &&
      one (.full 0x4010f1d3#32) [pf 1 0x3fb999999999999a] [cf 3 0xffffffff3dcccccd, cfl 1, cpc 0x1004] &&
      one (.full 0x420081d3#32) [pf 1 0xffffffff00000001] [cf 3 0x36a0000000000000, cfl 0, cpc 0x1004] &&
      one (.full 0x420081d3#32) [pf 1 0x3f800000] [cf 3 0x7ff8000000000000, cfl 0, cpc 0x1004] &&
      one (.full 0xc20092d3#32) [pf 1 0x4015000000000000] [cx 5 5, cfl 1, cpc 0x1004] &&
      one (.full 0xc200f2d3#32) [pf 1 0x41e0000000000000] [cx 5 0x7fffffff, cfl 16, cpc 0x1004] &&
      one (.full 0xc220f2d3#32) [pf 1 0x43e0000000000000] [cx 5 0x7fffffffffffffff, cfl 16, cpc 0x1004]) = true := by decide +kernel

theorem test_step_double_2 :
    (one (.full 0xc230f2d3#32) [pf 1 0x43e0000000000000] [cx 5 0x8000000000000000, cfl 0, cpc 0x1004] &&
      one (.full 0xd232f1d3#32) [px 5 0xffffffffffffffff] [cf 3 0x43f0000000000000, cfl 1, cpc 0x1004] &&
      one (.full 0xd20281d3#32) [px 5 0x80000000] [cf 3 0xc1e0000000000000, cfl 0, cpc 0x1004] &&
      one (.full 0xe20082d3#32) [pf 1 0x7ff0000000000001] [cx 5 0x7ff0000000000001, cfl 0, cpc 0x1004] &&
      one (.full 0xf20281d3#32) [px 5 0xffffffff3f800000] [cf 3 0xffffffff3f800000, cfl 0, cpc 0x1004] &&
      one (.full 0xe20092d3#32) [pf 1 0x8000000000000001] [cx 5 4, cfl 0, cpc 0x1004] &&
      one (.full 0xff853187#32) [px 10 0x2008, pm 8 0x2000 0x8877665544332211] [cf 3 0x8877665544332211, cfl 0, cpc 0x1004] &&
      one (.full 0x3530a7#32) [px 10 0x2000, pf 3 0x807060504030201] [cm 1 0x2001 1, cfl 0, cpc 0x1004]) = true := by decide +kernel

theorem test_step_half :
    (one (.full 0x420f1d3#32) [pf 1 0xffffffffffff3c00, pf 2 0xffffffffffff1000] [cf 3 0xffffffffffff3c00, cfl 1, cpc 0x1004] &&
      one (.full 0x420f1d3#32) [pf 1 0xffffffff00003c00, pf 2 0xffffffffffff3c00] [cf 3 0xffffffffffff7e00, cfl 0, cpc 0x1004] &&
      one (.full 0x1420f1d3#32) [pf 1 0xffffffffffff7bff, pf 2 0xffffffffffff4000] [cf 3 0xffffffffffff7c00, cfl 5, cpc 0x1004] &&
      one (.full 0x4400f1d3#32) [pf 1 0xffffffff40a80000] [cf 3 0xffffffffffff4540, cfl 0, cpc 0x1004] &&
      one (.full 0x4400f1d3#32) [pf 1 0xffffffff477ff000] [cf 3 0xffffffffffff7c00, cfl 5, cpc 0x1004] &&
      one (.full 0x402081d3#32) [pf 1 0xffffffffffff0001] [cf 3 0xffffffff33800000, cfl 0, cpc 0x1004] &&
      one (.full 0x422081d3#32) [pf 1 0xffffffffffff0001] [cf 3 0x3e70000000000000, cfl 0, cpc 0x1004] &&
      one (.full 0x4410f1d3#32) [pf 1 0x3fb999999999999a] [cf 3 0xffffffffffff2e66, cfl 1, cpc 0x1004] &&
      one (.full 0xc40092d3#32) [pf 1 0xffffffffffffc540] [cx 5 0xfffffffffffffffb, cfl 1, cpc 0x1004] &&
      one (.full 0xc410f2d3#32) [pf 1 0xffffffffffff7c00] [cx 5 0xffffffffffffffff, cfl 16, cpc 0x1004] &&
      one (.full 0xd402f1d3#32) [px 5 0x801] [cf 3 0xffffffffffff6800, cfl 1, cpc 0x1004] &&
      one (.full 0xd422f1d3#32) [px 5 0x10000] [cf 3 0xffffffffffff7c00, cfl 5, cpc 0x1004]) = true := by decide +kernel

theorem test_step_half_2 :
    (one (.full 0xe40082d3#32) [pf 1 0xc000] [cx 5 0xffffffffffffc000, cfl 0, cpc 0x1004] &&
      one (.full 0xf40281d3#32) [px 5 0xffffffffffff0001] [cf 3 0xffffffffffff0001, cfl 0, cpc 0x1004] &&
      one (.full 0xe40092d3#32) [pf 1 0xffffffffffff7e00] [cx 5 0x200, cfl 0, cpc 0x1004] &&
      one (.full 0x2c2081d3#32) [pf 1 0xffffffffffff7d00, pf 2 0xffffffffffffc000] [cf 3 0xffffffffffffc000, cfl 16, cpc 0x1004] &&
      one (.full 0xa42092d3#32) [pf 1 0xfffffffffffffc00, pf 2 0xffffffffffff7c00] [cx 5 1, cfl 0, cpc 0x1004] &&
      one (.full 0x251187#32) [px 10 0x2000, pm 2 0x2002 0x3c00] [cf 3 0xffffffffffff3c00, cfl 0, cpc 0x1004] &&
      one (.full 0x351027#32) [px 10 0x2000, pf 3 0x123456789abcdef] [cm 2 0x2000 0xcdef, cfl 0, cpc 0x1004]) = true := by decide +kernel

/-! ### The system: traps, protection, translation, devices, caches

95_test_vectors sections 2.13 to 2.17 and 3. -/

/-- The state after an instruction. -/
def after (i : Instr) (s : State) : State :=
  match exec i s with
  | .next t => t
  | _ => State.reset

/-- A word store and load through the instructions. -/
def swAt (a v : Nat) (s : State) : State := after (.sw 2 1 0) (s |> px 1 a |> px 2 v)
def lwAt (a : Nat) (s : State) : State := after (.lwu 3 1 0) (s |> px 1 a)

/-- Where an address goes, or which exception it raises. -/
def okAt (r : Res Place) (pa : Nat) : Bool :=
  match r with
  | .ok p _ => p.pa.toNat == pa
  | _ => false
def trapAt (r : Res Place) (c : Nat) : Bool :=
  match r with
  | .trap c' _ _ => c' == c
  | _ => false

/-- The PMP setting of 95_test_vectors section 1.3. -/
def pmpLab : State :=
  lab |> (State.csrWrite · (.pmpaddr 0) 0x3c000000) |> (State.csrWrite · (.pmpaddr 1) 0x3cffffff)
    |> (State.csrWrite · (.pmpaddr 2) 0x3ffdcdff) |> (State.csrWrite · (.pmpaddr 3) 0x3fff03ff)
    |> (State.csrWrite · (.pmpaddr 4) 0x3dffffff) |> (State.csrWrite · (.pmpaddr 5) 0x3fffffffff)
    |> (State.csrWrite · .pmpcfg0 0x000088989b9b9b8f)

theorem test_pmp :
    (okAt (pmpLab.resolve .load 0x1000) 0x1000 && trapAt (pmpLab.resolve .fetch 0xf0001000) 1 &&
      trapAt (pmpLab.resolve .load 0xf8000000) 5 && okAt ((sm pmpLab).resolve .store 0xfffc1ffc) 0xfffc1ffc &&
      trapAt ((sm pmpLab).resolve .store 0xfffc2000) 7 && trapAt ((um pmpLab).resolve .load 0xfffffff000) 5) = true := by
  decide +kernel

/-- All of memory open to S and U mode, and a three-level page table (95_test_vectors section 2.14). -/
def openLab : State := lab |> (State.csrWrite · (.pmpaddr 0) 0x3fffffffff) |> (State.csrWrite · .pmpcfg0 0x0f)
def mmuLab : State :=
  openLab |> pm 8 0x80000008 0x0000000020000401 |> pm 8 0x80001008 0x0000000020000801
    |> pm 8 0x80002008 0x70000000240000ff |> (State.csrWrite · .satp 0x8000000000080000)
    |> (State.csrWrite · .mxstatus 0x608000)

theorem test_sv39 :
    (okAt ((um mmuLab).resolve .load 0x40201008) 0x90000008 && trapAt ((sm mmuLab).resolve .load 0x40201008) 13 &&
      okAt ((sm (mmuLab.csrWrite .mstatus 0x42000)).resolve .load 0x40201008) 0x90000008 &&
      trapAt ((um (pm 8 0x80002008 0x700000002400007f mmuLab)).resolve .store 0x40201008) 15 &&
      trapAt ((um (pm 8 0x80001008 0x70000000240004ff mmuLab)).resolve .load 0x40201008) 13 &&
      okAt ((um (pm 8 0x80001008 0x70000000240000ff mmuLab)).resolve .load 0x402abcd8) 0x900abcd8 &&
      okAt ((mmuLab.csrWrite .mstatus 0x22000).resolve .load 0x40201008) 0x90000008 &&
      trapAt ((sm mmuLab).resolve .load 0x4000000000) 13) = true := by
  decide +kernel

theorem test_page_fault_notes_smeh :
    (let t := after (.ld 3 1 0) (sm mmuLab |> px 1 0x40201008)
     t.me.m.mcause == 13 && t.me.m.mtval == 0x40201008 && field t.me.smmu.smeh 19 27 == 0x40201) = true := by
  decide +kernel

theorem test_clint :
    (let s := swAt 0xc004000 0 (swAt 0xc004004 1 { lab with mtime := 0xffffffff })
     (swAt 0xc000004 1 lab).clint1.msip && s.clint0.mtimecmp == 0x100000000 && !s.pending 7 &&
       (s.passTime 1).pending 7) = true := by
  decide +kernel

theorem test_plic :
    (let s := swAt 0x8001000 2 (swAt 0x8002000 2 (swAt 0x8000004 0x1f (swAt 0x8200000 10 lab)))
     let t := lwAt 0x8200004 s
     s.pending 11 && cx 3 1 t && !t.pending 11 && t.plic.masked.getLsbD 1 && cx 3 0 (lwAt 0x8001000 t) &&
       !(swAt 0x8200004 1 t).plic.masked.getLsbD 1) = true := by
  decide +kernel

theorem test_ecall_enters_machine_mode :
    (let s := after .ecall ((lab.csrWrite .mtvec 0x80).csrWrite .mstatus 0x1808)
     s.me.m.mepc == 0x1000 && s.me.m.mcause == 11 && csr .mstatus 0xa00001880 s && s.me.pc == 0x80) = true := by
  decide +kernel

theorem test_delegated_exception_enters_supervisor_mode :
    (let s := (um (((lab.csrWrite .medeleg 4).csrWrite .stvec 0x4000).csrWrite .mstatus 2)).illegal (.full 0xffffffff)
     s.me.sup.sepc == 0x1000 && s.me.sup.scause == 2 && s.me.sup.stval == 0xffffffff && s.me.pc == 0x4000 &&
       s.me.priv == .supervisor && s.me.m.mcause == 0 && bit s.me.m.mstatus 5 && !bit s.me.m.mstatus 1) = true := by
  decide +kernel

theorem test_mret :
    (let s := after .mret ((lab.csrWrite .mepc 0x80000100).csrWrite .mstatus 0x808)
     s.me.pc == 0x80000100 && s.me.priv == .supervisor && !bit s.me.m.mstatus 3 && bit s.me.m.mstatus 7 &&
       field s.me.m.mstatus 11 2 == 0) = true := by
  decide +kernel

theorem test_vectored_interrupt :
    (let s := (lab.csrWrite .mtvec 0x101).takeInterrupt 11
     s.me.pc == 0x12c && s.me.m.mcause == 0x800000000000000b) = true := by
  decide +kernel

theorem test_wfi_wakes_without_mie :
    (let s := { (lab.csrWrite .mie 0x80).passTime 5 with clint0 := ⟨false, false, 3, 0xffffffffffffffff⟩ }
     s.wakeUp && s.interrupt?.isNone && (sm s).interrupt? == some 7) = true := by
  decide +kernel

theorem test_cache_gates :
    ((after .dcacheCall (nothead lab)).me.m.mtval == 0x10000b && (after .dcacheCall (um lab)).me.m.mcause == 2 &&
      (after (.dcacheCval1 4) (um lab)).me.m.mcause == 2 &&
      (after (.dcacheIva 4) (um (lab.csrWrite .mxstatus 0x418000))).me.m.mcause == 2 &&
      (after (.icacheIva 4) (sm mmuLab |> px 4 0x123000)).me.m.mtval == 0x123000) = true := by
  decide +kernel

/-- The first instruction after reset is fetched at the reset vector and run. -/
theorem test_first_step :
    (match step (State.reset.withFetchWord 32 0x00500093) with
     | .next t => cx 1 5 t && cpc 4 t
     | _ => false) = true := by
  decide +kernel

/-- 95_test_vectors section 1.5: a store over code that the I-cache holds is fetched after the D-cache clean, the I-cache
invalidation and SYNC.I, and not before. -/
theorem test_code_synchronisation :
    (let s := swAt 0x1000 0x13 ((on 7 lab).afterFetch 0b01110 0x1000 0x1000)
     let t := after .syncI (after (.icacheIva 1) (after (.dcacheCva 1) (s |> px 1 0x1000)))
     s.fetchedParcel 0b01110 0x1000 0x1000 == 0 && t.fetchedParcel 0b01110 0x1000 0x1000 == 0x13) = true := by
  decide +kernel

/-- 62_pmu_debug_power:R926: with SMPEN clear in the other core, that core's dirty line is not snooped, and this core reads the
old bytes; with it set, the new ones. -/
theorem test_smpen_gates_snoops :
    (let s := (swAt 0x2000 0x55 (on 6 lab)).switchHart
     let t := (swAt 0x2000 0x55 ((on 6 lab).csrWrite .msmpr 1)).switchHart
     cm 4 0x2000 0 s && cm 4 0x2000 0x55 t) = true := by
  decide +kernel

/-- 20_memory:R187, 48_thead_cache_sync:R689: with no snoops, a line that one core wrote before the other stored to another byte
of it and cleaned it undoes that store when it is written back. -/
theorem test_stale_line_is_written_back_whole :
    (let s := ((on 6 lab).switchHart.csrWrite .mhcr 6).csrWrite .mxstatus 0x408000
     let t := after .dcacheCall (swAt 0x2004 2 (swAt 0x2000 1 s).switchHart)
     let u := after .dcacheCall t.switchHart
     byteIn t.l2 0x2004 == some 2 && byteIn u.l2 0x2000 == some 1 && byteIn u.l2 0x2004 == some 0) = true := by
  decide +kernel

/-- 48_thead_cache_sync:R703, R714: a line that a load brought in is in the way that set/way operations select. -/
theorem test_set_way_reaches_loaded_lines :
    (let s := lwAt 0x2000 (on 2 lab)
     holds s.me.l1d 0x80 && !holds (after (.dcacheIsw 1) (px 1 0x2000 s)).me.l1d 0x80 &&
       holds (after (.dcacheIsw 1) (px 1 0x80002000 s)).me.l1d 0x80) = true := by
  decide +kernel

/-- 12_csr_extended:R137: with `mccr2.RFE` clear a miss brings the line into neither cache; with it set, into both. -/
theorem test_refill_needs_rfe :
    (let s := lwAt 0x2000 (lab.csrWrite .mhcr 2)
     let t := lwAt 0x2000 (on 2 lab)
     !holds s.l2 0x80 && !holds s.me.l1d 0x80 && holds t.l2 0x80 && holds t.me.l1d 0x80) = true := by
  decide +kernel

/-- 12_csr_extended:R137, 20_memory:R220: a miss on a full set of the L2 refills too; the line that leaves is one of the set. -/
theorem test_full_set_refills :
    let full : List CacheLine := (List.range 16).map fun i => CacheLine.clean (fun _ => 0) (0x80 + 1024 * (i + 1)) false
    let s : State := { on 2 lab with l2 := full }
    (s.l2Takes 0x80 && !roomFor full 0x80) = true ∧ holds (s.fillL2 0x80).l2 0x80 = true ∧
      ∀ k < 16, l2Victim full 0x80 (16 + k) = full[k]? :=
  ⟨by decide +kernel, (State.fillL2_spec _ _).2.2.2.2.1, by decide +kernel⟩

/-- 48_thead_cache_sync:R692, R697, R704: DCACHE.CIVA and DCACHE.IVA on a page that is not shareable leave the other core's dirty
line alone; the L2, which includes it, has it as memory does. -/
theorem test_unshared_page_leaves_other_core :
    (let quiet : Soc := { lab.soc with sysmap := Vector.replicate 8 ⟨0xfffffff, 0b01100⟩ }
     let line : CacheLine := ⟨0x80, false, .dirty, lineData (fun _ => 5) 0x80⟩
     let mine : CacheLine := ⟨0x80, false, .dirty, lineData (fun _ => 7) 0x80⟩
     let s : State := px 1 0x2000 { lab with soc := quiet, me := { lab.me with l1d := [mine] }, other := { lab.other with l1d := [line] }
                                             l2 := [mine] }
     let t := after (.dcacheCiva 1) s
     let u := after (.dcacheIva 1) s
     t.me.l1d == [] && t.other.l1d == [line] && t.l2 == [CacheLine.clean (fun _ => 7) 0x80 false] && Memory.read t.mem 0x2000 == 7 &&
       u.me.l1d == [] && u.other.l1d == [line] && u.l2 == [CacheLine.clean (fun _ => 0) 0x80 false] && u.mem == s.mem) = true := by
  decide +kernel

/-- 20_memory:R215, R217: a store to the device window, or one that ends in a bus error, ends the other core's reservations there. -/
theorem test_any_store_clears_remote_monitors :
    (let held (a : BitVec 40) (s : State) : State := { s with other := { s.other with
       lmon := some ⟨a, 4⟩, gmon := some ⟨a, 4⟩, th := { s.other.th with msmpr := 1 } } }
     let s := swAt 0xc000000 1 (held 0xc000000 lab)
     let t := swAt 0x2000 1 (held 0x2000 { lab with soc := { lab.soc with busErrors := [(0x2000, 0x2fff)] } })
     let u := swAt 0xc000000 1 (held 0xc004000 lab)
     s.other.lmon == none && s.other.gmon == none && t.other.lmon == none && t.other.gmon == none &&
       u.other.lmon != none && u.other.gmon != none) = true := by
  decide +kernel

/-- 20_memory:R224: a non-cacheable store over a line that is dirty in the other core, and a fetch after FENCE.I that snoops it. -/
theorem test_fence_i_sees_store_past_other_core :
    (let line : CacheLine := ⟨0x80, false, .dirty, lineData (fun _ => 5) 0x80⟩
     let s : State := { lab with other := { lab.other with l1d := [line], th := { lab.other.th with msmpr := 1 } }, l2 := [line] }
     (after (.fenceI 0 0 0) (s.storeData 0b00110 0x2000 (bytesLe 0x13 4))).fetchedParcel 0b01110 0x2000 0x2000 == 0x13) = true := by
  decide +kernel

/-- 20_memory:R222: two virtual addresses of one line that differ in bit 14 stand in two sets of the I-cache, and ICACHE.IVA
takes out the one alone. -/
theorem test_code_aliases :
    (let s := ((on 1 lab).fillIcache 0b01110 0x1000 0x1000).fillIcache 0b01110 0x5000 0x1000
     let t := after (.icacheIva 1) (px 1 0x1000 s)
     s.me.icache.map (·.set) == [0x140, 0x40] && t.me.icache.map (·.set) == [0x140] &&
       (after (.icacheIpa 1) (px 1 0x1000 s)).me.icache == []) = true := by
  decide +kernel

/-- 20_memory:R224: a store with the D-cache off goes past a line it holds, and a fetch after FENCE.I finds it. -/
theorem test_fence_i_sees_store_past_cache :
    (let s := swAt 0x2000 0x13 (nde (lwAt 0x2000 (on 2 lab)))
     (after (.fenceI 0 0 0) s).fetchedParcel 0b01110 0x2000 0x2000 == 0x13) = true := by
  decide +kernel

/-- 93_implementation_defined:U5, 62_pmu_debug_power:R905: a CSR write of minstret at its end does not wrap it by counting. -/
theorem test_write_of_minstret_does_not_count :
    (let s := after (.csrrw 0 0xb02 1) (px 1 5 (lab.csrWrite .minstret 0xffffffffffffffff))
     let t := after (.csrrw 0 0x340 1) (px 1 5 (lab.csrWrite .minstret 0xffffffffffffffff))
     s.me.pmu.minstret == 5 && !bit s.me.th.mcounterof 2 && t.me.pmu.minstret == 0 && bit t.me.th.mcounterof 2) = true := by
  decide +kernel

/-- 21_mmu_pmp:R266: a prefetch that the PMP denies is not performed. -/
theorem test_prefetch_obeys_pmp :
    (let s := on 2 lab
     holds (s.prefetchL2 false 0x2000).l2 0x80 && !holds ((um s).prefetchL2 false 0x2000).l2 0x80 &&
       holds ((um (on 2 openLab)).prefetchL2 true 0x2000).l2 0x80) = true := by
  decide +kernel

/-- 70_reset_and_hazards:R951: what the other core's walker noted is gone after a broadcast SFENCE and SYNC.IS. -/
theorem test_broadcast_fence_reaches_noted_values :
    (let s : State := { lab with other := { lab.other with oldPtes := [⟨0x2000, 5, false⟩] } }
     let t := after (.sfenceVma 0 0) s
     t.other.oldPtes == [⟨0x2000, 5, true⟩] && (after .syncIs t).other.oldPtes == []) = true := by
  decide +kernel

/-- 70_reset_and_hazards:R951: what a walk brings in from a value on its way out is on its way out too, and gone after SYNC.IS. -/
theorem test_broadcast_fence_reaches_late_walks :
    (let leaf : Leaf := { pte := 0x700000002400007f, level := 0, stale := true }
     let s : State := { sm mmuLab with other := ((sm mmuLab).refillFor .load leaf 0x40201008).me }
     s.other.tlb.leaving.length == 1 && s.other.tlb.joint == [] && s.other.tlb.data == [] &&
       (after .syncIs s).other.tlb.leaving == []) = true := by
  decide +kernel

/-- 11_csr_standard:R84 with 92_eei_decisions:D9: mip.SSIP and CLINT SSIP are one bit. -/
theorem test_ssip_is_one_bit :
    (let s := lab.csrWrite .mip 2
     let t := swAt 0xc00c000 0 s
     s.clint0.ssip && cx 3 1 (lwAt 0xc00c000 s) && !(s.csrWrite .mip 0).clint0.ssip && !t.pending 1) = true := by
  decide +kernel

/-! ### What well-formedness refuses -/

theorem test_illformed_operands :
    ([.faddS 1 2 3 5, .faddD 1 2 3 6, .faddH 1 2 3 5, .fmaddS 1 2 3 4 6, .fsqrtD 1 2 5, .fcvtWS 1 2 6, .fcvtDL 1 2 5,
      .fcvtSH 1 2 6, .cAdd 5 0, .cAddi 0 0, .cAddiw 0 1, .cAddi4spn 0 0, .cAddi16sp 0, .cJalr 0, .cJr 0, .cLdsp 0 1,
      .cLui 2 1, .cLui 3 0, .cLwsp 0 1, .cMv 5 0, .lbia 4 4 1 0, .lbib 4 4 1 0, .lbuia 4 4 1 0, .lbuib 4 4 1 0,
      .lhia 4 4 1 0, .lhib 4 4 1 0, .lhuia 4 4 1 0, .lhuib 4 4 1 0, .lwia 4 4 1 0, .lwib 4 4 1 0, .lwuia 4 4 1 0,
      .lwuib 4 4 1 0, .ldia 4 4 1 0, .ldib 4 4 1 0, .ldd 4 4 5 0, .lwd 4 5 4 0, .lwud 5 4 4 0] : List Instr).all
        (fun i => !i.wf) = true := by decide +kernel

/-- Reserved codes: the all-zero parcel, C.ADDI4SPN with 0, a reserved rounding mode, LR with rs2, a pair load with equal
registers, an unused opcode. -/
theorem test_reserved_codes_are_refused :
    refuses [.half 0, .half 0x0004, .full 0x003150d3, .full 0x1015a02f, .full 0xf832420b, .full 0xffffffff] = true := by
  decide +kernel

/-! ### Witnesses: the hypotheses of each statement are met -/

/-- What a lookup or a fetch may leave is as before. -/
def unmoved (s t : State) : Bool :=
  decide (t.me.tlb = s.me.tlb) && decide (t.me.icache = s.me.icache) && t.draws == s.draws

/-- A part of an instruction answers this value, or raises this, and leaves the hidden state alone. -/
def answers {α : Type} [DecidableEq α] (r : Res α) (v : α) (s : State) : Bool :=
  match r with
  | .ok w t => decide (w = v) && unmoved s t
  | _ => false
def raises {α : Type} (r : Res α) (c : Nat) (i : Word) (s : State) : Bool :=
  match r with
  | .trap d j t => d == c && j == i && unmoved s t
  | _ => false

theorem hidden_eq {s t : State} (h : Hidden s t) (hu : unmoved s t = true) : t = s := by
  simp only [unmoved, Bool.and_eq_true, decide_eq_true_eq, beq_iff_eq] at hu
  rw [h, hu.1.1, hu.2]

theorem fetches_eq {s t : State} (h : Fetches s t) (hu : unmoved s t = true) : t = s := by
  simp only [unmoved, Bool.and_eq_true, decide_eq_true_eq, beq_iff_eq] at hu
  rw [h, hu.1.1, hu.1.2, hu.2]

theorem eq_ok_of {α : Type} [DecidableEq α] {r : Res α} {v : α} {s : State} {Q : α → State → Prop}
    {E : Nat → Word → State → Prop} (hs : r.Sat Q E) (hq : ∀ w t, Q w t → unmoved s t = true → t = s)
    (h : answers r v s = true) : r = .ok v s := by
  cases r with
  | ok w t =>
    simp only [answers, Bool.and_eq_true, decide_eq_true_eq] at h
    rw [h.1, hq w t hs h.2]
  | _ => cases h

theorem eq_trap_of {α : Type} {r : Res α} {c : Nat} {i : Word} {s : State} {Q : α → State → Prop}
    {E : Nat → Word → State → Prop} (hs : r.Sat Q E) (he : ∀ d j t, E d j t → unmoved s t = true → t = s)
    (h : raises r c i s = true) : r = .trap c i s := by
  cases r with
  | trap d j t =>
    simp only [raises, Bool.and_eq_true, beq_iff_eq] at h
    rw [h.1.1, h.1.2, he d j t hs h.2]
  | _ => cases h

/-- A line can leave the caches and take no byte with it: what `State.Backed` asks, of each of its 64 bytes. -/
theorem backed_line {s : State} {attr : BitVec 5} {n : Nat}
    (h1 : ∀ l ∈ s.me.l1d, ∀ m ∈ s.me.l1d, l.line = n → m.line = n → l = m)
    (h2 : ∀ i < 64, (let a := 64 * n + i
      let seen := s.sees attr s.me.dcacheOn a
      let mine := dirtyByte s.me.l1d a
      let others := dirtyByte s.other.l1d a
      (s.snooped attr || others == none) && (others == none || others == some seen) && (mine == none || mine == some seen) &&
        (others != none || mine != none || s.l2Byte a == seen) &&
        (dirtyByte s.l2 a).getD (Memory.read s.mem a) == s.l2Byte a) = true) : s.Backed attr n := by
  refine fun _ => ⟨h1, fun a ha => ?_⟩
  have h := h2 (a % 64) (Nat.mod_lt _ (by decide))
  rw [show 64 * n + a % 64 = a by omega] at h
  simp only [Bool.and_eq_true, Bool.or_eq_true, beq_iff_eq, bne_iff_ne] at h
  refine ⟨fun hs => h.1.1.1.1.resolve_left (by rw [hs]; decide), fun b hb => ?_, fun ho hm => ?_, h.2⟩
  · rcases hb with hb | hb
    · have := h.1.1.1.2
      rw [hb] at this
      simpa using this
    · have := h.1.1.2
      rw [hb] at this
      simpa using this
  · rcases h.1.2 with (e | e) | e
    · exact absurd ho e
    · exact absurd hm e
    · exact e

/-- So is every line while the caches are empty. -/
def BackedFully (s : State) : Prop := ∀ attr n, s.Backed attr n

theorem backed_of {s : State} (h : (s.me.l1d.isEmpty && s.other.l1d.isEmpty && s.l2.isEmpty) = true) : BackedFully s := by
  simp only [Bool.and_eq_true, List.isEmpty_iff] at h
  intro attr n hc
  refine ⟨fun l hl => absurd hl (by rw [h.1.1]; exact List.not_mem_nil), fun a _ => ?_⟩
  have e : s.sees attr s.me.dcacheOn a = Memory.read s.mem a := by
    rw [State.sees_cacheable s hc]
    unfold State.l2Byte
    rw [h.1.1, h.1.2, h.2]
    cases s.me.dcacheOn <;> cases s.snooped attr <;> rfl
  dsimp only
  unfold State.l2Byte
  rw [e, h.1.1, h.1.2, h.2]
  refine ⟨fun _ => rfl, ?_, fun _ _ => rfl, rfl⟩
  intro b hb
  rcases hb with hb | hb <;> cases hb

theorem lands_of {s : State} {k : Access} {va : Word} {n : Nat} {ps : List Part}
    (h : (answers (s.plan k false va n) ps s &&
      ps.all fun p => !s.soc.inWindow p.place.pa && !s.soc.busError p.place.pa) = true) : Lands s k va n ps s := by
  simp only [Bool.and_eq_true, List.all_eq_true, Bool.not_eq_true'] at h
  exact ⟨eq_ok_of (State.plan_sat s k false va n) (fun _ _ h => hidden_eq h.1) h.1, h.2⟩

theorem plan_trap_of {s : State} {k : Access} {atomic : Bool} {va : Word} {n c : Nat} {i : Word}
    (h : raises (s.plan k atomic va n) c i s = true) :
    s.plan k atomic va n = .trap c i s := by
  exact eq_trap_of (State.plan_sat s k atomic va n) (fun _ _ _ hd => hidden_eq hd.1) h

theorem memRead_trap_of {s : State} {va : Word} {n c : Nat} {i : Word}
    (h : raises (s.plan .load false va n) c i s = true) :
    s.memRead va n = .trap c i s := by
  unfold State.memRead; rw [plan_trap_of h]; rfl

theorem memWrite_trap_of {s : State} {va : Word} {n v c : Nat} {i : Word}
    (h : raises (s.plan .store false va n) c i s = true) :
    s.memWrite va n v = .trap c i s := by
  unfold State.memWrite; rw [plan_trap_of h]; rfl

theorem memReadPair_trap_of {s : State} {va : Word} {n c : Nat} {i : Word}
    (h : raises (s.plan .load false va n) c i s = true) :
    s.memReadPair va n = .trap c i s := by
  unfold State.memReadPair; rw [plan_trap_of h]; rfl

theorem memWritePair_trap_of {s : State} {va : Word} {n v w c : Nat} {i : Word}
    (h : raises (s.plan .store false va n) c i s = true) :
    s.memWritePair va n v w = .trap c i s := by
  unfold State.memWritePair; rw [plan_trap_of h]; rfl

theorem memAmo_trap_of {s : State} {va : Word} {n c : Nat} {i : Word} {f : Nat → Nat}
    (h : raises (s.plan .amo true va n) c i s = true) :
    s.memAmo va n f = .trap c i s := by
  unfold State.memAmo; rw [plan_trap_of h]; rfl

theorem memLr_trap_of {s : State} {va : Word} {n c : Nat} {i : Word}
    (h : raises (s.plan .lr true va n) c i s = true) :
    s.memLr va n = .trap c i s := by
  unfold State.memLr; rw [plan_trap_of h]; rfl

theorem memSc_trap_of {s : State} {va : Word} {n v c : Nat} {i : Word}
    (h : raises (s.plan .store true va n) c i s = true) :
    s.memSc va n v = .trap c i s := by
  unfold State.memSc; rw [plan_trap_of h]; rfl

theorem resolve_ok_of {s : State} {k : Access} {va : Word} {pl : Place} (h : answers (s.resolve k va) pl s = true) :
    s.resolve k va = .ok pl s := eq_ok_of (State.resolve_sat s k va) (fun _ _ h => hidden_eq h) h

theorem resolve_trap_of {s : State} {k : Access} {va : Word} {c : Nat} {i : Word}
    (h : raises (s.resolve k va) c i s = true) : s.resolve k va = .trap c i s :=
  eq_trap_of (State.resolve_sat s k va) (fun _ _ _ h => hidden_eq h.1) h

theorem translate_ok_of {s : State} {k : Access} {va : Word} {pl : Place} (h : answers (s.translate k va) pl s = true) :
    s.translate k va = .ok pl s := eq_ok_of (State.translate_sat s k va) (fun _ _ h => hidden_eq h) h

theorem translate_trap_of {s : State} {k : Access} {va : Word} {c : Nat} {i : Word}
    (h : raises (s.translate k va) c i s = true) : s.translate k va = .trap c i s :=
  eq_trap_of (State.translate_sat s k va) (fun _ _ _ h => hidden_eq h.1) h

theorem fetch_ok_of {s : State} {c : Code} (h : answers s.fetch c s = true) : s.fetch = .ok c s :=
  eq_ok_of (State.fetch_sat s) (fun _ _ h => fetches_eq h) h

theorem fetch_trap_of {s : State} {c : Nat} {i : Word} (h : raises s.fetch c i s = true) : s.fetch = .trap c i s :=
  eq_trap_of (State.fetch_sat s) (fun _ _ _ h => fetches_eq h.1) h

/-- A part of an access at ordinary memory, by machine mode. -/
def place (pa : BitVec 40) : Place := ⟨pa, 0b01110, .machine⟩
def part (pa : BitVec 40) (n : Nat) : Part := ⟨place pa, n⟩

/-- Register 1 points to memory; the same where hardware does not split. -/
def ptr : State := px 1 0x2000 lab
def strict : State := px 1 0x2001 (lab.csrWrite .mxstatus 0x400000)

theorem witness_LoadsAndStores :
    let va := ptr.getX 1 + (0#12).signExtend 64
    let odd := ptr.getX 1 + (0xfff#12).signExtend 64
    let bad := strict.getX 1 + (0#12).signExtend 64
    Lands ptr .load va 1 [part 0x2000 1] ptr ∧ Lands ptr .store va 1 [part 0x2000 1] ptr ∧
      Lands ptr .load va 2 [part 0x2000 2] ptr ∧ Lands ptr .store va 2 [part 0x2000 2] ptr ∧
      Lands ptr .load va 4 [part 0x2000 4] ptr ∧ Lands ptr .store va 4 [part 0x2000 4] ptr ∧
      Lands ptr .load va 8 [part 0x2000 8] ptr ∧ Lands ptr .store va 8 [part 0x2000 8] ptr ∧
      Lands ptr .load odd 2 [part 0x1fff 1, part 0x2000 1] ptr ∧
      Lands ptr .store odd 2 [part 0x1fff 1, part 0x2000 1] ptr ∧ BackedFully ptr ∧
      strict.memRead bad 8 = .trap 4 bad strict ∧ strict.memWrite bad 4 7 = .trap 6 bad strict ∧
      (sm strict).memRead bad 1 = .trap 5 bad (sm strict) ∧ (sm strict).memWrite bad 1 7 = .trap 7 bad (sm strict) := by
  intros
  repeat' first
    | apply lands_of | apply memRead_trap_of | apply memWrite_trap_of | apply memReadPair_trap_of
    | apply memWritePair_trap_of | apply backed_of | apply And.intro
  all_goals decide +kernel

/-- An access in two parts, and lines that are backed: a clean one that holds what lies below, a dirty one. -/
theorem witness_split_access :
    ptr.Apart [part 0x1fff 1, part 0x2000 1] ∧ (part 0x1fff 1).Covers 0x1fff ∧
      (let s : State := { de ptr with
        me := { (de ptr).me with l1d :=
          [CacheLine.clean (fun _ => 0) 0x80 false, ⟨0x81, false, .dirty, lineData (fun _ => 5) 0x81⟩] }
        l2 := [CacheLine.clean (fun _ => 0) 0x80 false, CacheLine.clean (fun _ => 0) 0x81 false] }
       s.Backed 0b01110 0x80 ∧ s.Backed 0b01110 0x81) :=
  ⟨.inr ⟨0b01110, by simp [part, place, State.Alike], fun _ _ a _ => backed_of (by decide +kernel) _ _⟩,
    by unfold Part.Covers; decide +kernel, backed_line (by decide +kernel) (by decide +kernel),
    backed_line (by decide +kernel) (by decide +kernel)⟩

theorem witness_CompressedMemory :
    let s := px 8 0x2000 (px 2 0x3000 lab)
    let u := px 8 0x2001 strict
    (∀ k ∈ [Access.load, .store], Lands s k (s.getX (creg 0) + ((31#5).setWidth 64 <<< 2)) 4 [part 0x207c 4] s ∧
      Lands s k (s.getX (creg 0) + ((31#5).setWidth 64 <<< 3)) 8 [part 0x20f8 8] s ∧
      Lands s k (s.getX 2 + ((63#6).setWidth 64 <<< 2)) 4 [part 0x30fc 4] s ∧
      Lands s k (s.getX 2 + ((63#6).setWidth 64 <<< 3)) 8 [part 0x31f8 8] s) ∧
      BackedFully s ∧ u.memRead (u.getX (creg 0)) 4 = .trap 4 0x2001 u ∧ u.memWrite (u.getX (creg 0)) 8 1 = .trap 6 0x2001 u := by
  refine ⟨?_, backed_of (by decide +kernel), memRead_trap_of (by decide +kernel), memWrite_trap_of (by decide +kernel)⟩
  simp only [List.forall_mem_cons]
  exact ⟨⟨lands_of (by decide +kernel), lands_of (by decide +kernel), lands_of (by decide +kernel),
    lands_of (by decide +kernel)⟩, ⟨lands_of (by decide +kernel), lands_of (by decide +kernel),
    lands_of (by decide +kernel), lands_of (by decide +kernel)⟩, by simp⟩

theorem landsAtomic_of {s : State} {k : Access} {va : Word} {n : Nat} {pl : Place}
    (h : (answers (s.resolve k va) pl s && va.toNat % n == 0 && !s.soc.inWindow pl.pa && !s.soc.busError pl.pa &&
      (cacheable pl.attr || s.soc.exclusiveMonitor)) = true) : LandsAtomic s k va n pl := by
  simp only [Bool.and_eq_true, beq_iff_eq, Bool.not_eq_true', Bool.or_eq_true] at h
  exact ⟨h.1.1.1.2, ⟨s, resolve_ok_of h.1.1.1.1⟩, ⟨h.1.1.2, h.1.2⟩, h.2⟩

/-- For AmoWord and AmoDoubleword. -/
theorem witness_Amo :
    LandsAtomic ptr .amo (ptr.getX 1) 4 (place 0x2000) ∧ LandsAtomic ptr .amo (ptr.getX 1) 8 (place 0x2000) ∧
      BackedFully ptr ∧ strict.memAmo (strict.getX 1) 4 id = .trap 6 0x2001 strict ∧
      (sm ptr).memAmo ((sm ptr).getX 1) 8 id = .trap 7 0x2000 (sm ptr) :=
  ⟨landsAtomic_of (by decide +kernel), landsAtomic_of (by decide +kernel), backed_of (by decide +kernel), memAmo_trap_of (by decide +kernel),
    memAmo_trap_of (by decide +kernel)⟩

/-- Memory without a cacheable region: the second region of the map, bufferable only. -/
def bufferable : State := { ptr with soc := { ptr.soc with sysmap := #v[⟨0x08000, 0b00110⟩, ⟨0x10000, 0b10010⟩,
  ⟨0xfffffff, 0b01110⟩, ⟨0xfffffff, 0b01110⟩, ⟨0xfffffff, 0b01110⟩, ⟨0xfffffff, 0b01110⟩, ⟨0xfffffff, 0b01110⟩,
  ⟨0xfffffff, 0b01110⟩] } }
def held (s : State) : State := { s with me := { s.me with lmon := some ⟨0x2000, 8⟩, gmon := some ⟨0x2000, 8⟩ } }

theorem witness_ReservedAndConditional :
    LandsAtomic ptr .lr (ptr.getX 1) 8 (place 0x2000) ∧
      LandsAtomic bufferable .lr (bufferable.getX 1) 4 ⟨0x2000, 0b00110, .machine⟩ ∧ BackedFully ptr ∧
      BackedFully bufferable ∧ BackedFully (held (de ptr)) ∧ BackedFully (held (de bufferable)) ∧
      strict.memLr (strict.getX 1) 4 = .trap 6 0x2001 strict ∧ strict.memSc (strict.getX 1) 4 9 = .trap 6 0x2001 strict ∧
      (let s := held (de ptr)
       s.resolve .store (s.getX 1) = .ok (place 0x2000) s ∧ Plain s (place 0x2000) ∧ ScHolds s (place 0x2000) 8 ∧
         ¬ ScHolds s (place 0x2000) 4 ∧ ¬ ScHolds (de ptr) (place 0x2000) 8) ∧
      (let s := held (de bufferable)
       s.resolve .store (s.getX 1) = .ok ⟨0x2000, 0b00110, .machine⟩ s ∧ ScHolds s ⟨0x2000, 0b00110, .machine⟩ 8) := by
  refine ⟨landsAtomic_of (by decide +kernel), landsAtomic_of (by decide +kernel), backed_of (by decide +kernel),
    backed_of (by decide +kernel), backed_of (by decide +kernel), backed_of (by decide +kernel), memLr_trap_of (by decide +kernel),
    memSc_trap_of (by decide +kernel), ⟨resolve_ok_of (by decide +kernel), ?_⟩, resolve_ok_of (by decide +kernel), ?_⟩
  · unfold Plain ScHolds
    decide +kernel
  · unfold ScHolds
    decide +kernel

/-- `MayAccess` as a test. -/
def may (h : Hart) (n : Nat) (write : Bool) : Bool :=
  decide (h.priv = .user → n ≤ 0x003 ∨ n = 0x800 ∨ (0xc00 ≤ n ∧ n ≤ 0xc1f)) &&
  decide (h.priv = .supervisor → (n ≤ 0x003 ∨ n = 0x800 ∨ (0xc00 ≤ n ∧ n ≤ 0xc1f)) ∨
    (0x100 ≤ n ∧ n ≤ 0x1ff) ∨ (0x500 ≤ n ∧ n ≤ 0x5ff) ∨ (0x9c0 ≤ n ∧ n ≤ 0x9cf)) &&
  decide (write = true → n ≠ 0x5c1 ∧ n ≠ 0x7c7 ∧ n < 0xc00) &&
  decide (n ≤ 0x003 ∨ n = 0x800 → field h.m.mstatus 13 2 ≠ 0) &&
  decide (n = 0x180 → h.priv = .supervisor → h.m.mstatus.getLsbD 20 = false) &&
  decide (0xc00 ≤ n → n ≤ 0xc1f → (h.priv ≠ .machine → h.m.mcounteren.getLsbD (n - 0xc00) = true) ∧
    (h.priv = .user → h.sup.scounteren.getLsbD (n - 0xc00) = true)) &&
  decide (0x5e0 ≤ n → n ≤ 0x5ff → write = true → h.priv = .supervisor → h.th.mcounterwen.getLsbD (n - 0x5e0) = true)

theorem may_of {h : Hart} {n : Nat} {write : Bool} : h.MayAccess n write ↔ may h n write = true := by
  simp only [may, Bool.and_eq_true, decide_eq_true_eq, and_assoc]
  exact Iff.rfl

theorem witness_CsrInstructions :
    Csr.mscratch.number = (0x340#12).toNat ∧ lab.me.MayAccess 0x340 true ∧ ¬ (um lab).me.MayAccess 0x340 false ∧
      Csr.mhartid.number = (0xf14#12).toNat ∧ lab.me.MayAccess 0xf14 false ∧ ¬ lab.me.MayAccess 0xf14 true ∧
      (um lab).me.MayAccess 3 true ∧ ¬ (um (nofs lab)).me.MayAccess 3 false ∧
      (sm lab).me.MayAccess 0x180 true ∧ ¬ (sm (lab.csrWrite .mstatus 0x100000)).me.MayAccess 0x180 false ∧
      ¬ (sm lab).me.MayAccess 0xc1f false ∧ (sm (lab.csrWrite .mcounteren 0x80000000)).me.MayAccess 0xc1f false ∧
      ¬ (um (lab.csrWrite .mcounteren 0x80000000)).me.MayAccess 0xc1f false ∧
      ¬ (sm lab).me.MayAccess 0x5e0 true ∧ (sm lab).me.MayAccess 0x5e0 false ∧
      (sm (lab.csrWrite .mcounterwen 1)).me.MayAccess 0x5e0 true ∧
      (∀ c : Csr, c.number ≠ (0x7d1#12).toNat) ∧ (0#5 != 0) = false ∧ (31#5 != 0) = true := by
  have h : ∀ c : Csr, c.number ≠ (0x7d1#12).toNat := by
    intro c
    cases c <;> simp only [Csr.number, ne_eq] <;> first | decide | (intro e; simp at e; omega)
  refine ⟨by decide, may_of.2 (by decide +kernel), fun e => absurd (may_of.1 e) (by decide +kernel), by decide,
    may_of.2 (by decide +kernel), fun e => absurd (may_of.1 e) (by decide +kernel), may_of.2 (by decide +kernel),
    fun e => absurd (may_of.1 e) (by decide +kernel), may_of.2 (by decide +kernel),
    fun e => absurd (may_of.1 e) (by decide +kernel), fun e => absurd (may_of.1 e) (by decide +kernel),
    may_of.2 (by decide +kernel), fun e => absurd (may_of.1 e) (by decide +kernel),
    fun e => absurd (may_of.1 e) (by decide +kernel), may_of.2 (by decide +kernel), may_of.2 (by decide +kernel), h, by decide, by decide⟩

theorem witness_CallsAndReturns :
    lab.me.priv = .machine ∧ (um lab).me.priv ≠ .machine ∧
      ((sm lab).me.priv = .supervisor ∧ (sm lab).me.m.mstatus.getLsbD 22 = false) ∧
      (let s := sm (lab.csrWrite .mstatus 0x400000)
       s.me.priv = .supervisor ∧ s.me.m.mstatus.getLsbD 22 = true) := by
  decide +kernel

theorem witness_FencesAndWait :
    (lab.csrWrite .mhint 0x800000).me.th.mhint.getLsbD 23 = true ∧ lab.me.th.mxstatus.getLsbD 19 = false ∧
      (0b01110#5).getLsbD 3 = true ∧
      ¬ (lab.me.priv = .supervisor ∧ lab.me.m.mstatus.getLsbD 21 = true) ∧
      ¬ ((sm lab).me.priv = .supervisor ∧ (sm lab).me.m.mstatus.getLsbD 21 = true) ∧
      (let s := sm (lab.csrWrite .mstatus 0x200000)
       s.me.priv = .supervisor ∧ s.me.m.mstatus.getLsbD 21 = true) := by
  decide +kernel

theorem witness_TlbFences :
    (lab.me.theadOn = true ∧ lab.me.priv = .machine) ∧
      ((sm lab).me.priv = .supervisor ∧ (sm lab).me.m.mstatus.getLsbD 20 = false) ∧
      (nothead lab).me.theadOn = false ∧ (um lab).me.priv = .user ∧
      (let s := sm (lab.csrWrite .mstatus 0x100000)
       s.me.priv = .supervisor ∧ s.me.m.mstatus.getLsbD 20 = true) := by
  decide +kernel

theorem witness_IndexedAccess :
    let s := px 2 0x10 ptr
    let va := s.getX 1 + (s.getX 2 <<< (3#2).toNat)
    let u := px 2 0 strict
    let bad := u.getX 1 + (u.getX 2 <<< (0#2).toNat)
    s.me.theadOn = true ∧ BackedFully s ∧
      Lands s .load va 1 [part 0x2080 1] s ∧ Lands s .store va 1 [part 0x2080 1] s ∧
      Lands s .load va 2 [part 0x2080 2] s ∧ Lands s .store va 2 [part 0x2080 2] s ∧
      Lands s .load va 4 [part 0x2080 4] s ∧ Lands s .store va 4 [part 0x2080 4] s ∧
      Lands s .load va 8 [part 0x2080 8] s ∧ Lands s .store va 8 [part 0x2080 8] s ∧
      u.me.theadOn = true ∧ u.memRead bad 2 = .trap 4 bad u ∧ u.memWrite bad 2 0 = .trap 6 bad u := by
  intros
  repeat' first
    | apply lands_of | apply memRead_trap_of | apply memWrite_trap_of | apply memReadPair_trap_of
    | apply memWritePair_trap_of | apply backed_of | apply And.intro
  all_goals decide +kernel

theorem witness_IndexedUnsignedAccess :
    let s := px 2 0xffffffff00000010 ptr
    let va := s.getX 1 + (((s.getX 2).setWidth 32).setWidth 64 <<< (3#2).toNat)
    let u := px 2 0xffffffff00000000 strict
    let bad := u.getX 1 + (((u.getX 2).setWidth 32).setWidth 64 <<< (0#2).toNat)
    s.me.theadOn = true ∧ BackedFully s ∧
      Lands s .load va 1 [part 0x2080 1] s ∧ Lands s .store va 1 [part 0x2080 1] s ∧
      Lands s .load va 2 [part 0x2080 2] s ∧ Lands s .store va 2 [part 0x2080 2] s ∧
      Lands s .load va 4 [part 0x2080 4] s ∧ Lands s .store va 4 [part 0x2080 4] s ∧
      Lands s .load va 8 [part 0x2080 8] s ∧ Lands s .store va 8 [part 0x2080 8] s ∧
      u.me.theadOn = true ∧ u.memRead bad 2 = .trap 4 bad u ∧ u.memWrite bad 2 0 = .trap 6 bad u := by
  intros
  repeat' first
    | apply lands_of | apply memRead_trap_of | apply memWrite_trap_of | apply memReadPair_trap_of
    | apply memWritePair_trap_of | apply backed_of | apply And.intro
  all_goals decide +kernel

theorem witness_UpdateAfterAccess :
    let bad := strict.getX 1
    ptr.me.theadOn = true ∧ (3#5 ≠ 1#5) ∧ BackedFully ptr ∧
      Lands ptr .load (ptr.getX 1) 1 [part 0x2000 1] ptr ∧ Lands ptr .store (ptr.getX 1) 1 [part 0x2000 1] ptr ∧
      Lands ptr .load (ptr.getX 1) 2 [part 0x2000 2] ptr ∧ Lands ptr .store (ptr.getX 1) 2 [part 0x2000 2] ptr ∧
      Lands ptr .load (ptr.getX 1) 4 [part 0x2000 4] ptr ∧ Lands ptr .store (ptr.getX 1) 4 [part 0x2000 4] ptr ∧
      Lands ptr .load (ptr.getX 1) 8 [part 0x2000 8] ptr ∧ Lands ptr .store (ptr.getX 1) 8 [part 0x2000 8] ptr ∧
      strict.me.theadOn = true ∧ strict.memRead bad 4 = .trap 4 bad strict ∧ strict.memWrite bad 4 0 = .trap 6 bad strict := by
  intros
  repeat' first
    | apply lands_of | apply memRead_trap_of | apply memWrite_trap_of | apply memReadPair_trap_of
    | apply memWritePair_trap_of | apply backed_of | apply And.intro
  all_goals decide +kernel

theorem witness_UpdateBeforeAccess :
    let va := ptr.getX 1 + ((0x10#5).signExtend 64 <<< (3#2).toNat)
    let bad := strict.getX 1 + ((15#5).signExtend 64 <<< (0#2).toNat)
    ptr.me.theadOn = true ∧ (3#5 ≠ 1#5) ∧ BackedFully ptr ∧
      Lands ptr .load va 1 [part 0x1f80 1] ptr ∧ Lands ptr .store va 1 [part 0x1f80 1] ptr ∧
      Lands ptr .load va 2 [part 0x1f80 2] ptr ∧ Lands ptr .store va 2 [part 0x1f80 2] ptr ∧
      Lands ptr .load va 4 [part 0x1f80 4] ptr ∧ Lands ptr .store va 4 [part 0x1f80 4] ptr ∧
      Lands ptr .load va 8 [part 0x1f80 8] ptr ∧ Lands ptr .store va 8 [part 0x1f80 8] ptr ∧
      (sm strict).me.theadOn = true ∧ (sm strict).memRead bad 4 = .trap 5 bad (sm strict) ∧
      (sm strict).memWrite bad 4 0 = .trap 7 bad (sm strict) := by
  intros
  repeat' first
    | apply lands_of | apply memRead_trap_of | apply memWrite_trap_of | apply memReadPair_trap_of
    | apply memWritePair_trap_of | apply backed_of | apply And.intro
  all_goals decide +kernel

theorem witness_PairAccess :
    let va := ptr.getX 1 + ((3#2).setWidth 64 <<< 4)
    let vb := ptr.getX 1 + ((3#2).setWidth 64 <<< 3)
    let bad := strict.getX 1 + ((0#2).setWidth 64 <<< 4)
    ptr.me.theadOn = true ∧ strict.me.theadOn = true ∧ (3#5 ≠ 4#5 ∧ 3#5 ≠ 1#5 ∧ 4#5 ≠ 1#5) ∧ BackedFully ptr ∧
      Lands ptr .load va 8 [part 0x2030 8] ptr ∧ Lands ptr .store va 8 [part 0x2030 8] ptr ∧
      Lands ptr .load (va + BitVec.ofNat 64 8) 8 [part 0x2038 8] ptr ∧ Lands ptr .store (va + BitVec.ofNat 64 8) 8 [part 0x2038 8] ptr ∧
      Lands ptr .load vb 4 [part 0x2018 4] ptr ∧ Lands ptr .store vb 4 [part 0x2018 4] ptr ∧
      Lands ptr .load (vb + BitVec.ofNat 64 4) 4 [part 0x201c 4] ptr ∧ Lands ptr .store (vb + BitVec.ofNat 64 4) 4 [part 0x201c 4] ptr ∧
      strict.memReadPair bad 8 = .trap 4 bad strict ∧ strict.memWritePair bad 4 0 0 = .trap 6 bad strict := by
  intros
  repeat' first
    | apply lands_of | apply memRead_trap_of | apply memWrite_trap_of | apply memReadPair_trap_of
    | apply memWritePair_trap_of | apply backed_of | apply And.intro
  all_goals decide +kernel

theorem witness_TheadBitFields :
    lab.me.theadOn = true ∧ (0#6).toNat ≤ (0#6).toNat ∧ (63#6).toNat ≤ (63#6).toNat ∧ (62#6).toNat < (63#6).toNat := by
  decide +kernel

/-- Also for FloatArithmetic, FloatCompareAndMove, FloatToInteger, IntegerToFloat and FormatConversions: the unit off, a
reserved dynamic mode, each of the modes. -/
theorem witness_FloatRules :
    (nofs lab).me.fpOn = false ∧ lab.me.fpOn = true ∧ (frm 5 lab).me.fpOn = true ∧ (frm 5 lab).rounding 7 = none ∧
      (frm 7 lab).rounding 7 = none ∧ lab.rounding 5 = none ∧ (frm 4 lab).rounding 7 = some .rmm ∧
      lab.rounding 7 = some .rne ∧ lab.rounding 1 = some .rtz ∧ lab.rounding 2 = some .rdn ∧
      lab.rounding 3 = some .rup ∧ lab.rounding 4 = some .rmm := by
  decide +kernel

theorem witness_FloatLoadsAndStores :
    let va := ptr.getX 1 + (0#12).signExtend 64
    let bad := strict.getX 1 + (0#12).signExtend 64
    ptr.me.fpOn = true ∧ BackedFully ptr ∧
      Lands ptr .load va 2 [part 0x2000 2] ptr ∧ Lands ptr .store va 2 [part 0x2000 2] ptr ∧
      Lands ptr .load va 4 [part 0x2000 4] ptr ∧ Lands ptr .store va 4 [part 0x2000 4] ptr ∧
      Lands ptr .load va 8 [part 0x2000 8] ptr ∧ Lands ptr .store va 8 [part 0x2000 8] ptr ∧
      strict.me.fpOn = true ∧ strict.memRead bad 2 = .trap 4 bad strict ∧ strict.memWrite bad 8 0 = .trap 6 bad strict := by
  intros
  repeat' first
    | apply lands_of | apply memRead_trap_of | apply memWrite_trap_of | apply memReadPair_trap_of
    | apply memWritePair_trap_of | apply backed_of | apply And.intro
  all_goals decide +kernel

theorem witness_IndexedFloatAccess :
    let s := px 2 0x10 ptr
    let va := s.getX 1 + (s.getX 2 <<< (3#2).toNat)
    let vb := s.getX 1 + (((s.getX 2).setWidth 32).setWidth 64 <<< (3#2).toNat)
    let bad := strict.getX 1 + (strict.getX 2 <<< (3#2).toNat)
    s.me.theadOn = true ∧ s.me.fpOn = true ∧ BackedFully s ∧
      Lands s .load va 4 [part 0x2080 4] s ∧ Lands s .store va 4 [part 0x2080 4] s ∧
      Lands s .load va 8 [part 0x2080 8] s ∧ Lands s .store va 8 [part 0x2080 8] s ∧
      Lands s .load vb 4 [part 0x2080 4] s ∧ Lands s .store vb 4 [part 0x2080 4] s ∧
      Lands s .load vb 8 [part 0x2080 8] s ∧ Lands s .store vb 8 [part 0x2080 8] s ∧
      strict.me.theadOn = true ∧ strict.me.fpOn = true ∧ strict.memRead bad 4 = .trap 4 bad strict ∧
      strict.memWrite bad 4 0 = .trap 6 bad strict := by
  intros
  repeat' first
    | apply lands_of | apply memRead_trap_of | apply memWrite_trap_of | apply memReadPair_trap_of
    | apply memWritePair_trap_of | apply backed_of | apply And.intro
  all_goals decide +kernel

/-- Where registers stand, at the ends of each kind of them. -/
theorem test_device_offsets :
    ([0, 4, 0x240, 0x244, 0x1000, 0x107c, 0x1080, 0x2000, 0x21fc, 0x2200, 0x1ffffc, 0x200000, 0x203004, 0x203008,
      0x4000004, 0x4000008, 0x4004000, 0x400400c, 0x400c004, 0x400d00c].map devReg) =
      [.reserved, .prio 1, .prio 144, .reserved, .pending 0, .pending 31, .reserved, .enable .h0m 0, .enable .h1s 31,
       .reserved, .permission, .threshold .h0m, .claim .h1s, .reserved, .msip .core1, .reserved, .mtimecmp .core0 false,
       .mtimecmp .core1 true, .ssip .core1, .stimecmp .core1 true] := by
  decide +kernel

/-- The place of a device register, reached with a privilege. -/
def devPlace (pa : BitVec 40) (p : Priv) : Place := ⟨pa, 0b10010, p⟩

theorem witness_DeviceWindow :
    let m := px 1 0xc00d00c lab
    let u := um (px 1 0xc00d00c openLab)
    let h := sm (px 1 0xc00d00c openLab)
    let r := DevReg.stimecmp .core1 true
    devReg 0x400d00c = r ∧
    (DevReg.At (.prio 144) 0x240 ∧ DevReg.At (.stimecmp .core1 true) 0x400d00c) ∧
      (∀ s ∈ [m, u, h], (s.getX 1).toNat % 4 = 0 ∧ s.soc.inWindow 0xc00d00c = true ∧ s.soc.busError 0xc00d00c = false) ∧
      (∀ k ∈ [Access.load, .store], m.resolve k (m.getX 1) = .ok (devPlace 0xc00d00c .machine) m ∧
        u.resolve k (u.getX 1) = .ok (devPlace 0xc00d00c .user) u ∧
        h.resolve k (h.getX 1) = .ok (devPlace 0xc00d00c .supervisor) h) ∧
      r.MayTouch .machine false ∧ r.MayTouch .supervisor false ∧ ¬ r.MayTouch .user true ∧
      (¬ DevReg.MayTouch (.claim .h0m) .supervisor false ∧ DevReg.MayTouch (.claim .h1s) .supervisor false) ∧
      (r.keeps 7 = some 7 ∧ DevReg.keeps (.prio 144) 0xff = some 31 ∧ DevReg.keeps (.enable .h0m 31) 1 = some 0) ∧
      (m.plan .load false 0xc00d008 8 = .ok [⟨devPlace 0xc00d008 .machine, 8⟩] m ∧
        m.plan .store false 0xc00d008 8 = .ok [⟨devPlace 0xc00d008 .machine, 8⟩] m ∧
        m.plan .load false 0xc00d001 2 = .ok [⟨devPlace 0xc00d001 .machine, 1⟩, ⟨devPlace 0xc00d002 .machine, 1⟩] m ∧
        m.plan .store false 0xc00d001 2 = .ok [⟨devPlace 0xc00d001 .machine, 1⟩, ⟨devPlace 0xc00d002 .machine, 1⟩] m ∧
        m.plan .amo true 0xc00d008 8 = .ok [⟨devPlace 0xc00d008 .machine, 8⟩] m) ∧
      m.resolve .fetch 0xc00d008 = .ok (devPlace 0xc00d008 .machine) m ∧ m.me.theadOn = true ∧
      (∀ k ∈ [Access.load, .store], m.resolve k (0xc00d00c - 4) = .ok (devPlace 0xc00d008 .machine) m) ∧
      (0xc00d00c - 4 : Word).toNat % 4 = 0 ∧ m.soc.inWindow 0xc00d008 = true ∧ m.soc.busError 0xc00d008 = false := by
  have hp : ∀ {s : State} {k : Access} {a : Bool} {va : Word} {n : Nat} {ps : List Part},
      answers (s.plan k a va n) ps s = true → s.plan k a va n = .ok ps s :=
    fun h => eq_ok_of (State.plan_sat _ _ _ _ _) (fun _ _ h => hidden_eq h.1) h
  unfold DevReg.MayTouch
  refine ⟨by decide +kernel, by unfold DevReg.At; decide, by decide +kernel, ?_, by decide +kernel, by decide +kernel, by decide +kernel,
    by decide +kernel, by decide +kernel, ⟨hp (by decide +kernel), hp (by decide +kernel), hp (by decide +kernel),
      hp (by decide +kernel), hp (by decide +kernel)⟩, resolve_ok_of (by decide +kernel), by decide +kernel, ?_, by decide +kernel⟩
  on_goal 2 =>
    simp only [List.forall_mem_cons]
    exact ⟨resolve_ok_of (by decide +kernel), resolve_ok_of (by decide +kernel), by simp⟩
  simp only [List.forall_mem_cons]
  exact ⟨⟨resolve_ok_of (by decide +kernel), resolve_ok_of (by decide +kernel), resolve_ok_of (by decide +kernel)⟩,
    ⟨resolve_ok_of (by decide +kernel), resolve_ok_of (by decide +kernel), resolve_ok_of (by decide +kernel)⟩, by simp⟩

/-- A jTLB with two entries, and values for the TLB registers that describe them or select their places. -/
def tlbEntry (set : BitVec 8) (way : BitVec 2) : TlbEntry := ⟨set, way, 0x40201, 5, 1, 0x90000, 0xff, 0b01110⟩
def withTlb (es : List TlbEntry) (s : State) : State :=
  { s with me := { s.me with tlb := { s.me.tlb with joint := es }, smmu := ⟨0x101, 0, 0x0402010080010005, 0⟩ } }

theorem witness_SpecialRegisterEffects :
    (∀ n < 7, (BitVec.ofNat 64 (2 ^ (25 + n))).toNat / 2 ^ 25 = 2 ^ n) ∧ (0#64).toNat / 2 ^ 25 % 128 = 0 ∧
      (let one := withTlb [tlbEntry 1 1] lab
       let vpn := BitVec.ofNat 27 (one.me.smmu.smeh.toNat / 2 ^ 19)
       let asid := BitVec.ofNat 16 one.me.smmu.smeh.toNat
       (∀ es ∈ [[], [tlbEntry 1 1], [tlbEntry 1 1, tlbEntry 1 2]],
         ((withTlb es lab).me.tlb.joint.filter fun e =>
           e.hits (0x40201 : BitVec 27) (5 : BitVec 16) && e.pageSize == (1 : BitVec 3)) = es) ∧
       vpn.toNat < 2 ^ 27 ∧ asid = 5 ∧ (tlbEntry 1 1).set = BitVec.ofNat 8 (one.me.smmu.smir.toNat % 256) ∧
       (tlbEntry 1 1).way = BitVec.ofNat 2 (one.me.smmu.smir.toNat / 256 % 4)) ∧
      (∃ l, pageLevel (1 : BitVec 3) = some l) ∧
      ((0x33#64).getLsbD 4 = true ∧ (0x33#64).getLsbD 5 = true ∧ (0x33#64).getLsbD 1 = true ∧ (0x33#64).getLsbD 0 = true) ∧
      ((0x22#64).getLsbD 4 = false ∧ (0x12#64).getLsbD 5 = false ∧ (0x31#64).getLsbD 1 = false) := by
  refine ⟨by decide +kernel, by decide, by decide +kernel, ⟨0, by decide⟩, by decide, by decide⟩

/-- Also for CacheInvalidates and InstructionCacheAndSync: the gate open and closed, with and without UCME; a line that is
reached, one the PMP denies, one that page faults, one whose walk the PMP denies. -/
theorem witness_CacheRules :
    (lab.me.theadOn = true ∧ lab.me.priv ≠ .user) ∧ (nothead lab).me.theadOn = false ∧
      ((um lab).me.priv = .user ∧ (um lab).me.th.mxstatus.getLsbD 16 = false) ∧
      (um (lab.csrWrite .mxstatus 0x418000)).me.th.mxstatus.getLsbD 16 = true ∧
      (ptr.translate .load (ptr.getX 1) = .ok (place 0x2000) ptr ∧ ptr.me.pmp.allows .machine 1 0x2000 = true ∧
        ptr.soc.busError 0x2000 = false) ∧
      ((sm ptr).translate .load ((sm ptr).getX 1) = .ok ⟨0x2000, 0b01110, .supervisor⟩ (sm ptr) ∧
        (sm ptr).me.pmp.allows .supervisor 1 0x2000 = false) ∧
      (let s := sm mmuLab |> px 1 0x123000
       s.translate .load (s.getX 1) = .trap 13 0x123000 s) ∧
      (let s := sm (mmuLab.csrWrite .pmpcfg0 0) |> px 1 0x123000
       s.translate .load (s.getX 1) = .trap 5 0x123000 s) :=
  ⟨by decide +kernel, by decide +kernel, by decide +kernel, by decide +kernel,
    ⟨translate_ok_of (by decide +kernel), by decide +kernel⟩, ⟨translate_ok_of (by decide +kernel), by decide +kernel⟩,
    translate_trap_of (by decide +kernel), translate_trap_of (by decide +kernel)⟩

theorem witness_DecodeEncode : (Instr.cAddi 0 1).wf = true ∧ (Instr.fmaddH 31 0 31 0 7).wf = true := by decide +kernel

theorem witness_DecodeSound : (decodeCode (.full 0x00a28333)).toOption = some (.add 6 5 10) := by decide +kernel

/-- Waiting in WFI, nothing pending; an interrupt to take; code that decodes, that does not, that cannot be fetched. -/
def asleep (s : State) : State := { s with me := { s.me with lowPower := true } }
def ringing : State := { ((lab.csrWrite .mie 8).csrWrite .mstatus 8) with clint0 := ⟨true, false, 0, 0⟩ }
def coded (w : Nat) : State := pm 4 0x1000 w lab

theorem witness_StepRunsDecoded :
    ({ lab with me := { lab.me with inReset := true } } : State).me.inReset = true ∧ lab.me.inReset = false ∧
      (asleep lab).inputs = [] ∧ (asleep lab).me.lowPower = true ∧ (asleep lab).wakeUp = false ∧
      (asleep ringing).wakeUp = true ∧ (asleep ringing).wake.interrupt? = some 3 ∧ lab.me.lowPower = false ∧
      (coded 0x00a28333).wake.interrupt? = none ∧
      (coded 0x00a28333).wake.fetch = .ok (.full 0x00a28333) (coded 0x00a28333) ∧
      (decodeCode (.full 0x00a28333)).toOption = some (.add 6 5 10) ∧
      (coded 0).wake.fetch = .ok (.half 0) (coded 0) ∧ (decodeCode (.half 0)).toBool = false ∧
      (um lab).wake.fetch = .trap 1 0x1000 (um lab) :=
  ⟨by decide +kernel, by decide +kernel, by decide +kernel, by decide +kernel, by decide +kernel, by decide +kernel,
    by decide +kernel, by decide +kernel, by decide +kernel, fetch_ok_of (by decide +kernel), by decide +kernel, fetch_ok_of (by decide +kernel),
    by decide +kernel, fetch_trap_of (by decide +kernel)⟩

/-- The small state where addresses above the physical ones fault, at a program counter. -/
def above (pc : Word) : State := { coded 0x00a28333 with me := { (coded 0x00a28333).me with pc := pc },
                                                         soc := { lab.soc with highAddrFault := true } }

theorem witness_FetchesFromMemory :
    (∀ w ∈ [0x00a28333, 0x8082], (coded w).me.pc.getLsbD 0 = false ∧ (coded w).me.translates .machine = false ∧
      (coded w).soc.highAddrFault = false ∧ (coded w).Fetchable 0 ∧ (coded w).Fetchable 2) ∧
      (coded 0x00a28333).Delivers 0 0x8333 ∧ (coded 0x00a28333).Delivers 2 0x00a2 ∧ (0x8333#16).toNat % 4 = 3 ∧
      (coded 0x8082).Delivers 0 0x8082 ∧ (0x8082#16).toNat % 4 ≠ 3 ∧
      (let s : State := { above 0xfffffffffe with mem := [(0xfffffffffe, 3)] }
       s.soc.highAddrFault = true ∧ s.me.translates .machine = false ∧ s.me.pc.toNat < 2 ^ 40 ∧ s.Fetchable 0 ∧
         s.Delivers 0 3 ∧ ¬ (s.me.pc + 2).toNat < 2 ^ 40) ∧
      ¬ (above 0x10000000000).me.pc.toNat < 2 ^ 40 := by
  unfold State.Fetchable Plain State.Delivers
  decide +kernel

theorem witness_InterruptChoice :
    interruptOrder = [(11, true)] ++ (3, true) :: interruptOrder.drop 2 ∧ ringing.Takes 3 true ∧
      ¬ ringing.Takes 11 true ∧ ∀ x ∈ interruptOrder, ¬ lab.Takes x.1 x.2 := by
  unfold State.Takes
  decide +kernel

theorem witness_TrapEntry :
    (let s := um (lab.csrWrite .medeleg 0x8000)
     s.me.priv ≠ .machine ∧ s.me.m.medeleg.getLsbD 15 = true) ∧ ¬ (lab.me.priv ≠ .machine) ∧
      (15 : Nat) < 16 ∧ (15 : Nat) ∈ [12, 13, 15] ∧ (2 : Nat) ∉ [12, 13, 15] ∧
      (17 : Nat) ∈ [1, 3, 5, 7, 9, 11, 17] ∧ (lab.csrWrite .mideleg 0x20000).me.m.mideleg.getLsbD 17 = true ∧
      lab.me.m.mideleg.getLsbD 17 = false := by
  decide +kernel

/-- The D-cache off, on, allocating for stores; RFE clear and set; the line in one of the caches or in none, dirty, or on its way
out; a set of the L2 with room and a full one; a snooped page and an unsnooped one; a store to one line; an address that a prefetch may not reach; and
a TLB entry on its way out that hits. -/
theorem witness_CachesAndSnoops :
    let line : CacheLine := ⟨0x80, false, .dirty, lineData (fun _ => 5) 0x80⟩
    let mine : State := { de lab with me := { (de lab).me with l1d := [line] } }
    let others : State := { lab with other := { lab.other with l1d := [line], th := { lab.other.th with msmpr := 1 } } }
    let below : State := { lab with l2 := [line] }
    let full : List CacheLine := (List.range 16).map fun i => ⟨0x80 + 1024 * (i + 1), false, .clean, []⟩
    let going : TlbEntry := ⟨1, 0, 0x40201, 0, 1, 0x90000, 0x6b, 0b01110⟩
    let told : State := { sm mmuLab with me := { (sm mmuLab).me with tlb := ⟨[], [], [], [going]⟩ } }
    (lab.me.th.mhcr.getLsbD 1 = false ∧ (de lab).me.th.mhcr.getLsbD 1 = true ∧ (de lab).me.th.mhcr.getLsbD 2 = false ∧
        (on 6 lab).me.th.mhcr.getLsbD 2 = true ∧ lab.mccr2.getLsbD 0 = false ∧ (on 1 lab).mccr2.getLsbD 0 = true ∧
        (on 1 lab).me.th.mhcr.getLsbD 0 = true ∧
        ¬ 16 ≤ ((on 1 lab).l2.filter fun l => l.line % 1024 == 0x2000 / 64 % 1024).length ∧
        16 ≤ (full.filter fun l => l.line % 1024 == 0x2000 / 64 % 1024).length ∧ byteIn full 0x2000 = none) ∧
      (byteIn mine.me.l1d 0x2000 ≠ none ∧ byteIn lab.me.l1d 0x2000 = none ∧ byteIn below.l2 0x2000 ≠ none ∧
        byteIn lab.l2 0x2000 = none ∧ dirtyByte others.other.l1d 0x2000 ≠ none) ∧
      ((0b01110#5).getLsbD 3 && (0b01110#5).getLsbD 1 && others.other.th.msmpr.getLsbD 0) = true ∧
      ((0b01100#5).getLsbD 3 && (0b01100#5).getLsbD 1 && others.other.th.msmpr.getLsbD 0) = false ∧
      (0b00110#5).getLsbD 3 = false ∧ (∀ k, k < (bytesLe 7 8).length → (0x2038 + k) / 64 = 0x2038 / 64) ∧
      (∀ k ∈ [Access.load, .fetch], ∀ pl s', (um lab).resolve k 0x2000 ≠ .ok pl s') ∧
      told.me.effPriv .load = .supervisor ∧ told.me.translates .supervisor = true ∧
      told.me.hitsIn 0x40201008 told.me.tlb.leaving ≠ [] := by
  refine ⟨by decide +kernel, by decide +kernel, by decide +kernel, by decide +kernel, by decide +kernel, by decide +kernel,
    ?_, by decide +kernel, by decide +kernel, by decide +kernel⟩
  simp only [List.forall_mem_cons]
  refine ⟨fun _ _ h => ?_, fun _ _ h => ?_, by simp⟩
  · rw [resolve_trap_of (c := 5) (i := 0x2000) (by decide +kernel)] at h
    cases h
  · rw [resolve_trap_of (c := 1) (i := 0x2000) (by decide +kernel)] at h
    cases h

/-- The answer is a next state. -/
def isNext (r : Result) : Bool :=
  match r with
  | .next _ => true
  | _ => false

theorem exists_next_of_isNext {r : Result} (h : isNext r = true) : ∃ t, r = .next t := by
  cases r with
  | next t => exact ⟨t, rfl⟩
  | fault _ => cases h
  | refused _ => cases h

theorem lab_hart_inv : lab.me.Inv ∧ lab.other.Inv := by
  have h : Whole [] ∧ Placed [] := ⟨⟨.nil, fun _ hl => absurd hl List.not_mem_nil⟩, .nil⟩
  have hc : CodeWhole [] := ⟨.nil, fun _ he => absurd he List.not_mem_nil, fun _ => Nat.zero_le _⟩
  constructor <;> constructor <;> first | exact h | exact hc | decide +kernel

theorem witness_StepKeepsInv : lab.Inv ∧ ∃ t, step lab = .next t :=
  ⟨⟨lab_hart_inv.1, lab_hart_inv.2, by decide +kernel, by decide +kernel,
      ⟨lab_hart_inv.1.l1d.1, fun _ => Nat.zero_le _⟩,
      ⟨fun _ hl => absurd hl List.not_mem_nil, fun _ hl => absurd hl List.not_mem_nil⟩, by decide +kernel⟩,
    exists_next_of_isNext (by decide +kernel)⟩

theorem witness_UntranslatedNeverStops : lab.Untranslated := by
  refine ⟨by decide +kernel, fun pa => ?_, by decide +kernel⟩
  have h : ∀ (rs : List SysmapRegion), (rs.all fun r => attrLegal r.attr) = true → ∀ page lo,
      attrLegal (sysmapFrom page lo rs) = true := by
    intro rs
    induction rs with
    | nil => intro _ _ _; unfold sysmapFrom; decide
    | cons r rest ih =>
      intro hr page lo
      simp only [List.all_cons, Bool.and_eq_true] at hr
      unfold sysmapFrom
      split
      · exact hr.1
      · exact ih hr.2 page _
  exact h _ (by decide +kernel) _ _

theorem witness_UserContained :
    ∃ t, (um openLab).me.priv = .user ∧ (um openLab).me.m.mstatus.getLsbD 17 = false ∧
      exec (.sw 2 1 0) (um (px 1 0x2000 openLab)) = .next t := by
  obtain ⟨t, h⟩ := exists_next_of_isNext (r := exec (.sw 2 1 0) (um (px 1 0x2000 openLab))) (by decide +kernel)
  exact ⟨t, by decide +kernel, by decide +kernel, h⟩

theorem witness_MemoryCanonical :
    Memory.wf [(3, 1), (7, 2)] = true ∧ Memory.wf [] = true ∧ ¬ (Memory.wf [(7, 2), (3, 1)] = true) ∧
      0x203c % 64 + 4 ≤ 64 ∧ ¬ (0x203d % 64 + 4 ≤ 64) := by
  decide +kernel

/-- Memory whose first region is a non-bufferable device, and memory with a range that answers with a bus error. -/
def ordered : State := { ptr with soc := { ptr.soc with sysmap := #v[⟨0x08000, 0b10010⟩, ⟨0x10000, 0b10010⟩,
  ⟨0xfffffff, 0b01110⟩, ⟨0xfffffff, 0b01110⟩, ⟨0xfffffff, 0b01110⟩, ⟨0xfffffff, 0b01110⟩, ⟨0xfffffff, 0b01110⟩,
  ⟨0xfffffff, 0b01110⟩] } }
def broken : State := { ptr with soc := { ptr.soc with busErrors := [(0x2000, 0x2fff)] } }

theorem witness_AccessPlan :
    (0x2000#64).toNat % 8 = 0 ∧ ptr.resolve .load 0x2000 = .ok (place 0x2000) ptr ∧
      (sm ptr).resolve .load 0x2000 = .trap 5 0x2000 (sm ptr) ∧ (0x2001#64).toNat % 4 ≠ 0 ∧
      strict.me.th.mxstatus.getLsbD 15 = false ∧ ptr.me.th.mxstatus.getLsbD 15 = true ∧
      (∀ i < 4, ptr.soc.attrOf (0x2001 + BitVec.ofNat 40 i) = 0b01110 ∧ strongOrder 0b01110 = false) ∧
      (∀ i < 4, ptr.resolve .store (0x2001 + BitVec.ofNat 64 i) = .ok (place (0x2001 + BitVec.ofNat 40 i)) ptr ∧
        ptr.translate .store (0x2001 + BitVec.ofNat 64 i) = .ok (place (0x2001 + BitVec.ofNat 40 i)) ptr) ∧
      ((sm ptr).translate .store (0x2001 + BitVec.ofNat 64 0) = .ok ⟨0x2001, 0b01110, .supervisor⟩ (sm ptr) ∧
        (sm ptr).resolve .store (0x2001 + BitVec.ofNat 64 0) = .trap 7 0x2001 (sm ptr)) ∧
      (ordered.translate .store (0x2001 + BitVec.ofNat 64 0) = .ok ⟨0x2001, 0b10010, .machine⟩ ordered ∧
        attrLegal 0b10010 = true ∧ strongOrder 0b10010 = true ∧ ordered.soc.inWindow 0x2001 = false ∧
        ordered.soc.inWindow 0x8000001 = true) :=
  ⟨by decide +kernel, resolve_ok_of (by decide +kernel), resolve_trap_of (by decide +kernel), by decide +kernel,
    by decide +kernel, by decide +kernel, by decide +kernel,
    fun i hi => by
      obtain rfl | rfl | rfl | rfl : i = 0 ∨ i = 1 ∨ i = 2 ∨ i = 3 := by omega
      all_goals exact ⟨resolve_ok_of (by decide +kernel), translate_ok_of (by decide +kernel)⟩,
    ⟨translate_ok_of (by decide +kernel), resolve_trap_of (by decide +kernel)⟩,
    ⟨translate_ok_of (by decide +kernel), by decide +kernel, by decide +kernel, by decide +kernel, by decide +kernel⟩⟩

theorem witness_PmpDecides :
    (∀ i, ¬ lab.me.pmp.Contains i 0x1000) ∧ openLab.me.pmp.Contains 0 0xfffffff ∧
      (∀ j : Fin 8, j < 0 → ¬ openLab.me.pmp.Contains j 0xfffffff) ∧
      (sm ptr).translate .load 0x2000 = .ok ⟨0x2000, 0b01110, .supervisor⟩ (sm ptr) ∧
      (sm ptr).me.pmp.allows .supervisor 1 0x2000 = false ∧ ptr.me.pmp.allows .machine 1 0x2000 = true ∧
      attrLegal 0b01110 = true ∧ broken.translate .load 0x2000 = .ok (place 0x2000) broken ∧
      broken.soc.busError 0x2000 = true ∧ ptr.soc.busError 0x2000 = false := by
  refine ⟨fun i h => ?_, .inl ⟨by decide +kernel, fun h => absurd rfl h, by decide +kernel⟩,
    fun j hj => absurd hj (Nat.not_lt_zero _), translate_ok_of (by decide +kernel), by decide +kernel,
    by decide +kernel, by decide +kernel, translate_ok_of (by decide +kernel), by decide +kernel, by decide +kernel⟩
  have hc : (lab.me.pmp.cfg[i]).toNat = 0 := by clear h; revert i; decide +kernel
  rcases h with h | h <;> (have := h.1; omega)

theorem witness_pmp_napot : (Pmp.mk (Vector.replicate 8 0x1f) (Vector.replicate 8 0)).Contains 3 0xfff :=
  .inr ⟨by decide +kernel, 0, by decide, fun j hj => absurd hj (Nat.not_lt_zero _), by decide +kernel, by decide +kernel,
    by decide +kernel⟩

/-- A TLB entry for the page 0x40201, read and executable by S mode. -/
def entry (flags : BitVec 10) : TlbEntry := ⟨1, 0, 0x40201, 0, 1, 0x90000, flags, 0b01110⟩
def cachedTlb (flags : BitVec 10) : State := { sm mmuLab with me := { (sm mmuLab).me with tlb := ⟨[entry flags], [], [], []⟩ } }
def micro (flags : BitVec 10) : State :=
  { sm mmuLab with me := { (sm mmuLab).me with tlb := ⟨[entry flags], [], [entry flags], []⟩ } }

/-- The hits in the three parts of the TLB that matter to an access. -/
def hitsIn (s : State) (es : List TlbEntry) : List TlbEntry := es.filter fun e => e.hits (vpnOf 0x40201008) s.me.asid

theorem pteAt_of {s : State} {va : Word} {i table : Nat} {pte : Word}
    (h : (let pa := pteAddress va i table
      s.me.pmp.allows .supervisor 1 pa && attrLegal (s.soc.attrOf pa) && !s.soc.busError pa && !s.soc.inWindow pa &&
        (s.me.oldPtesAt pa.toNat).isEmpty && pte == BitVec.ofNat 64 (s.number (s.soc.attrOf pa) pa.toNat 8)) = true) :
    s.PteAt true va i table pte := by
  simp only [Bool.and_eq_true, Bool.not_eq_true', List.isEmpty_iff, beq_iff_eq] at h
  exact ⟨h.1.1.1.1.1, h.1.1.1.1.2, h.1.1.1.2, h.1.1.2, h.1.2, h.2⟩

/-- The same where the entry was another before a store that no SFENCE has followed: the walker reads the old value or the new. -/
theorem pteAt_noted {s : State} {va : Word} {i table : Nat} {pte : Word}
    (h : (let pa := pteAddress va i table
      s.me.pmp.allows .supervisor 1 pa && attrLegal (s.soc.attrOf pa) && !s.soc.busError pa &&
        (pte == BitVec.ofNat 64 (s.number (s.soc.attrOf pa) pa.toNat 8) || (s.me.oldPtesAt pa.toNat).contains pte)) = true) :
    s.PteAt false va i table pte := by
  simp only [Bool.and_eq_true, Bool.or_eq_true, Bool.not_eq_true', beq_iff_eq, List.contains_iff_mem] at h
  exact ⟨h.1.1.1, h.1.1.2, h.1.2, .inr h.2⟩

/-- The small page table after a store over its leaf, which no SFENCE has followed. -/
def noted : State := { um (pm 8 0x80002008 0 mmuLab) with
  me := { (um mmuLab).me with oldPtes := [⟨0x80002008, 0x70000000240000ff, false⟩] } }

theorem witness_walk_over_noted_value :
    let root := field noted.me.sup.satp 0 28
    noted.me.translates (noted.me.effPriv .load) = true ∧ hitsIn noted noted.me.tlb.leaving = [] ∧
      hitsIn noted noted.me.tlb.data = [] ∧ hitsIn noted noted.me.tlb.joint = [] ∧
      noted.me.th.mxstatus.getLsbD 18 = false ∧
      noted.WalksTo false 0x40201008 3 root 0 0x70000000240000ff ∧ noted.WalkFails false 0x40201008 3 root ∧
      (above 0).soc.highAddrFault = true ∧ 2 ^ 40 ≤ (0x10000000000#64).toNat ∧ (0xffffffffff#64).toNat < 2 ^ 40 := by
  refine ⟨by decide +kernel, by decide +kernel, by decide +kernel, by decide +kernel, by decide +kernel,
    ⟨0x20000401, pteAt_noted (by decide +kernel), by unfold PteValid; decide +kernel,
      .inr ⟨by unfold PtePointer; decide +kernel,
        0x20000801, pteAt_noted (by decide +kernel), by unfold PteValid; decide +kernel,
        .inr ⟨by unfold PtePointer; decide +kernel,
          0x70000000240000ff, pteAt_noted (by decide +kernel), by unfold PteValid; decide +kernel,
          .inl ⟨by unfold PtePointer; decide +kernel, rfl, rfl⟩⟩⟩⟩,
    ⟨0x20000401, pteAt_noted (by decide +kernel), .inr ⟨by unfold PteValid; decide +kernel, by unfold PtePointer; decide +kernel,
      0x20000801, pteAt_noted (by decide +kernel), .inr ⟨by unfold PteValid; decide +kernel, by unfold PtePointer; decide +kernel,
        0, pteAt_noted (by decide +kernel), .inl (by unfold PteValid; decide +kernel)⟩⟩⟩,
    by decide +kernel, by decide +kernel, by decide +kernel⟩

theorem witness_Sv39Translation :
    let s := um mmuLab
    let root := field s.me.sup.satp 0 28
    s.me.translates (s.me.effPriv .load) = true ∧ lab.me.translates (lab.me.effPriv .load) = false ∧
      lab.soc.highAddrFault = false ∧
      ¬ ((0x4000000000#64).toNat / 2 ^ 38 = 0 ∨ (0x4000000000#64).toNat / 2 ^ 38 = 2 ^ 26 - 1) ∧
      ((0x3fffffffff#64).toNat / 2 ^ 38 = 0 ∨ (0x3fffffffff#64).toNat / 2 ^ 38 = 2 ^ 26 - 1) ∧
      (hitsIn s s.me.tlb.leaving = [] ∧ hitsIn s s.me.tlb.data = [] ∧ hitsIn s s.me.tlb.joint = []) ∧
      s.me.th.mxstatus.getLsbD 18 = false ∧ (mmuLab.csrWrite .mxstatus 0x648000).me.th.mxstatus.getLsbD 18 = true ∧
      s.WalksTo true 0x40201008 3 root 0 0x70000000240000ff ∧ ptePpn 0x70000000240000ff % 2 ^ (9 * 0) = 0 ∧
      s.LeafPermits .load .user (BitVec.setWidth 10 0x70000000240000ff#64) ∧
      ¬ (sm mmuLab).LeafPermits .load .supervisor (BitVec.setWidth 10 0x70000000240000ff#64) ∧
      s.WalkFails true 0x1000 3 root ∧
      (∃ pa, s.WalkMeets true 0x40201008 pa 3 root ∧ s.me.pmp.allows .supervisor 1 pa = true ∧
        (um (mmuLab.csrWrite .pmpcfg0 0)).me.pmp.allows .supervisor 1 pa = false ∧
        ({ s with soc := { s.soc with busErrors := [(0, 2 ^ 40)] } } : State).soc.busError pa = true) ∧
      (attrLegal 0 = false ∧ attrLegal 0b01110 = true) ∧
      (hitsIn (micro 0x6b) (micro 0x6b).me.tlb.data = [entry 0x6b] ∧
        hitsIn (cachedTlb 0x6b) (cachedTlb 0x6b).me.tlb.data = [] ∧
        hitsIn (cachedTlb 0x6b) (cachedTlb 0x6b).me.tlb.joint = [entry 0x6b]) ∧
      pageLevel (entry 0x6b).pageSize = some 0 ∧ (cachedTlb 0x6b).LeafPermits .load .supervisor 0x6b ∧
      ¬ (cachedTlb 0x6b).LeafPermits .store .supervisor 0x6b := by
  refine ⟨by decide +kernel, by decide +kernel, by decide +kernel, by decide +kernel, by decide +kernel,
    by decide +kernel, by decide +kernel, by decide +kernel,
    ⟨0x20000401, pteAt_of (by decide +kernel), by unfold PteValid; decide +kernel,
      .inr ⟨by unfold PtePointer; decide +kernel,
        0x20000801, pteAt_of (by decide +kernel), by unfold PteValid; decide +kernel,
        .inr ⟨by unfold PtePointer; decide +kernel,
          0x70000000240000ff, pteAt_of (by decide +kernel), by unfold PteValid; decide +kernel,
          .inl ⟨by unfold PtePointer; decide +kernel, rfl, rfl⟩⟩⟩⟩,
    by decide +kernel, by unfold State.LeafPermits; decide +kernel, by unfold State.LeafPermits; decide +kernel,
    ⟨0, pteAt_of (by decide +kernel), .inl (by unfold PteValid; decide +kernel)⟩,
    ⟨0x80000008, .inl (by decide +kernel), by decide +kernel, by decide +kernel, by decide +kernel⟩, by decide +kernel,
    by decide +kernel, by decide +kernel, by unfold State.LeafPermits; decide +kernel,
    by unfold State.LeafPermits; decide +kernel⟩

theorem witness_PlicArbitration :
    let s := swAt 0x8001000 2 (swAt 0x8002000 2 (swAt 0x8000004 0x1f (swAt 0x8200000 10 lab)))
    s.plic.Qualifies .h0m 1 ∧ s.plic.winner .h0m ≠ 0 ∧ lab.plic.winner .h0m = 0 := by
  unfold Plic.Qualifies
  decide +kernel

theorem witness_PendingBits :
    (lab.csrWrite .mideleg 2).me.m.mideleg.getLsbD 1 = true ∧ lab.me.m.mideleg.getLsbD 1 = false := by
  decide +kernel

theorem witness_GatesClosed :
    needsFp (.faddS 1 2 3 0) = true ∧ field (nofs lab).me.m.mstatus 13 2 = 0 ∧ needsThead (.mula 1 2 3) = true ∧
      (nothead lab).me.th.mxstatus.getLsbD 22 = false := by
  decide +kernel

theorem witness_CsrStorage :
    lab.me.pmp.addrLocked 7 = false ∧ (lab.csrWrite .pmpcfg0 0x8f00).me.pmp.addrLocked 0 = true ∧
      (lab.csrWrite .pmpcfg0 0x8f00).me.pmp.addrLocked 1 = true ∧ Csr.group .mscratch ≠ Csr.group .mepc ∧ (Csr.mscratch ≠ .mcor) ∧
      field (0x8000000000000001#64) 60 4 = 8 ∧ ¬ (field (0x9000000000000001#64) 60 4 = 0 ∨ field (0x9000000000000001#64) 60 4 = 8) := by
  decide +kernel

/-- Also for FloatFinite: the smallest subnormal, the largest finite pattern and a negative one of each format. -/
theorem witness_FloatRounding :
    ((8 : Nat) % 2 ^ 2 = 0 ∧ (0 : Nat) < 2 ∧ (6 : Nat) % 2 ^ 2 * 2 = 2 ^ 2 ∧ (5 : Nat) % 2 ^ 2 ≠ 0) ∧
    ∀ f ∈ [Fmt.half, .single, .double], ∀ b ∈ [1, f.maxBits, f.signBits true + 1],
      b < 2 ^ f.width ∧ f.isNan b = false ∧ f.isInf b = false ∧ f.isZero b = false ∧
        (f.neg b = true ∨ f.neg b = false) ∧ f.isZero 0 = true := by
  decide +kernel

/-- NaNs of both kinds, infinities, zeros, a number, of each format. -/
theorem witness_FloatSpecialCases :
    ∀ f ∈ [Fmt.half, .single, .double],
      (f.isNan f.nanBits = true ∧ f.isSnan f.nanBits = false) ∧
      (f.isNan (f.infBits + 1) = true ∧ f.isSnan (f.infBits + 1) = true) ∧
      (f.isInf f.infBits = true ∧ f.isInf (f.signBits true + f.infBits) = true ∧
        f.neg f.infBits ≠ f.neg (f.signBits true + f.infBits)) ∧
      (f.isSnan (f.infBits + 1) = true ∧ f.isZero f.infBits = false ∧
        ((f.neg f.infBits != f.neg 0) != false) ≠ (f.neg (f.signBits true + f.infBits) != false)) ∧
      (f.isZero 0 = true ∧ f.isZero (f.signBits true) = true ∧ f.neg (f.signBits true) = true ∧ f.neg 0 = false) ∧
      (let b := f.signBits true + 1
       f.isNan b = false ∧ f.isInf b = false ∧ f.isZero b = false ∧ f.neg b = true ∧ f.key b < f.key 1) ∧
      (∀ t ∈ [IntType.w, .wu, .l, .lu], t.lo ≤ 0 ∧ 0 ≤ t.hi ∧
        (roundTo .rne (f.exact f.maxBits) 0).1 = (f.sig f.maxBits * 2 ^ (f.exp f.maxBits).toNat)) := by
  decide +kernel

theorem witness_StoreClearsRemoteMonitor :
    let s := { lab with other := { lab.other with lmon := some ⟨0x2000, 4⟩, gmon := some ⟨0x2080, 8⟩,
                                                  th := { lab.other.th with msmpr := 1 } } }
    s.other.lmon = some ⟨0x2000, 4⟩ ∧ s.other.gmon = some ⟨0x2080, 8⟩ ∧ s.other.th.msmpr.getLsbD 0 = true ∧
      lab.other.th.msmpr.getLsbD 0 = false ∧
      (∃ p ∈ [part 0x203f 1], (0x2000#40).toNat / 64 = p.place.pa.toNat / 64) ∧
      ¬ (∃ p ∈ [part 0x203f 1], (0x2080#40).toNat / 64 = p.place.pa.toNat / 64) ∧ lab.other.lmon = none := by
  decide +kernel

end

end Sys2Proof.Tests
end

namespace Sys2Proof.Machine

/-! ### The state after reset -/

/-- Bit 0 of the reset vector's pins is tied to 0 (12_csr_extended:R143). -/
theorem Soc.mrvbr_even (c : Soc) (id : HartId) : (c.mrvbr id).getLsbD 0 = false := by
  cases id <;> simp [Soc.mrvbr]

/-- A core after its reset is legal, whatever the SoC fixes. -/
theorem Hart.reset_inv (c : Soc) (id : HartId) : (Hart.reset c id).Inv where
  pcEven := c.mrvbr_even id
  mepcEven := BitVec.getLsbD_zero
  sepcEven := BitVec.getLsbD_zero
  mppLegal := show field 0xa00001900 11 2 ≠ 2 by decide +kernel
  mstatusFix := show (0xa00001900 : Word) &&& ~~~(mstatusMask ||| maskOf mstatusMPP 2) = 0xa00000000 by decide +kernel
  satpMode := .inl (show field 0 60 4 = 0 by decide)
  medeleg := BitVec.zero_and
  mideleg := BitVec.zero_and
  mie := BitVec.zero_and
  mxstatus := show (0x8000 : Word) &&& ~~~mxstatusMask = 0 by decide +kernel
  pmpCfg i := by simp [Hart.reset]
  fetchTlb := Nat.zero_le _
  dataTlb := Nat.zero_le _
  l1d := ⟨⟨.nil, fun _ h => absurd h List.not_mem_nil⟩, .nil⟩
  icache := .nil

theorem State.reset_inv : State.reset.Inv where
  me := Hart.reset_inv _ _
  other := Hart.reset_inv _ _
  ids := by decide
  memory := reset_memory_wf
  l2 := ⟨⟨.nil, fun _ h => absurd h List.not_mem_nil⟩, fun _ => Nat.zero_le _⟩
  included := ⟨fun _ h => absurd h List.not_mem_nil, fun _ h => absurd h List.not_mem_nil⟩
  sources := BitVec.zero_and

/-- Attributes that all regions have, and the default beyond them (20_memory:R186). -/
theorem sysmapFrom_legal (page lo : Nat) {rs : List SysmapRegion} (h : ∀ r ∈ rs, attrLegal r.attr = true) :
    attrLegal (sysmapFrom page lo rs) = true := by
  induction rs generalizing lo with
  | nil => exact show attrLegal 0b01111 = true by decide
  | cons r rest ih =>
    unfold sysmapFrom
    split
    · exact h r List.mem_cons_self
    · exact ih _ fun q hq => h q (List.mem_cons_of_mem _ hq)

theorem State.reset_untranslated : State.reset.Untranslated where
  monitor := rfl
  sysmap _ := sysmapFrom_legal _ _ (show ∀ r ∈ Soc.defaultSysmap.toList, attrLegal r.attr = true by decide)
  satp := show field 0 60 4 ≠ 8 by decide

/-- Below its SCK field `mhcr` holds WB and WBR alone after reset (12_csr_extended:R133). -/
theorem Hart.reset_mhcr (c : Soc) (id : HartId) (n : Nat) (hn : n < 16) :
    (Hart.reset c id).th.mhcr.getLsbD n = (0x108#64).getLsbD n := by
  simp [Hart.reset, hn]

/-- Settles O44: the hart's fields one by one, for every SoC. -/
theorem resetState : Obligations.ResetState := by
  refine ⟨State.reset_inv, State.reset_untranslated, fun c id => ?_, by decide, rfl, fun h => ?_, rfl, rfl, fun n => ?_, fun t => ?_⟩
  · obtain ⟨spp, mpp, xl⟩ : field 0xa00001900 8 1 = 1 ∧ field 0xa00001900 11 2 = 3 ∧ field 0xa00001900 32 4 = 10 := by decide +kernel
    have ie : ∀ n ∈ [1, 3, 5, 7], (0xa00001900#64).getLsbD n = false := by decide
    refine ⟨rfl, rfl, c.mrvbr_even id, rfl, rfl, rfl, rfl, rfl, rfl, rfl, ?_, spp, mpp, xl, ie 1 (by decide), ie 3 (by decide), ie 5 (by decide),
      ie 7 (by decide), BitVec.zero_and, rfl, rfl, fun k => ?_, show (0x8000#64).getLsbD 15 = true by decide, ?_, ?_, ?_, ?_, BitVec.getLsbD_zero⟩
    · cases id <;> rfl
    · simp [Hart.reset]
    all_goals
      rw [Hart.reset_mhcr c id _ (by decide)]
      decide
  · cases h <;> rfl
  · simp [Plic.priority, State.reset, Plic.reset]
  · cases t <;> rfl

end Sys2Proof.Machine

namespace Sys2Proof.Machine

/-! ### What an instruction may do before it ends -/

/-- What neither a mode nor a protection guards: the registers and hidden state of the running core, the caches, memory, and of the
other core its caches, its monitors, what it has fetched ahead and what is on its way out. -/
def WorkFrame (s t : State) : Prop :=
  t = { s with
    me := { s.me with x := t.me.x, f := t.me.f, fp := t.me.fp, tlb := t.me.tlb, lmon := t.me.lmon, gmon := t.me.gmon,
                      l1d := t.me.l1d, icache := t.me.icache, fetched := t.me.fetched, oldPtes := t.me.oldPtes,
                      lowPower := t.me.lowPower }
    other := { s.other with tlb := { s.other.tlb with leaving := t.other.tlb.leaving }, l1d := t.other.l1d,
                            oldPtes := t.other.oldPtes, icache := t.other.icache, fetched := t.other.fetched,
                            lmon := t.other.lmon, gmon := t.other.gmon }
    mem := t.mem, l2 := t.l2, draws := t.draws }

/-- What an instruction that takes no trap changes at most in a mode below machine mode, its program counter aside: the clauses of
`Obligations.UserContained` for the state it leaves in the same mode. -/
structure Contained (s t : State) : Prop where
  priv    : t.me.priv = s.me.priv
  pmp     : t.me.pmp = s.me.pmp
  id      : t.me.id = s.me.id
  inReset : t.me.inReset = s.me.inReset
  th      : t.me.th = { s.me.th with mcounterof := t.me.th.mcounterof }
  pmu     : t.me.pmu = { s.me.pmu with mcycle := t.me.pmu.mcycle, minstret := t.me.pmu.minstret }
  m       : t.me.m = { s.me.m with mstatus := t.me.m.mstatus, ssipLatch := t.me.m.ssipLatch }
  status  : ∀ n, n ∉ [13, 14] → t.me.m.mstatus.getLsbD n = s.me.m.mstatus.getLsbD n
  sup     : t.me.sup = s.me.sup
  smmu    : t.me.smmu = s.me.smmu
  other   : t.other = { s.other with tlb := { s.other.tlb with leaving := t.other.tlb.leaving }, l1d := t.other.l1d,
                                     oldPtes := t.other.oldPtes, icache := t.other.icache, fetched := t.other.fetched,
                                     lmon := t.other.lmon, gmon := t.other.gmon,
                                     m := { s.other.m with ssipLatch := t.other.m.ssipLatch } }
  soc     : t.soc = s.soc
  mtime   : t.mtime = s.mtime
  mccr2   : t.mccr2 = s.mccr2
  inputs  : t.inputs = s.inputs
  devices : s.me.priv = .user → s.me.m.mstatus.getLsbD 17 = false →
    t.plic = s.plic ∧ t.clint0 = s.clint0 ∧ t.clint1 = s.clint1 ∧ t.me.m.ssipLatch = s.me.m.ssipLatch ∧
      t.other.m.ssipLatch = s.other.m.ssipLatch

theorem WorkFrame.contained {s t : State} (h : WorkFrame s t) : Contained s t := by
  unfold WorkFrame at h
  constructor
  case status => intro n _; rw [h]
  case devices => intro _ _; rw [h]; exact ⟨rfl, rfl, rfl, rfl, rfl⟩
  all_goals rw [h]

theorem Contained.refl (s : State) : Contained s s := WorkFrame.contained (s := s) rfl

theorem Contained.trans {s t u : State} (h1 : Contained s t) (h2 : Contained t u) : Contained s u where
  priv := h2.priv.trans h1.priv
  pmp := h2.pmp.trans h1.pmp
  id := h2.id.trans h1.id
  inReset := h2.inReset.trans h1.inReset
  th := by rw [h2.th, h1.th]
  pmu := by rw [h2.pmu, h1.pmu]
  m := by rw [h2.m, h1.m]
  status n hn := (h2.status n hn).trans (h1.status n hn)
  sup := h2.sup.trans h1.sup
  smmu := h2.smmu.trans h1.smmu
  other := by rw [h2.other, h1.other]
  soc := h2.soc.trans h1.soc
  mtime := h2.mtime.trans h1.mtime
  mccr2 := h2.mccr2.trans h1.mccr2
  inputs := h2.inputs.trans h1.inputs
  devices hu hm := by
    obtain ⟨p1, a1, b1, l1, o1⟩ := h1.devices hu hm
    obtain ⟨p2, a2, b2, l2, o2⟩ := h2.devices (h1.priv.trans hu) ((h1.status 17 (by decide)).trans hm)
    exact ⟨p2.trans p1, a2.trans a1, b2.trans b1, l2.trans l1, o2.trans o1⟩

/-- The uTLBs are not larger than they are (21_mmu_pmp:R245). -/
def Hart.MicroFits (h : Hart) : Prop := h.tlb.fetch.length ≤ 32 ∧ h.tlb.data.length ≤ 17

/-- The part of a legal state that work without privilege moves. -/
structure State.Tidy (s : State) : Prop where
  micro   : s.me.MicroFits
  sound   : s.Sound
  memory  : Memory.wf s.mem = true
  sources : s.plic.ip &&& ~~~Plic.live = 0

/-- What `State.Tidy` looks at. -/
def State.stored (s : State) :=
  (s.me.tlb, s.me.l1d, s.other.l1d, s.l2, s.me.icache, s.other.icache, s.mem, s.plic)

theorem State.Tidy.congr {s t : State} (h : s.Tidy) (e : t.stored = s.stored) : t.Tidy := by
  simp only [State.stored, Prod.mk.injEq] at e
  obtain ⟨tlb, l1d, l1d', l2, icache, icache', mem, plic⟩ := e
  obtain ⟨micro, ⟨c1, c2, c3, c4, c5⟩, memory, sources⟩ := h
  unfold Hart.MicroFits at micro
  rw [← tlb] at micro
  rw [← l1d] at c1 c4
  rw [← l1d'] at c2 c4
  rw [← l2] at c3 c4
  rw [← icache, ← icache'] at c5
  rw [← mem] at memory
  rw [← plic] at sources
  exact ⟨micro, ⟨c1, c2, c3, c4, c5⟩, memory, sources⟩

/-- What a part of an instruction may do before it ends: no more than `Contained` says, the program counter stays, and the rest of
the state stays tidy. -/
structure Works (s t : State) : Prop where
  contained : Contained s t
  pc        : t.me.pc = s.me.pc
  tidy      : s.Tidy → t.Tidy

theorem Works.refl (s : State) : Works s s := ⟨.refl s, rfl, id⟩

theorem Works.trans {s t u : State} (h1 : Works s t) (h2 : Works t u) : Works s u :=
  ⟨h1.contained.trans h2.contained, h2.pc.trans h1.pc, h2.tidy ∘ h1.tidy⟩

theorem Works.of_frame {s t : State} (h : WorkFrame s t) (tidy : s.Tidy → t.Tidy) : Works s t :=
  ⟨h.contained, by rw [h], tidy⟩

/-- What moves nothing that has to be tidy. -/
theorem Works.of_same {s t : State} (h : WorkFrame s t) (e : t.stored = s.stored) : Works s t := .of_frame h fun hs => hs.congr e

/-- What moves the lines of caches and memory. -/
theorem Works.of_lines {s t : State} (h : WorkFrame s t) (tlb : t.me.tlb = s.me.tlb) (sound : s.Sound → t.Sound)
    (wf : Memory.wf s.mem = true → Memory.wf t.mem = true) : Works s t := by
  have plic : t.plic = s.plic := by rw [h]
  refine .of_frame h fun hs => ⟨?_, sound hs.sound, wf hs.memory, plic ▸ hs.sources⟩
  unfold Hart.MicroFits
  rw [tlb]
  exact hs.micro

/-- What moves the TLB. -/
theorem Works.of_tlb {s t : State} (h : Hidden s t) (micro : s.me.MicroFits → t.me.MicroFits) : Works s t := by
  unfold Hidden at h
  have hw : WorkFrame s t := by
    unfold WorkFrame
    rw [h]
  refine .of_frame hw fun hs => ?_
  have hs' : ({ t with me := { t.me with tlb := s.me.tlb } } : State).Tidy := hs.congr (by rw [h]; rfl)
  exact ⟨micro hs.micro, ⟨hs'.sound.mine, hs'.sound.others, hs'.sound.l2, hs'.sound.included, hs'.sound.code⟩, hs'.memory,
    hs'.sources⟩

theorem LineFrame.work {s t : State} (h : LineFrame s t) : WorkFrame s t := by
  unfold LineFrame at h
  unfold WorkFrame
  rw [h]

theorem StoreFrame.work {s t : State} (h : StoreFrame s t) : WorkFrame s t := by
  unfold StoreFrame at h
  unfold WorkFrame
  rw [h]

theorem CacheFrame.work {s t : State} (h : CacheFrame s t) : WorkFrame s t := by
  unfold CacheFrame at h
  unfold WorkFrame
  rw [h]

end Sys2Proof.Machine

namespace Sys2Proof.Machine

/-! ### Registers and hidden state -/

theorem Works.setX (s : State) (r : Reg) (v : Word) : Works s (s.setX r v) :=
  .of_same (by rw [State.setX_eq]; rfl) (by rw [State.setX_eq]; rfl)

theorem Works.setF (s : State) (r : Reg) (v : Word) : Works s (s.setF r v) := .of_same rfl rfl

theorem Works.drawn (s : State) : Works s s.drawn := .of_same rfl rfl

/-- A write of the floating-point registers moves the field FS of `mstatus`, bits 14:13 (11_csr_standard:R66). -/
theorem Works.setFp (s : State) (r : FpCsr) : Works s (s.setFp r) where
  contained := {
    Contained.refl s with
    m := rfl
    status n hn := by
      show (setField s.me.m.mstatus mstatusFS 2 3).getLsbD n = _
      rw [getLsbD_setField, if_neg]
      simp only [mstatusFS, List.mem_cons, List.not_mem_nil, or_false] at hn ⊢
      omega }
  pc := rfl
  tidy hs := hs.congr rfl

theorem Works.fpDirty (s : State) : Works s s.fpDirty := Works.setFp s s.me.fp

theorem Works.accrue (s : State) (fl : Flags) : Works s (s.accrue fl) := Works.setFp s _

theorem Works.reserve (s : State) (l g : Option Reservation) :
    Works s { s with me := { s.me with lmon := l, gmon := g } } := .of_same rfl rfl

theorem Works.refetchMine (s : State) : Works s s.refetchMine := .of_same rfl rfl

theorem Works.refetchOther (s : State) : Works s s.refetchOther := .of_same rfl rfl

theorem Works.sleep (s : State) : Works s s.sleep := .of_same rfl rfl

/-- What counts and moves the program counter is contained. -/
theorem Contained.of_moved {s t : State} (h : t = { s with me := s.me.moved t.me }) : Contained s t := by
  constructor
  case status => intro n _; rw [h]; rfl
  case devices => intro _ _; rw [h]; exact ⟨rfl, rfl, rfl, rfl, rfl⟩
  all_goals rw [h]; try rfl

/-! ### The TLB -/

theorem Works.refill (s : State) (l : Leaf) (va : Word) : Works s (s.refill l va) := by
  refine .of_tlb (Hidden.refill s l va) fun h => ?_
  have e : ∀ e, (s.me.tlb.take l.stale e).fetch = s.me.tlb.fetch ∧ (s.me.tlb.take l.stale e).data = s.me.tlb.data := by
    intro e
    unfold Tlb.take
    split <;> exact ⟨rfl, rfl⟩
  unfold Hart.MicroFits State.refill
  rw [(e _).1, (e _).2]
  exact h

/-- The uTLBs after one of them gets other entries, that are not too many. -/
theorem Hart.MicroFits.setMicro {h : Hart} (hf : h.MicroFits) {k : Access} {es : List TlbEntry} (he : es.length ≤ k.microSize) :
    ({ h with tlb := h.tlb.setMicro k es } : Hart).MicroFits := by
  unfold Access.microSize at he
  unfold Hart.MicroFits Tlb.setMicro
  split at he
  · next hk => rw [if_pos hk]; exact ⟨he, hf.2⟩
  · next hk => rw [if_neg hk]; exact ⟨hf.1, he⟩

theorem Works.fillMicro (s : State) (k : Access) (e : TlbEntry) : Works s (s.fillMicro k e) := by
  refine .of_tlb (Hidden.fillMicro s k e) fun h => ?_
  have hk : 0 < k.microSize := by
    unfold Access.microSize
    split <;> decide
  unfold State.fillMicro
  dsimp only
  split
  · next hl => exact h.setMicro (by simpa using hl)
  · refine h.setMicro ?_
    rw [List.length_cons, List.length_take]
    omega

theorem Works.refillFor (s : State) (k : Access) (l : Leaf) (va : Word) : Works s (s.refillFor k l va) := by
  unfold State.refillFor
  split
  · exact .refill s l va
  · exact (Works.refill s l va).trans (.fillMicro _ k _)

/-! ### Memory and the caches -/

theorem Works.touch (s : State) (attr : BitVec 5) (a : Nat) : Works s (s.touch attr a) :=
  have f := State.touch_frame s attr a
  .of_lines f.work (by rw [f]) (fun h => h.touch attr a) (s.touch_wf attr a)

theorem Works.announce (s : State) (a : Nat) : Works s (s.announce a) := .of_same rfl rfl

theorem Works.notePte (s : State) (attr : BitVec 5) (a : Nat) : Works s (s.notePte attr a) := .of_same rfl rfl

theorem Works.storeData (s : State) (attr : BitVec 5) (a : Nat) (bs : List Byte) : Works s (s.storeData attr a bs) :=
  have f := State.storeData_frame s attr a bs
  .of_lines f.work (by rw [f]) (fun h => h.storeData attr a bs) (s.storeData_wf attr a bs)

theorem Works.fillL2 (s : State) (n : Nat) : Works s (s.fillL2 n) :=
  have f := (State.fillL2_spec s n).1
  .of_lines f.work (by rw [f]) (fun h => h.fillL2 n) (s.fillL2_wf n)

section
variable (s : State) (sel : CacheLine → Bool)

theorem Works.cleanMine : Works s (s.cleanMine sel) := .of_lines rfl rfl (fun h => h.cleanMine sel) id

theorem Works.cleanOther : Works s (s.cleanOther sel) := .of_lines rfl rfl (fun h => h.cleanOther sel) id

theorem Works.invalMine : Works s (s.invalMine sel) := .of_lines rfl rfl (fun h => h.invalMine sel) id

theorem Works.flushMine : Works s (s.flushMine sel) := (Works.cleanMine s sel).trans (.invalMine _ sel)

theorem Works.cleanBoth : Works s (s.cleanBoth sel) := (Works.cleanMine s sel).trans (.cleanOther _ sel)

theorem Works.cleanL2 : Works s (s.cleanL2 sel) := .of_lines rfl rfl (fun h => h.cleanL2 sel) (wf_spill _ _)

theorem Works.cleanAll : Works s (s.cleanAll sel) := (Works.cleanBoth s sel).trans (.cleanL2 _ sel)

variable {sel}

theorem Works.flushAll (hs : ByLine sel) : Works s (s.flushAll sel) := .of_lines rfl rfl (fun h => h.flushAll hs) (wf_spill _ _)

theorem Works.invalAll (hs : ByLine sel) : Works s (s.invalAll sel) := .of_lines rfl rfl (fun h => h.invalAll hs) id

theorem Works.evictL2 (hs : ByLine sel) : Works s (s.evictL2 sel) := .of_lines rfl rfl (fun h => h.evictL2 hs) (wf_spill _ _)

/-- A line leaves the own D-cache and the L2, written back to memory. -/
theorem Works.flushRenew (hs : ByLine sel) : Works s (((s.flushMine sel).cleanL2 sel).renewL2 sel) :=
  .of_lines rfl rfl (fun h => ((h.flushMine sel).cleanL2 sel).renewL2 hs fun _ hl _ => without_off hs.byPlace.steady hl) (wf_spill _ _)

/-- A line leaves the own D-cache and the L2. -/
theorem Works.invalRenew (hs : ByLine sel) : Works s ((s.invalMine sel).renewL2 sel) :=
  .of_lines rfl rfl (fun h => (h.invalMine sel).renewL2 hs fun l hl _ => by simpa using (List.mem_filter.1 hl).2) id

end

theorem Works.flushVa (s : State) (n : Nat) (shared : Bool) : Works s (s.flushVa (onLine n) shared) := by
  unfold State.flushVa
  split
  · exact .flushAll s (byLine_onLine n)
  · exact .flushRenew s (byLine_onLine n)

theorem Works.cleanVaL1 (s : State) (n : Nat) (shared : Bool) : Works s (s.cleanVaL1 (onLine n) shared) := by
  unfold State.cleanVaL1
  split
  · exact .cleanBoth s _
  · exact .cleanMine s _

theorem Works.cleanVa (s : State) (n : Nat) (shared : Bool) : Works s (s.cleanVa (onLine n) shared) :=
  (Works.cleanVaL1 s n shared).trans (.cleanL2 _ _)

theorem Works.invalVa (s : State) (n : Nat) (shared : Bool) : Works s (s.invalVa (onLine n) shared) := by
  unfold State.invalVa
  split
  · exact .invalAll s (byLine_onLine n)
  · exact .invalRenew s (byLine_onLine n)

/-! ### The fetch units and synchronisation -/

theorem Works.fillIcache (s : State) (attr : BitVec 5) (va : Word) (a : Nat) : Works s (s.fillIcache attr va a) := by
  have f : ∃ c, s.fillIcache attr va a = { s with me := { s.me with icache := c } } := by
    unfold State.fillIcache
    split <;> exact ⟨_, rfl⟩
  obtain ⟨c, e⟩ := f
  refine .of_lines ?_ ?_ (fun h => h.fillIcache attr va a) ?_ <;> rw [e]
  · rfl
  · exact id

theorem Works.afterFetch (s : State) (attr : BitVec 5) (va : Word) (a : Nat) : Works s (s.afterFetch attr va a) := by
  unfold State.afterFetch
  split
  · exact .refl s
  · exact .fillIcache s attr va a

theorem Works.fetchEarly (s : State) (attr : BitVec 5) (va : Word) (a : Nat) : Works s (s.fetchEarly attr va a) :=
  (Works.afterFetch s attr va a).trans (.of_same rfl rfl)

theorem Works.invalIcache (s : State) (sel : CodeLine → Bool) (broadcast : Bool) : Works s (s.invalIcache sel broadcast) := by
  refine .of_lines ?_ rfl (fun h => h.invalIcache sel broadcast) id
  cases broadcast <;> rfl

theorem Works.complete (s : State) : Works s s.complete := .of_lines rfl rfl (fun h => h.complete) id

theorem Works.settleMe (s : State) : Works s s.settleMe :=
  .of_frame rfl fun h => ⟨h.micro, h.sound.settleMe, h.memory, h.sources⟩

theorem Works.fenceI (s : State) : Works s s.fenceI := by
  refine .of_lines ?_ ?_ (fun h => h.fenceI) ?_ <;> unfold State.fenceI <;> dsimp only
  · split <;> split <;> rfl
  · split <;> split <;> rfl
  · split <;> split <;> exact id

/-! ### Devices -/

/-- An access with the privilege `p` is one that the running core makes in its own mode, where `mstatus.MPRV` is clear and it is user
mode (21_mmu_pmp:R231). -/
def State.Own (s : State) (p : Priv) : Prop := s.me.priv = .user → s.me.m.mstatus.getLsbD 17 = false → p = .user

theorem State.own_effPriv (s : State) (k : Access) : s.Own (s.me.effPriv k) := by
  intro hu hm
  unfold Hart.effPriv bit mstatusMPRV
  rw [hm, Bool.and_false, if_neg Bool.false_ne_true, hu]

theorem Contained.own {s t : State} (h : Contained s t) (p : Priv) : t.Own p ↔ s.Own p := by
  unfold State.Own
  rw [h.priv, h.status 17 (by decide)]

/-- No bit of a source that does not exist (61_clint_plic:R873). -/
theorem sources_iff {v : BitVec 1024} : v &&& ~~~Plic.live = 0 ↔ ∀ n, v.getLsbD n = true → Plic.live.getLsbD n = true := by
  constructor
  · intro h n hn
    have := congrArg (fun x => BitVec.getLsbD x n) h
    simpa [hn, BitVec.lt_of_getLsbD hn] using this
  · intro h
    refine BitVec.eq_of_getLsbD_eq fun n hn => ?_
    have := h n
    cases hv : v.getLsbD n
    · simp [hv]
    · simp [this hv]

theorem Plic.sample_sources {p : Plic} (h : p.ip &&& ~~~Plic.live = 0) : p.sample.ip &&& ~~~Plic.live = 0 := by
  rw [sources_iff] at h ⊢
  intro n hn
  simp only [Plic.sample, BitVec.getLsbD_or, BitVec.getLsbD_and, Bool.or_eq_true, Bool.and_eq_true] at hn
  exact hn.elim (h n) fun hl => hl.2

theorem Plic.claimed_sources {p : Plic} (h : p.ip &&& ~~~Plic.live = 0) (k : Nat) : (p.claimed k).ip &&& ~~~Plic.live = 0 := by
  unfold Plic.claimed
  split
  · exact h
  · rw [sources_iff] at h ⊢
    intro n hn
    simp only [setSource, Bool.false_eq_true, if_false, BitVec.getLsbD_and, Bool.and_eq_true] at hn
    exact h n hn.1

theorem setSourceWord_sources {v : BitVec 1024} (h : v &&& ~~~Plic.live = 0) (x w : Nat) :
    setSourceWord v x w &&& ~~~Plic.live = 0 := by
  rw [sources_iff] at h ⊢
  intro n hn
  simp only [setSourceWord, BitVec.getLsbD_or, BitVec.getLsbD_and, Bool.or_eq_true, Bool.and_eq_true] at hn
  exact hn.elim (fun hl => h n hl.1) fun hr => hr.2

theorem Plic.setTarget_ip (p : Plic) (t : Target) (v : PlicTarget) : (p.setTarget t v).ip = p.ip := by
  cases t <;> rfl

/-- A read of a device register moves the PLIC at most, by a claim. -/
theorem State.devReadReg_sources (s : State) (r : DevReg) (h : s.plic.ip &&& ~~~Plic.live = 0) :
    (s.devReadReg r).2.plic.ip &&& ~~~Plic.live = 0 := by
  cases r
  case claim t => exact Plic.claimed_sources h _
  all_goals exact h

/-- What a write of a device register moves: the device registers and the latches of `mip.SSIP`. -/
def DevFrame (s t : State) : Prop :=
  t = { s with me := { s.me with m := { s.me.m with ssipLatch := t.me.m.ssipLatch } }
               other := { s.other with m := { s.other.m with ssipLatch := t.other.m.ssipLatch } }
               plic := t.plic, clint0 := t.clint0, clint1 := t.clint1 }

theorem DevFrame.setClint (s : State) (id : HartId) (c : ClintRegs) : DevFrame s (s.setClint id c) := by cases id <;> rfl

theorem DevFrame.setSsip (s : State) (id : HartId) (b latch : Bool) : DevFrame s (s.setSsip id b latch) := by
  unfold DevFrame
  rw [State.setSsip_eq]

theorem State.devWriteReg_frame (s : State) (r : DevReg) (v : Nat) : DevFrame s (s.devWriteReg r v) := by
  cases r
  case msip => exact .setClint s _ _
  case mtimecmp => exact .setClint s _ _
  case stimecmp => exact .setClint s _ _
  case ssip => exact .setSsip s _ _ _
  all_goals rfl

theorem State.setClint_plic (s : State) (id : HartId) (c : ClintRegs) : (s.setClint id c).plic = s.plic := by cases id <;> rfl

theorem State.setSsip_plic (s : State) (id : HartId) (b latch : Bool) : (s.setSsip id b latch).plic = s.plic := by
  rw [State.setSsip_eq]

theorem State.devWriteReg_sources (s : State) (r : DevReg) (v : Nat) (h : s.plic.ip &&& ~~~Plic.live = 0) :
    (s.devWriteReg r v).plic.ip &&& ~~~Plic.live = 0 := by
  cases r
  case pending x => exact Plic.sample_sources (setSourceWord_sources h x v)
  case claim => exact Plic.sample_sources h
  case enable => exact (Plic.setTarget_ip _ _ _).symm ▸ h
  case threshold => exact (Plic.setTarget_ip _ _ _).symm ▸ h
  case msip => exact (State.setClint_plic _ _ _).symm ▸ h
  case mtimecmp => exact (State.setClint_plic _ _ _).symm ▸ h
  case stimecmp => exact (State.setClint_plic _ _ _).symm ▸ h
  case ssip => exact (State.setSsip_plic _ _ _ _).symm ▸ h
  all_goals exact h

theorem Works.of_devices {s t : State} (h : DevFrame s t) (own : s.me.priv = .user → s.me.m.mstatus.getLsbD 17 = false → t = s)
    (sources : s.plic.ip &&& ~~~Plic.live = 0 → t.plic.ip &&& ~~~Plic.live = 0) : Works s t := by
  unfold DevFrame at h
  refine ⟨?_, by rw [h], fun hs => ?_⟩
  · constructor
    case status => intro n _; rw [h]
    case devices => intro hu hm; rw [own hu hm]; exact ⟨rfl, rfl, rfl, rfl, rfl⟩
    all_goals rw [h]
  · have hs' : ({ t with plic := s.plic } : State).Tidy := hs.congr (by rw [h]; rfl)
    exact ⟨hs'.micro, ⟨hs'.sound.mine, hs'.sound.others, hs'.sound.l2, hs'.sound.included, hs'.sound.code⟩, hs'.memory,
      sources hs.sources⟩

/-- User mode has no right to a device register (61_clint_plic:R852, R875). -/
theorem Works.devRead (s : State) {p : Priv} (hp : s.Own p) (off : Nat) : Works s (s.devRead p off).2 := by
  refine .of_devices ?_ (fun hu hm => ?_) fun h => ?_
  · unfold DevFrame
    rw [State.devRead_eq]
  · rw [hp hu hm]
    rfl
  · unfold State.devRead
    split
    · exact s.devReadReg_sources _ h
    · exact h

theorem Works.devWrite (s : State) {p : Priv} (hp : s.Own p) (off v : Nat) : Works s (s.devWrite p off v) := by
  refine .of_devices ?_ (fun hu hm => ?_) fun h => ?_
  · unfold State.devWrite
    split
    · exact s.devWriteReg_frame _ v
    · rfl
  · rw [hp hu hm]
    rfl
  · unfold State.devWrite
    split
    · exact s.devWriteReg_sources _ v h
    · exact h

end Sys2Proof.Machine

namespace Sys2Proof.Machine

/-! ### From an address to a place -/

/-- A part of an instruction, from the state `s`: it works, whether it goes on, with a value as `Q` says, or raises. -/
def Res.Works {α : Type} (r : Res α) (s : State) (Q : α → Prop) : Prop :=
  r.Sat (fun v t => Machine.Works s t ∧ Q v) fun _ _ t => Machine.Works s t

theorem Res.Works.andThen {α β : Type} {r : Res α} {s : State} {k : α → State → Res β} {Q : α → Prop} {Q' : β → Prop}
    (h : r.Works s Q) (hk : ∀ v t, Machine.Works s t → Q v → (k v t).Works t Q') : (r.andThen k).Works s Q' :=
  Res.Sat.andThen h fun v t ⟨ht, hv⟩ => (hk v t ht hv).mono (fun _ _ ⟨hu, hw⟩ => ⟨ht.trans hu, hw⟩) fun _ _ _ hu => ht.trans hu

theorem Res.Works.imp {α : Type} {r : Res α} {s : State} {Q Q' : α → Prop} (h : r.Works s Q) (hq : ∀ v, Q v → Q' v) : r.Works s Q' :=
  h.mono (fun v _ ⟨ht, hv⟩ => ⟨ht, hq v hv⟩) fun _ _ _ ht => ht

theorem Res.Works.after {α : Type} {r : Res α} {s t : State} {Q : α → Prop} (ht : Machine.Works s t) (h : r.Works t Q) : r.Works s Q :=
  h.mono (fun _ _ ⟨hu, hv⟩ => ⟨ht.trans hu, hv⟩) fun _ _ _ hu => ht.trans hu

/-- The part answers with a value, and has only worked. -/
theorem Res.Works.of_ok {α : Type} {s t : State} {Q : α → Prop} {v : α} (h : Machine.Works s t) (hv : Q v) :
    (Res.ok v t).Works s Q := ⟨h, hv⟩

/-- The part raises, and has only worked. -/
theorem Res.Works.of_trap {α : Type} {s t : State} {Q : α → Prop} {c : Nat} {i : Word} (h : Machine.Works s t) :
    (Res.trap c i t : Res α).Works s Q := h

theorem State.readPte_works (s : State) (pa : BitVec 40) : Works s (s.readPte pa).2.2 := by
  unfold State.readPte
  split
  · exact .drawn s
  · dsimp only
    split
    · exact .refl s
    · split <;> exact .drawn s

theorem State.walk_works (s : State) (k : Access) (va : Word) (table n : Nat) : (s.walk k va table n).Works s fun _ => True := by
  induction n generalizing s table with
  | zero => exact Works.refl s
  | succ n ih =>
    unfold State.walk
    dsimp only
    split
    · exact Works.refl s
    · split
      · trivial
      · split
        · exact Works.refl s
        · have h := State.readPte_works s (BitVec.ofNat 40 (table * 4096 + field va (12 + 9 * n) 9 * 8))
          revert h
          generalize s.readPte _ = r
          intro h
          split
          · exact h
          · split
            · exact .after h ((ih r.2.2 _).andThen fun _ t _ _ => .of_ok (.refl t) trivial)
            · split
              · exact h
              · exact ⟨h, trivial⟩

theorem State.throughTlb_works (s : State) (k : Access) (p : Priv) (va : Word) (e : TlbEntry) :
    (s.throughTlb k p va e).Works s fun pl => pl.priv = p := by
  unfold State.throughTlb
  split
  · exact .of_ok (.refl s) rfl
  · exact .of_trap (.refl s)

theorem State.throughTable_works (s : State) (k : Access) (p : Priv) (va : Word) :
    (s.throughTable k p va).Works s fun pl => pl.priv = p := by
  refine (State.walk_works s k va _ 3).andThen fun l t _ _ => ?_
  dsimp only
  split
  · exact .of_ok (.refillFor t k l va) rfl
  · exact .of_trap (.refl t)

theorem State.lookup_works (s : State) (k : Access) (p : Priv) (va : Word) : (s.lookup k p va).Works s fun pl => pl.priv = p := by
  unfold State.lookup
  split
  · exact State.throughTlb_works s k p va _
  · split
    · exact (State.throughTlb_works s k p va _).andThen fun _ t _ hp => .of_ok (.fillMicro t k _) hp
    · split
      · exact .of_trap (.refl s)
      · exact State.throughTable_works s k p va
    · trivial
  · trivial

theorem State.lookupLeaving_works (s : State) (k : Access) (p : Priv) (va : Word) :
    (s.lookupLeaving k p va).Works s fun pl => pl.priv = p := by
  unfold State.lookupLeaving
  split
  · exact State.lookup_works s k p va
  · split
    · exact .after (.drawn s) (State.throughTlb_works _ k p va _)
    · exact .after (.drawn s) (State.lookup_works _ k p va)

/-- Translation brings entries into the TLBs, and gives a place with the effective privilege of the access. -/
theorem State.translate_works (s : State) (k : Access) (va : Word) :
    (s.translate k va).Works s fun pl => pl.priv = s.me.effPriv k := by
  unfold State.translate
  dsimp only
  split
  · split
    · exact State.lookupLeaving_works s k _ va
    · exact .of_trap (.refl s)
  · split
    · exact .of_trap (.refl s)
    · exact .of_ok (.refl s) rfl

theorem State.checkPlace_works (s : State) (k : Access) (va : Word) (pl : Place) :
    (s.checkPlace k va pl).Works s fun q => q = pl := by
  unfold State.checkPlace
  split
  · exact .of_trap (.refl s)
  · split
    · trivial
    · split
      · exact .of_trap (.refl s)
      · exact .of_ok (.refl s) rfl

theorem State.resolve_works (s : State) (k : Access) (va : Word) : (s.resolve k va).Works s fun pl => pl.priv = s.me.effPriv k :=
  (State.translate_works s k va).andThen fun pl t _ hp => (State.checkPlace_works t k va pl).imp fun _ e => e ▸ hp

/-- The parts are accessed in the own mode of the running core, where that is so. -/
def State.OwnParts (s : State) (ps : List Part) : Prop := ∀ p ∈ ps, s.Own p.place.priv

theorem Contained.ownParts {s t : State} (h : Contained s t) (ps : List Part) : t.OwnParts ps ↔ s.OwnParts ps := by
  unfold State.OwnParts
  simp only [h.own]

theorem State.planBytes_works (s : State) (k : Access) (start va : Word) (n : Nat) :
    (s.planBytes k start va n).Works s s.OwnParts := by
  induction n generalizing s va with
  | zero => exact .of_ok (.refl s) fun _ h => absurd h List.not_mem_nil
  | succ n ih =>
    refine (State.translate_works s k va).andThen fun pl t ht hp => ?_
    split
    · exact .of_trap (.refl t)
    · refine (State.checkPlace_works t k va pl).andThen fun q u hu hq => ?_
      refine (ih u (va + 1)).andThen fun ps w _ hps => .of_ok (.refl w) fun p hm => ?_
      rcases List.mem_cons.1 hm with rfl | hm
      · rw [hq, hp]
        exact s.own_effPriv k
      · exact (((ht.trans hu).contained).ownParts ps).1 hps p hm

/-- Where an access goes. -/
theorem State.plan_works (s : State) (k : Access) (atomic : Bool) (va : Word) (n : Nat) :
    (s.plan k atomic va n).Works s s.OwnParts := by
  unfold State.plan
  split
  · refine (State.resolve_works s k va).andThen fun pl t _ hp => .of_ok (.refl t) fun p hm => ?_
    rw [List.mem_singleton.1 hm, hp]
    exact s.own_effPriv k
  · split
    · exact .of_trap (.refl s)
    · exact State.planBytes_works s k va va n

/-! ### Accesses -/

theorem State.readPart_works (s : State) (k : Access) {p : Part} (hp : s.Own p.place.priv) : Works s (s.readPart k p).2 := by
  unfold State.readPart
  split
  · split
    · exact .devRead s hp _
    · exact .drawn s
  · exact .touch s _ _

theorem State.readParts_works (s : State) (k : Access) {ps : List Part} (h : s.OwnParts ps) : Works s (s.readParts k ps).2 := by
  induction ps generalizing s with
  | nil => exact .refl s
  | cons p rest ih =>
    have h1 := State.readPart_works s k (h p List.mem_cons_self)
    exact h1.trans (ih _ ((h1.contained.ownParts rest).2 fun q hq => h q (List.mem_cons_of_mem _ hq)))

theorem State.writePart_works (s : State) (plain : Bool) {p : Part} (v : Nat) (hp : s.Own p.place.priv) :
    Works s (s.writePart plain p v) := by
  have ha := Works.announce s p.place.pa.toNat
  unfold State.writePart
  dsimp only
  split
  · exact ha
  · split
    · split
      · exact ha.trans (.devWrite _ ((ha.contained.own _).2 hp) _ _)
      · exact ha
    · exact (ha.trans (.notePte _ _ _)).trans (.storeData _ _ _ _)

theorem State.writeParts_works (s : State) (plain : Bool) {ps : List Part} (v : Nat) (h : s.OwnParts ps) :
    Works s (s.writeParts plain ps v) := by
  induction ps generalizing s v with
  | nil => exact .refl s
  | cons p rest ih =>
    have h1 := State.writePart_works s plain v (h p List.mem_cons_self)
    exact h1.trans (ih _ _ ((h1.contained.ownParts rest).2 fun q hq => h q (List.mem_cons_of_mem _ hq)))

theorem State.memRead_works (s : State) (va : Word) (n : Nat) : (s.memRead va n).Works s fun _ => True :=
  (State.plan_works s .load false va n).andThen fun ps t ht hp =>
    .of_ok (State.readParts_works t .load ((ht.contained.ownParts ps).2 hp)) trivial

theorem State.memWrite_works (s : State) (va : Word) (n v : Nat) : (s.memWrite va n v).Works s fun _ => True :=
  (State.plan_works s .store false va n).andThen fun ps t ht hp =>
    .of_ok (State.writeParts_works t true v ((ht.contained.ownParts ps).2 hp)) trivial

theorem State.memReadPair_works (s : State) (va : Word) (n : Nat) : (s.memReadPair va n).Works s fun _ => True := by
  refine (State.plan_works s .load false va n).andThen fun ps t ht hp => ?_
  refine (State.plan_works t .load false _ n).andThen fun qs u hu hq => ?_
  have h1 := State.readParts_works u .load (((ht.trans hu).contained.ownParts ps).2 hp)
  exact .of_ok (h1.trans (State.readParts_works _ .load (((hu.trans h1).contained.ownParts qs).2 hq))) trivial

theorem State.memWritePair_works (s : State) (va : Word) (n v w : Nat) : (s.memWritePair va n v w).Works s fun _ => True := by
  refine (State.plan_works s .store false va n).andThen fun ps t ht hp => ?_
  refine (State.plan_works t .store false _ n).andThen fun qs u hu hq => ?_
  have h1 := State.writeParts_works u true v (((ht.trans hu).contained.ownParts ps).2 hp)
  exact .of_ok (h1.trans (State.writeParts_works _ true w (((hu.trans h1).contained.ownParts qs).2 hq))) trivial

theorem State.memAmo_works (s : State) (va : Word) (n : Nat) (f : Nat → Nat) : (s.memAmo va n f).Works s fun _ => True := by
  refine (State.plan_works s .amo true va n).andThen fun ps t ht hp => ?_
  have hp' := (ht.contained.ownParts ps).2 hp
  split
  · trivial
  · have h1 := State.readParts_works t .amo hp'
    exact .of_ok (h1.trans (State.writeParts_works _ false _ ((h1.contained.ownParts ps).2 hp'))) trivial

theorem State.memLr_works (s : State) (va : Word) (n : Nat) : (s.memLr va n).Works s fun _ => True := by
  refine (State.plan_works s .lr true va n).andThen fun ps t ht hp => ?_
  split
  · exact .of_trap (.refl t)
  · have h1 := State.readParts_works t .lr ((ht.contained.ownParts ps).2 hp)
    dsimp only
    split
    · exact .of_ok (h1.trans (.reserve _ _ _)) trivial
    · exact .of_ok h1 trivial

theorem State.memSc_works (s : State) (va : Word) (n v : Nat) : (s.memSc va n v).Works s fun _ => True := by
  refine (State.plan_works s .store true va n).andThen fun ps t ht hp => ?_
  split
  · next p _ =>
    have h1 : Works t (if t.scPasses p then t.writePart false p v else t) := by
      split
      · exact State.writePart_works t false v ((ht.contained.ownParts _).2 hp p List.mem_cons_self)
      · exact .refl t
    exact .of_ok (h1.trans (.reserve _ _ _)) trivial
  · exact .of_ok (.refl t) trivial

theorem State.fetchParcel_works (s : State) (va : Word) : (s.fetchParcel va).Works s fun _ => True := by
  refine (State.resolve_works s .fetch va).andThen fun pl t _ _ => ?_
  split
  · exact .of_trap (.refl t)
  · exact .of_ok (.afterFetch t _ _ _) trivial

theorem State.fetch_works (s : State) : s.fetch.Works s fun _ => True := by
  refine (State.fetchParcel_works s _).andThen fun p0 t _ _ => ?_
  split
  · exact (State.fetchParcel_works t _).andThen fun p1 u _ _ => .of_ok (.refl u) trivial
  · exact .of_ok (.refl t) trivial

theorem State.cacheLine_works (s : State) (va : Word) : (s.cacheLine va).Works s fun _ => True := by
  have h := State.translate_works s .load va
  unfold State.cacheLine
  split
  · next pl t e =>
    rw [e] at h
    split
    · exact .of_ok h.1 trivial
    · exact .of_ok h.1 trivial
  · next c i t e =>
    rw [e] at h
    split
    · exact .of_trap h
    · exact .of_ok h trivial
  · trivial
  · trivial

end Sys2Proof.Machine

namespace Sys2Proof.Machine

/-! ### How an instruction ends -/

/-- An instruction completes: what it changes is contained, the rest stays tidy, and an even program counter stays even. -/
structure Completes (s t : State) : Prop where
  contained : Contained s t
  tidy      : s.Tidy → t.Tidy
  even      : s.me.pc.getLsbD 0 = false → t.me.pc.getLsbD 0 = false

theorem Works.completes {s t : State} (h : Works s t) : Completes s t := ⟨h.contained, h.tidy, fun he => h.pc ▸ he⟩

theorem Completes.trans {s t u : State} (h1 : Completes s t) (h2 : Completes t u) : Completes s u :=
  ⟨h1.contained.trans h2.contained, h2.tidy ∘ h1.tidy, h2.even ∘ h1.even⟩

theorem even_add {a b : Word} (ha : a.getLsbD 0 = false) (hb : b.getLsbD 0 = false) : (a + b).getLsbD 0 = false := by
  rw [BitVec.getLsbD_add (by decide), ha, hb, BitVec.carry_zero]
  rfl

/-- The length of an instruction is 2 or 4 (10_state:R23). -/
theorem even_length {len : Nat} (h : len % 2 = 0) : (BitVec.ofNat 64 len).getLsbD 0 = false := by
  rw [BitVec.getLsbD_ofNat, Nat.testBit_zero, h]
  rfl

theorem even_offset {w : Nat} (off : BitVec w) : ((off ++ 0#1).signExtend 64).getLsbD 0 = false := by
  rw [BitVec.getLsbD_signExtend, if_pos (by omega), BitVec.getLsbD_append]
  rfl

theorem evenTarget_even (w : Word) : (evenTarget w).getLsbD 0 = false := by
  simp [evenTarget]

theorem Completes.jump (s : State) {pc : Word} (h : s.me.pc.getLsbD 0 = false → pc.getLsbD 0 = false) : Completes s (s.jump pc) :=
  ⟨.of_moved (s.jump_eq pc), fun hs => hs.congr (by simp [State.stored, State.jump, State.setPc]), h⟩

theorem Completes.retire (s : State) {len : Nat} (h : len % 2 = 0) : Completes s (s.retire len) :=
  .jump s fun he => even_add he (even_length h)

/-- How an instruction ends, from the state `s`: it completes in the mode it runs in, or raises an exception after it has worked, or
is one of those that need a right. -/
inductive Ends (s : State) : Result → Prop
  | completes {t : State} (h : Completes s t) : Ends s (.next t)
  | raises {t : State} (h : Works s t) (code : Nat) (info : Word) : Ends s (.next (t.raise code info))
  | csr (c : Csr) (write : Bool) (h : s.me.csrAllowed c write = true) (v : Word) (rd : Reg) (old : Word) :
      Ends s (.next (((if write then (s.retireInto c).csrWrite c v else s.retire 4).refetchMine).setX rd old))
  | fencesTlb (h : s.me.priv ≠ .user) (rs1 rs2 : Reg) (broadcast : Bool) :
      Ends s (.next ((s.fenceTlb rs1 rs2 broadcast).retire 4))
  | returnsM (h : s.me.priv ≠ .user) : Ends s (.next s.tick.returnM)
  | returnsS (h : s.me.priv ≠ .user) : Ends s (.next s.tick.returnS)
  | faults (r : Fault) : Ends s (.fault r)
  | refuses (r : Refusal) : Ends s (.refused r)

theorem Works.retires {s t : State} (h : Works s t) {len : Nat} (hl : len % 2 = 0) : Ends s (.next (t.retire len)) :=
  .completes (h.completes.trans (.retire t hl))

theorem State.illegal_ends (s : State) (c : Code) : Ends s (.next (s.illegal c)) := .raises (.refl s) 2 _

/-- A part of an instruction decides how it ends. -/
theorem Res.Works.ends {α : Type} {r : Res α} {s : State} {Q : α → Prop} {k : α → State → State} (h : r.Works s Q)
    (hk : ∀ v t, Machine.Works t (k v t)) {len : Nat} (hl : len % 2 = 0) :
    Ends s ((r.andThen fun v t => .ok () ((k v t).retire len)).finish) := by
  cases r with
  | ok v t => exact (h.1.trans (hk v t)).retires hl
  | trap c i t => exact .raises h c i
  | fault r => exact .faults r
  | refused r => exact .refuses r

/-! ### The shapes of instructions -/

section
variable (s : State)

theorem State.writeX_ends {len : Nat} (hl : len % 2 = 0) (rd : Reg) (v : Word) : Ends s (s.writeX len rd v) :=
  (Works.setX s rd v).retires hl

theorem State.branch_ends (taken : Word → Word → Bool) (rs1 rs2 : Reg) (off : BitVec 12) : Ends s (s.branch taken rs1 rs2 off) := by
  unfold State.branch
  split
  · exact .completes (.jump s fun he => even_add he (even_offset off))
  · exact (Works.refl s).retires rfl

theorem State.branchC_ends (taken : Word → Bool) (rs1 : Reg') (off : BitVec 8) : Ends s (s.branchC taken rs1 off) := by
  unfold State.branchC
  split
  · exact .completes (.jump s fun he => even_add he (even_offset off))
  · exact (Works.refl s).retires rfl

theorem State.link_ends (len : Nat) (rd : Reg) {target : Word} (h : s.me.pc.getLsbD 0 = false → target.getLsbD 0 = false) :
    Ends s (s.link len rd target) :=
  have w := Works.setX s rd (s.me.pc + BitVec.ofNat 64 len)
  .completes (w.completes.trans (.jump _ fun he => h (w.pc ▸ he)))

theorem State.extract_ends (signed : Bool) (rd rs1 : Reg) (msb lsb : Nat) : Ends s (s.extract signed rd rs1 msb lsb) := by
  unfold State.extract
  split
  · exact ((Works.drawn s).trans (.setX _ rd _)).retires rfl
  · exact s.writeX_ends rfl rd _

theorem State.loadX_ends {len : Nat} (hl : len % 2 = 0) (signed : Bool) (n : Nat) (rd : Reg) (va : Word) :
    Ends s (s.loadX len signed n rd va) :=
  (s.memRead_works va n).ends (fun _ t => .setX t rd _) hl

theorem State.storeV_ends {len : Nat} (hl : len % 2 = 0) (n : Nat) (v va : Word) : Ends s (s.storeV len n v va) :=
  (s.memWrite_works va n _).ends (fun _ t => .refl t) hl

theorem State.loadF_ends {len : Nat} (hl : len % 2 = 0) (n : Nat) (fd : Reg) (va : Word) : Ends s (s.loadF len n fd va) :=
  (s.memRead_works va n).ends (fun _ t => (Works.setF t fd _).trans (.fpDirty _)) hl

theorem State.storeF_ends {len : Nat} (hl : len % 2 = 0) (n : Nat) (fs2 : Reg) (va : Word) : Ends s (s.storeF len n fs2 va) :=
  (s.memWrite_works va n _).ends (fun _ t => .fpDirty t) hl

theorem State.loadUpdate_ends (c : Code) (signed : Bool) (n : Nat) (after : Bool) (rd rs1 : Reg) (step : Word) :
    Ends s (s.loadUpdate c signed n after rd rs1 step) := by
  unfold State.loadUpdate
  split
  · exact s.illegal_ends c
  · exact (s.memRead_works _ n).ends (fun _ t => (Works.setX t rs1 _).trans (.setX _ rd _)) rfl

theorem State.storeUpdate_ends (n : Nat) (after : Bool) (rs2 rs1 : Reg) (step : Word) :
    Ends s (s.storeUpdate n after rs2 rs1 step) :=
  (s.memWrite_works _ n _).ends (fun _ t => .setX t rs1 _) rfl

theorem State.loadPair_ends (c : Code) (signed : Bool) (n : Nat) (rd1 rd2 rs1 : Reg) (va : Word) :
    Ends s (s.loadPair c signed n rd1 rd2 rs1 va) := by
  unfold State.loadPair
  split
  · exact (s.memReadPair_works va n).ends (fun _ t => (Works.setX t rd1 _).trans (.setX _ rd2 _)) rfl
  · exact s.illegal_ends c

theorem State.storePair_ends (n : Nat) (rd1 rd2 : Reg) (va : Word) : Ends s (s.storePair n rd1 rd2 va) :=
  (s.memWritePair_works va n _ _).ends (fun _ t => .refl t) rfl

theorem State.amo_ends (n : Nat) (f : BitVec (8 * n) → BitVec (8 * n) → BitVec (8 * n)) (rd rs2 rs1 : Reg) :
    Ends s (s.amo n f rd rs2 rs1) :=
  (s.memAmo_works _ n _).ends (fun _ t => .setX t rd _) rfl

theorem State.loadReserved_ends (n : Nat) (rd rs1 : Reg) : Ends s (s.loadReserved n rd rs1) :=
  (s.memLr_works _ n).ends (fun _ t => .setX t rd _) rfl

theorem State.storeConditional_ends (n : Nat) (rd rs2 rs1 : Reg) : Ends s (s.storeConditional n rd rs2 rs1) :=
  (s.memSc_works _ n _).ends (fun _ t => .setX t rd _) rfl

theorem State.resultBits_works (f : Fmt) (out : FpOut) : Works s (s.resultBits f out).2 := by
  unfold State.resultBits
  split
  · exact .refl s
  · split
    · exact .drawn s
    · exact .refl s

theorem State.writeF_ends (f : Fmt) (fd : Reg) (out : FpOut) : Ends s (s.writeF f fd out) :=
  (((s.resultBits_works f out).trans (.setF _ fd _)).trans (.accrue _ _)).retires rfl

theorem State.writeXF_ends (rd : Reg) (v : Word) (fl : Flags) : Ends s (s.writeXF rd v fl) :=
  ((Works.setX s rd v).trans (.accrue _ fl)).retires rfl

theorem State.onVirtualLine_ends (rs1 : Reg) {act : State → (CacheLine → Bool) → Bool → State}
    (h : ∀ t n shared, Works t (act t (onLine n) shared)) : Ends s (s.onVirtualLine rs1 act) := by
  refine (s.cacheLine_works _).ends (fun line t => ?_) rfl
  split
  · exact h t _ _
  · exact .refl t

/-- An instruction that writes a control and status register, or reads it, has the right to it. -/
theorem State.csrOp_ends (code : Code) (csr : BitVec 12) (write : Bool) (f : Word → Word) (rd : Reg) :
    Ends s (s.csrOp code csr write f rd) := by
  unfold State.csrOp
  split
  · exact s.illegal_ends code
  · split
    · next h => exact .csr _ write h _ rd _
    · exact s.illegal_ends code

variable {s}

theorem State.fpGate_ends {c : Code} {k : Result} (h : Ends s k) : Ends s (s.fpGate c k) := by
  unfold State.fpGate
  split
  · exact h
  · exact s.illegal_ends c

theorem State.theadGate_ends {c : Code} {k : Result} (h : Ends s k) : Ends s (s.theadGate c k) := by
  unfold State.theadGate
  split
  · exact h
  · exact s.illegal_ends c

theorem State.roundGate_ends {c : Code} {rm : BitVec 3} {k : Rounding → Result} (h : ∀ r, Ends s (k r)) :
    Ends s (s.roundGate c rm k) := by
  refine State.fpGate_ends ?_
  split
  · exact h _
  · exact s.illegal_ends c

theorem State.cacheGate_ends {c : Code} {userOk : Bool} {k : Result} (h : (s.me.priv = .user → userOk = true) → Ends s k) :
    Ends s (s.cacheGate c userOk k) := by
  refine State.theadGate_ends ?_
  split
  · exact s.illegal_ends c
  · next hu => exact h fun hp => by simpa [hp] using hu

/-- A cache or synchronisation instruction that works and goes on. -/
theorem State.cacheGate_works {c : Code} {userOk : Bool} {t : State} (h : Works s t) :
    Ends s (s.cacheGate c userOk (.next (t.retire 4))) := State.cacheGate_ends fun _ => h.retires rfl

end

theorem State.mayFenceOrReturn_priv {s : State} {n : Nat} (h : s.mayFenceOrReturn n = true) : s.me.priv ≠ .user := by
  intro hu
  unfold State.mayFenceOrReturn at h
  rw [hu] at h
  cases h

theorem execSret_ends (s : State) : Ends s (execSret s) := by
  unfold execSret
  split
  · next h => exact .returnsS (State.mayFenceOrReturn_priv h)
  · exact s.illegal_ends _

theorem execMret_ends (s : State) : Ends s (execMret s) := by
  unfold execMret
  split
  · next h => exact .returnsM (by rw [h]; decide)
  · exact s.illegal_ends _

theorem execSfenceVma_ends (rs1 rs2 : Reg) (s : State) : Ends s (execSfenceVma rs1 rs2 s) := by
  unfold execSfenceVma
  split
  · next h => exact .fencesTlb (State.mayFenceOrReturn_priv h) rs1 rs2 _
  · exact s.illegal_ends _

theorem execSfenceVmas_ends (rs1 rs2 : Reg) (s : State) : Ends s (execSfenceVmas rs1 rs2 s) := by
  refine State.cacheGate_ends fun hu => ?_
  split
  · exact s.illegal_ends _
  · exact .fencesTlb (fun hp => Bool.false_ne_true (hu hp)) rs1 rs2 _

theorem execWfi_ends (s : State) : Ends s (execWfi s) := by
  unfold execWfi
  split
  · exact s.illegal_ends _
  · exact .completes ((Completes.retire s rfl).trans (Works.sleep _).completes)

end Sys2Proof.Machine

namespace Sys2Proof.Machine

/-! ### Every instruction -/

/-- How each instruction ends, by its shape. -/
theorem exec_ends (i : Instr) (s : State) : Ends s (exec i s) := by
  cases i with
  | add _ _ _ | addi _ _ _ | addiw _ _ _ | addw _ _ _ | sub _ _ _ | subw _ _ _ | and _ _ _ | andi _ _ _ | or _ _ _ | ori _ _ _
  | xor _ _ _ | xori _ _ _ | sll _ _ _ | slli _ _ _ | slliw _ _ _ | sllw _ _ _ | srl _ _ _ | srli _ _ _ | srliw _ _ _
  | srlw _ _ _ | sra _ _ _ | srai _ _ _ | sraiw _ _ _ | sraw _ _ _ | slt _ _ _ | sltu _ _ _ | slti _ _ _ | sltiu _ _ _
  | lui _ _ | auipc _ _ | div _ _ _ | divu _ _ _ | divuw _ _ _ | divw _ _ _ | mul _ _ _ | mulh _ _ _ | mulhsu _ _ _
  | mulhu _ _ _ | mulw _ _ _ | rem _ _ _ | remu _ _ _ | remuw _ _ _ | remw _ _ _ | cAdd _ _ | cAddi _ _ | cAddiw _ _
  | cAddi4spn _ _ | cAddi16sp _ | cAddw _ _ | cAnd _ _ | cAndi _ _ | cLi _ _ | cLui _ _ | cMv _ _ | cOr _ _ | cSlli _ _
  | cSrai _ _ | cSrli _ _ | cSub _ _ | cSubw _ _ | cXor _ _ => exact s.writeX_ends rfl _ _
  | beq _ _ _ | bne _ _ _ | blt _ _ _ | bltu _ _ _ => exact s.branch_ends _ _ _ _
  | bge _ _ _ => exact s.branch_ends (fun a b => !a.slt b) _ _ _
  | bgeu _ _ _ => exact s.branch_ends (fun a b => !a.ult b) _ _ _
  | jal _ _ => exact s.link_ends 4 _ fun he => even_add he (even_offset _)
  | jalr _ _ _ | cJalr _ => exact s.link_ends _ _ fun _ => evenTarget_even _
  | lb _ _ _ | lbu _ _ _ | lh _ _ _ | lhu _ _ _ | lw _ _ _ | lwu _ _ _ | ld _ _ _ | cLd _ _ _ | cLdsp _ _ | cLw _ _ _
  | cLwsp _ _ => exact s.loadX_ends rfl _ _ _ _
  | sb _ _ _ | sh _ _ _ | sw _ _ _ | sd _ _ _ | cSd _ _ _ | cSdsp _ _ | cSw _ _ _ | cSwsp _ _ => exact s.storeV_ends rfl _ _ _
  | fence _ _ _ _ _ | cNop => exact (Works.refl s).retires rfl
  | fenceI _ _ _ => exact (Works.fenceI s).retires rfl
  | csrrw _ _ rs1 => exact s.csrOp_ends _ _ _ (fun _ => s.getX rs1) _
  | csrrs _ _ rs1 => exact s.csrOp_ends _ _ _ (fun t => t ||| s.getX rs1) _
  | csrrc _ _ rs1 => exact s.csrOp_ends _ _ _ (fun t => t &&& ~~~s.getX rs1) _
  | csrrwi _ _ imm => exact s.csrOp_ends _ _ _ (fun _ => imm.setWidth 64) _
  | csrrsi _ _ imm => exact s.csrOp_ends _ _ _ (fun t => t ||| imm.setWidth 64) _
  | csrrci _ _ imm => exact s.csrOp_ends _ _ _ (fun t => t &&& ~~~imm.setWidth 64) _
  | ecall | ebreak | cEbreak => exact .raises (.refl s) _ _
  | sret => exact execSret_ends s
  | mret => exact execMret_ends s
  | sfenceVma _ _ => exact execSfenceVma_ends _ _ s
  | wfi => exact execWfi_ends s
  | amoaddD _ _ _ _ _ | amoaddW _ _ _ _ _ | amoandD _ _ _ _ _ | amoandW _ _ _ _ _ | amomaxD _ _ _ _ _ | amomaxW _ _ _ _ _
  | amomaxuD _ _ _ _ _ | amomaxuW _ _ _ _ _ | amominD _ _ _ _ _ | amominW _ _ _ _ _ | amominuD _ _ _ _ _ | amominuW _ _ _ _ _
  | amoorD _ _ _ _ _ | amoorW _ _ _ _ _ | amoxorD _ _ _ _ _ | amoxorW _ _ _ _ _ =>
    exact s.amo_ends _ _ _ _ _
  | amoswapD _ _ _ _ _ => exact s.amo_ends 8 (fun _ v => v) _ _ _
  | amoswapW _ _ _ _ _ => exact s.amo_ends 4 (fun _ v => v) _ _ _
  | lrD _ _ _ _ | lrW _ _ _ _ => exact s.loadReserved_ends _ _ _
  | scD _ _ _ _ _ | scW _ _ _ _ _ => exact s.storeConditional_ends _ _ _ _
  | faddS _ _ _ _ | fcvtSL _ _ _ | fcvtSLu _ _ _ | fcvtSW _ _ _ | fcvtSWu _ _ _ | fdivS _ _ _ _ | fmaddS _ _ _ _ _
  | fmsubS _ _ _ _ _ | fmulS _ _ _ _ | fnmaddS _ _ _ _ _ | fnmsubS _ _ _ _ _ | fsqrtS _ _ _ | fsubS _ _ _ _ | faddD _ _ _ _
  | fcvtDL _ _ _ | fcvtDLu _ _ _ | fcvtDS _ _ _ | fcvtDW _ _ _ | fcvtDWu _ _ _ | fcvtSD _ _ _ | fdivD _ _ _ _
  | fmaddD _ _ _ _ _ | fmsubD _ _ _ _ _ | fmulD _ _ _ _ | fnmaddD _ _ _ _ _ | fnmsubD _ _ _ _ _ | fsqrtD _ _ _ | fsubD _ _ _ _
  | faddH _ _ _ _ | fcvtDH _ _ _ | fcvtHD _ _ _ | fcvtHL _ _ _ | fcvtHLu _ _ _ | fcvtHS _ _ _ | fcvtHW _ _ _ | fcvtHWu _ _ _
  | fcvtSH _ _ _ | fdivH _ _ _ _ | fmaddH _ _ _ _ _ | fmsubH _ _ _ _ _ | fmulH _ _ _ _ | fnmaddH _ _ _ _ _ | fnmsubH _ _ _ _ _
  | fsqrtH _ _ _ | fsubH _ _ _ _ => exact State.roundGate_ends fun _ => s.writeF_ends _ _ _
  | fclassS _ _ | feqS _ _ _ | fleS _ _ _ | fltS _ _ _ | fmvXW _ _ | fclassD _ _ | feqD _ _ _ | fleD _ _ _ | fltD _ _ _
  | fmvXD _ _ | fclassH _ _ | feqH _ _ _ | fleH _ _ _ | fltH _ _ _ | fmvXH _ _ => exact State.fpGate_ends (s.writeXF_ends _ _ _)
  | fcvtLS _ _ _ | fcvtLuS _ _ _ | fcvtWS _ _ _ | fcvtWuS _ _ _ | fcvtLD _ _ _ | fcvtLuD _ _ _ | fcvtWD _ _ _ | fcvtWuD _ _ _
  | fcvtLH _ _ _ | fcvtLuH _ _ _ | fcvtWH _ _ _ | fcvtWuH _ _ _ => exact State.roundGate_ends fun _ => s.writeXF_ends _ _ _
  | flw _ _ _ | fld _ _ _ | cFld _ _ _ | cFldsp _ _ | flh _ _ _ => exact State.fpGate_ends (s.loadF_ends rfl _ _ _)
  | fmaxS _ _ _ | fminS _ _ _ | fmvWX _ _ | fsgnjS _ _ _ | fsgnjnS _ _ _ | fsgnjxS _ _ _ | fmaxD _ _ _ | fminD _ _ _
  | fmvDX _ _ | fsgnjD _ _ _ | fsgnjnD _ _ _ | fsgnjxD _ _ _ | fmaxH _ _ _ | fminH _ _ _ | fmvHX _ _ | fsgnjH _ _ _
  | fsgnjnH _ _ _ | fsgnjxH _ _ _ => exact State.fpGate_ends (s.writeF_ends _ _ _)
  | fsw _ _ _ | fsd _ _ _ | cFsd _ _ _ | cFsdsp _ _ | fsh _ _ _ => exact State.fpGate_ends (s.storeF_ends rfl _ _ _)
  | cBeqz _ _ => exact s.branchC_ends (fun a => a == 0) _ _
  | cBnez _ _ => exact s.branchC_ends (fun a => a != 0) _ _
  | cJ _ => exact .completes (.jump s fun he => even_add he (even_offset _))
  | cJr _ => exact .completes (.jump s fun _ => evenTarget_even _)
  | addsl _ _ _ _ | mula _ _ _ | mulah _ _ _ | mulaw _ _ _ | muls _ _ _ | mulsh _ _ _ | mulsw _ _ _ | mveqz _ _ _ | mvnez _ _ _
  | srri _ _ _ | srriw _ _ _ | ff0 _ _ | ff1 _ _ | rev _ _ | revw _ _ | tst _ _ _ | tstnbz _ _ =>
    exact State.theadGate_ends (s.writeX_ends rfl _ _)
  | ext _ _ _ _ | extu _ _ _ _ => exact State.theadGate_ends (s.extract_ends _ _ _ _ _)
  | flrd _ _ _ _ | flrw _ _ _ _ | flurd _ _ _ _ | flurw _ _ _ _ =>
    exact State.theadGate_ends (State.fpGate_ends (s.loadF_ends rfl _ _ _))
  | fsrd _ _ _ _ | fsrw _ _ _ _ | fsurd _ _ _ _ | fsurw _ _ _ _ =>
    exact State.theadGate_ends (State.fpGate_ends (s.storeF_ends rfl _ _ _))
  | lbia _ _ _ _ | lbib _ _ _ _ | lbuia _ _ _ _ | lbuib _ _ _ _ | ldia _ _ _ _ | ldib _ _ _ _ | lhia _ _ _ _ | lhib _ _ _ _
  | lhuia _ _ _ _ | lhuib _ _ _ _ | lwia _ _ _ _ | lwib _ _ _ _ | lwuia _ _ _ _ | lwuib _ _ _ _ =>
    exact State.theadGate_ends (s.loadUpdate_ends _ _ _ _ _ _ _)
  | ldd _ _ _ _ | lwd _ _ _ _ | lwud _ _ _ _ => exact State.theadGate_ends (s.loadPair_ends _ _ _ _ _ _ _)
  | lrb _ _ _ _ | lrbu _ _ _ _ | lrd _ _ _ _ | lrh _ _ _ _ | lrhu _ _ _ _ | lrw _ _ _ _ | lrwu _ _ _ _ | lurb _ _ _ _
  | lurbu _ _ _ _ | lurd _ _ _ _ | lurh _ _ _ _ | lurhu _ _ _ _ | lurw _ _ _ _ | lurwu _ _ _ _ =>
    exact State.theadGate_ends (s.loadX_ends rfl _ _ _ _)
  | sbia _ _ _ _ | sbib _ _ _ _ | sdia _ _ _ _ | sdib _ _ _ _ | shia _ _ _ _ | shib _ _ _ _ | swia _ _ _ _ | swib _ _ _ _ =>
    exact State.theadGate_ends (s.storeUpdate_ends _ _ _ _ _)
  | sdd _ _ _ _ | swd _ _ _ _ => exact State.theadGate_ends (s.storePair_ends _ _ _ _)
  | srb _ _ _ _ | srd _ _ _ _ | srh _ _ _ _ | srw _ _ _ _ | surb _ _ _ _ | surd _ _ _ _ | surh _ _ _ _ | surw _ _ _ _ =>
    exact State.theadGate_ends (s.storeV_ends rfl _ _ _)
  | dcacheCall | dcacheCsw _ => exact State.cacheGate_works (.cleanMine s _)
  | dcacheCiall | dcacheCisw _ => exact State.cacheGate_works (.flushMine s _)
  | dcacheCipa _ => exact State.cacheGate_works (.flushAll s (byLine_onLine _))
  | dcacheCiva _ => exact State.cacheGate_ends fun _ => s.onVirtualLine_ends _ Works.flushVa
  | dcacheCpa _ | l2cacheCall => exact State.cacheGate_works (.cleanAll s _)
  | dcacheCpal1 _ => exact State.cacheGate_works (.cleanBoth s _)
  | dcacheCva _ => exact State.cacheGate_ends fun _ => s.onVirtualLine_ends _ Works.cleanVa
  | dcacheCval1 _ => exact State.cacheGate_ends fun _ => s.onVirtualLine_ends _ Works.cleanVaL1
  | dcacheIpa _ => exact State.cacheGate_works (.invalAll s (byLine_onLine _))
  | dcacheIsw _ | dcacheIall => exact State.cacheGate_works (.invalMine s _)
  | dcacheIva _ => exact State.cacheGate_ends fun _ => s.onVirtualLine_ends _ Works.invalVa
  | icacheIall | icacheIalls | icacheIpa _ => exact State.cacheGate_works (.invalIcache s _ _)
  | icacheIva _ => exact State.cacheGate_ends fun _ => s.onVirtualLine_ends _ fun t _ _ => .invalIcache t _ _
  | l2cacheCiall => exact State.cacheGate_works (.flushAll s byLine_everyLine)
  | l2cacheIall => exact State.cacheGate_works (.invalAll s byLine_everyLine)
  | sfenceVmas _ _ => exact execSfenceVmas_ends _ _ s
  | sync => exact State.cacheGate_works (.refl s)
  | syncS => exact State.cacheGate_works (.complete s)
  | syncI => exact State.cacheGate_works (.refetchMine s)
  | syncIs => exact State.cacheGate_works (((Works.complete s).trans (.refetchMine _)).trans (.refetchOther _))

end Sys2Proof.Machine

namespace Sys2Proof.Machine

/-! ### What no instruction in user mode can change -/

/-- What an exception writes, whichever mode takes it. -/
theorem Hart.takeException_eq (h : Hart) (code : Nat) (info : Word) :
    let t := h.takeException code info
    t = { h with
      priv := t.priv, pc := t.pc, fetched := t.fetched, pmu := { h.pmu with mcycle := t.pmu.mcycle }
      th := { h.th with mcounterof := t.th.mcounterof }, smmu := { h.smmu with smeh := t.smmu.smeh }
      m := { h.m with mstatus := t.m.mstatus, mepc := t.m.mepc, mcause := t.m.mcause, mtval := t.m.mtval }
      sup := { h.sup with sepc := t.sup.sepc, scause := t.sup.scause, stval := t.sup.stval } } := by
  have hp : ∀ g : Hart, g.notePageFault code info = { g with smmu := { g.smmu with smeh := (g.notePageFault code info).smmu.smeh } } := by
    intro g
    unfold Hart.notePageFault
    split <;> rfl
  unfold Hart.takeException
  rw [hp, h.tickCycles_eq 1]
  split <;> rfl

/-- Where an exception is taken: in machine mode, or in supervisor mode if it is delegated. -/
theorem Hart.takeException_entry (h : Hart) (code : Nat) (info : Word) :
    let t := h.takeException code info
    (t.priv = .machine ∧ t.m.mepc = h.pc ∧ t.pc = h.m.mtvec &&& ~~~3 ∧ t.sup = h.sup) ∨
      (t.priv = .supervisor ∧ t.sup.sepc = h.pc ∧ t.pc = h.sup.stvec &&& ~~~3 ∧ t.m.mepc = h.m.mepc) := by
  unfold Hart.takeException
  split
  · exact .inr (by simp [Hart.trapToS, trapEntry])
  · exact .inl (by simp [Hart.trapToM, trapEntry])

/-- A register that user mode may write is one of the floating-point registers. -/
theorem Csr.isFp_of_user {h : Hart} {c : Csr} (ha : h.csrAllowed c true = true) (hu : h.priv = .user) : c.isFp = true := by
  have key : ∀ c : Csr, c.level.code ≤ 0 → c.readOnly = false → c.isFp = true := by
    intro c hl hr
    cases c <;> simp_all [Csr.level, Csr.readOnly, Csr.isFp, Priv.code]
  simp only [Hart.csrAllowed, hu, Bool.and_eq_true, decide_eq_true_eq] at ha
  obtain ⟨⟨⟨⟨⟨hl, hr⟩, -⟩, -⟩, -⟩, -⟩ := ha
  exact key c hl (by simpa using hr)

theorem Works.csrWrite_fp (s : State) {c : Csr} (h : c.isFp = true) (v : Word) : Works s (s.csrWrite c v) := by
  match c, h with
  | .fflags, _ | .frm, _ | .fcsr, _ | .fxcr, _ => exact .setFp s _

theorem Contained.csr {s : State} {c : Csr} {write : Bool} (ha : s.me.csrAllowed c write = true) (hu : s.me.priv = .user) (v : Word)
    (rd : Reg) (old : Word) :
    Contained s (((if write then (s.retireInto c).csrWrite c v else s.retire 4).refetchMine).setX rd old) := by
  have written : Contained s (if write then (s.retireInto c).csrWrite c v else s.retire 4) := by
    cases write with
    | false => exact .of_moved (s.retire_eq 4)
    | true => exact (Contained.of_moved (s.retireInto_eq c)).trans (Works.csrWrite_fp _ (Csr.isFp_of_user ha hu) v).contained
  exact (written.trans (Works.refetchMine _).contained).trans (Works.setX _ rd old).contained

/-- What an instruction in user mode leaves, an exception it raises included: the clauses of `Obligations.UserContained` but the
last. -/
structure Guarded (s t : State) : Prop where
  pmp     : t.me.pmp = s.me.pmp
  id      : t.me.id = s.me.id
  inReset : t.me.inReset = s.me.inReset
  th      : t.me.th = { s.me.th with mcounterof := t.me.th.mcounterof }
  pmu     : t.me.pmu = { s.me.pmu with mcycle := t.me.pmu.mcycle, minstret := t.me.pmu.minstret }
  m       : t.me.m = { s.me.m with mstatus := t.me.m.mstatus, mepc := t.me.m.mepc, mcause := t.me.m.mcause, mtval := t.me.m.mtval,
                                   ssipLatch := t.me.m.ssipLatch }
  sup     : t.me.sup = { s.me.sup with sepc := t.me.sup.sepc, scause := t.me.sup.scause, stval := t.me.sup.stval }
  smmu    : t.me.smmu = { s.me.smmu with smeh := t.me.smmu.smeh }
  rest    : ∃ u, Contained s u ∧ { t with me := u.me } = u ∧ t.me.m.ssipLatch = u.me.m.ssipLatch

theorem Contained.guarded {s t : State} (h : Contained s t) : Guarded s t where
  pmp := h.pmp
  id := h.id
  inReset := h.inReset
  th := h.th
  pmu := h.pmu
  m := by rw [h.m]
  sup := by rw [h.sup]
  smmu := by rw [h.smmu]
  rest := ⟨t, h, rfl, rfl⟩

/-- An exception that comes after contained work. -/
theorem Contained.guarded_raise {s u : State} (h : Contained s u) (code : Nat) (info : Word) : Guarded s (u.raise code info) where
  pmp := by rw [State.raise_me, Hart.takeException_eq]; exact h.pmp
  id := by rw [State.raise_me, Hart.takeException_eq]; exact h.id
  inReset := by rw [State.raise_me, Hart.takeException_eq]; exact h.inReset
  th := by rw [State.raise_me, Hart.takeException_eq, h.th]
  pmu := by rw [State.raise_me, Hart.takeException_eq, h.pmu]
  m := by rw [State.raise_me, Hart.takeException_eq, h.m]
  sup := by rw [State.raise_me, Hart.takeException_eq, h.sup]
  smmu := by rw [State.raise_me, Hart.takeException_eq, h.smmu]
  rest := ⟨u, h, rfl, by rw [State.raise_me, Hart.takeException_eq]⟩

/-- An instruction in user mode stays in user mode and writes no trap register, or it raises an exception. -/
theorem exec_user {i : Instr} {s t : State} (hu : s.me.priv = .user) (ht : exec i s = .next t) :
    Contained s t ∨ ∃ u code info, Works s u ∧ t = u.raise code info := by
  have ends := exec_ends i s
  rw [ht] at ends
  cases ends with
  | completes h => exact .inl h.contained
  | raises h code info => exact .inr ⟨_, code, info, h, rfl⟩
  | csr c write ha v rd old => exact .inl (.csr ha hu v rd old)
  | fencesTlb h | returnsM h | returnsS h => exact absurd hu h

/-- Settles O47: an instruction in user mode that completes is contained, one that raises an exception is contained until it does, and
the exception itself writes the trap registers alone; no CSR it may write guards anything, and no fence or return is its own. -/
theorem userContained : Obligations.UserContained := by
  unfold Obligations.UserContained
  intro i s t hu ht
  have guarded : Guarded s t := by
    rcases exec_user hu ht with h | ⟨u, code, info, h, rfl⟩
    · exact h.guarded
    · exact h.contained.guarded_raise code info
  have goes : (t.me.priv = .user ∧ t.me.m = { s.me.m with mstatus := t.me.m.mstatus, ssipLatch := t.me.m.ssipLatch } ∧
        t.me.sup = s.me.sup ∧ (∀ n, n ∉ [13, 14] → t.me.m.mstatus.getLsbD n = s.me.m.mstatus.getLsbD n)) ∨
      (t.me.priv = .machine ∧ t.me.m.mepc = s.me.pc ∧ t.me.pc = s.me.m.mtvec &&& ~~~3 ∧ t.me.sup = s.me.sup) ∨
      (t.me.priv = .supervisor ∧ t.me.sup.sepc = s.me.pc ∧ t.me.pc = s.me.sup.stvec &&& ~~~3 ∧
        t.me.m.mepc = s.me.m.mepc) := by
    rcases exec_user hu ht with h | ⟨u, code, info, ⟨h, hpc, -⟩, rfl⟩
    · exact .inl ⟨h.priv.trans hu, h.m, h.sup, h.status⟩
    · have entry := u.me.takeException_entry code info
      rw [hpc, h.sup, h.m] at entry
      exact .inr entry
  obtain ⟨u, h, rest, latch⟩ := guarded.rest
  have other : t.other = u.other := by rw [← rest]
  have soc : t.soc = u.soc := by rw [← rest]
  have mtime : t.mtime = u.mtime := by rw [← rest]
  have mccr2 : t.mccr2 = u.mccr2 := by rw [← rest]
  have inputs : t.inputs = u.inputs := by rw [← rest]
  have plic : t.plic = u.plic := by rw [← rest]
  have clint0 : t.clint0 = u.clint0 := by rw [← rest]
  have clint1 : t.clint1 = u.clint1 := by rw [← rest]
  refine ⟨guarded.pmp, guarded.id, guarded.inReset, guarded.th, by rw [guarded.pmu], by rw [guarded.pmu], by rw [guarded.pmu],
    guarded.m, guarded.sup, guarded.smmu, other ▸ h.other, soc.trans h.soc, mtime.trans h.mtime, mccr2.trans h.mccr2,
    inputs.trans h.inputs, fun hm => ?_, goes⟩
  rw [plic, clint0, clint1, latch, other]
  exact h.devices hu hm

end Sys2Proof.Machine

namespace Sys2Proof.Machine

/-! ### The registers of a legal state -/

/-- What is legal in `mstatus`: MPP names a mode, and the fixed fields hold their values (11_csr_standard:R64). -/
def StatusLegal (w : Word) : Prop :=
  field w mstatusMPP 2 ≠ 2 ∧ w &&& ~~~(mstatusMask ||| maskOf mstatusMPP 2) = 0xa00000000

/-- A legal `mstatus` with nothing but writable bits moved and a mode in MPP. -/
theorem StatusLegal.of_agree {v w : Word} (h : StatusLegal w)
    (agree : ∀ n, (mstatusMask ||| maskOf mstatusMPP 2).getLsbD n = false → v.getLsbD n = w.getLsbD n)
    (mpp : field v mstatusMPP 2 ≠ 2) : StatusLegal v := by
  refine ⟨mpp, h.2 ▸ word_ext fun n _ => ?_⟩
  rw [BitVec.getLsbD_and, BitVec.getLsbD_and, BitVec.getLsbD_not]
  cases hn : (mstatusMask ||| maskOf mstatusMPP 2).getLsbD n
  · rw [agree n hn]
  · simp

/-- A legal `mstatus` with bits moved that are writable and not MPP's. -/
theorem StatusLegal.of_writable {v w : Word} (h : StatusLegal w) (agree : ∀ n, mstatusMask.getLsbD n = false → v.getLsbD n = w.getLsbD n) :
    StatusLegal v := by
  have outside : ∀ n, 11 ≤ n → n < 11 + 2 → mstatusMask.getLsbD n = false := by
    intro n h1 h2
    obtain rfl | rfl : n = 11 ∨ n = 12 := by omega
    all_goals decide +kernel
  refine h.of_agree (fun n hn => agree n ?_) fun e => h.1 ?_
  · rw [BitVec.getLsbD_or, Bool.or_eq_false_iff] at hn
    exact hn.1
  · exact (field_congr fun n h1 h2 => (agree n (outside n h1 h2)).symm).trans e

theorem StatusLegal.setBit {w : Word} (h : StatusLegal w) {n : Nat} (hn : mstatusMask.getLsbD n = true) (b : Bool) :
    StatusLegal (setBit w n b) := by
  refine h.of_writable fun k hk => ?_
  rw [getLsbD_setBit, if_neg]
  rintro ⟨rfl, -⟩
  exact Bool.false_ne_true (hk.symm.trans hn)

theorem StatusLegal.setMpp {w : Word} (h : StatusLegal w) {c : Nat} (hc : c < 4) (h2 : c ≠ 2) : StatusLegal (setField w mstatusMPP 2 c) := by
  refine h.of_agree (fun n hn => ?_) ?_
  · rw [BitVec.getLsbD_or, Bool.or_eq_false_iff, getLsbD_maskOf] at hn
    rw [getLsbD_setField, if_neg]
    simpa using hn.2
  · rwa [field_setField w mstatusMPP 2 c hc (by decide)]

theorem StatusLegal.blend {w : Word} (h : StatusLegal w) {mask : Word} (hm : mask &&& ~~~mstatusMask = 0) (v : Word) :
    StatusLegal (blend mask w v) := by
  refine h.of_writable fun n hn => ?_
  have hk : mask.getLsbD n = false := by
    by_cases h64 : n < 64
    · exact and_not_eq_zero.1 hm n h64 hn
    · exact BitVec.getLsbD_of_ge _ _ (by omega)
  rw [getLsbD_blend, if_neg (by simp [hk])]

/-- A write of `mstatus` (11_csr_standard:R64, log 10). -/
theorem StatusLegal.written {w : Word} (h : StatusLegal w) (v : Word) : StatusLegal (mstatusWritten w v) := by
  have hb := h.blend (mask := mstatusMask) (by simp) v
  unfold mstatusWritten
  dsimp only
  split
  · exact hb
  · next hv =>
    refine hb.of_agree (fun n hn => ?_) fun e => hv ?_
    · rw [BitVec.getLsbD_or, Bool.or_eq_false_iff] at hn
      rw [getLsbD_blend, if_neg (by simp [hn.2])]
    · refine Eq.trans (field_congr fun n h1 h2 => ?_) e
      have h3 : n < 64 := Nat.lt_trans h2 (by decide)
      rw [getLsbD_blend, getLsbD_maskOf, if_pos (by simp [h1, h2, h3])]

/-- The legal contents of the machine-mode registers. -/
structure MachineCsr.Legal (m : MachineCsr) : Prop where
  epc     : m.mepc.getLsbD 0 = false
  status  : StatusLegal m.mstatus
  medeleg : m.medeleg &&& ~~~maskOf 0 16 = 0
  mideleg : m.mideleg &&& ~~~midelegMask = 0
  mie     : m.mie &&& ~~~mieMask = 0

/-- The legal contents of the supervisor-mode registers. -/
structure SupervisorCsr.Legal (r : SupervisorCsr) : Prop where
  epc  : r.sepc.getLsbD 0 = false
  satp : field r.satp 60 4 = 0 ∨ field r.satp 60 4 = 8

/-- The legal configuration of a PMP entry: not NA4, the reserved bits 0 (11_csr_standard:R85, log 12). -/
def CfgLegal (b : Byte) : Prop := b.toNat / 8 % 4 ≠ 2 ∧ b &&& 0x60 = 0

def Pmp.Legal (p : Pmp) : Prop := ∀ i : Fin 8, CfgLegal (p.cfg[i])

/-- The legal contents of a core's registers. -/
structure Hart.Legal (h : Hart) : Prop where
  pc       : h.pc.getLsbD 0 = false
  m        : h.m.Legal
  sup      : h.sup.Legal
  mxstatus : h.th.mxstatus &&& ~~~mxstatusMask = 0
  pmp      : h.pmp.Legal

theorem Hart.Inv.legal {h : Hart} (hi : h.Inv) : h.Legal :=
  ⟨hi.pcEven, ⟨hi.mepcEven, ⟨hi.mppLegal, hi.mstatusFix⟩, hi.medeleg, hi.mideleg, hi.mie⟩, ⟨hi.sepcEven, hi.satpMode⟩, hi.mxstatus, hi.pmpCfg⟩

theorem Hart.Inv.micro {h : Hart} (hi : h.Inv) : h.MicroFits := ⟨hi.fetchTlb, hi.dataTlb⟩

theorem Hart.Legal.inv {h : Hart} (hl : h.Legal) (micro : h.MicroFits) (l1d : Whole h.l1d ∧ Placed h.l1d) (icache : CodeWhole h.icache) :
    h.Inv := by
  obtain ⟨pc, ⟨mepc, ⟨mpp, fix⟩, medeleg, mideleg, mie⟩, ⟨sepc, satp⟩, mxstatus, pmp⟩ := hl
  exact ⟨pc, mepc, sepc, mpp, fix, satp, medeleg, mideleg, mie, mxstatus, pmp, micro.1, micro.2, l1d, icache⟩

/-- A core with other legal registers, its TLBs and caches as before. -/
theorem Hart.Legal.inv_of_same {h g : Hart} (hl : g.Legal) (hi : h.Inv) (e : (g.tlb, g.l1d, g.icache) = (h.tlb, h.l1d, h.icache)) :
    g.Inv := by
  simp only [Prod.mk.injEq] at e
  obtain ⟨tlb, l1d, icache⟩ := e
  refine hl.inv ?_ (l1d ▸ hi.l1d) (icache ▸ hi.icache)
  unfold Hart.MicroFits
  rw [tlb]
  exact hi.micro

/-- What the registers' legality looks at. -/
theorem Hart.Legal.congr {h g : Hart} (hl : h.Legal)
    (e : (g.pc, g.m, g.sup, g.th.mxstatus, g.pmp) = (h.pc, h.m, h.sup, h.th.mxstatus, h.pmp)) : g.Legal := by
  simp only [Prod.mk.injEq] at e
  obtain ⟨pc, m, sup, mxstatus, pmp⟩ := e
  exact ⟨pc ▸ hl.pc, m ▸ hl.m, sup ▸ hl.sup, mxstatus ▸ hl.mxstatus, pmp ▸ hl.pmp⟩

theorem State.Inv.tidy {s : State} (h : s.Inv) : s.Tidy := ⟨h.me.micro, h.sound, h.memory, h.sources⟩

/-- Work without privilege keeps a legal state legal. -/
theorem State.Inv.of_contained {s t : State} (h : s.Inv) (c : Contained s t) (tidy : t.Tidy) (pc : t.me.pc.getLsbD 0 = false) : t.Inv where
  me := by
    have m : t.me.m.Legal := by
      have status : StatusLegal t.me.m.mstatus := h.me.legal.m.status.of_writable fun n hn => c.status n fun hm => by
        obtain rfl | rfl : n = 13 ∨ n = 14 := by simpa using hm
        all_goals exact absurd hn (by decide +kernel)
      rw [c.m]
      exact { h.me.legal.m with status := status }
    have legal : t.me.Legal := ⟨pc, m, c.sup ▸ h.me.legal.sup, by rw [c.th]; exact h.me.mxstatus, c.pmp ▸ h.me.legal.pmp⟩
    exact legal.inv tidy.micro tidy.sound.mine tidy.sound.code.1
  other := by
    refine Hart.Legal.inv ?_ ?_ tidy.sound.others tidy.sound.code.2
    · rw [c.other]
      exact { h.other.legal with m := ⟨h.other.mepcEven, h.other.legal.m.status, h.other.medeleg, h.other.mideleg, h.other.mie⟩ }
    · rw [c.other]
      exact h.other.micro
  ids := by
    rw [c.id, c.other]
    exact h.ids
  memory := tidy.memory
  l2 := tidy.sound.l2
  included := tidy.sound.included
  sources := tidy.sources

theorem Works.inv {s t : State} (w : Works s t) (h : s.Inv) : t.Inv :=
  h.of_contained w.contained (w.tidy h.tidy) (w.pc ▸ h.me.pcEven)

theorem Completes.inv {s t : State} (w : Completes s t) (h : s.Inv) : t.Inv :=
  h.of_contained w.contained (w.tidy h.tidy) (w.even h.me.pcEven)

theorem State.Inv.moved {s t : State} (h : s.Inv) (e : t = { s with me := s.me.moved t.me }) (pc : t.me.pc.getLsbD 0 = false) : t.Inv :=
  h.of_contained (.of_moved e) (h.tidy.congr (by rw [e]; rfl)) pc

/-- The running core replaced by a legal one that holds no other line. -/
theorem State.Inv.setMe {s : State} (h : s.Inv) {g : Hart} (hg : g.Inv) (id : g.id = s.me.id) (l1d : g.l1d ⊆ s.me.l1d) :
    ({ s with me := g } : State).Inv :=
  { h with me := hg, ids := id ▸ h.ids, included := ⟨fun l hl => h.included.1 l (l1d hl), h.included.2⟩ }

theorem State.Inv.switchHart {s : State} (h : s.Inv) : s.switchHart.Inv :=
  { h with me := h.other, other := h.me, ids := h.ids.symm, included := h.included.symm }

theorem State.Inv.setOther {s : State} (h : s.Inv) {g : Hart} (hg : g.Inv) (id : g.id = s.other.id) (l1d : g.l1d ⊆ s.other.l1d) :
    ({ s with other := g } : State).Inv := (h.switchHart.setMe hg id l1d).switchHart

/-- The running core with other legal registers. -/
theorem State.Inv.setLegal {s : State} (h : s.Inv) {g : Hart} (hg : g.Legal)
    (e : (g.id, g.tlb, g.l1d, g.icache) = (s.me.id, s.me.tlb, s.me.l1d, s.me.icache)) : ({ s with me := g } : State).Inv := by
  simp only [Prod.mk.injEq] at e
  obtain ⟨id, tlb, l1d, icache⟩ := e
  exact h.setMe (hg.inv_of_same h.me (by rw [tlb, l1d, icache])) id (l1d ▸ List.Subset.refl _)

end Sys2Proof.Machine

namespace Sys2Proof.Machine

/-! ### Traps and returns -/

theorem even_trapEntry (tvec : Word) (interrupt : Bool) (code : Nat) : (trapEntry tvec interrupt code).getLsbD 0 = false := by
  have base : (tvec &&& ~~~3#64).getLsbD 0 = false := by simp
  unfold trapEntry
  dsimp only
  split
  · refine even_add base ?_
    rw [BitVec.getLsbD_ofNat, Nat.testBit_zero]
    simp
    omega
  · exact base

theorem Priv.code_lt (p : Priv) : p.code < 4 ∧ p.code ≠ 2 := by cases p <;> decide

/-- A trap or a return moves bits of `mstatus` that are writable. -/
theorem StatusLegal.enable {w : Word} (h : StatusLegal w) {n : Nat} (hn : n ∈ [1, 3, 5, 7, 8]) (b : Bool) : StatusLegal (Machine.setBit w n b) :=
  h.setBit ((show ∀ n ∈ [1, 3, 5, 7, 8], mstatusMask.getLsbD n = true by decide +kernel) n hn) b

theorem Hart.Legal.trapToM {h : Hart} (hl : h.Legal) (interrupt : Bool) (code : Nat) (tval : Word) : (h.trapToM interrupt code tval).Legal :=
  { hl with
    pc := even_trapEntry _ _ _
    m := { hl.m with
      epc := hl.pc
      status := ((hl.m.status.enable (n := 7) (by decide) _).enable (n := 3) (by decide) _).setMpp h.priv.code_lt.1 h.priv.code_lt.2 } }

theorem Hart.Legal.trapToS {h : Hart} (hl : h.Legal) (interrupt : Bool) (code : Nat) (tval : Word) : (h.trapToS interrupt code tval).Legal :=
  { hl with
    pc := even_trapEntry _ _ _
    sup := { hl.sup with epc := hl.pc }
    m := { hl.m with
      status := ((hl.m.status.enable (n := 5) (by decide) _).enable (n := 1) (by decide) _).enable (n := 8) (by decide) _ } }

theorem Hart.Legal.returnM {h : Hart} (hl : h.Legal) : h.returnM.Legal :=
  { hl with
    pc := hl.m.epc
    m := { hl.m with
      status := ((hl.m.status.enable (n := 3) (by decide) _).enable (n := 7) (by decide) _).setMpp (by decide) (by decide) } }

theorem Hart.Legal.returnS {h : Hart} (hl : h.Legal) : h.returnS.Legal :=
  { hl with
    pc := hl.sup.epc
    m := { hl.m with
      status := ((hl.m.status.enable (n := 1) (by decide) _).enable (n := 5) (by decide) _).enable (n := 8) (by decide) _ } }

theorem Hart.Legal.tickCycles {h : Hart} (hl : h.Legal) (k : Nat) : (h.tickCycles k).Legal :=
  hl.congr (by rw [Hart.tickCycles_eq])

theorem Hart.Legal.tick {h : Hart} (hl : h.Legal) : h.tick.Legal :=
  hl.congr (by rw [Hart.tick_eq]; rfl)

theorem Hart.Legal.takeException {h : Hart} (hl : h.Legal) (code : Nat) (info : Word) : (h.takeException code info).Legal := by
  have ready : ((h.tickCycles 1).notePageFault code info).drain.Legal := (hl.tickCycles 1).congr (by simp)
  unfold Hart.takeException
  dsimp only
  split
  · exact ready.trapToS _ _ _
  · exact ready.trapToM _ _ _

theorem Hart.Legal.takeInterrupt {h : Hart} (hl : h.Legal) (code : Nat) : (h.takeInterrupt code).Legal := by
  have ready : (h.tickCycles 1).drain.Legal := (hl.tickCycles 1).congr (by simp)
  unfold Hart.takeInterrupt
  dsimp only
  split
  · exact ready.trapToS _ _ _
  · exact ready.trapToM _ _ _

theorem State.Inv.raise {s : State} (h : s.Inv) (code : Nat) (info : Word) : (s.raise code info).Inv :=
  h.setLegal (h.me.legal.takeException code info) (by rw [Hart.takeException_eq])

theorem State.Inv.takeInterrupt {s : State} (h : s.Inv) (code : Nat) : (s.takeInterrupt code).Inv := by
  refine h.setLegal (h.me.legal.takeInterrupt code) ?_
  unfold Hart.takeInterrupt
  dsimp only
  split <;> simp

theorem State.Inv.tick {s : State} (h : s.Inv) : s.tick.Inv := h.setLegal h.me.legal.tick (by rw [Hart.tick_eq]; rfl)

theorem State.Inv.returnM {s : State} (h : s.Inv) : s.returnM.Inv := h.setLegal h.me.legal.returnM rfl

theorem State.Inv.returnS {s : State} (h : s.Inv) : s.returnS.Inv := h.setLegal h.me.legal.returnS rfl

/-! ### The TLB -/

/-- The running core with other TLBs whose uTLBs are not too large. -/
theorem State.Inv.setTlb {s : State} (h : s.Inv) {g : Hart} (hg : g.MicroFits)
    (e : (g.id, g.pc, g.m, g.sup, g.th, g.pmp, g.l1d, g.icache) =
      (s.me.id, s.me.pc, s.me.m, s.me.sup, s.me.th, s.me.pmp, s.me.l1d, s.me.icache)) : ({ s with me := g } : State).Inv := by
  simp only [Prod.mk.injEq] at e
  obtain ⟨id, pc, m, sup, th, pmp, l1d, icache⟩ := e
  have legal : g.Legal := h.me.legal.congr (by rw [pc, m, sup, th, pmp])
  exact h.setMe (legal.inv hg (l1d ▸ h.me.l1d) (icache ▸ h.me.icache)) id (l1d ▸ List.Subset.refl _)

theorem Hart.MicroFits.dropTlb {h : Hart} (hf : h.MicroFits) (p : TlbEntry → Bool) : (h.dropTlb p).MicroFits :=
  ⟨(List.length_filter_le _ _).trans hf.1, (List.length_filter_le _ _).trans hf.2⟩

theorem State.Inv.fenceTlb {s : State} (h : s.Inv) (rs1 rs2 : Reg) (broadcast : Bool) : (s.fenceTlb rs1 rs2 broadcast).Inv := by
  have mine : ∀ p, ({ s with me := { s.me.dropTlb p with oldPtes := [], fetched := [] } } : State).Inv := fun p =>
    h.setTlb (h.me.micro.dropTlb p) rfl
  have other : ∀ p, (s.other.expelTlb p).Inv := fun p =>
    Hart.Legal.inv (h.other.legal.congr rfl) (h.other.micro.dropTlb p) h.other.l1d h.other.icache
  cases broadcast with
  | false => exact mine _
  | true => exact (mine _).setOther (other _) rfl (List.Subset.refl _)

/-! ### Writes of control and status registers -/

theorem cfgLegal_iff (b : Byte) :
    CfgLegal b ↔ ¬ (b.getLsbD 4 = true ∧ b.getLsbD 3 = false) ∧ b.getLsbD 5 = false ∧ b.getLsbD 6 = false := by
  have all : ∀ b : Byte,
      CfgLegal b ↔ ¬ (b.getLsbD 4 = true ∧ b.getLsbD 3 = false) ∧ b.getLsbD 5 = false ∧ b.getLsbD 6 = false := by
    unfold CfgLegal
    decide +kernel
  exact all b

/-- A write of a configuration byte (11_csr_standard:R85, log 12). -/
theorem CfgLegal.written {old : Byte} (h : CfgLegal old) (new : Byte) : CfgLegal (pmpCfgWritten old new) := by
  unfold pmpCfgWritten
  split
  · exact h
  · rw [cfgLegal_iff] at h
    split
    · rw [cfgLegal_iff]
      simpa using h.1
    · next hn =>
      have kept : ∀ b : Byte, b.toNat / 8 % 4 ≠ 2 → CfgLegal (b &&& 0x9f) := by
        unfold CfgLegal
        decide +kernel
      exact kept new hn

theorem Pmp.Legal.cfgWrite {p : Pmp} (h : p.Legal) (v : Word) : (p.cfgWrite v).Legal := by
  intro i
  simpa [Pmp.cfgWrite] using (h i).written _

theorem Pmp.Legal.addrWrite {p : Pmp} (h : p.Legal) (i : Fin 8) (v : Word) : (p.addrWrite i v).Legal := by
  unfold Pmp.addrWrite
  split <;> exact h

theorem State.Inv.setM {s : State} (h : s.Inv) {m : MachineCsr} (hm : m.Legal) : (s.setM m).Inv :=
  h.setLegal { h.me.legal with m := hm } rfl

theorem State.Inv.setSup {s : State} (h : s.Inv) {r : SupervisorCsr} (hr : r.Legal) : (s.setSup r).Inv :=
  h.setLegal { h.me.legal with sup := hr } rfl

theorem State.Inv.setTh {s : State} (h : s.Inv) {r : TheadCsr} (hr : r.mxstatus &&& ~~~mxstatusMask = 0) : (s.setTh r).Inv :=
  h.setLegal { h.me.legal with mxstatus := hr } rfl

theorem State.Inv.setPmp {s : State} (h : s.Inv) {p : Pmp} (hp : p.Legal) : ({ s with me := { s.me with pmp := p } } : State).Inv :=
  h.setLegal { h.me.legal with pmp := hp } rfl

theorem State.Inv.setPmu {s : State} (h : s.Inv) (p : Pmu) : (s.setPmu p).Inv := h.setLegal (h.me.legal.congr rfl) rfl

theorem State.Inv.setSmmu {s : State} (h : s.Inv) (r : TlbCsr) : (s.setSmmu r).Inv := h.setLegal (h.me.legal.congr rfl) rfl

theorem State.Inv.setSsip {s : State} (h : s.Inv) (id : HartId) (b latch : Bool) : (s.setSsip id b latch).Inv := by
  have m : ∀ {g : Hart}, g.Inv → ∀ l : Bool, ({ g with m := { g.m with ssipLatch := l } } : Hart).Inv := fun hg l =>
    Hart.Legal.inv_of_same { hg.legal with m := { hg.legal.m with } } hg rfl
  rw [State.setSsip_eq]
  exact { h with me := m h.me _, other := m h.other _ }

theorem and_mask {v m : Word} : v &&& m &&& ~~~m = 0 := by
  simp [BitVec.and_assoc]

/-- A write of the bits of a register that another mask selects. -/
theorem blend_masked {old mask sel : Word} (h : old &&& ~~~mask = 0) (hs : sel &&& ~~~mask = 0) (v : Word) :
    blend sel old v &&& ~~~mask = 0 := by
  rw [and_not_eq_zero] at h hs ⊢
  intro k hk hm
  rw [getLsbD_blend, if_neg (by simp [hs k hk hm])]
  exact h k hk hm

theorem setBit_masked {w mask : Word} (h : w &&& ~~~mask = 0) {n : Nat} (hn : mask.getLsbD n = true) (b : Bool) :
    setBit w n b &&& ~~~mask = 0 := by
  rw [and_not_eq_zero] at h ⊢
  intro k hk hm
  rw [getLsbD_setBit, if_neg]
  · exact h k hk hm
  · rintro ⟨rfl, -⟩
    exact Bool.false_ne_true (hm.symm.trans hn)

theorem satpWritten_mode {old : Word} (h : field old 60 4 = 0 ∨ field old 60 4 = 8) (v : Word) :
    field (satpWritten old v) 60 4 = 0 ∨ field (satpWritten old v) 60 4 = 8 := by
  unfold satpWritten
  split
  · assumption
  · exact h

theorem Hart.MicroFits.tlbPut {h : Hart} (hf : h.MicroFits) (e : TlbEntry) : (h.tlbPut e).MicroFits := hf

theorem Hart.MicroFits.tlbProbe {h : Hart} (hf : h.MicroFits) : h.tlbProbe.MicroFits := hf

theorem State.onMe_micro {s : State} {f : Hart → Hart} (b : Bool) (hf : ∀ h : Hart, h.MicroFits → (f h).MicroFits)
    (hs : s.me.MicroFits) : (s.onMe b f).me.MicroFits := by
  unfold State.onMe
  split
  · exact hf _ hs
  · exact hs

theorem State.setSmmu_micro {s : State} (hs : s.me.MicroFits) (m : TlbCsr) (d : Nat) :
    ({ s with me := { s.me with smmu := m }, draws := d } : State).me.MicroFits := hs

theorem State.tlbRead_micro {s : State} (hs : s.me.MicroFits) (b : Bool) : (if b then s.tlbRead else s).me.MicroFits := by
  unfold State.tlbRead
  dsimp only
  split
  · split
    · exact State.setSmmu_micro hs _ s.draws
    · exact State.setSmmu_micro hs _ (s.draws + 2)
  · exact hs
theorem State.tlbWriteRandom_micro {s : State} (hs : s.me.MicroFits) (b : Bool) :
    (if b then s.tlbWriteRandom else s).me.MicroFits := by
  split
  · exact hs.tlbPut _
  · exact hs

/-- A write of `smcir` brings no entry into a uTLB. -/
theorem State.smcirWrite_micro {s : State} (h : s.me.MicroFits) (v : Word) : (s.smcirWrite v).me.MicroFits :=
  State.onMe_micro _ (fun _ hh => hh.dropTlb _) <|
  State.onMe_micro _ (fun _ hh => hh.dropTlb _) <|
  State.onMe_micro _ (fun _ hh => hh.dropTlb _) <|
  State.tlbWriteRandom_micro (b := bit v 28) <|
  State.onMe_micro _ (fun _ hh => hh.tlbPut _) <|
  State.tlbRead_micro (b := bit v 30) <|
  State.onMe_micro _ (fun _ hh => hh.tlbProbe) <|
  State.onMe_micro (f := fun h => { h with smmu := { h.smmu with smcir := v &&& 0xffff } }) true (fun _ hh => hh) h

theorem State.Inv.smcirWrite {s : State} (h : s.Inv) (v : Word) : (s.smcirWrite v).Inv := by
  have micro := State.smcirWrite_micro h.me.micro v
  have frame := s.smcirWrite_frame v
  unfold TlbFrame at frame
  have tlb : ({ s with me := { s.me with smmu := (s.smcirWrite v).me.smmu, tlb := (s.smcirWrite v).me.tlb } } : State).Inv :=
    h.setTlb micro rfl
  rw [frame]
  exact { tlb with }

theorem State.Inv.mcorWrite {s : State} (h : s.Inv) (v : Word) : (s.mcorWrite v).Inv := by
  have data : ∀ {s : State}, s.Inv → State.Inv (if bit v 1 then
      if bit v 5 && bit v 4 then s.flushMine everyLine else if bit v 5 then s.cleanMine everyLine
      else if bit v 4 then s.invalMine everyLine else s
    else s) := by
    intro s hs
    repeat' split
    · exact (Works.flushMine s _).inv hs
    · exact (Works.cleanMine s _).inv hs
    · exact (Works.invalMine s _).inv hs
    · exact hs
    · exact hs
  have code : ∀ {s : State}, s.Inv → State.Inv (if bit v 0 && bit v 4 then s.invalIcache (fun _ => true) false else s) := by
    intro s hs
    split
    · exact (Works.invalIcache s _ _).inv hs
    · exact hs
  have done := code (data h)
  exact done.setTh done.me.mxstatus

theorem State.Inv.mcinsWrite {s : State} (h : s.Inv) (v : Word) : (s.mcinsWrite v).Inv := by
  unfold State.mcinsWrite
  split
  · have th : (s.setTh { s.me.th with mcdata0 := Config.freeWord s.draws, mcdata1 := Config.freeWord (s.draws + 1) }).Inv :=
      h.setTh h.me.mxstatus
    exact { th with }
  · exact h

/-- A write of a control and status register keeps a legal state legal. -/
theorem State.Inv.csrWrite {s : State} (h : s.Inv) (c : Csr) (v : Word) : (s.csrWrite c v).Inv := by
  have hm := h.me.legal.m
  have hr := h.me.legal.sup
  cases c
  case fflags | frm | fcsr | fxcr => exact (Works.csrWrite_fp s rfl v).inv h
  case sstatus => exact h.setM { hm with status := hm.status.blend (by decide +kernel) v }
  case mstatus => exact h.setM { hm with status := hm.status.written v }
  case sie =>
    have shown : s.me.m.mideleg &&& midelegMask &&& ~~~mieMask = 0 := by
      rw [BitVec.and_assoc, show midelegMask &&& ~~~mieMask = 0#64 by decide +kernel]
      exact BitVec.and_zero
    exact h.setM { hm with mie := blend_masked hm.mie shown v }
  case medeleg => exact h.setM { hm with medeleg := and_mask }
  case mideleg => exact h.setM { hm with mideleg := and_mask }
  case mie => exact h.setM { hm with mie := and_mask }
  case mepc => exact h.setM { hm with epc := evenTarget_even v }
  case mtvec | mcounteren | mcountinhibit | mscratch | mcause | mtval => exact h.setM { hm with }
  case sepc => exact h.setSup { hr with epc := evenTarget_even v }
  case satp => exact h.setSup { hr with satp := satpWritten_mode hr.satp v }
  case stvec | scounteren | sscratch | scause | stval => exact h.setSup { hr with }
  case mip => exact h.setSsip _ _ _
  case sip =>
    simp only [State.csrWrite]
    split
    · exact h.setSsip _ _ _
    · exact h
  case pmpcfg0 => exact h.setPmp (h.me.legal.pmp.cfgWrite v)
  case pmpaddr i => exact h.setPmp (h.me.legal.pmp.addrWrite i v)
  case mxstatus => exact h.setTh and_mask
  case sxstatus => exact h.setTh (setBit_masked h.me.mxstatus (by decide +kernel) _)
  case mhcr | mhint | scounterinten | scounterof | mcounterwen | mcounterinten | mcounterof | mcindex | mcdata0 | mcdata1 | msmpr =>
    exact h.setTh h.me.mxstatus
  case mcor => exact h.mcorWrite v
  case mcins => exact h.mcinsWrite v
  case mccr2 => exact { h with }
  case smcir => exact h.smcirWrite v
  case smir | smel | smeh => exact h.setSmmu _
  case mhpmevent | scycle | sinstret | shpmcounter | mcycle | minstret | mhpmcounter => exact h.setPmu _
  all_goals exact h

/-! ### Every instruction -/

theorem State.Inv.retire {s : State} (h : s.Inv) {len : Nat} (hl : len % 2 = 0) : (s.retire len).Inv := (Completes.retire s hl).inv h

theorem State.Inv.retireInto {s : State} (h : s.Inv) (c : Csr) : (s.retireInto c).Inv :=
  h.moved (s.retireInto_eq c) (by
    rw [State.retireInto_me_pc]
    exact even_add h.me.pcEven (by decide))

/-- However an instruction ends, the next state is legal. -/
theorem Ends.inv {s t : State} (e : Ends s (.next t)) (h : s.Inv) : t.Inv := by
  cases e with
  | completes w => exact w.inv h
  | raises w code info => exact (w.inv h).raise code info
  | csr c write ha v rd old =>
    have written : State.Inv (if write then (s.retireInto c).csrWrite c v else s.retire 4) := by
      split
      · exact (h.retireInto c).csrWrite c v
      · exact h.retire rfl
    exact (Works.setX _ rd old).inv ((Works.refetchMine _).inv written)
  | fencesTlb _ rs1 rs2 broadcast => exact (h.fenceTlb rs1 rs2 broadcast).retire rfl
  | returnsM => exact h.tick.returnM
  | returnsS => exact h.tick.returnS

end Sys2Proof.Machine

namespace Sys2Proof.Machine

/-! ### Inputs of the environment -/

theorem State.Inv.passCycles {s : State} (h : s.Inv) (n : Nat) : (s.passCycles n).Inv := by
  unfold State.passCycles
  split
  · exact h
  · exact h.setLegal (h.me.legal.tickCycles n) (by simp)

theorem State.Inv.countEvent {s : State} (h : s.Inv) (k : Fin 29) (n : Nat) : (s.countEvent k n).Inv := by
  unfold State.countEvent
  dsimp only
  split
  · exact h.setLegal (h.me.legal.congr rfl) rfl
  · exact h

theorem Plic.setLine_sources {p : Plic} (h : p.ip &&& ~~~Plic.live = 0) (n : Nat) (level : Bool) :
    (p.setLine n level).ip &&& ~~~Plic.live = 0 := Plic.sample_sources h

theorem Plic.pulse_sources {p : Plic} (h : p.ip &&& ~~~Plic.live = 0) (n : Nat) : (p.pulse n).ip &&& ~~~Plic.live = 0 := by
  unfold Plic.pulse
  split
  · exact h
  · simp [BitVec.and_assoc]

theorem State.Inv.evictMicro {s : State} (h : s.Inv) (k : Access) (index : Nat) : (s.evictMicro k index).Inv := by
  have size : (s.me.tlb.micro k).length ≤ k.microSize := by
    unfold Tlb.micro Access.microSize
    split
    · exact h.me.fetchTlb
    · exact h.me.dataTlb
  exact h.setTlb (h.me.micro.setMicro ((List.length_eraseIdx_le _ _).trans size)) rfl

theorem State.Inv.prefetchTlb {s : State} (h : s.Inv) (va : Word) : (s.prefetchTlb va).Inv := by
  unfold State.prefetchTlb
  split
  · have walked := s.walk_works .load va (field s.me.sup.satp 0 28) 3
    split
    · next l t e =>
      rw [e] at walked
      exact (Works.refill t l va).inv (walked.1.inv h)
    · exact h
  · exact h

/-- A prefetch looks up a place, and then works there or does nothing. -/
theorem State.Inv.prefetch {s : State} (h : s.Inv) (k : Access) (va : Word) {f : Place → State → State}
    (hf : ∀ pl t, f pl t = s ∨ Works t (f pl t)) :
    State.Inv (match s.resolve k va with
      | .ok pl t => f pl t
      | _ => s) := by
  have resolved := s.resolve_works k va
  split
  · next pl t e =>
    rw [e] at resolved
    rcases hf pl t with hs | w
    · rwa [hs]
    · exact w.inv (resolved.1.inv h)
  · exact h

theorem State.Inv.prefetchData {s : State} (h : s.Inv) (va : Word) : (s.prefetchData va).Inv :=
  h.prefetch .load va (f := fun pl t => if t.me.dcacheOn && !t.me.inReset then t.touch pl.attr pl.pa.toNat else s) fun pl t => by
    split
    · exact .inr (.touch t _ _)
    · exact .inl rfl

theorem State.Inv.prefetchCode {s : State} (h : s.Inv) (va : Word) : (s.prefetchCode va).Inv :=
  h.prefetch .fetch va (f := fun pl t => if strongOrder pl.attr || t.me.inReset then s else t.fillIcache pl.attr va pl.pa.toNat)
    fun pl t => by
      split
      · exact .inl rfl
      · exact .inr (.fillIcache t _ _ _)

theorem State.Inv.prefetchL2 {s : State} (h : s.Inv) (fetch : Bool) (va : Word) : (s.prefetchL2 fetch va).Inv :=
  h.prefetch (if fetch then .fetch else .load) va (f := fun pl t =>
    if cacheable pl.attr && !t.soc.inWindow pl.pa && t.me.cachesOn && !t.me.inReset then t.fillL2 (lineOf pl.pa.toNat) else s)
    fun pl t => by
      split
      · exact .inr (.fillL2 t _)
      · exact .inl rfl

theorem State.Inv.fetchAhead {s : State} (h : s.Inv) (va : Word) : (s.fetchAhead va).Inv :=
  h.prefetch .fetch va (f := fun pl t =>
    if strongOrder pl.attr || t.soc.inWindow pl.pa || bit va 0 || t.me.inReset then s else t.fetchEarly pl.attr va pl.pa.toNat)
    fun pl t => by
      split
      · exact .inl rfl
      · exact .inr (.fetchEarly t _ _ _)

theorem CodeWhole.sublist {c d : List CodeLine} (h : CodeWhole c) (hd : d.Sublist c) : CodeWhole d :=
  ⟨h.1.sublist hd, fun e he => h.2.1 e (hd.subset he), fun set => ((hd.filter _).length_le).trans (h.2.2 set)⟩

theorem State.Inv.evictCode {s : State} (h : s.Inv) (index : Nat) : (s.evictCode index).Inv :=
  h.setMe (Hart.Legal.inv (h.me.legal.congr rfl) h.me.micro h.me.l1d (h.me.icache.sublist (List.eraseIdx_sublist _ _))) rfl
    (List.Subset.refl _)

/-! ### Reset -/

theorem Hart.Inv.setReset {h : Hart} (hi : h.Inv) (held : Bool) : ({ h with inReset := held } : Hart).Inv :=
  Hart.Legal.inv_of_same (hi.legal.congr rfl) hi rfl

theorem State.Inv.resetMe {s : State} (h : s.Inv) (held : Bool) : (s.resetMe held).Inv :=
  h.setMe ((Hart.reset_inv _ _).setReset held) rfl (List.nil_subset _)

theorem State.Inv.resetOther {s : State} (h : s.Inv) (held : Bool) : (s.resetOther held).Inv :=
  h.setOther ((Hart.reset_inv _ _).setReset held) rfl (List.nil_subset _)

theorem State.Inv.resetHart {s : State} (h : s.Inv) (id : HartId) (held : Bool) : (s.resetHart id held).Inv := by
  unfold State.resetHart
  split
  · exact h.resetMe held
  · exact h.resetOther held

theorem Hart.Inv.release {h : Hart} (hi : h.Inv) (id : HartId) : (h.release id).Inv := by
  unfold Hart.release
  split
  · exact hi.setReset false
  · exact hi

theorem Hart.release_same (h : Hart) (id : HartId) : (h.release id).id = h.id ∧ (h.release id).l1d = h.l1d := by
  unfold Hart.release
  split <;> exact ⟨rfl, rfl⟩

theorem State.Inv.release {s : State} (h : s.Inv) (id : HartId) :
    ({ s with me := s.me.release id, other := s.other.release id } : State).Inv := by
  obtain ⟨id1, l1d1⟩ := s.me.release_same id
  obtain ⟨id2, l1d2⟩ := s.other.release_same id
  have mine : ({ s with me := s.me.release id } : State).Inv := h.setMe (h.me.release id) id1 (l1d1 ▸ List.Subset.refl _)
  exact mine.setOther (h.other.release id) id2 (l1d2 ▸ List.Subset.refl _)

theorem State.Inv.resetAll {s : State} (h : s.Inv) : s.resetAll.Inv := by
  have harts := (h.resetMe (!s.soc.released s.me.id)).resetOther (!s.soc.released s.other.id)
  have none : ∀ l ∈ ([] : List CacheLine), l.leaving = false → everyLine l = false := fun _ hl => absurd hl List.not_mem_nil
  have caches := harts.sound.invalL2 byLine_everyLine none none
  exact { harts with
    l2 := caches.l2
    included := caches.included
    sources := Plic.sample_sources BitVec.zero_and }

/-- Whatever the environment does, the state stays legal. -/
theorem State.Inv.environment {s : State} (h : s.Inv) (i : Input) : (s.environment i).Inv := by
  cases i with
  | run | runHeld => exact h
  | switchHart => exact h.switchHart
  | time ticks => exact { h with }
  | cycles n => exact h.passCycles n
  | event k n => exact h.countEvent k n
  | line n level => exact { h with sources := Plic.setLine_sources h.sources _ _ }
  | pulse n => exact { h with sources := Plic.pulse_sources h.sources _ }
  | tlbEvict set way => exact h.setTlb h.me.micro rfl
  | utlbEvict fetch index => exact h.evictMicro _ _
  | tlbPrefetch va => exact h.prefetchTlb va
  | loseReservation => exact (Works.reserve s none none).inv h
  | dcacheEvict n => exact (Works.flushMine s _).inv h
  | icacheEvict index => exact h.evictCode index
  | l2Evict n => exact (Works.evictL2 s (byLine_onLine n)).inv h
  | l2Flush => exact (Works.evictL2 s byLine_everyLine).inv h
  | dcachePrefetch va => exact h.prefetchData va
  | icachePrefetch va => exact h.prefetchCode va
  | l2Prefetch fetch va => exact h.prefetchL2 fetch va
  | fetchAhead va => exact h.fetchAhead va
  | dropFetched => exact (Works.refetchMine s).inv h
  | settle => exact (Works.settleMe s).inv h
  | resetHart id => exact h.resetHart id false
  | holdReset id => exact h.resetHart id true
  | releaseReset id => exact h.release id
  | resetCluster => exact h.resetAll

/-! ### Every step -/

theorem State.Inv.wake {s : State} (h : s.Inv) : s.wake.Inv := h.setLegal (h.me.legal.congr rfl) rfl

/-- One instruction, fetched and executed. -/
theorem State.Inv.runInstr {s t : State} (h : s.Inv) (ht : s.runInstr = .next t) : t.Inv := by
  have fetched := s.fetch_works
  unfold State.runInstr at ht
  split at ht
  · next code u e =>
    rw [e] at fetched
    have hu := fetched.1.inv h
    split at ht
    · next i _ =>
      have ends := exec_ends i u
      rw [ht] at ends
      exact ends.inv hu
    · cases ht
      exact hu.raise 2 _
  · next c info u e =>
    rw [e] at fetched
    cases ht
    exact (Works.inv fetched h).raise c info
  all_goals cases ht

theorem State.Inv.hartStep {s t : State} (h : s.Inv) (sample : Bool) (ht : s.hartStep sample = .next t) : t.Inv := by
  unfold State.hartStep at ht
  split at ht
  · cases ht
    exact h
  · split at ht
    · next c _ =>
      cases ht
      exact h.wake.takeInterrupt c
    · exact h.wake.runInstr ht

/-- Settles O45: the running hart's turn and every input of the environment keep a legal state legal; an instruction works without
privilege, which leaves the registers and keeps caches and memory sound, before it ends in one of the ways of `Ends`. -/
theorem stepKeepsInv : Obligations.StepKeepsInv := by
  unfold Obligations.StepKeepsInv
  intro s t h ht
  have rest : ∀ is, ({ s with inputs := is } : State).Inv := fun _ => { h with }
  unfold step at ht
  split at ht
  · exact h.hartStep true ht
  · exact (rest _).hartStep true ht
  · exact (rest _).hartStep false ht
  · cases ht
    exact (rest _).environment _

end Sys2Proof.Machine

namespace Sys2Proof.Machine

/-! ### The bits of mip -/

/-- A register built over a list of codes has a bit for each code of the list, as the predicate says, and no other. -/
theorem getLsbD_wordOfCodes (p : Nat → Bool) (cs : List Nat) (n : Nat) :
    (wordOfCodes p cs).getLsbD n = (decide (n ∈ cs ∧ n < 64) && p n) := by
  induction cs with
  | nil => simp [wordOfCodes]
  | cons c rest ih =>
    rw [wordOfCodes, getLsbD_setBit, ih]
    by_cases hn : n = c
    · subst hn
      by_cases h : n < 64 <;> simp [h]
    · simp [hn]

/-- A number that names no interrupt is never pending (60_exceptions:R806). -/
theorem State.pending_of_not_code (s : State) {n : Nat} (h : n ∉ interruptCodes) : s.pending n = false := by
  unfold State.pending State.pendingOf
  split
  case h_8 => rfl
  all_goals exact absurd (by decide) h

/-- Each bit of `mip` is its source; a bit without one is 0 (11_csr_standard:R84). -/
@[simp] theorem State.getLsbD_mip (s : State) (n : Nat) : s.mip.getLsbD n = s.pending n := by
  rw [State.mip, getLsbD_wordOfCodes]
  by_cases h : n ∈ interruptCodes
  · have narrow : n < 64 := (show ∀ c ∈ interruptCodes, c < 64 by decide) n h
    simp [h, narrow]
  · simp [h, s.pending_of_not_code h]

/-- The bits of a mask are the listed ones. -/
theorem getLsbD_bitsMask (ns : List Nat) (n : Nat) : (bitsMask ns).getLsbD n = decide (n ∈ ns ∧ n < 64) := by
  induction ns with
  | nil => simp [bitsMask]
  | cons m rest ih =>
    rw [bitsMask, BitVec.getLsbD_or, getLsbD_one_shiftLeft, ih]
    by_cases hn : n = m <;> simp [hn]

/-- The interrupts that can be delegated (11_csr_standard:R75). -/
theorem getLsbD_midelegMask (n : Nat) : midelegMask.getLsbD n = (n == 1 || n == 5 || n == 9 || n == 17) := by
  have narrow : n ∈ [1, 5, 9, 17] → n < 64 := (show ∀ c ∈ [1, 5, 9, 17], c < 64 by decide) n
  simp only [midelegMask, getLsbD_bitsMask, and_iff_left_of_imp narrow]
  simp [Bool.or_assoc, beq_eq_decide]

/-! ### The supervisor software interrupt: one storage bit (92_eei_decisions:D9, log 36) -/

/-- Of the CLINT's registers a write of SSIP moves SSIP alone. -/
theorem State.setSsip_clint (s : State) (id : HartId) (b latch : Bool) :
    (s.setSsip id b latch).clint id = { s.clint id with ssip := b } := by
  cases id <;> rfl

/-- The latch of the running hart holds after a write of 1 when the write sets it or it stood before. -/
theorem State.setSsip_latch (s : State) (b latch : Bool) :
    (s.setSsip s.me.id b latch).me.m.ssipLatch = (b && (latch || s.me.m.ssipLatch)) := by
  have frame : ∀ c, (s.setClint s.me.id c).me = s.me := fun c => by cases s.me.id <;> rfl
  simp [State.setSsip, Hart.noteSsip, frame]

/-- What `mip` reads outside the storage bit and its latch stays. -/
theorem State.setSsip_sources (s : State) (id : HartId) (b latch : Bool) : let t := s.setSsip id b latch
    t.me.id = s.me.id ∧ t.me.th = s.me.th ∧ t.mtime = s.mtime := by
  rw [State.setSsip_eq]
  exact ⟨rfl, rfl, rfl⟩

/-- `mip.SSIP` after a write of the storage bit: the value written, where the write sets the latch, the latch stood before, or
`mxstatus.CLINTEE` lets the CLINT's request through (11_csr_standard:R84). -/
theorem State.pending_setSsip_one (s : State) (b latch : Bool) :
    (s.setSsip s.me.id b latch).pending 1 = (b && (latch || s.me.m.ssipLatch || s.me.th.mxstatus.getLsbD 17)) := by
  obtain ⟨hid, hth, -⟩ := s.setSsip_sources s.me.id b latch
  simp only [State.pending, State.pendingOf, hid, hth, s.setSsip_clint, s.setSsip_latch, bit_eq, mxstatusCLINTEE]
  cases b <;> simp

/-- A write of the storage bit moves no pending bit but SSIP. -/
theorem State.pending_setSsip_of_ne (s : State) (b latch : Bool) {n : Nat} (hn : n ≠ 1) :
    (s.setSsip s.me.id b latch).pending n = s.pending n := by
  by_cases code : n ∈ interruptCodes
  · obtain ⟨hid, hth, htime⟩ := s.setSsip_sources s.me.id b latch
    simp only [interruptCodes, List.mem_cons, List.not_mem_nil, or_false, hn, false_or] at code
    obtain rfl | rfl | rfl | rfl | rfl | rfl := code <;>
      simp only [State.pending, State.pendingOf, hid, hth, htime, s.setSsip_clint, s.setSsip_plic]
  · rw [State.pending_of_not_code _ code, State.pending_of_not_code _ code]

/-- A write of `mip`, or of `sip` with SSIP delegated, is a write of the storage bit that sets the latch (11_csr_standard:R84,
R108). -/
theorem State.csrWrite_pending_reg (s : State) (v : Word) {r : Csr}
    (hr : r = .mip ∨ (r = .sip ∧ s.me.m.mideleg.getLsbD 1 = true)) :
    s.csrWrite r v = s.setSsip s.me.id (v.getLsbD 1) true := by
  obtain rfl | ⟨rfl, delegated⟩ := hr
  · rfl
  · exact if_pos delegated

/-- Settles O53: each pending bit is read off its source, and the writes of the software interrupt are writes of one storage bit. -/
theorem pendingBits : Obligations.PendingBits := by
  unfold Obligations.PendingBits
  intro s n
  simp only [State.getLsbD_mip]
  refine ⟨?sources, ?sip, fun v => ⟨fun r hr => ?writes, fun undelegated => ?undelegated⟩, fun v => ?device⟩
  -- the statement's table is that of `State.pendingOf`, with the targets of the core written out
  case sources => rfl
  case sip => simp [State.csrRead, getLsbD_midelegMask]
  case writes =>
    rw [s.csrWrite_pending_reg v hr]
    refine ⟨?_, ?_, fun n hn => s.pending_setSsip_of_ne _ _ hn⟩
    · rw [s.setSsip_clint]
    · simp [s.pending_setSsip_one]
  case undelegated => exact if_neg (Bool.eq_false_iff.mp undelegated)
  case device =>
    exact ⟨by simp [State.devWriteReg, s.pending_setSsip_one], fun n hn => s.pending_setSsip_of_ne _ _ hn⟩

end Sys2Proof.Machine

namespace Sys2Proof.Machine

/-! ### The fields of the TLB registers -/

theorem smirSet_eq (w : Word) : smirSet w = BitVec.ofNat 8 (w.toNat % 256) := by simp [smirSet, field]

theorem smirWay_eq (w : Word) : smirWay w = BitVec.ofNat 2 (w.toNat / 256 % 4) := rfl

theorem smehVpn_eq (w : Word) : smehVpn w = BitVec.ofNat 27 (w.toNat / 2 ^ 19) :=
  BitVec.eq_of_toNat_eq (by simp [smehVpn, field])

theorem smehSize_eq (w : Word) : smehSize w = BitVec.ofNat 3 (w.toNat / 2 ^ 16) :=
  BitVec.eq_of_toNat_eq (by simp [smehSize, field])

theorem smehAsid_eq (w : Word) : smehAsid w = BitVec.ofNat 16 w.toNat :=
  BitVec.eq_of_toNat_eq (by simp [smehAsid, field])

/-- `smeh` holds the page number, the page size and the ASID of an entry (12_csr_extended:R167). -/
theorem TlbEntry.smeh_toNat (e : TlbEntry) :
    e.smeh.toNat = e.vpn.toNat * 2 ^ 19 + e.pageSize.toNat * 2 ^ 16 + e.asid.toNat := by
  have hv := e.vpn.isLt
  have hp := e.pageSize.isLt
  have ha := e.asid.isLt
  rw [TlbEntry.smeh, BitVec.toNat_ofNat, Nat.mod_eq_of_lt (by omega)]

/-- `smel` holds the attributes, the frame number and the flags of an entry (12_csr_extended:R168). -/
theorem TlbEntry.smel_toNat (e : TlbEntry) :
    e.smel.toNat = e.attr.toNat * 2 ^ 59 + e.ppn.toNat * 2 ^ 10 + e.flags.toNat := by
  have ha := e.attr.isLt
  have hp := e.ppn.isLt
  have hf := e.flags.isLt
  rw [TlbEntry.smel, BitVec.toNat_ofNat, Nat.mod_eq_of_lt (by omega)]

/-- The fields of an entry are those of `smeh` and `smel` (21_mmu_pmp:R255). -/
def TlbCsr.Describes (r : TlbCsr) (e : TlbEntry) : Prop :=
  e.vpn = smehVpn r.smeh ∧ e.pageSize = smehSize r.smeh ∧ e.asid = smehAsid r.smeh ∧
    e.ppn.toNat = r.smel.toNat / 2 ^ 10 % 2 ^ 28 ∧ e.flags.toNat = r.smel.toNat % 2 ^ 10 ∧
    e.attr.toNat = r.smel.toNat / 2 ^ 59

theorem TlbCsr.entry_describes (r : TlbCsr) (set : BitVec 8) (way : BitVec 2) : r.Describes (r.entry set way) := by
  have top : r.smel.toNat / 2 ^ 59 < 2 ^ 5 := Nat.div_lt_of_lt_mul r.smel.isLt
  refine ⟨rfl, rfl, rfl, ?ppn, ?flags, ?attr⟩
  case ppn => simp [TlbCsr.entry, field]
  case flags => simp [TlbCsr.entry, field]
  case attr =>
    simp only [TlbCsr.entry, field, BitVec.toNat_ofNat, Nat.mod_mod]
    exact Nat.mod_eq_of_lt top

/-! ### Places of the jTLB -/

theorem TlbEntry.sameSlot_iff {e : TlbEntry} {set : BitVec 8} {way : BitVec 2} :
    e.sameSlot set way = true ↔ e.set = set ∧ e.way = way := by
  simp [TlbEntry.sameSlot]

/-- An entry put in its place takes the place of what was there, and of nothing else. -/
theorem mem_tlbInsert {e o : TlbEntry} {tlb : List TlbEntry} :
    o ∈ tlbInsert e tlb ↔ o = e ∨ (o ∈ tlb ∧ ¬ (o.set = e.set ∧ o.way = e.way)) := by
  rw [tlbInsert, List.mem_cons, List.mem_filter, Bool.not_eq_true', ← Bool.not_eq_true, TlbEntry.sameSlot_iff]

/-- The TLBs `u` are the TLBs `t` with an entry that `r` describes at a place of the jTLB. -/
def TlbCsr.Puts (r : TlbCsr) (t u : Tlb) (set : BitVec 8) (way : BitVec 2) : Prop :=
  ∃ e, r.Describes e ∧ e.set = set ∧ e.way = way ∧
    (∀ o, o ∈ u.joint ↔ o = e ∨ (o ∈ t.joint ∧ ¬ (o.set = set ∧ o.way = way))) ∧ u = { t with joint := u.joint }

theorem Hart.tlbPut_puts (h : Hart) (set : BitVec 8) (way : BitVec 2) :
    h.smmu.Puts h.tlb (h.tlbPut (h.smmu.entry set way)).tlb set way :=
  ⟨h.smmu.entry set way, h.smmu.entry_describes set way, rfl, rfl, fun _ => mem_tlbInsert, rfl⟩

/-- What is left in each part of the TLBs when the entries with a property are dropped. -/
theorem Tlb.mem_drop (t : Tlb) {p : TlbEntry → Bool} {P : TlbEntry → Prop} (hp : ∀ e, p e = true ↔ P e) :
    ∀ part ∈ [Tlb.joint, Tlb.fetch, Tlb.data, Tlb.leaving], ∀ e, e ∈ part (t.drop p) ↔ e ∈ part t ∧ ¬ P e := by
  have kept : ∀ (es : List TlbEntry) (e : TlbEntry), (e ∈ es.filter fun e => !p e) ↔ e ∈ es ∧ ¬ P e := fun es e => by
    rw [List.mem_filter, Bool.not_eq_true', ← Bool.not_eq_true, hp]
  simp only [List.forall_mem_cons]
  exact ⟨kept t.joint, kept t.fetch, kept t.data, kept t.leaving, by simp⟩

/-! ### TLBP -/

/-- The entries of the jTLB that hit the page, the size and the ASID of `smeh` (21_mmu_pmp:R253). -/
def Hart.probed (h : Hart) : List TlbEntry :=
  h.tlb.joint.filter fun e => e.hits (smehVpn h.smmu.smeh) (smehAsid h.smmu.smeh) && e.pageSize == smehSize h.smmu.smeh

theorem Hart.tlbProbe_smir (h : Hart) : h.tlbProbe.smmu.smir =
    match h.probed with
    | [] => setBit (setBit h.smmu.smir 31 true) 30 false
    | [e] => setField (setBit (setBit h.smmu.smir 31 false) 30 false) 0 10 (e.way.toNat * 256 + e.set.toNat)
    | _ => setBit (setBit h.smmu.smir 31 false) 30 true := rfl

/-- A probe that finds nothing sets bit 31 of `smir` and clears Tfatal (21_mmu_pmp:R253). -/
theorem Hart.tlbProbe_miss {h : Hart} (hf : h.probed = []) :
    h.tlbProbe.smmu.smir.getLsbD 31 = true ∧ h.tlbProbe.smmu.smir.getLsbD 30 = false := by
  simp only [h.tlbProbe_smir, hf, getLsbD_setBit]
  exact ⟨rfl, rfl⟩

/-- A probe that finds one entry reports its place in `smir.Index` (21_mmu_pmp:R253). -/
theorem Hart.tlbProbe_hit {h : Hart} {e : TlbEntry} (hf : h.probed = [e]) :
    h.tlbProbe.smmu.smir.getLsbD 31 = false ∧ h.tlbProbe.smmu.smir.getLsbD 30 = false ∧
      h.tlbProbe.smmu.smir.toNat % 1024 = e.way.toNat * 256 + e.set.toNat := by
  have hw := e.way.isLt
  have hs := e.set.isLt
  rw [h.tlbProbe_smir, hf]
  have index := field_setField (setBit (setBit h.smmu.smir 31 false) 30 false) 0 10 (e.way.toNat * 256 + e.set.toNat)
    (by omega) (by decide)
  rw [field, Nat.pow_zero, Nat.div_one] at index
  simp only [getLsbD_setField, getLsbD_setBit]
  exact ⟨rfl, rfl, index⟩

/-- A probe that finds several entries sets bit 30 of `smir`, Tfatal (21_mmu_pmp:R253, log 19). -/
theorem Hart.tlbProbe_several {h : Hart} (hf : 2 ≤ h.probed.length) :
    h.tlbProbe.smmu.smir.getLsbD 31 = false ∧ h.tlbProbe.smmu.smir.getLsbD 30 = true := by
  rw [h.tlbProbe_smir]
  match e : h.probed, hf with
  | _ :: _ :: _, _ =>
    simp only [getLsbD_setBit]
    exact ⟨rfl, rfl⟩

/-! ### TLBR -/

/-- The entry that a read at the place of `smir` finds (21_mmu_pmp:R254). -/
def Hart.indexed (h : Hart) : Option TlbEntry :=
  h.tlb.joint.find? fun e => e.sameSlot (smirSet h.smmu.smir) (smirWay h.smmu.smir)

theorem Hart.mem_of_indexed {h : Hart} {e : TlbEntry} (hi : h.indexed = some e) :
    e ∈ h.tlb.joint ∧ e.set = smirSet h.smmu.smir ∧ e.way = smirWay h.smmu.smir :=
  ⟨List.mem_of_find?_eq_some hi, TlbEntry.sameSlot_iff.mp (List.find?_some (p := fun e : TlbEntry => e.sameSlot _ _) hi)⟩

theorem Hart.indexed_eq_none {h : Hart} :
    h.indexed = none ↔ ∀ e ∈ h.tlb.joint, ¬ (e.set = smirSet h.smmu.smir ∧ e.way = smirWay h.smmu.smir) := by
  simp only [Hart.indexed, List.find?_eq_none, TlbEntry.sameSlot_iff]

theorem State.tlbRead_of_indexed {s : State} {e : TlbEntry} (h : s.me.indexed = some e) :
    s.tlbRead = s.setSmmu { s.me.smmu with smeh := e.smeh, smel := e.smel } := by
  unfold Hart.indexed at h
  simp only [State.tlbRead, h]
  rfl

theorem State.tlbRead_of_indexed_none {s : State} (h : s.me.indexed = none) :
    s.tlbRead = { s.setSmmu { s.me.smmu with smeh := Config.freeWord s.draws &&& smehMask,
                                             smel := setBit (Config.freeWord (s.draws + 1) &&& smelMask) 0 false } with
                  draws := s.draws + 2 } := by
  unfold Hart.indexed at h
  simp only [State.tlbRead, h]
  rfl

theorem State.setSmmu_with_draws (s : State) (r : TlbCsr) : s.setSmmu r = { s.setSmmu r with draws := s.draws } := rfl

/-- TLBR changes `smeh` and `smel`, and may use free values for them. -/
theorem State.tlbRead_eq (s : State) :
    ∃ eh el d, s.tlbRead = { s.setSmmu { s.me.smmu with smeh := eh, smel := el } with draws := d } := by
  cases h : s.me.indexed with
  | none => exact ⟨_, _, _, State.tlbRead_of_indexed_none h⟩
  | some e => exact ⟨_, _, _, (State.tlbRead_of_indexed h).trans (s.setSmmu_with_draws _)⟩

theorem State.tlbRead_keeps (s : State) :
    s.tlbRead.me.tlb = s.me.tlb ∧ s.tlbRead.me.smmu.smir = s.me.smmu.smir ∧ s.tlbRead.me.smmu.smcir = s.me.smmu.smcir := by
  obtain ⟨eh, el, d, h⟩ := s.tlbRead_eq
  rw [h]
  exact ⟨rfl, rfl, rfl⟩

/-- TLBR gives the entry at the place of `smir`, where that place holds one (21_mmu_pmp:R254). -/
theorem State.tlbRead_entry {s : State} {e : TlbEntry} (he : e ∈ s.me.tlb.joint) (hs : e.set = smirSet s.me.smmu.smir)
    (hw : e.way = smirWay s.me.smmu.smir)
    (one : ∀ o ∈ s.me.tlb.joint, o.set = smirSet s.me.smmu.smir → o.way = smirWay s.me.smmu.smir → o = e) :
    s.tlbRead.me.smmu.smeh = e.smeh ∧ s.tlbRead.me.smmu.smel = e.smel := by
  cases h : s.me.indexed with
  | none => exact absurd ⟨hs, hw⟩ (Hart.indexed_eq_none.mp h e he)
  | some o =>
    obtain ⟨ho, set, way⟩ := Hart.mem_of_indexed h
    have same : o = e := one o ho set way
    rw [State.tlbRead_of_indexed h, same]
    exact ⟨rfl, rfl⟩

/-- TLBR of a place without an entry reads as not valid (log 19). -/
theorem State.tlbRead_empty {s : State}
    (empty : ∀ e ∈ s.me.tlb.joint, ¬ (e.set = smirSet s.me.smmu.smir ∧ e.way = smirWay s.me.smmu.smir)) :
    s.tlbRead.me.smmu.smel.getLsbD 0 = false := by
  rw [State.tlbRead_of_indexed_none (Hart.indexed_eq_none.mpr empty)]
  exact getLsbD_setBit _ 0 false 0

/-! ### TLBWR and TLBII -/

/-- TLBWR puts the entry in some way of the set of its page (21_mmu_pmp:R256). -/
theorem State.tlbWriteRandom_puts (s : State) {l : Nat} (hl : pageLevel (smehSize s.me.smmu.smeh) = some l) :
    ∃ way, s.me.smmu.Puts s.me.tlb s.tlbWriteRandom.me.tlb (tlbSet (smehVpn s.me.smmu.smeh) l) way := by
  refine ⟨BitVec.ofNat 2 (Config.freeChoice s.draws), ?_⟩
  have put := s.me.tlbPut_puts (tlbSet (smehVpn s.me.smmu.smeh) l) (BitVec.ofNat 2 (Config.freeChoice s.draws))
  simpa only [State.tlbWriteRandom, hl, Option.getD_some] using put

/-- TLBII drops the copies of the entry at the place of `smir` (21_mmu_pmp:R257, log 43). -/
theorem Hart.contains_sameSlot (h : Hart) (e : TlbEntry) :
    (h.tlb.joint.filter fun e => e.sameSlot (smirSet h.smmu.smir) (smirWay h.smmu.smir)).contains e = true ↔
      ∃ o ∈ h.tlb.joint, o.set = smirSet h.smmu.smir ∧ o.way = smirWay h.smmu.smir ∧ o = e := by
  rw [List.contains_iff_mem, List.mem_filter, TlbEntry.sameSlot_iff]
  constructor
  · rintro ⟨he, hs, hw⟩
    exact ⟨e, he, hs, hw, rfl⟩
  · rintro ⟨o, ho, hs, hw, rfl⟩
    exact ⟨ho, hs, hw⟩

/-! ### The operation a write of smcir names -/

/-- The state after a write of `smcir` has left its low bits there, before any operation. -/
def State.noteSmcir (s : State) (v : Word) : State := s.setSmmu { s.me.smmu with smcir := v &&& 0xffff }

/-- The TLB operation that bit `25 + n` of `smcir` names (12_csr_extended:R165). -/
def State.tlbOp (s : State) (v : Word) : Nat → State
  | 6 => { s with me := s.me.tlbProbe }
  | 5 => s.tlbRead
  | 4 => { s with me := s.me.tlbWriteIndexed }
  | 3 => s.tlbWriteRandom
  | 2 => { s with me := s.me.tlbInvalAsid (field v 0 16) }
  | 1 => { s with me := s.me.tlbInvalAll }
  | 0 => { s with me := s.me.tlbInvalIndexed }
  | _ => s

/-- The bits of a field are those of its number. -/
theorem bit_of_field {w : Word} {lo len m k : Nat} (h : field w lo len = m) (hk : k < len) : bit w (lo + k) = m.testBit k := by
  rw [← h, testBit_field, bit_eq, decide_eq_true hk, Bool.true_and]

/-- The seven operation bits of a write of `smcir`. -/
theorem smcir_ops {v : Word} {m : Nat} (h : field v 25 7 = m) :
    bit v 31 = m.testBit 6 ∧ bit v 30 = m.testBit 5 ∧ bit v 29 = m.testBit 4 ∧ bit v 28 = m.testBit 3 ∧
      bit v 27 = m.testBit 2 ∧ bit v 26 = m.testBit 1 ∧ bit v 25 = m.testBit 0 := by
  have op : ∀ k < 7, bit v (25 + k) = m.testBit k := fun k hk => bit_of_field h hk
  exact ⟨op 6 (by decide), op 5 (by decide), op 4 (by decide), op 3 (by decide), op 2 (by decide), op 1 (by decide),
    op 0 (by decide)⟩

/-- Without an operation bit a write of `smcir` does nothing more. -/
theorem State.smcirWrite_none (s : State) {v : Word} (h : field v 25 7 = 0) : s.smcirWrite v = s.noteSmcir v := by
  obtain ⟨b6, b5, b4, b3, b2, b1, b0⟩ := smcir_ops h
  simp only [State.smcirWrite, b6, b5, b4, b3, b2, b1, b0, Nat.zero_testBit]
  rfl

/-- With one operation bit it runs that operation (12_csr_extended:R165). -/
theorem State.smcirWrite_only (s : State) {v : Word} {n : Nat} (hn : n < 7) (h : v.toNat / 2 ^ 25 = 2 ^ n) :
    s.smcirWrite v = (s.noteSmcir v).tlbOp v n := by
  have one : field v 25 7 = 2 ^ n := by
    rw [field, h]
    exact Nat.mod_eq_of_lt (Nat.pow_lt_pow_right (by decide) hn)
  obtain ⟨b6, b5, b4, b3, b2, b1, b0⟩ := smcir_ops one
  simp only [State.smcirWrite, b6, b5, b4, b3, b2, b1, b0, Nat.testBit_two_pow]
  interval_cases n <;> rfl

/-- No operation touches `smcir`, whatever bits are written together. -/
theorem State.smcirWrite_smcir (s : State) (v : Word) : (s.smcirWrite v).me.smmu.smcir = v &&& 0xffff := by
  have op : ∀ {t : State} (b : Bool) {f : Hart → Hart}, (∀ h, (f h).smmu.smcir = h.smmu.smcir) →
      t.me.smmu.smcir = v &&& 0xffff → (t.onMe b f).me.smmu.smcir = v &&& 0xffff := fun {t} b _ hf ht => by
    cases b
    · exact ht
    · exact (hf t.me).trans ht
  have read : ∀ {t : State} (b : Bool), t.me.smmu.smcir = v &&& 0xffff →
      (if b then t.tlbRead else t).me.smmu.smcir = v &&& 0xffff := fun {t} b ht => by
    cases b
    · exact ht
    · obtain ⟨-, -, smcir⟩ := t.tlbRead_keeps
      exact smcir.trans ht
  have random : ∀ {t : State} (b : Bool), t.me.smmu.smcir = v &&& 0xffff →
      (if b then t.tlbWriteRandom else t).me.smmu.smcir = v &&& 0xffff := fun b ht => by
    cases b <;> exact ht
  exact op _ (fun _ => rfl) <| op _ (fun _ => rfl) <| op _ (fun _ => rfl) <| random _ <| op _ (fun _ => rfl) <| read _ <|
    op _ (fun _ => rfl) rfl

/-! ### The cache operations of mcor -/

/-- What a write of `mcor` does to the D-cache (12_csr_extended:R136). -/
def State.mcorData (s : State) (v : Word) : State :=
  if bit v 1 then
    if bit v 5 && bit v 4 then s.flushMine everyLine else if bit v 5 then s.cleanMine everyLine
    else if bit v 4 then s.invalMine everyLine else s
  else s

/-- The operation on the D-cache changes its lines and the L2, and nothing else. -/
theorem State.mcorData_frame (s : State) (v : Word) :
    s.mcorData v = { s with me := { s.me with l1d := (s.mcorData v).me.l1d }, l2 := (s.mcorData v).l2 } := by
  unfold State.mcorData
  repeat' split
  all_goals rfl

/-- A write of `mcor` works on the D-cache, empties the I-cache where it is selected, and keeps the selection bits. -/
theorem State.mcorWrite_parts (s : State) (v : Word) : s.mcorWrite v =
    { s with me := { s.me with l1d := (s.mcorData v).me.l1d,
                               icache := if bit v 0 && bit v 4 then [] else s.me.icache,
                               th := { s.me.th with mcor := v &&& 3 } },
             l2 := (s.mcorData v).l2 } := by
  have code : ∀ t : State, (if bit v 0 && bit v 4 then t.invalIcache (fun _ => true) false else t) =
      { t with me := { t.me with icache := if bit v 0 && bit v 4 then [] else t.me.icache } } := fun t => by
    cases bit v 0 && bit v 4
    · rfl
    · simp [State.invalIcache]
  show (let t := if bit v 0 && bit v 4 then (s.mcorData v).invalIcache (fun _ => true) false else s.mcorData v
    ({ t with me := { t.me with th := { t.me.th with mcor := v &&& 3 } } } : State)) = _
  rw [code, s.mcorData_frame v]

theorem State.mcorData_flush (s : State) {v : Word} (hd : bit v 1 = true) (hc : bit v 5 = true) (hi : bit v 4 = true) :
    FlushesLines s (s.mcorData v) anyLine false false := by
  rw [State.mcorData, hd, hc, hi]
  exact (s.flushMine_spec byPlace_everyLine).2

theorem State.mcorData_clean (s : State) {v : Word} (hd : bit v 1 = true) (hc : bit v 5 = true) (hi : ¬ bit v 4 = true) :
    CleansLines s (s.mcorData v) anyLine false false := by
  rw [State.mcorData, hd, hc, Bool.eq_false_iff.mpr hi]
  exact (s.cleanMine_spec everyLine).2

theorem State.mcorData_drop (s : State) {v : Word} (hd : bit v 1 = true) (hc : ¬ bit v 5 = true) (hi : bit v 4 = true) :
    DropsLines s (s.mcorData v) anyLine false false := by
  rw [State.mcorData, hd, Bool.eq_false_iff.mpr hc, hi]
  exact (s.invalMine_spec everyLine).2

/-- With the D-cache not selected, or no operation asked for, nothing happens to it (log 40). -/
theorem State.mcorData_none (s : State) {v : Word} (h : ¬ bit v 1 = true ∨ (¬ bit v 5 = true ∧ ¬ bit v 4 = true)) :
    s.mcorData v = s := by
  obtain hd | ⟨hc, hi⟩ := h
  · exact if_neg hd
  · rw [State.mcorData, Bool.eq_false_iff.mpr hc, Bool.eq_false_iff.mpr hi]
    exact ite_self s

/-! ### A read request of mcins -/

/-- A request puts free values into the data registers (log 17); without bit 0 there is none. -/
theorem State.mcinsWrite_eq (s : State) (v : Word) : s.mcinsWrite v =
    { s with me := { s.me with th := { s.me.th with mcdata0 := (s.mcinsWrite v).me.th.mcdata0,
                                                    mcdata1 := (s.mcinsWrite v).me.th.mcdata1 } },
             draws := (s.mcinsWrite v).draws } := by
  unfold State.mcinsWrite
  split <;> rfl

/-- Settles O17: one operation bit of `smcir` runs one TLB operation on the state that notes the low bits, and the bits of `mcor`
select one operation on the D-cache. -/
theorem specialRegisterEffects : Obligations.SpecialRegisterEffects := by
  unfold Obligations.SpecialRegisterEffects
  intro s v
  simp only [← smirSet_eq, ← smirWay_eq, ← smehVpn_eq, ← smehSize_eq, ← smehAsid_eq]
  have only : ∀ {n}, n < 7 → v.toNat / 2 ^ 25 = 2 ^ n → s.csrWrite .smcir v = (s.noteSmcir v).tlbOp v n :=
    fun hn h => s.smcirWrite_only hn h
  have mcor : s.csrWrite .mcor v = _ := s.mcorWrite_parts v
  refine ⟨⟨s.smcirWrite_frame v, s.smcirWrite_smcir v, fun h => ?none, fun h => ?tlbp, fun h => ?tlbr, fun h => ?tlbwi,
      fun h => ?tlbwr, fun h => ?tlbiasid, fun h => ?tlbiall, fun h => ?tlbii⟩,
    ⟨?selection, ?mcorFrame, s.mcorData v, ?data, fun ⟨hd, hc, hi⟩ => s.mcorData_flush hd hc hi,
      fun ⟨hd, hc, hi⟩ => s.mcorData_clean hd hc hi, fun ⟨hd, hc, hi⟩ => s.mcorData_drop hd hc hi, s.mcorData_none, ?code⟩,
    s.smcirWrite_smcir v, ?mcorRead, rfl, fun h => if_neg (Bool.eq_false_iff.mp h), s.mcinsWrite_eq v⟩
  case none =>
    have e : s.csrWrite .smcir v = s.noteSmcir v := s.smcirWrite_none h
    rw [e]
    exact ⟨rfl, rfl⟩
  case tlbp =>
    rw [only (by decide) h]
    exact ⟨rfl, rfl, rfl, Hart.tlbProbe_miss (h := (s.noteSmcir v).me), fun e => Hart.tlbProbe_hit (h := (s.noteSmcir v).me),
      Hart.tlbProbe_several (h := (s.noteSmcir v).me)⟩
  case tlbr =>
    rw [only (by decide) h]
    obtain ⟨tlb, smir, -⟩ := (s.noteSmcir v).tlbRead_keeps
    refine ⟨tlb, smir, fun e he hs hw one => ?_, fun empty => State.tlbRead_empty (s := s.noteSmcir v) empty⟩
    obtain ⟨smeh, smel⟩ := State.tlbRead_entry (s := s.noteSmcir v) he hs hw one
    exact ⟨smeh ▸ e.smeh_toNat, smel ▸ e.smel_toNat⟩
  case tlbwi =>
    rw [only (by decide) h]
    exact ⟨(s.noteSmcir v).me.tlbPut_puts _ _, rfl⟩
  case tlbwr =>
    rw [only (by decide) h]
    exact ⟨rfl, fun l hl => (s.noteSmcir v).tlbWriteRandom_puts hl⟩
  case tlbiasid =>
    rw [only (by decide) h]
    exact ⟨rfl, s.me.tlb.mem_drop fun e => by simp [field]⟩
  case tlbiall =>
    rw [only (by decide) h]
    exact ⟨rfl, s.me.tlb.mem_drop fun e => by simp⟩
  case tlbii =>
    rw [only (by decide) h]
    exact ⟨rfl, s.me.tlb.mem_drop s.me.contains_sameSlot⟩
  case data =>
    rw [mcor]
    exact s.mcorData_frame v
  case code =>
    rw [mcor]
    simp [bit_eq]
  case selection | mcorFrame => rw [mcor]
  case mcorRead =>
    rw [mcor]
    rfl

end Sys2Proof.Machine

namespace Sys2Proof.Machine

/-! ### LR and SC -/

/-- The code of an atomic instruction is the concatenation of its fields (30_encoding:R282). -/
theorem word32_atomic (f5 : BitVec 5) (aq rl : BitVec 1) (rs2 rs1 : Reg) (f3 : BitVec 3) (rd : Reg) (op : BitVec 7) :
    word32 (f5.toNat * 4 + aq.toNat * 2 + rl.toNat) rs2.toNat rs1.toNat f3.toNat rd.toNat op.toNat =
      f5 ++ aq ++ rl ++ rs2 ++ rs1 ++ f3 ++ rd ++ op :=
  word32_eq (by simp only [append_toNat]; omega)

/-- Settles O10, by the rules of LR and SC for any size. -/
theorem reservedAndConditional : Obligations.ReservedAndConditional := by
  unfold Obligations.ReservedAndConditional
  intro s rd rs1 rs2 aq rl
  exact ⟨⟨congrArg Code.full (word32_atomic 2 aq rl 0 rs1 3 rd 0x2f), s.loadReserved_rule rfl rd rs1⟩,
    ⟨congrArg Code.full (word32_atomic 2 aq rl 0 rs1 2 rd 0x2f), s.loadReserved_rule rfl rd rs1⟩,
    ⟨congrArg Code.full (word32_atomic 3 aq rl rs2 rs1 3 rd 0x2f), s.storeConditional_rule 8 (.inr rfl) rd rs2 rs1⟩,
    ⟨congrArg Code.full (word32_atomic 3 aq rl rs2 rs1 2 rd 0x2f), s.storeConditional_rule 4 (.inl rfl) rd rs2 rs1⟩⟩
end Sys2Proof.Machine

namespace Sys2Proof.Machine

/-! ### What a store tells the monitors -/

/-- The monitors of both cores, and whether a snoop reaches the other one's. -/
def State.monitors (s : State) := (s.me.lmon, s.me.gmon, s.other.lmon, s.other.gmon, s.other.snoops)

theorem LineFrame.monitors {s t : State} (h : LineFrame s t) : t.monitors = s.monitors := by
  rw [h]
  rfl

theorem DevFrame.monitors {s t : State} (h : DevFrame s t) : t.monitors = s.monitors := by
  rw [h]
  rfl

/-- A store of bytes moves the lines of the caches and memory alone. -/
theorem State.storeData_lines (s : State) (attr : BitVec 5) (a : Nat) (bs : List Byte) : LineFrame s (s.storeData attr a bs) := by
  have cached : ∀ u : State, LineFrame u (u.storeCached a bs) := by
    intro u
    have y : LineFrame u (u.yieldLine (lineOf a)) := rfl
    unfold State.storeCached
    dsimp only
    split
    · exact (y.trans (State.fill_spec _ _).1).trans rfl
    · split
      · exact (y.trans (State.fillL2_spec _ _).1).trans rfl
      · exact rfl
  unfold State.storeData
  split
  · exact rfl
  · refine LineFrame.trans ?_ (cached _)
    split <;> exact rfl

theorem State.devWrite_frame (s : State) (p : Priv) (off v : Nat) : DevFrame s (s.devWrite p off v) := by
  unfold State.devWrite
  split
  · exact s.devWriteReg_frame _ v
  · exact rfl

/-- What a store to the line of an address leaves of a core's reservations: the local one stands too where no snoop reaches it
(20_memory:R215, R217, log 52). -/
theorem State.announce_monitors (s : State) (a : Nat) :
    (s.announce a).monitors =
      (s.me.lmon, s.me.gmon, s.other.lmon.filter fun r => !s.other.snoops || lineOf r.addr.toNat != lineOf a,
        s.other.gmon.filter fun r => lineOf r.addr.toNat != lineOf a, s.other.snoops) := rfl

/-- Wherever a part of a store goes, the monitors are those that its announcement leaves. -/
theorem State.writePart_monitors (s : State) (plain : Bool) (p : Part) (v : Nat) :
    (s.writePart plain p v).monitors = (s.announce p.place.pa.toNat).monitors := by
  unfold State.writePart
  dsimp only
  split
  · rfl
  · split
    · split
      · exact (State.devWrite_frame _ _ _ _).monitors
      · rfl
    · exact (State.storeData_lines _ _ _ _).monitors

/-- A reservation is on no line of the parts. -/
def Reservation.offLines (r : Reservation) (ps : List Part) : Bool :=
  ps.all fun p => lineOf r.addr.toNat != lineOf p.place.pa.toNat

theorem Reservation.offLines_iff {r : Reservation} {ps : List Part} :
    r.offLines ps = true ↔ ¬ ∃ p ∈ ps, r.addr.toNat / 64 = p.place.pa.toNat / 64 := by
  simp [Reservation.offLines, lineOf]

/-- After a store to parts the other core's reservations stand that are on no line stored to, and the local one too where no snoop
reaches it. -/
theorem State.writeParts_monitors (s : State) (plain : Bool) (ps : List Part) (v : Nat) :
    (s.writeParts plain ps v).monitors =
      (s.me.lmon, s.me.gmon, s.other.lmon.filter fun r => !s.other.snoops || r.offLines ps,
        s.other.gmon.filter fun r => r.offLines ps, s.other.snoops) := by
  induction ps generalizing s v with
  | nil =>
    have all : ∀ o : Option Reservation, o.filter (fun _ => true) = o := fun o => by cases o <;> rfl
    simp only [State.writeParts, Reservation.offLines, List.all_nil, Bool.or_true, all]
    rfl
  | cons p rest ih =>
    have first := (s.writePart_monitors plain p v).trans (s.announce_monitors _)
    simp only [State.monitors, Prod.mk.injEq] at first
    obtain ⟨l, g, lmon, gmon, snoops⟩ := first
    have lines : ∀ r : Reservation, r.offLines (p :: rest) = (lineOf r.addr.toNat != lineOf p.place.pa.toNat && r.offLines rest) :=
      fun _ => List.all_cons
    unfold State.writeParts
    rw [ih, l, g, lmon, gmon, snoops, Option.filter_filter, Option.filter_filter]
    simp only [lines, Bool.or_and_distrib_left]

/-- Settles O60: the announcement of each part decides over the other core's monitors, and nothing else of a store touches one. -/
theorem storeClearsRemoteMonitor : Obligations.StoreClearsRemoteMonitor := by
  unfold Obligations.StoreClearsRemoteMonitor
  intro s plain ps v
  have after := s.writeParts_monitors plain ps v
  simp only [State.monitors, Prod.mk.injEq] at after
  obtain ⟨l, g, lmon, gmon, -⟩ := after
  refine ⟨l, g, fun r hr => ?_, fun r hr => ?_, fun h => by rw [lmon, h]; rfl, fun h => by rw [gmon, h]; rfl⟩
  · have stands : (!s.other.snoops || r.offLines ps) = true ↔
        ¬ (s.other.th.msmpr.getLsbD 0 = true ∧ ∃ p ∈ ps, r.addr.toNat / 64 = p.place.pa.toNat / 64) := by
      rw [Bool.or_eq_true, Reservation.offLines_iff, Bool.not_eq_true', ← Bool.not_eq_true, ← not_and_or]
      rfl
    rw [lmon, hr, Option.filter_some]
    exact ⟨fun h => if_neg fun hs => stands.1 hs h, fun h => if_pos (stands.2 h)⟩
  · rw [gmon, hr, Option.filter_some]
    exact ⟨fun h => if_neg fun hs => Reservation.offLines_iff.1 hs h, fun h => if_pos (Reservation.offLines_iff.2 h)⟩

end Sys2Proof.Machine

namespace Sys2Proof.Machine

/-! ### Memory in its canonical form -/

/-- An address below every listed one is not listed. -/
theorem Memory.read_of_below {a : Nat} {m : List Host.Cell} (h : ∀ c ∈ m, a < c.1) : Memory.read m a = Memory.unlisted := by
  induction m with
  | nil => rfl
  | cons c rest ih =>
    have hc := h c List.mem_cons_self
    rw [Memory.read, if_neg (by omega)]
    exact ih fun d hd => h d (List.mem_cons_of_mem _ hd)

/-- Of two memories in canonical form that read alike, the first does not list an address below all those of the other. -/
theorem Memory.not_below {c : Host.Cell} {m m' : List Host.Cell} (h : Memory.wf (c :: m) = true)
    (read : ∀ a, Memory.read (c :: m) a = Memory.read m' a) : ¬ ∀ d ∈ m', c.1 < d.1 := by
  intro below
  have := read c.1
  rw [Memory.read_of_below below, Memory.read, if_pos rfl] at this
  exact (Memory.wf_cons.1 h).1 this

/-- The canonical form is one for all that reads alike (log 7). -/
theorem Memory.ext_of_wf {m m' : List Host.Cell} (h : Memory.wf m = true) (h' : Memory.wf m' = true)
    (read : ∀ a, Memory.read m a = Memory.read m' a) : m = m' := by
  induction m generalizing m' with
  | nil =>
    cases m' with
    | nil => rfl
    | cons d rest' => exact absurd (fun _ hc => absurd hc List.not_mem_nil) (Memory.not_below h' fun a => (read a).symm)
  | cons c rest ih =>
    cases m' with
    | nil => exact absurd (fun _ hd => absurd hd List.not_mem_nil) (Memory.not_below h read)
    | cons d rest' =>
      obtain ⟨-, above, wf⟩ := Memory.wf_cons.1 h
      obtain ⟨-, above', wf'⟩ := Memory.wf_cons.1 h'
      have le : d.1 ≤ c.1 := by
        by_contra lt
        refine Memory.not_below h read fun e he => ?_
        rcases List.mem_cons.1 he with rfl | he
        · omega
        · exact (by omega : c.1 < d.1).trans (above' e he)
      have ge : c.1 ≤ d.1 := by
        by_contra lt
        refine Memory.not_below h' (fun a => (read a).symm) fun e he => ?_
        rcases List.mem_cons.1 he with rfl | he
        · omega
        · exact (by omega : d.1 < c.1).trans (above e he)
      have addr : c.1 = d.1 := Nat.le_antisymm ge le
      have byte : c.2 = d.2 := by simpa [Memory.read, addr] using read c.1
      have tail : rest = rest' := ih wf wf' fun a => by
        by_cases ha : c.1 = a
        · rw [Memory.read_of_below (ha ▸ above), Memory.read_of_below (ha ▸ addr ▸ above')]
        · simpa [Memory.read, ha, ← addr] using read a
      rw [tail, show c = d from Prod.ext addr byte]

/-- A little-endian value in memory (20_memory:R181). -/
theorem Memory.read_writeBytes_bytesLe (m : List Host.Cell) (a v n q : Nat) : Memory.read (Memory.writeBytes a (bytesLe v n) m) q =
    if a ≤ q ∧ q < a + n then BitVec.ofNat 8 (v / 2 ^ (8 * (q - a))) else Memory.read m q := by
  rw [Memory.read_writeBytes, bytesLe_length]
  by_cases hq : a ≤ q ∧ q < a + n
  · rw [if_pos hq, if_pos hq, bytesLe_getD _ _ _ (by omega), pow_mul]
    rfl
  · rw [if_neg hq, if_neg hq]

/-- After a store on one line the same access finds the value. -/
theorem State.number_storeData (s : State) (attr : BitVec 5) {a n : Nat} (hl : a % 64 + n ≤ 64) (v : Nat) :
    (s.storeData attr a (bytesLe v n)).number attr a n = v % 2 ^ (8 * n) := by
  obtain ⟨frame, -, stored⟩ := s.storeData_writes (.refl s attr) a (bytesLe v n) (by rwa [bytesLe_length])
  rw [bytesLe_length] at stored
  refine numberAt_of_bytes fun k hk => ?_
  rw [frame.dcacheOn, stored (a + k) (by omega), Nat.add_sub_cancel_left, bytesLe_getD v n k hk]

/-- Settles O48. -/
theorem memoryCanonical : Obligations.MemoryCanonical :=
  ⟨fun m a b => ⟨Memory.read_write a b m, Memory.wf_write a b m⟩, fun _ _ => Memory.ext_of_wf, Memory.read_writeBytes_bytesLe,
    fun s attr a v _ => ⟨s.storeData_wf attr a _, fun hl => s.number_storeData attr hl v⟩⟩

end Sys2Proof.Machine

namespace Sys2Proof.Machine

/-! ### The parts of an access -/

theorem Res.andThen_assoc {α β γ : Type} (r : Res α) (f : α → State → Res β) (g : β → State → Res γ) :
    (r.andThen f).andThen g = r.andThen fun v t => (f v t).andThen g := by
  cases r <;> rfl

/-- A place lets hardware split an access: it is no device memory, or in the device window (20_memory:R190, 61_clint_plic:R851). -/
def State.Splits (s : State) (pl : Place) : Prop :=
  attrLegal pl.attr = true → strongOrder pl.attr = true → s.soc.inWindow pl.pa = true

theorem State.splits_iff (s : State) (pl : Place) :
    s.Splits pl ↔ ¬ (strongOrder pl.attr && attrLegal pl.attr && !s.soc.inWindow pl.pa) = true := by
  unfold State.Splits
  cases strongOrder pl.attr <;> cases attrLegal pl.attr <;> cases s.soc.inWindow pl.pa <;> simp

theorem Hidden.splits {s t : State} (h : Hidden s t) (pl : Place) : t.Splits pl ↔ s.Splits pl := by
  unfold State.Splits
  rw [h.soc]

section
variable {s t : State} {k : Access} {start va : Word} {n : Nat} {pl : Place}

/-- A byte whose translation fails ends a split access. -/
theorem State.planBytes_of_translate_trap {c : Nat} {info : Word} (h : s.translate k va = .trap c info t) :
    s.planBytes k start va (n + 1) = .trap c info t := by
  unfold State.planBytes
  rw [h, Res.trap_andThen]

/-- A byte in device memory ends it with the address of the access (log 23). -/
theorem State.planBytes_of_not_splits (h : s.translate k va = .ok pl t) (hs : ¬ s.Splits pl) :
    s.planBytes k start va (n + 1) = .trap k.misaligned start t := by
  rw [← ((s.translate_sat k va).of_ok h).splits, t.splits_iff, not_not] at hs
  unfold State.planBytes
  rw [h, Res.ok_andThen, if_pos hs]

/-- A byte that may be split off: the checks of its place decide. -/
theorem State.planBytes_of_splits (h : s.translate k va = .ok pl t) (hs : s.Splits pl) :
    s.planBytes k start va (n + 1) =
      (s.resolve k va).andThen fun q u => (u.planBytes k start (va + 1) n).andThen fun ps w => .ok (⟨q, 1⟩ :: ps) w := by
  rw [← ((s.translate_sat k va).of_ok h).splits, t.splits_iff] at hs
  conv_lhs => unfold State.planBytes
  rw [State.resolve, h, Res.ok_andThen, if_neg hs, Res.ok_andThen]

/-- A byte that its checks let pass: it is one part, and the next byte follows in the state they leave. -/
theorem State.planBytes_of_resolve (h : s.translate k va = .ok pl t) (hs : s.Splits pl) (hr : s.resolve k va = .ok pl t) :
    s.planBytes k start va (n + 1) = (t.planBytes k start (va + 1) n).andThen fun ps w => .ok (⟨pl, 1⟩ :: ps) w := by
  rw [State.planBytes_of_splits h hs, hr, Res.ok_andThen]

/-- A byte that its checks do not let pass. -/
theorem State.planBytes_of_resolve_trap {u : State} {c : Nat} {info : Word} (h : s.translate k va = .ok pl t) (hs : s.Splits pl)
    (hr : s.resolve k va = .trap c info u) : s.planBytes k start va (n + 1) = .trap c info u := by
  rw [State.planBytes_of_splits h hs, hr, Res.trap_andThen]

/-- The first `j` bytes of a split access pass, byte `i` in the state `σ i`, at the place `pl i`. -/
def PassBytes (k : Access) (va : Word) (pl : Nat → Place) (σ : Nat → State) (j : Nat) : Prop :=
  ∀ i, i < j → (σ i).translate k (va + BitVec.ofNat 64 i) = .ok (pl i) (σ (i + 1)) ∧ (σ 0).Splits (pl i) ∧
    (σ i).resolve k (va + BitVec.ofNat 64 i) = .ok (pl i) (σ (i + 1))

variable {pls : Nat → Place} {σ : Nat → State} {j : Nat}

theorem PassBytes.hidden (h : PassBytes k va pls σ j) : Hidden (σ 0) (σ j) := by
  induction j with
  | zero => exact .refl _
  | succ j ih =>
    obtain ⟨ht, -, -⟩ := h j (Nat.lt_succ_self j)
    exact (ih fun i hi => h i (Nat.lt_succ_of_lt hi)).trans ((State.translate_sat _ k _).of_ok ht)

/-- The bytes that pass are parts of the access, whatever becomes of those after them. -/
theorem PassBytes.planBytes (h : PassBytes k va pls σ j) (m : Nat) :
    (σ 0).planBytes k start va (j + m) = ((σ j).planBytes k start (va + BitVec.ofNat 64 j) m).andThen fun ps w =>
      .ok (((List.range j).map fun i => ⟨pls i, 1⟩) ++ ps) w := by
  induction j generalizing m with
  | zero =>
    rw [Nat.zero_add, show va + BitVec.ofNat 64 0 = va from BitVec.add_zero va]
    cases (σ 0).planBytes k start va m <;> rfl
  | succ j ih =>
    have earlier : PassBytes k va pls σ j := fun i hi => h i (Nat.lt_succ_of_lt hi)
    obtain ⟨ht, hs, hr⟩ := h j (Nat.lt_succ_self j)
    have next : va + BitVec.ofNat 64 j + 1 = va + BitVec.ofNat 64 (j + 1) := by
      rw [BitVec.add_assoc]
      congr 1
      exact BitVec.eq_of_toNat_eq (by simp)
    rw [Nat.add_right_comm, Nat.add_assoc, ih earlier (m + 1),
      State.planBytes_of_resolve ht ((earlier.hidden.splits _).2 hs) hr, next, Res.andThen_assoc]
    congr 1
    funext ps w
    simp [List.range_succ]

/-- A split access all whose bytes pass. -/
theorem PassBytes.planBytes_all (h : PassBytes k va pls σ n) :
    (σ 0).planBytes k start va n = .ok ((List.range n).map fun i => ⟨pls i, 1⟩) (σ n) := by
  have := h.planBytes (start := start) 0
  rwa [State.planBytes, Res.ok_andThen, List.append_nil, Nat.add_zero] at this

/-- The byte after those that pass ends a split access, where it raises. -/
theorem PassBytes.planBytes_trap (h : PassBytes k va pls σ j) (hj : j < n) {c : Nat} {info : Word}
    (trap : ∀ m, (σ j).planBytes k start (va + BitVec.ofNat 64 j) (m + 1) = .trap c info t) :
    (σ 0).planBytes k start va n = .trap c info t := by
  obtain ⟨m, rfl⟩ := Nat.exists_eq_add_of_lt hj
  rw [Nat.add_assoc, h.planBytes, trap, Res.trap_andThen]

end

/-- An aligned access is one part. -/
theorem State.plan_aligned (s : State) (k : Access) (atomic : Bool) {va : Word} {n : Nat} (h : va.toNat % n = 0) :
    s.plan k atomic va n = (s.resolve k va).andThen fun pl t => .ok [⟨pl, n⟩] t := by
  rw [State.plan, if_pos h]

/-- A misaligned access that hardware does not split raises (20_memory:R191). -/
theorem State.plan_misaligned (s : State) (k : Access) {atomic : Bool} {va : Word} {n : Nat} (h : va.toNat % n ≠ 0)
    (ha : atomic = true ∨ s.me.th.mxstatus.getLsbD 15 = false) : s.plan k atomic va n = .trap k.misaligned va s := by
  rw [State.plan, if_neg h, if_pos]
  rw [Bool.or_eq_true, Bool.not_eq_true', Hart.misalignedOk, bit_eq]
  exact ha

/-- A misaligned access that hardware splits (20_memory:R190). -/
theorem State.plan_split (s : State) (k : Access) {va : Word} {n : Nat} (h : va.toNat % n ≠ 0)
    (hm : s.me.th.mxstatus.getLsbD 15 = true) : s.plan k false va n = s.planBytes k va va n := by
  rw [State.plan, if_neg h, if_neg]
  rw [Bool.false_or, Bool.not_eq_true', Bool.not_eq_false, Hart.misalignedOk, bit_eq]
  exact hm

theorem misaligned_of_mem {k : Access} {code : Nat} (h : (k, code) ∈ [(Access.load, 4), (.store, 6), (.lr, 6), (.amo, 6)]) :
    k.misaligned = code := by
  simp only [List.mem_cons, Prod.mk.injEq, List.not_mem_nil, or_false] at h
  rcases h with ⟨rfl, rfl⟩ | ⟨rfl, rfl⟩ | ⟨rfl, rfl⟩ | ⟨rfl, rfl⟩ <;> rfl

/-- Settles O49: the bytes before the one that ends the access pass, and what that byte meets first ends it. -/
theorem accessPlan : Obligations.AccessPlan := by
  unfold Obligations.AccessPlan
  intro s k code atomic va n hk
  refine ⟨fun ha pl s' hr => by rw [s.plan_aligned k atomic ha, hr, Res.ok_andThen],
    fun ha c info s' hr => by rw [s.plan_aligned k atomic ha, hr, Res.trap_andThen],
    fun hm hs => misaligned_of_mem hk ▸ s.plan_misaligned k hm hs, ?_⟩
  rintro hm rfl hs pl σ j hj rfl split byteAt pass
  have pass : PassBytes k va pl σ j := pass
  rw [State.plan_split _ k hm hs, ← misaligned_of_mem hk]
  refine ⟨?_, fun hlt => ⟨fun c info s' ht => pass.planBytes_trap hlt fun _ => State.planBytes_of_translate_trap ht,
    fun p s' ht => ⟨fun ns => ?_, fun hs c info s2 hr => ?_⟩⟩⟩
  · rintro rfl
    exact pass.planBytes_all
  · exact pass.planBytes_trap hlt fun _ => State.planBytes_of_not_splits ht (mt (pass.hidden.splits p).1 ns)
  · exact pass.planBytes_trap hlt fun _ => State.planBytes_of_resolve_trap ht ((pass.hidden.splits p).2 hs) hr

end Sys2Proof.Machine

namespace Sys2Proof.Machine

/-! ### Without translation no part of an instruction stops -/

theorem Contained.untranslated {s t : State} (h : Contained s t) (hs : s.Untranslated) : t.Untranslated where
  monitor := by rw [h.soc]; exact hs.monitor
  sysmap := by rw [h.soc]; exact hs.sysmap
  satp := by rw [h.sup]; exact hs.satp

theorem Works.untranslated {s t : State} (h : Works s t) (hs : s.Untranslated) : t.Untranslated := h.contained.untranslated hs

/-- A part of an instruction answers: it goes on or raises, with no fault and no refusal. -/
def Res.Answers {α : Type} : Res α → Prop
  | .ok _ _ | .trap _ _ _ => True
  | .fault _ | .refused _ => False

/-- What follows a part that answers answers too, in whatever state the part's work leaves. -/
theorem Res.Answers.andThen {α β : Type} {r : Res α} {s : State} {Q : α → Prop} {k : α → State → Res β} (h : r.Answers)
    (w : r.Works s Q) (hk : ∀ v t, Machine.Works s t → Q v → (k v t).Answers) : (r.andThen k).Answers := by
  cases r with
  | ok v t => exact hk v t w.1 w.2
  | trap c i t => trivial
  | fault e => exact h
  | refused e => exact h

/-- An instruction goes on: it answers a next state. -/
def Continues (r : Result) : Prop := ∃ t, r = .next t

theorem Continues.next (t : State) : Continues (.next t) := ⟨t, rfl⟩

/-- An instruction goes on where its access answers. -/
theorem Res.Answers.continues {α : Type} {r : Res α} (h : r.Answers) (k : α → State → State) :
    Continues ((r.andThen fun v t => .ok () (k v t)).finish) := by
  cases r with
  | ok v t => exact .next _
  | trap c i t => exact .next _
  | fault e => exact h.elim
  | refused e => exact h.elim

/-- Attributes that table 6.1 names are refused nowhere (20_memory:R183). -/
theorem State.checkPlace_answers (s : State) (k : Access) (va : Word) {pl : Place} (h : attrLegal pl.attr = true) :
    (s.checkPlace k va pl).Answers := by
  unfold State.checkPlace
  rw [h]
  split
  · trivial
  · split
    · next illegal => exact absurd illegal (by decide)
    · split <;> trivial

section
variable {s : State} (hs : s.Untranslated)
include hs

theorem State.Untranslated.not_translates (p : Priv) : s.me.translates p = false := by
  unfold Hart.translates
  rw [beq_false_of_ne hs.satp, Bool.and_false]

/-- Without translation the attributes are those of sysmap.h (20_memory:R184). -/
theorem State.Untranslated.translate (k : Access) (va : Word) :
    (∃ i, s.translate k va = .trap k.accessFault i s) ∨ ∃ pl, s.translate k va = .ok pl s ∧ attrLegal pl.attr = true := by
  unfold State.translate
  dsimp only
  rw [hs.not_translates, if_neg Bool.false_ne_true]
  split
  · exact .inl ⟨va, rfl⟩
  · exact .inr ⟨_, rfl, hs.sysmap _⟩

theorem State.Untranslated.resolve_answers (k : Access) (va : Word) : (s.resolve k va).Answers := by
  unfold State.resolve
  rcases hs.translate k va with ⟨i, h⟩ | ⟨pl, h, legal⟩
  · rw [h]
    trivial
  · rw [h]
    exact s.checkPlace_answers k va legal

theorem State.Untranslated.planBytes_answers (k : Access) (start va : Word) (n : Nat) : (s.planBytes k start va n).Answers := by
  induction n generalizing s va with
  | zero => trivial
  | succ n ih =>
    unfold State.planBytes
    rcases hs.translate k va with ⟨i, h⟩ | ⟨pl, h, legal⟩
    · rw [h]
      trivial
    · rw [h, Res.ok_andThen]
      split
      · trivial
      · exact (s.checkPlace_answers k va legal).andThen (s.checkPlace_works k va pl) fun q t ht _ =>
          (ih (ht.untranslated hs) (va + 1)).andThen (t.planBytes_works k start _ n) fun _ _ _ _ => trivial

theorem State.Untranslated.plan_answers (k : Access) (atomic : Bool) (va : Word) (n : Nat) : (s.plan k atomic va n).Answers := by
  unfold State.plan
  split
  · exact (hs.resolve_answers k va).andThen (s.resolve_works k va) fun _ _ _ _ => trivial
  · split
    · trivial
    · exact hs.planBytes_answers k va va n

theorem State.Untranslated.memRead_answers (va : Word) (n : Nat) : (s.memRead va n).Answers :=
  (hs.plan_answers .load false va n).andThen (s.plan_works _ _ va n) fun _ _ _ _ => trivial

theorem State.Untranslated.memWrite_answers (va : Word) (n v : Nat) : (s.memWrite va n v).Answers :=
  (hs.plan_answers .store false va n).andThen (s.plan_works _ _ va n) fun _ _ _ _ => trivial

theorem State.Untranslated.memReadPair_answers (va : Word) (n : Nat) : (s.memReadPair va n).Answers :=
  (hs.plan_answers .load false va n).andThen (s.plan_works _ _ va n) fun _ t ht _ =>
    ((ht.untranslated hs).plan_answers .load false _ n).andThen (t.plan_works _ _ _ n) fun _ _ _ _ => trivial

theorem State.Untranslated.memWritePair_answers (va : Word) (n v w : Nat) : (s.memWritePair va n v w).Answers :=
  (hs.plan_answers .store false va n).andThen (s.plan_works _ _ va n) fun _ t ht _ =>
    ((ht.untranslated hs).plan_answers .store false _ n).andThen (t.plan_works _ _ _ n) fun _ _ _ _ => trivial

/-- A SoC with an exclusive monitor has no place for atomics without one (20_memory:R218). -/
theorem State.Untranslated.not_unmonitored (ps : List Part) : ps.any s.unmonitored = false := by
  simp [State.unmonitored, hs.monitor]

theorem State.Untranslated.memAmo_answers (va : Word) (n : Nat) (f : Nat → Nat) : (s.memAmo va n f).Answers := by
  refine (hs.plan_answers .amo true va n).andThen (s.plan_works _ _ va n) fun ps t ht _ => ?_
  rw [(ht.untranslated hs).not_unmonitored]
  trivial

theorem State.Untranslated.memLr_answers (va : Word) (n : Nat) : (s.memLr va n).Answers := by
  refine (hs.plan_answers .lr true va n).andThen (s.plan_works _ _ va n) fun ps t ht _ => ?_
  rw [(ht.untranslated hs).not_unmonitored, if_neg Bool.false_ne_true]
  cases ps <;> trivial

theorem State.Untranslated.memSc_answers (va : Word) (n v : Nat) : (s.memSc va n v).Answers := by
  refine (hs.plan_answers .store true va n).andThen (s.plan_works _ _ va n) fun ps t _ _ => ?_
  cases ps <;> trivial

theorem State.Untranslated.fetchParcel_answers (va : Word) : (s.fetchParcel va).Answers := by
  refine (hs.resolve_answers .fetch va).andThen (s.resolve_works _ va) fun pl t _ _ => ?_
  split <;> trivial

theorem State.Untranslated.fetch_answers : s.fetch.Answers := by
  refine (hs.fetchParcel_answers _).andThen (s.fetchParcel_works _) fun p0 t ht _ => ?_
  split
  · exact ((ht.untranslated hs).fetchParcel_answers _).andThen (t.fetchParcel_works _) fun _ _ _ _ => trivial
  · trivial

theorem State.Untranslated.cacheLine_answers (va : Word) : (s.cacheLine va).Answers := by
  unfold State.cacheLine
  rcases hs.translate .load va with ⟨i, h⟩ | ⟨pl, h, -⟩
  · rw [h]
    trivial
  · rw [h]
    dsimp only
    split <;> trivial

/-! ### The shapes of instructions that access memory -/

theorem State.Untranslated.loadX_continues (len : Nat) (signed : Bool) (n : Nat) (rd : Reg) (va : Word) :
    Continues (s.loadX len signed n rd va) :=
  (hs.memRead_answers va n).continues fun _ _ => _

theorem State.Untranslated.storeV_continues (len n : Nat) (v va : Word) : Continues (s.storeV len n v va) :=
  (hs.memWrite_answers va n _).continues fun _ _ => _

theorem State.Untranslated.loadF_continues (len n : Nat) (fd : Reg) (va : Word) : Continues (s.loadF len n fd va) :=
  (hs.memRead_answers va n).continues fun _ _ => _

theorem State.Untranslated.storeF_continues (len n : Nat) (fs2 : Reg) (va : Word) : Continues (s.storeF len n fs2 va) :=
  (hs.memWrite_answers va n _).continues fun _ _ => _

theorem State.Untranslated.loadUpdate_continues (c : Code) (signed : Bool) (n : Nat) (after : Bool) (rd rs1 : Reg) (step : Word) :
    Continues (s.loadUpdate c signed n after rd rs1 step) := by
  unfold State.loadUpdate
  split
  · exact .next _
  · exact (hs.memRead_answers _ n).continues fun _ _ => _

theorem State.Untranslated.storeUpdate_continues (n : Nat) (after : Bool) (rs2 rs1 : Reg) (step : Word) :
    Continues (s.storeUpdate n after rs2 rs1 step) :=
  (hs.memWrite_answers _ n _).continues fun _ _ => _

theorem State.Untranslated.loadPair_continues (c : Code) (signed : Bool) (n : Nat) (rd1 rd2 rs1 : Reg) (va : Word) :
    Continues (s.loadPair c signed n rd1 rd2 rs1 va) := by
  unfold State.loadPair
  split
  · exact (hs.memReadPair_answers va n).continues fun _ _ => _
  · exact .next _

theorem State.Untranslated.storePair_continues (n : Nat) (rd1 rd2 : Reg) (va : Word) : Continues (s.storePair n rd1 rd2 va) :=
  (hs.memWritePair_answers va n _ _).continues fun _ _ => _

theorem State.Untranslated.amo_continues (n : Nat) (f : BitVec (8 * n) → BitVec (8 * n) → BitVec (8 * n)) (rd rs2 rs1 : Reg) :
    Continues (s.amo n f rd rs2 rs1) :=
  (hs.memAmo_answers _ n _).continues fun _ _ => _

theorem State.Untranslated.loadReserved_continues (n : Nat) (rd rs1 : Reg) : Continues (s.loadReserved n rd rs1) :=
  (hs.memLr_answers _ n).continues fun _ _ => _

theorem State.Untranslated.storeConditional_continues (n : Nat) (rd rs2 rs1 : Reg) : Continues (s.storeConditional n rd rs2 rs1) :=
  (hs.memSc_answers _ n _).continues fun _ _ => _

theorem State.Untranslated.onVirtualLine_continues (rs1 : Reg) (act : State → (CacheLine → Bool) → Bool → State) :
    Continues (s.onVirtualLine rs1 act) :=
  (hs.cacheLine_answers _).continues fun _ _ => _

end

/-! ### The shapes that access none, and the gates -/

section
variable {s : State} {c : Code} {k : Result}

theorem Continues.ite {p : Prop} [Decidable p] {t : State} (h : Continues k) : Continues (if p then k else .next t) := by
  split
  · exact h
  · exact .next t

theorem State.branch_continues (s : State) (taken : Word → Word → Bool) (rs1 rs2 : Reg) (off : BitVec 12) :
    Continues (s.branch taken rs1 rs2 off) := .ite (.next _)

theorem State.branchC_continues (s : State) (taken : Word → Bool) (rs1 : Reg') (off : BitVec 8) :
    Continues (s.branchC taken rs1 off) := .ite (.next _)

theorem State.extract_continues (s : State) (signed : Bool) (rd rs1 : Reg) (msb lsb : Nat) :
    Continues (s.extract signed rd rs1 msb lsb) := .ite (.next _)

theorem State.csrOp_continues (s : State) (code : Code) (csr : BitVec 12) (write : Bool) (f : Word → Word) (rd : Reg) :
    Continues (s.csrOp code csr write f rd) := by
  unfold State.csrOp
  split
  · exact .next _
  · exact .ite (.next _)

theorem Continues.fpGate (h : Continues k) : Continues (s.fpGate c k) := .ite h

theorem Continues.theadGate (h : Continues k) : Continues (s.theadGate c k) := .ite h

theorem Continues.roundGate {rm : BitVec 3} {k : Rounding → Result} (h : ∀ r, Continues (k r)) : Continues (s.roundGate c rm k) := by
  refine .fpGate ?_
  split
  · exact h _
  · exact .next _

theorem Continues.cacheGate {userOk : Bool} (h : Continues k) : Continues (s.cacheGate c userOk k) := by
  refine .theadGate ?_
  split
  · exact .next _
  · exact h

end

/-- Every instruction goes on without translation, by its shape; only those that access memory need it. -/
theorem exec_continues (i : Instr) {s : State} (hs : s.Untranslated) : Continues (exec i s) := by
  cases i with
  | lb | lbu | lh | lhu | lw | lwu | ld | cLd | cLdsp | cLw | cLwsp => exact hs.loadX_continues _ _ _ _ _
  | sb | sh | sw | sd | cSd | cSdsp | cSw | cSwsp => exact hs.storeV_continues _ _ _ _
  | beq | bne | blt | bltu => exact s.branch_continues _ _ _ _
  | bge => exact s.branch_continues (fun a b => !a.slt b) _ _ _
  | bgeu => exact s.branch_continues (fun a b => !a.ult b) _ _ _
  | cBeqz => exact s.branchC_continues (fun a => a == 0) _ _
  | cBnez => exact s.branchC_continues (fun a => a != 0) _ _
  | csrrw _ _ rs1 => exact s.csrOp_continues _ _ _ (fun _ => s.getX rs1) _
  | csrrs _ _ rs1 => exact s.csrOp_continues _ _ _ (fun t => t ||| s.getX rs1) _
  | csrrc _ _ rs1 => exact s.csrOp_continues _ _ _ (fun t => t &&& ~~~s.getX rs1) _
  | csrrwi _ _ imm => exact s.csrOp_continues _ _ _ (fun _ => imm.setWidth 64) _
  | csrrsi _ _ imm => exact s.csrOp_continues _ _ _ (fun t => t ||| imm.setWidth 64) _
  | csrrci _ _ imm => exact s.csrOp_continues _ _ _ (fun t => t &&& ~~~imm.setWidth 64) _
  | sret | mret | sfenceVma | wfi => exact .ite (.next _)
  | amoaddD | amoaddW | amoandD | amoandW | amomaxD | amomaxW | amomaxuD | amomaxuW | amominD | amominW | amominuD | amominuW
  | amoorD | amoorW | amoxorD | amoxorW => exact hs.amo_continues _ _ _ _ _
  | amoswapD => exact hs.amo_continues 8 (fun _ v => v) _ _ _
  | amoswapW => exact hs.amo_continues 4 (fun _ v => v) _ _ _
  | lrD | lrW => exact hs.loadReserved_continues _ _ _
  | scD | scW => exact hs.storeConditional_continues _ _ _ _
  | faddS | fcvtSL | fcvtSLu | fcvtSW | fcvtSWu | fdivS | fmaddS | fmsubS | fmulS | fnmaddS | fnmsubS | fsqrtS | fsubS
  | faddD | fcvtDL | fcvtDLu | fcvtDS | fcvtDW | fcvtDWu | fcvtSD | fdivD | fmaddD | fmsubD | fmulD | fnmaddD | fnmsubD
  | fsqrtD | fsubD | faddH | fcvtDH | fcvtHD | fcvtHL | fcvtHLu | fcvtHS | fcvtHW | fcvtHWu | fcvtSH | fdivH | fmaddH
  | fmsubH | fmulH | fnmaddH | fnmsubH | fsqrtH | fsubH | fcvtLS | fcvtLuS | fcvtWS | fcvtWuS | fcvtLD | fcvtLuD | fcvtWD
  | fcvtWuD | fcvtLH | fcvtLuH | fcvtWH | fcvtWuH => exact .roundGate fun _ => .next _
  | fclassS | feqS | fleS | fltS | fmvXW | fclassD | feqD | fleD | fltD | fmvXD | fclassH | feqH | fleH | fltH | fmvXH
  | fmaxS | fminS | fmvWX | fsgnjS | fsgnjnS | fsgnjxS | fmaxD | fminD | fmvDX | fsgnjD | fsgnjnD | fsgnjxD | fmaxH | fminH
  | fmvHX | fsgnjH | fsgnjnH | fsgnjxH => exact .fpGate (.next _)
  | flw | fld | cFld | cFldsp | flh => exact .fpGate (hs.loadF_continues _ _ _ _)
  | fsw | fsd | cFsd | cFsdsp | fsh => exact .fpGate (hs.storeF_continues _ _ _ _)
  | addsl | mula | mulah | mulaw | muls | mulsh | mulsw | mveqz | mvnez | srri | srriw | ff0 | ff1 | rev | revw | tst | tstnbz =>
    exact .theadGate (.next _)
  | ext | extu => exact .theadGate (s.extract_continues _ _ _ _ _)
  | flrd | flrw | flurd | flurw => exact .theadGate (.fpGate (hs.loadF_continues _ _ _ _))
  | fsrd | fsrw | fsurd | fsurw => exact .theadGate (.fpGate (hs.storeF_continues _ _ _ _))
  | lbia | lbib | lbuia | lbuib | ldia | ldib | lhia | lhib | lhuia | lhuib | lwia | lwib | lwuia | lwuib =>
    exact .theadGate (hs.loadUpdate_continues _ _ _ _ _ _ _)
  | ldd | lwd | lwud => exact .theadGate (hs.loadPair_continues _ _ _ _ _ _ _)
  | lrb | lrbu | lrd | lrh | lrhu | lrw | lrwu | lurb | lurbu | lurd | lurh | lurhu | lurw | lurwu =>
    exact .theadGate (hs.loadX_continues _ _ _ _ _)
  | sbia | sbib | sdia | sdib | shia | shib | swia | swib => exact .theadGate (hs.storeUpdate_continues _ _ _ _ _)
  | sdd | swd => exact .theadGate (hs.storePair_continues _ _ _ _)
  | srb | srd | srh | srw | surb | surd | surh | surw => exact .theadGate (hs.storeV_continues _ _ _ _)
  | dcacheCiva => exact .cacheGate (hs.onVirtualLine_continues _ State.flushVa)
  | dcacheCva => exact .cacheGate (hs.onVirtualLine_continues _ State.cleanVa)
  | dcacheCval1 => exact .cacheGate (hs.onVirtualLine_continues _ State.cleanVaL1)
  | dcacheIva => exact .cacheGate (hs.onVirtualLine_continues _ State.invalVa)
  | icacheIva => exact .cacheGate (hs.onVirtualLine_continues _ _)
  | dcacheCall | dcacheCsw | dcacheCiall | dcacheCisw | dcacheCipa | dcacheCpa | l2cacheCall | dcacheCpal1 | dcacheIpa
  | dcacheIsw | dcacheIall | icacheIall | icacheIalls | icacheIpa | l2cacheCiall | l2cacheIall | sync | syncS | syncI | syncIs =>
    exact .cacheGate (.next _)
  | sfenceVmas =>
    refine .cacheGate ?_
    split <;> exact .next _
  | _ => exact .next _

/-! ### The turn of the running hart -/

theorem State.runInstr_continues {s : State} (hs : s.Untranslated) : Continues s.runInstr := by
  have answers := hs.fetch_answers
  have works := s.fetch_works
  unfold State.runInstr
  cases h : s.fetch with
  | ok code t =>
    rw [h] at works
    dsimp only
    split
    · exact exec_continues _ (works.1.untranslated hs)
    · exact .next _
  | trap c info t => exact .next _
  | fault r =>
    rw [h] at answers
    exact answers.elim
  | refused r =>
    rw [h] at answers
    exact answers.elim

theorem State.hartStep_continues {s : State} (hs : s.Untranslated) (sample : Bool) : Continues (s.hartStep sample) := by
  unfold State.hartStep
  split
  · exact .next _
  · split
    · exact .next _
    · exact State.runInstr_continues ⟨hs.monitor, hs.sysmap, hs.satp⟩

/-- Settles O46: the fetch answers, the decoder's refusals raise, and every instruction goes on. -/
theorem untranslatedNeverStops : Obligations.UntranslatedNeverStops := by
  unfold Obligations.UntranslatedNeverStops
  intro s hs
  have rest : ∀ is, ({ s with inputs := is } : State).Untranslated := fun _ => ⟨hs.monitor, hs.sysmap, hs.satp⟩
  unfold step
  split
  · exact State.hartStep_continues hs true
  · exact State.hartStep_continues (rest _) true
  · exact State.hartStep_continues (rest _) false
  · exact ⟨_, rfl⟩

end Sys2Proof.Machine

namespace Sys2Proof.Machine

/-! ### The fetch unit -/

/-- The byte that the statements speak of is the one the fetch unit reads. -/
theorem State.codeByte_eq (s : State) (attr : BitVec 5) (va : Word) (a : Nat) : s.codeByte attr va a = s.codeByteAt attr va a := by
  have line : s.me.codeLine va a =
      (s.me.icache.find? fun e => e.set == va.toNat / 64 % 512 && e.line.line == a / 64).map (·.line) := rfl
  have through : s.throughIcache attr = (attr.getLsbD 3 && s.me.th.mhcr.getLsbD 0) := Bool.and_comm _ _
  have below : s.fetchByte attr a =
      if attr.getLsbD 3 then
        (if !s.me.th.mxstatus.getLsbD 19 then s.sees attr true a else (byteIn s.l2 a).getD (Memory.read s.mem a))
      else ((if !s.me.th.mxstatus.getLsbD 19 then dirtyByte s.me.l1d a else none).or (dirtyByte s.l2 a)).getD (Memory.read s.mem a) := by
    unfold State.fetchByte cacheable
    rw [bit_eq, mxstatusINSDE]
    cases attr.getLsbD 3 <;> cases s.me.th.mxstatus.getLsbD 19 <;> rfl
  unfold State.codeByte State.codeByteAt
  rw [line, through, below]
  dsimp only
  generalize s.me.icache.find? _ = held
  cases attr.getLsbD 3 && s.me.th.mhcr.getLsbD 0
  · rfl
  · cases held <;> rfl

theorem parcel_eq_append (lo hi : Byte) : parcel lo hi = hi ++ lo :=
  BitVec.eq_of_toNat_eq (by simp only [parcel, BitVec.toNat_ofNat, append_toNat]; omega)

theorem joinParcels_eq_append (p0 p1 : BitVec 16) : joinParcels p0 p1 = p1 ++ p0 :=
  BitVec.eq_of_toNat_eq (by simp only [joinParcels, BitVec.toNat_ofNat, append_toNat]; omega)

/-- What the statement calls delivered is what the fetch unit gives. -/
theorem State.delivers_iff (s : State) (j : Nat) (p : BitVec 16) : s.Delivers j p ↔
    p = s.fetchedParcel (s.soc.attrOf (s.codeAddress j)) (s.me.pc + BitVec.ofNat 64 j) (s.codeAddress j).toNat := by
  unfold State.Delivers State.fetchedParcel State.parcelAt
  simp only [State.codeByte_eq, parcel_eq_append]
  cases s.me.fetched.find? fun f => f.addr == (s.codeAddress j).toNat <;> rfl

/-! ### What a fetch leaves in the I-cache -/

/-- Room made in one set of the I-cache leaves the lines of the others. -/
theorem find?_codeRoom (c : List CodeLine) {set set' : Nat} (h : set' ≠ set) (n : Nat) :
    (codeRoom c set).find? (fun e => e.at set' n) = c.find? fun e => e.at set' n := by
  unfold codeRoom
  split
  · rfl
  · rcases List.exists_or_eq_self_of_eraseP (fun e => e.set == set) c.reverse with same | ⟨e, l1, l2, -, he, hc, herase⟩
    · rw [same, List.reverse_reverse]
    · have gone : e.at set' n = false := by
        simp [CodeLine.at, show e.set = set by simpa using he, h.symm]
      rw [herase, ← List.reverse_reverse c, hc]
      simp [gone]

theorem State.codeByteAt_of_line {s : State} {attr : BitVec 5} {va : Word} {a : Nat} {l : CacheLine} (through : s.throughIcache attr = true)
    (h : s.me.codeLine va a = some l) : s.codeByteAt attr va a = l.byteAt a := by
  rw [State.codeByteAt, if_pos through, h]

theorem State.codeByteAt_of_none {s : State} {attr : BitVec 5} {va : Word} {a : Nat} (h : s.me.codeLine va a = none) :
    s.codeByteAt attr va a = s.fetchByte attr a := by
  rw [State.codeByteAt, h, ite_self]

/-- A line brought into the I-cache changes no byte of another set, nor those of its own line. -/
theorem State.codeByteAt_fillIcache (s : State) {attr attr' : BitVec 5} {va va' : Word} {a q : Nat}
    (h : codeSet va' ≠ codeSet va ∨ (codeSet va' = codeSet va ∧ lineOf q = lineOf a ∧ attr' = attr)) :
    (s.fillIcache attr va a).codeByteAt attr' va' q = s.codeByteAt attr' va' q := by
  unfold State.fillIcache
  split
  · next miss =>
    obtain ⟨through, none⟩ : s.throughIcache attr = true ∧ s.me.codeLine va a = none := by simpa using miss
    rcases h with other | ⟨set, line, rfl⟩
    · have kept : Hart.codeLine { s.me with icache :=
          ⟨codeSet va, CacheLine.clean (s.fetchByte attr) (lineOf a) false⟩ :: codeRoom s.me.icache (codeSet va) } va' q =
          s.me.codeLine va' q := by
        unfold Hart.codeLine
        rw [List.find?_cons_of_neg (by simp [CodeLine.at, other.symm]), find?_codeRoom _ other]
      unfold State.codeByteAt
      rw [kept]
      rfl
    · have brought : Hart.codeLine { s.me with icache :=
          ⟨codeSet va, CacheLine.clean (s.fetchByte attr') (lineOf a) false⟩ :: codeRoom s.me.icache (codeSet va) } va' q =
          some (CacheLine.clean (s.fetchByte attr') (lineOf a) false) := by
        unfold Hart.codeLine
        rw [List.find?_cons_of_pos (by simp [CodeLine.at, CacheLine.clean, set, line])]
        rfl
      have missed : s.me.codeLine va' q = .none := by
        unfold Hart.codeLine at none ⊢
        rw [set, line, none]
      rw [State.codeByteAt_of_none missed]
      refine (State.codeByteAt_of_line ?_ brought).trans (byteAt_clean line)
      exact through
  · rfl

/-- A parcel at an even address lies on one line. -/
theorem lineOf_succ {a : Nat} (h : a % 2 = 0) : lineOf (a + 1) = lineOf a := by
  unfold lineOf
  omega

/-- Attributes are those of a page (20_memory:R186). -/
theorem Soc.attrOf_of_line (c : Soc) {pa pa' : BitVec 40} (h : lineOf pa.toNat = lineOf pa'.toNat) : c.attrOf pa = c.attrOf pa' := by
  unfold lineOf at h
  unfold Soc.attrOf
  rw [show pa.toNat / 4096 = pa'.toNat / 4096 by omega]

theorem toNat_of_even {va : Word} (h : va.getLsbD 0 = false) : va.toNat % 2 = 0 := by
  rw [← BitVec.testBit_toNat, Nat.testBit_zero] at h
  simpa using h

/-- The parcel of an even address and the next one lie on one line, or go to different sets of the I-cache. -/
theorem codeSet_next {va : Word} (h : va.getLsbD 0 = false) :
    codeSet (va + 2) ≠ codeSet va ∨
      (codeSet (va + 2) = codeSet va ∧ lineOf ((va + 2).setWidth 40).toNat = lineOf (va.setWidth 40).toNat) := by
  have even := toNat_of_even h
  have lt := va.isLt
  have next : (va + 2).toNat = (va.toNat + 2) % 2 ^ 64 := BitVec.toNat_add va 2
  unfold codeSet field lineOf
  simp only [BitVec.toNat_setWidth, next]
  omega

theorem even_next_address {va : Word} (h : va.getLsbD 0 = false) : ((va + 2).setWidth 40).toNat % 2 = 0 := by
  have even := toNat_of_even h
  have next : (va + 2).toNat = (va.toNat + 2) % 2 ^ 64 := BitVec.toNat_add va 2
  rw [BitVec.toNat_setWidth, next]
  omega

/-- A parcel that is fetched next is delivered as it was before. -/
theorem State.fetchedParcel_afterFetch (s : State) {va : Word} (h : va.getLsbD 0 = false) :
    let a := va.setWidth 40
    let b := (va + 2).setWidth 40
    (s.afterFetch (s.soc.attrOf a) va a.toNat).fetchedParcel (s.soc.attrOf b) (va + 2) b.toNat =
      s.fetchedParcel (s.soc.attrOf b) (va + 2) b.toNat := by
  intro a b
  unfold State.afterFetch
  split
  · rfl
  · have fetched : (s.fillIcache (s.soc.attrOf a) va a.toNat).me.fetched = s.me.fetched := by
      rw [State.fillIcache_fetches s (s.soc.attrOf a) va a.toNat]
    have same : ∀ q, lineOf q = lineOf b.toNat →
        (s.fillIcache (s.soc.attrOf a) va a.toNat).codeByteAt (s.soc.attrOf b) (va + 2) q = s.codeByteAt (s.soc.attrOf b) (va + 2) q :=
      fun q hq => s.codeByteAt_fillIcache <| (codeSet_next h).imp_right fun ⟨set, line⟩ =>
        ⟨set, hq.trans line, s.soc.attrOf_of_line line⟩
    unfold State.fetchedParcel State.parcelAt
    rw [fetched, same _ rfl, same _ (lineOf_succ (even_next_address h))]

/-! ### Fetching without translation -/

section
variable {s : State} {va : Word}

/-- An address that can be fetched from is below the physical ones' end, or the SoC ignores the bits above (log 8). -/
def Soc.Low (c : Soc) (va : Word) : Prop := c.highAddrFault = false ∨ va.toNat < 2 ^ 40

/-- A parcel of ordinary memory without translation (20_memory:R189). -/
theorem State.fetchParcel_low (ht : s.me.translates s.me.priv = false) (low : s.soc.Low va)
    (pmp : s.me.pmp.allows s.me.priv 4 (va.setWidth 40) = true) (legal : attrLegal (s.soc.attrOf (va.setWidth 40)) = true)
    (window : s.soc.inWindow (va.setWidth 40) = false) (bus : s.soc.busError (va.setWidth 40) = false) :
    s.fetchParcel va = .ok (s.fetchedParcel (s.soc.attrOf (va.setWidth 40)) va (va.setWidth 40).toNat)
      (s.afterFetch (s.soc.attrOf (va.setWidth 40)) va (va.setWidth 40).toNat) := by
  have translate : s.translate .fetch va = .ok ⟨va.setWidth 40, s.soc.attrOf (va.setWidth 40), s.me.priv⟩ s := by
    have inside : (s.soc.highAddrFault && va.toNat / 2 ^ 40 != 0) = false := by
      rcases low with off | below
      · rw [off, Bool.false_and]
      · rw [Nat.div_eq_of_lt below, bne_self_eq_false, Bool.and_false]
    show (if s.me.translates s.me.priv then _ else _) = _
    rw [ht, if_neg Bool.false_ne_true, inside, if_neg Bool.false_ne_true]
    rfl
  have check : s.checkPlace .fetch va ⟨va.setWidth 40, s.soc.attrOf (va.setWidth 40), s.me.priv⟩ =
      .ok ⟨va.setWidth 40, s.soc.attrOf (va.setWidth 40), s.me.priv⟩ s := by
    unfold State.checkPlace
    rw [show s.me.pmp.allows s.me.priv Access.fetch.pmpNeed (va.setWidth 40) = true from pmp, legal, bus, Bool.and_false]
    rfl
  rw [State.fetchParcel, State.resolve, translate, Res.ok_andThen, check, Res.ok_andThen, window, if_neg Bool.false_ne_true]

/-- A parcel above the physical addresses (20_memory:R193, 92_eei_decisions:D3). -/
theorem State.fetchParcel_high (ht : s.me.translates s.me.priv = false) (high : ¬ s.soc.Low va) : s.fetchParcel va = .trap 1 va s := by
  obtain ⟨on, above⟩ : s.soc.highAddrFault = true ∧ 2 ^ 40 ≤ va.toNat := by
    unfold Soc.Low at high
    rw [not_or, Bool.not_eq_false, Nat.not_lt] at high
    exact high
  have translate : s.translate .fetch va = .trap 1 va s := by
    show (if s.me.translates s.me.priv then _ else _) = _
    rw [ht, if_neg Bool.false_ne_true, on, Bool.true_and, if_pos]
    · rfl
    · exact bne_iff_ne.2 (by omega)
  rw [State.fetchParcel, State.resolve, translate, Res.trap_andThen, Res.trap_andThen]

/-- The parcel at `pc + j`, in a state that earlier fetches leave and that still delivers it. -/
theorem State.fetchParcel_delivers {t : State} {j : Nat} (ht : s.me.translates s.me.priv = false) (hva : s.me.pc + BitVec.ofNat 64 j = va)
    (low : s.soc.Low va) (h : s.Fetchable j) {p : BitVec 16} (hp : s.Delivers j p) (frame : Fetches s t)
    (same : t.fetchedParcel (s.soc.attrOf (va.setWidth 40)) va (va.setWidth 40).toNat =
      s.fetchedParcel (s.soc.attrOf (va.setWidth 40)) va (va.setWidth 40).toNat) :
    t.fetchParcel va = .ok p (t.afterFetch (s.soc.attrOf (va.setWidth 40)) va (va.setWidth 40).toNat) := by
  subst hva
  obtain ⟨pmp, legal, window, bus⟩ := h
  have soc : t.soc = s.soc := by rw [frame]
  have delivered : p = t.fetchedParcel (t.soc.attrOf (s.codeAddress j)) (s.me.pc + BitVec.ofNat 64 j) (s.codeAddress j).toNat := by
    rw [soc]
    exact ((s.delivers_iff j p).1 hp).trans same.symm
  rw [delivered, ← soc]
  rw [← soc] at low legal window bus
  refine State.fetchParcel_low ?_ low ?_ legal window bus
  · rwa [frame]
  · rwa [frame]

/-- An instruction of one parcel (30_encoding:R280). -/
theorem State.fetch_half {t : State} {p0 : BitVec 16} (h : s.fetchParcel s.me.pc = .ok p0 t) (hp : p0.toNat % 4 ≠ 3) :
    s.fetch = .ok (.half p0) t := by
  rw [State.fetch, h, Res.ok_andThen, if_neg (by simpa [isFull] using hp)]

/-- An instruction of two parcels needs the second (30_encoding:R280). -/
theorem State.fetch_full {t : State} {p0 : BitVec 16} (h : s.fetchParcel s.me.pc = .ok p0 t) (hp : p0.toNat % 4 = 3)
    (frame : Fetches s t) :
    s.fetch = (t.fetchParcel (s.me.pc + 2)).andThen fun p1 u => .ok (.full (p1 ++ p0)) u := by
  have pc : t.me.pc = s.me.pc := by rw [frame]
  rw [State.fetch, h, Res.ok_andThen, if_pos (by simpa [isFull] using hp), pc]
  simp only [joinParcels_eq_append]

end

/-- Settles O40: the first parcel's fetch brings no more than its line into the I-cache, so the second is delivered as before it. -/
theorem fetchesFromMemory : Obligations.FetchesFromMemory := by
  unfold Obligations.FetchesFromMemory
  intro s even ht low
  refine ⟨fun low0 fetchable0 p0 delivers0 => ?_, fun high => by rw [State.fetch, State.fetchParcel_high ht high, Res.trap_andThen]⟩
  have first := State.fetchParcel_delivers ht (BitVec.add_zero s.me.pc) low0 fetchable0 delivers0 (.refl s) rfl
  have frame := s.afterFetch_fetches (s.soc.attrOf (s.me.pc.setWidth 40)) s.me.pc (s.me.pc.setWidth 40).toNat
  refine ⟨fun half => ⟨_, State.fetch_half first half, frame⟩,
    fun full => ⟨fun low1 fetchable1 p1 delivers1 => ?_, fun high1 => ?_⟩⟩
  · have second := State.fetchParcel_delivers ht (va := s.me.pc + 2) rfl low1 fetchable1 delivers1 frame (s.fetchedParcel_afterFetch even)
    exact ⟨_, by rw [State.fetch_full first full frame, second, Res.ok_andThen], frame.trans (State.afterFetch_fetches _ _ _ _)⟩
  · refine ⟨_, ?_, frame⟩
    rw [State.fetch_full first full frame, State.fetchParcel_high _ _, Res.trap_andThen]
    · rwa [frame]
    · rwa [frame]

end Sys2Proof.Machine

namespace Sys2Proof.Machine

/-! ### Operations on one line of the D-caches -/

/-- An operation on a cache changes line `n` alone. -/
structure OnOneLine (n : Nat) (f : List CacheLine → List CacheLine) : Prop where
  same    : ∀ m, m ≠ n → ∀ c, SameIn m c (f c)
  without : ∀ m, m ≠ n → ∀ c, f (c.filter fun l => !onLine m l) = (f c).filter fun l => !onLine m l

theorem OnOneLine.id (n : Nat) : OnOneLine n fun c => c := ⟨fun _ _ _ => rfl, fun _ _ _ => rfl⟩

theorem OnOneLine.filter {n : Nat} {p : CacheLine → Bool} (h : ∀ l, l.line ≠ n → p l = true) : OnOneLine n fun c => c.filter p where
  same _ hm _ := SameIn.filter fun l _ hl => h l (hl ▸ hm)
  without _ _ _ := List.filter_comm ..

theorem OnOneLine.cleaned (n : Nat) : OnOneLine n (cleaned (onLine n)) where
  same m hm _ := SameIn.cleaned fun l hl => by simpa [onLine, hl] using hm
  without m _ _ := by
    unfold Machine.cleaned
    rw [List.filter_map]
    congr 1
    refine List.filter_congr fun l _ => ?_
    show _ = !onLine m (if onLine n l && l.dirty then { l with state := .clean } else l)
    split <;> rfl

/-- The state with operations made on its D-caches, and another L2. -/
def State.withLines (s : State) (f g : List CacheLine → List CacheLine) (l2 : List CacheLine) : State :=
  { s with me := { s.me with l1d := f s.me.l1d }, other := { s.other with l1d := g s.other.l1d }, l2 := l2 }

/-- What the L2 holds of a line that leaves it, the D-caches' dirty copies written back. -/
def State.gathered (s : State) (m : Nat) : List CacheLine :=
  writeBack (s.other.l1d.filter (onLine m)) (writeBack (s.me.l1d.filter (onLine m)) s.l2)

/-- A line leaves the L2 and the D-caches. -/
theorem State.evictL2_eq (s : State) (m : Nat) : s.evictL2 (onLine m) =
    { s with me := { s.me with l1d := s.me.l1d.filter fun l => !onLine m l }
             other := { s.other with l1d := s.other.l1d.filter fun l => !onLine m l }
             mem := spill ((s.gathered m).filter (onLine m)) s.mem, l2 := (s.gathered m).filter fun l => !onLine m l } := by
  have h := without_cleaned (byPlace_onLine m).steady
  simp only [← h]
  rfl

section
variable (s : State) {n : Nat} {f g : List CacheLine → List CacheLine}

/-- A line that leaves does so alike whatever is done to another line. -/
theorem State.evictL2_withLines (hf : OnOneLine n f) (hg : OnOneLine n g) {m : Nat} (hm : m ≠ n) :
    (s.withLines f g s.l2).evictL2 (onLine m) = (s.evictL2 (onLine m)).withLines f g (s.evictL2 (onLine m)).l2 := by
  have gathered : (s.withLines f g s.l2).gathered m = s.gathered m := by
    unfold State.gathered State.withLines
    dsimp only
    rw [show (f s.me.l1d).filter (onLine m) = _ from hf.same m hm _, show (g s.other.l1d).filter (onLine m) = _ from hg.same m hm _]
  rw [State.evictL2_eq, State.evictL2_eq, gathered]
  unfold State.withLines
  dsimp only
  rw [hf.without m hm, hg.without m hm]

theorem State.makeRoom_withLines (hf : OnOneLine n f) (hg : OnOneLine n g) (hn : holds s.l2 n = false) :
    (s.withLines f g s.l2).makeRoom n = (s.makeRoom n).withLines f g (s.makeRoom n).l2 := by
  have sameL2 : (s.withLines f g s.l2).l2 = s.l2 := rfl
  have sameDraws : (s.withLines f g s.l2).draws = s.draws := rfl
  unfold State.makeRoom
  rw [sameL2, sameDraws]
  cases roomFor s.l2 n
  case true => rfl
  case false =>
    cases hv : l2Victim s.l2 n (Config.freeChoice s.draws) with
    | none => rfl
    | some v =>
      have other : v.line ≠ n := holds_eq_false.1 hn v (List.mem_filter.1 (List.mem_of_getElem? hv)).1
      exact s.drawn.evictL2_withLines hf hg other

end

/-- A full set loses a line, and nothing else changes but the free value used; one with room keeps its lines. -/
theorem State.makeRoom_makesRoom (s : State) {a : Nat} {full : Prop}
    (h : full ↔ 16 ≤ (s.l2.filter fun l => l.line % 1024 == a / 64 % 1024).length) : MakesRoom s (s.makeRoom (lineOf a)) a full := by
  have room : roomFor s.l2 (lineOf a) = true ↔ ¬ full := by
    rw [h, Nat.not_le]
    exact decide_eq_true_iff
  refine ⟨fun hr => ?_, fun hr => ?_⟩
  · rw [State.makeRoom, if_pos (room.2 hr)]
  · have len := h.1 hr
    obtain ⟨v, hv⟩ : ∃ v, l2Victim s.l2 (lineOf a) (Config.freeChoice s.draws) = some v :=
      ⟨_, List.getElem?_eq_getElem (Nat.mod_lt _ (Nat.lt_of_lt_of_le (by decide) len))⟩
    obtain ⟨mem, set⟩ := List.mem_filter.1 (List.mem_of_getElem? hv)
    have e : s.makeRoom (lineOf a) = s.drawn.evictL2 (onLine v.line) := by
      rw [State.makeRoom, if_neg (fun r => room.1 r hr), hv]
    rw [e]
    exact ⟨rfl, v, mem, eq_of_beq set, (s.drawn.evictL2_spec (byLine_onLine v.line)).2⟩

/-! ### What a snoop leaves in the L2 -/

theorem dirtyByte_eq_none {c : List CacheLine} {a : Nat} : dirtyByte c a = none ↔ ∀ l ∈ c, l.line = lineOf a → l.dirty = false := by
  unfold dirtyByte
  rw [Option.map_eq_none_iff, List.find?_eq_none]
  simp

/-- A write-back of clean lines alone. -/
theorem writeBack_of_clean {ls c : List CacheLine} (h : ∀ l ∈ ls, l.dirty = false) : writeBack ls c = c := by
  induction ls with
  | nil => rfl
  | cons l rest ih =>
    rw [writeBack, h l List.mem_cons_self, if_neg Bool.false_ne_true]
    exact ih fun m hm => h m (List.mem_cons_of_mem _ hm)

/-- The L2 after a snoop of the other core for line `n`, where the access snoops it. -/
def State.snoopedL2 (s : State) (attr : BitVec 5) (n : Nat) : List CacheLine :=
  if s.snooped attr then writeBack (s.other.l1d.filter (onLine n)) s.l2 else s.l2

/-- An access finds the line of `a` below its own D-cache: in the L2, or by a snoop in a dirty line (20_memory:R219). -/
def State.Found (s : State) (attr : BitVec 5) (a : Nat) : Prop :=
  byteIn s.l2 a ≠ none ∨ (s.snooped attr = true ∧ dirtyByte s.other.l1d a ≠ none)

/-- The L2 takes a line on a miss (12_csr_extended:R137). -/
def State.Refills (s : State) : Prop := s.mccr2.getLsbD 0 = true ∧ (s.me.dcacheOn = true ∨ s.me.th.mhcr.getLsbD 0 = true)

section
variable (s : State) (attr : BitVec 5) {a q : Nat}

theorem State.byteIn_snoopedL2 (hq : lineOf q = lineOf a) : byteIn (s.snoopedL2 attr (lineOf a)) q =
    (if s.snooped attr then dirtyByte s.other.l1d q else none).or (byteIn s.l2 q) := by
  unfold State.snoopedL2
  split
  · rw [byteIn_writeBack, dirtyByte_filter_onLine, if_pos hq]
  · rfl

/-- What the L2 holds then is what an access finds below the own D-cache. -/
theorem State.below_snoopedL2 (hq : lineOf q = lineOf a) :
    (byteIn (s.snoopedL2 attr (lineOf a)) q).getD (Memory.read s.mem q) = s.below attr q := by
  rw [s.byteIn_snoopedL2 attr hq]
  unfold State.below State.l2Byte
  cases (if s.snooped attr then dirtyByte s.other.l1d q else none) <;> rfl

theorem State.holds_snoopedL2 : holds (s.snoopedL2 attr (lineOf a)) (lineOf a) = true ↔ s.Found attr a := by
  rw [← byteIn_isSome, s.byteIn_snoopedL2 attr rfl, Option.isSome_or, Bool.or_eq_true, Option.isSome_iff_ne_none,
    Option.isSome_iff_ne_none, or_comm]
  unfold State.Found
  cases s.snooped attr <;> simp

variable {s attr}

theorem State.not_found_holds (h : ¬ s.Found attr a) : holds s.l2 (lineOf a) = false := by
  rw [← byteIn_isSome, ← Bool.not_eq_true, Option.isSome_iff_ne_none]
  exact fun e => h (.inl e)

/-- A snoop that finds nothing dirty leaves the L2 as it is. -/
theorem State.snoopedL2_of_not_found (h : ¬ s.Found attr a) : s.snoopedL2 attr (lineOf a) = s.l2 := by
  unfold State.snoopedL2
  split
  · next hs =>
    have clean : dirtyByte s.other.l1d a = none := by
      by_contra e
      exact h (.inr ⟨hs, e⟩)
    refine writeBack_of_clean fun l hl => ?_
    obtain ⟨mem, line⟩ := List.mem_filter.1 hl
    exact dirtyByte_eq_none.1 clean l mem (eq_of_beq line)
  · rfl

theorem State.l2Takes_iff {u : State} (l2 : u.l2 = s.snoopedL2 attr (lineOf a)) (mccr2 : u.mccr2 = s.mccr2) (th : u.me.th = s.me.th) :
    u.l2Takes (lineOf a) = true ↔ s.Found attr a ∨ s.Refills := by
  unfold State.l2Takes Hart.cachesOn Hart.dcacheOn State.Refills
  rw [l2, mccr2, th, Bool.or_eq_true, s.holds_snoopedL2 attr, Bool.and_eq_true, Bool.or_eq_true]
  rfl

end

/-! ### A line comes in -/

/-- The state in which line `n` comes into the L2, or stands there already. -/
def State.withRoom (s : State) (n : Nat) : State := if holds s.l2 n then s else s.makeRoom n

section
variable (s : State) {n q : Nat}

theorem State.fillL2_eq (n : Nat) : s.fillL2 n = { s.withRoom n with l2 := (s.fillL2 n).l2 } := by
  unfold State.fillL2 State.withRoom
  split <;> rfl

theorem State.withRoom_sameLine (n : Nat) : LineFrame s (s.withRoom n) ∧ s.SameLine (s.withRoom n) n := by
  unfold State.withRoom
  split
  · exact ⟨rfl, .refl s n⟩
  · next h =>
    obtain ⟨frame, same, -⟩ := s.makeRoom_spec (Bool.eq_false_iff.2 h)
    exact ⟨frame, same⟩

/-- The L2 holds the bytes that were below the L1 caches. -/
theorem State.byteIn_fillL2 (hq : lineOf q = n) : byteIn (s.fillL2 n).l2 q = some (s.l2Byte q) := by
  obtain ⟨-, -, -, bytes, held, -⟩ := s.fillL2_spec n
  obtain ⟨b, hb⟩ : ∃ b, byteIn (s.fillL2 n).l2 q = some b := by
    rw [← Option.isSome_iff_exists, byteIn_isSome, hq]
    exact held
  rw [hb, ← bytes q hq, State.l2Byte, hb]
  rfl

/-- The line in whose place line `n` comes has left the own D-cache. -/
def State.displaced (s : State) (n : Nat) : State := s.flushMine fun l => l.line % 512 == n % 512 && l.way == wayFor s.me.l1d n

theorem State.displaced_sameLine (h : holds s.me.l1d n = false) : s.SameLine (s.displaced n) n := by
  have place : ByPlace fun l => l.line % 512 == n % 512 && l.way == wayFor s.me.l1d n := fun l m h1 h2 => by simp [h1, h2]
  obtain ⟨-, -, -, off, -⟩ := s.flushMine_lines place.steady
  exact off n fun l hl e => absurd e (holds_eq_false.1 h l hl)

variable (h : holds s.me.l1d n = false)
include h

theorem State.fill_of_miss : s.fill n = ((s.fillL2 n).displaced n).setMyL1
    (CacheLine.clean ((s.fillL2 n).displaced n).l2Byte n (wayFor (s.fillL2 n).me.l1d n) :: ((s.fillL2 n).displaced n).me.l1d) := by
  unfold State.fill
  rw [if_neg (by rw [h]; exact Bool.false_ne_true)]
  rfl

/-- What a line that comes into the own D-cache changes: the lines there and in the L2. -/
theorem State.fill_eq : s.fill n =
    { s.withRoom n with me := { (s.withRoom n).me with l1d := (s.fill n).me.l1d }, l2 := (s.fill n).l2 } := by
  rw [s.fill_of_miss h, s.fillL2_eq n]
  rfl

/-- The own D-cache holds the bytes then, and so does the L2. -/
theorem State.byteIn_fill (hq : lineOf q = n) :
    byteIn (s.fill n).me.l1d q = some (s.l2Byte q) ∧ byteIn (s.fill n).l2 q = some (s.l2Byte q) := by
  obtain ⟨-, mine, -, bytes, -⟩ := s.fillL2_spec n
  have same := (s.fillL2 n).displaced_sameLine (mine.holds.trans h)
  rw [s.fill_of_miss h]
  constructor
  · have first : (CacheLine.clean ((s.fillL2 n).displaced n).l2Byte n (wayFor (s.fillL2 n).me.l1d n)).line = lineOf q := hq.symm
    exact (byteIn_cons _ _ _).trans ((if_pos first).trans (by rw [byteAt_clean hq, same.l2Byte hq, bytes q hq]))
  · exact (same.l2.byteIn hq).trans (s.byteIn_fillL2 hq)

end

/-! ### Room for a line -/

/-- The line of `a` is to come into a full set of the L2. -/
def State.FullFor (s : State) (attr : BitVec 5) (a : Nat) : Prop :=
  ¬ s.Found attr a ∧ s.Refills ∧ 16 ≤ (s.l2.filter fun l => l.line % 1024 == a / 64 % 1024).length

theorem MakesRoom.congr {s u : State} {a : Nat} {full full' : Prop} (h : MakesRoom s u a full) (e : full' ↔ full) : MakesRoom s u a full' :=
  ⟨fun hn => h.1 (mt e.2 hn), fun hf => h.2 (e.1 hf)⟩

theorem MakesRoom.none {s : State} {a : Nat} {full : Prop} (h : ¬ full) : MakesRoom s s a full := ⟨fun _ => rfl, fun hf => absurd hf h⟩

/-- Room is made alike before and after the snoop, and before and after lines of `a` leave the D-caches. -/
theorem State.exists_room (s : State) (attr : BitVec 5) (a : Nat) {f g : List CacheLine → List CacheLine} (hf : OnOneLine (lineOf a) f)
    (hg : OnOneLine (lineOf a) g) :
    ∃ u, MakesRoom s u a (s.FullFor attr a) ∧ LineFrame s u ∧ s.SameLine u (lineOf a) ∧ (s.Found attr a ∨ ¬ s.Refills → u = s) ∧
      (s.Found attr a ∨ s.Refills → ∃ l2, (s.withLines f g (s.snoopedL2 attr (lineOf a))).withRoom (lineOf a) = u.withLines f g l2) := by
  by_cases found : s.Found attr a
  · refine ⟨s, .none fun h => h.1 found, rfl, .refl s _, fun _ => rfl, fun _ => ⟨_, if_pos ((s.holds_snoopedL2 attr).2 found)⟩⟩
  by_cases refills : s.Refills
  · have hn := State.not_found_holds found
    obtain ⟨frame, same, -⟩ := s.makeRoom_spec hn
    refine ⟨s.makeRoom (lineOf a), s.makeRoom_makesRoom ⟨fun h => h.2.2, fun h => ⟨found, refills, h⟩⟩, frame, same,
      fun h => absurd h (by tauto), fun _ => ⟨(s.makeRoom (lineOf a)).l2, ?_⟩⟩
    rw [State.snoopedL2_of_not_found found]
    exact (if_neg (by rw [show (s.withLines f g s.l2).l2 = s.l2 from rfl, hn]; exact Bool.false_ne_true)).trans
      (s.makeRoom_withLines hf hg hn)
  · exact ⟨s, .none fun h => refills h.2.1, rfl, .refl s _, fun _ => rfl, fun h => absurd h (by tauto)⟩

/-! ### What a read brings in -/

/-- What a snoop of a read does to the other core's D-cache. -/
def State.readSnoop (s : State) (attr : BitVec 5) (n : Nat) (c : List CacheLine) : List CacheLine :=
  if s.snooped attr then cleaned (onLine n) c else c

theorem State.onOneLine_readSnoop (s : State) (attr : BitVec 5) (n : Nat) : OnOneLine n (s.readSnoop attr n) := by
  unfold State.readSnoop
  cases s.snooped attr
  · exact .id n
  · exact .cleaned n

/-- A data access finds the line of `a` in a D-cache that is on. -/
def State.HitIn (s : State) (c : List CacheLine) (a : Nat) : Prop := s.me.dcacheOn = true ∧ byteIn c a ≠ none

theorem holds_iff_byteIn {c : List CacheLine} {a : Nat} : holds c (lineOf a) = true ↔ byteIn c a ≠ none := by
  rw [← byteIn_isSome, Option.isSome_iff_ne_none]

theorem State.touch_of_hit {s : State} {attr : BitVec 5} {a : Nat} (h : cacheable attr = false ∨ s.HitIn s.me.l1d a) :
    s.touch attr a = s := by
  unfold State.touch
  rw [if_pos]
  rcases h with h | ⟨on, held⟩
  · rw [h]
    rfl
  · rw [on, holds_iff_byteIn.2 held, Bool.true_and, Bool.or_true]

/-- The state after the snoop of a read. -/
def State.readSnooped (s : State) (attr : BitVec 5) (a : Nat) : State :=
  s.withLines (fun c => c) (s.readSnoop attr (lineOf a)) (s.snoopedL2 attr (lineOf a))

theorem State.touch_of_miss {s : State} {attr : BitVec 5} {a : Nat} (hc : cacheable attr = true) (miss : ¬ s.HitIn s.me.l1d a) :
    s.touch attr a =
      let v := s.readSnooped attr a
      if !v.l2Takes (lineOf a) then v else if s.me.dcacheOn then v.fill (lineOf a) else v.fillL2 (lineOf a) := by
  have snoop : (if s.snooped attr then s.cleanOther (onLine (lineOf a)) else s) = s.readSnooped attr a := by
    unfold State.readSnooped State.readSnoop State.snoopedL2
    split <;> rfl
  have cold : ¬ (!cacheable attr || (s.me.dcacheOn && holds s.me.l1d (lineOf a))) = true := by
    rw [hc, Bool.not_true, Bool.false_or, Bool.and_eq_true, holds_iff_byteIn]
    exact miss
  unfold State.touch
  rw [if_neg cold, snoop]
  rfl

/-! ### What a line that comes in changes -/

section
variable {u v : State} {n : Nat} {f g : List CacheLine → List CacheLine} {l2 : List CacheLine}
variable (room : v.withRoom n = u.withLines f g l2)
include room

theorem State.fillL2_of_room : v.fillL2 n = u.withLines f g (v.fillL2 n).l2 := by
  conv_lhs => rw [v.fillL2_eq n, room]
  rfl

theorem State.fill_of_room (h : holds v.me.l1d n = false) : v.fill n = u.withLines (fun _ => (v.fill n).me.l1d) g (v.fill n).l2 := by
  conv_lhs => rw [v.fill_eq h, room]
  rfl

end

section
variable {s : State} {attr : BitVec 5} {a q : Nat}

/-- Without the line in the own D-cache an access finds what is below it. -/
theorem State.sees_of_not_holds (hc : cacheable attr = true) (h : holds s.me.l1d (lineOf a) = false) (hq : lineOf q = lineOf a) (own : Bool) :
    s.sees attr own q = s.below attr q := by
  unfold State.sees
  rw [if_pos hc, byteIn_eq_none (by rw [hq]; exact h), ite_self]
  rfl

theorem State.sees_below (hc : cacheable attr = true) : s.sees attr false q = s.below attr q := by
  unfold State.sees
  rw [if_pos hc]
  rfl

/-- What a cacheable read that misses does to the caches (20_memory:R219, R220, 12_csr_extended:R137). -/
theorem State.touch_miss (hc : cacheable attr = true) (miss : ¬ s.HitIn s.me.l1d a) :
    ∃ u, MakesRoom s u a (s.FullFor attr a) ∧
      (∃ c l2, s.touch attr a = u.withLines (fun _ => c) (s.readSnoop attr (lineOf a)) l2) ∧
      (s.Found attr a ∨ s.Refills → byteIn (s.touch attr a).l2 a ≠ none ∧
        (s.me.dcacheOn = true → ∀ q, lineOf q = lineOf a → byteIn (s.touch attr a).me.l1d q = some (s.sees attr true q)) ∧
        (s.me.dcacheOn = false → (s.touch attr a).me = u.me ∧
          ∀ q, lineOf q = lineOf a → byteIn (s.touch attr a).l2 q = some (s.sees attr false q))) ∧
      (¬ (s.Found attr a ∨ s.Refills) → (s.touch attr a).me = s.me ∧ (s.touch attr a).l2 = s.l2) := by
  obtain ⟨u, makes, -, -, same, room⟩ := s.exists_room attr a (.id _) (s.onOneLine_readSnoop attr (lineOf a))
  refine ⟨u, makes, ?_⟩
  rw [State.touch_of_miss hc miss]
  dsimp only
  have below : ∀ q, lineOf q = lineOf a → (s.readSnooped attr a).l2Byte q = s.below attr q := fun q hq => s.below_snoopedL2 attr hq
  have takes : (s.readSnooped attr a).l2Takes (lineOf a) = true ↔ s.Found attr a ∨ s.Refills := State.l2Takes_iff rfl rfl rfl
  by_cases ht : s.Found attr a ∨ s.Refills
  · obtain ⟨l2, room⟩ := room ht
    rw [takes.2 ht, Bool.not_true, if_neg Bool.false_ne_true]
    cases on : s.me.dcacheOn
    · rw [if_neg Bool.false_ne_true]
      have bytes := fun q (hq : lineOf q = lineOf a) => (s.readSnooped attr a).byteIn_fillL2 hq
      have moved := State.fillL2_of_room room
      refine ⟨⟨_, _, moved⟩, fun _ => ⟨?_, fun h => absurd h Bool.false_ne_true, fun _ => ⟨?_, fun q hq => ?_⟩⟩, fun h => absurd ht h⟩
      · rw [bytes a rfl]
        exact Option.some_ne_none _
      · rw [State.readSnooped, moved]
        rfl
      · rw [bytes q hq, below q hq, State.sees_below hc]
    · rw [if_pos rfl]
      have cold : holds s.me.l1d (lineOf a) = false := by
        rw [← Bool.not_eq_true, holds_iff_byteIn]
        exact fun h => miss ⟨on, h⟩
      have bytes := fun q (hq : lineOf q = lineOf a) => (s.readSnooped attr a).byteIn_fill cold hq
      refine ⟨⟨_, _, State.fill_of_room room cold⟩, fun _ => ⟨?_, fun _ q hq => ?_, fun h => absurd h.symm Bool.false_ne_true⟩,
        fun h => absurd ht h⟩
      · rw [(bytes a rfl).2]
        exact Option.some_ne_none _
      · rw [(bytes q hq).1, below q hq, State.sees_of_not_holds hc cold hq]
  · have notFound : ¬ s.Found attr a := fun h => ht (.inl h)
    rw [Bool.eq_false_iff.2 (mt takes.1 ht), Bool.not_false, if_pos rfl, same (.inr fun h => ht (.inr h))]
    exact ⟨⟨_, _, rfl⟩, fun h => absurd h ht, fun _ => ⟨rfl, State.snoopedL2_of_not_found notFound⟩⟩

end

end Sys2Proof.Machine

namespace Sys2Proof.Machine

/-! ### Where a store goes -/

/-- The bytes of a store on the line of `a`, over those that are there. -/
def putBytes (a : Nat) (bs : List Byte) (q : Nat) (b : Byte) : Byte := if a ≤ q ∧ q < a + bs.length then bs.getD (q - a) 0 else b

/-- The bytes of a store lie on the line of its address. -/
def OnLineOf (a : Nat) (bs : List Byte) : Prop := ∀ q, a ≤ q → q < a + bs.length → lineOf q = lineOf a

theorem byteIn_patchedIn (c : List CacheLine) {a : Nat} {bs : List Byte} (hl : OnLineOf a bs) (q : Nat) :
    byteIn (patchedIn c a bs) q = (byteIn c q).map (putBytes a bs q) := by
  have marked : storeIn c (lineOf a) a bs =
      (patchedIn c a bs).map fun l => if l.line == lineOf a then { l with state := .dirty } else l := by
    unfold storeIn patchedIn
    rw [List.map_map]
    refine List.map_congr_left fun l _ => ?_
    by_cases h : l.line == lineOf a
    · have h' : ((l.patched a bs).line == lineOf a) = true := h
      rw [Function.comp_apply, if_pos h, if_pos h, if_pos h']
      rfl
    · rw [Function.comp_apply, if_neg h, if_neg h, if_neg h]
  have bytes := byteIn_map (patchedIn c a bs) (fun l => if l.line == lineOf a then { l with state := .dirty } else l)
    (fun l => by split <;> exact ⟨rfl, rfl⟩) q
  rw [← bytes, ← marked, byteIn_storeIn _ _ _ _ hl]
  rfl

/-- A line stored in is dirty. -/
theorem exists_dirty_storeIn {c : List CacheLine} {n : Nat} (h : holds c n = true) (a : Nat) (bs : List Byte) :
    ∃ l ∈ storeIn c n a bs, l.line = n ∧ l.dirty = true := by
  obtain ⟨l, hl, line⟩ := holds_iff.1 h
  refine ⟨l.stored a bs, List.mem_map.2 ⟨l, hl, if_pos (beq_iff_eq.2 line)⟩, line, rfl⟩

/-- A line of the own D-cache that a store does not wait for (log 62). -/
def staysFor (n : Nat) (l : CacheLine) : Bool := !(l.line == n && l.leaving)

theorem onOneLine_stays (n : Nat) : OnOneLine n fun c => c.filter (staysFor n) := .filter fun l hl => by simp [staysFor, hl]

/-- What a snoop of a store does to the other core's D-cache. -/
def State.storeSnoop (s : State) (attr : BitVec 5) (n : Nat) (c : List CacheLine) : List CacheLine :=
  if s.snooped attr then c.filter fun l => !onLine n l else c

theorem State.onOneLine_storeSnoop (s : State) (attr : BitVec 5) (n : Nat) : OnOneLine n (s.storeSnoop attr n) := by
  unfold State.storeSnoop
  cases s.snooped attr
  · exact .id n
  · exact .filter fun l hl => by simpa [onLine] using hl

/-- The state in which a cacheable store finds the caches, no other copy in its way. -/
def State.storeSnooped (s : State) (attr : BitVec 5) (a : Nat) : State :=
  s.withLines (fun c => c.filter (staysFor (lineOf a))) (s.storeSnoop attr (lineOf a)) (s.snoopedL2 attr (lineOf a))

/-- A store goes to the own D-cache: it holds the line, or takes it (12_csr_extended:R133). -/
def State.StoresInMine (s : State) (attr : BitVec 5) (a : Nat) : Prop :=
  s.HitIn (s.me.l1d.filter (staysFor (lineOf a))) a ∨
    (s.me.dcacheOn = true ∧ s.me.th.mhcr.getLsbD 2 = true ∧ (s.Found attr a ∨ s.Refills))

section
variable {s : State} {attr : BitVec 5} {a : Nat} {bs : List Byte}

theorem State.l2Takes_storeSnooped : (s.storeSnooped attr a).l2Takes (lineOf a) = true ↔ s.Found attr a ∨ s.Refills :=
  State.l2Takes_iff rfl rfl rfl

theorem State.storeData_cached (hc : cacheable attr = true) : s.storeData attr a bs =
    let v := s.storeSnooped attr a
    if v.me.dcacheOn && (holds v.me.l1d (lineOf a) || (v.me.writeAllocate && v.l2Takes (lineOf a))) then
      (v.fill (lineOf a)).setMyL1 (storeIn (v.fill (lineOf a)).me.l1d (lineOf a) a bs)
    else
      (if v.l2Takes (lineOf a) then { v.fillL2 (lineOf a) with l2 := storeIn (v.fillL2 (lineOf a)).l2 (lineOf a) a bs }
       else { v with mem := Memory.writeBytes a bs v.mem }).patchMine a bs := by
  have snoop : (if s.snooped attr then s.claimOther (onLine (lineOf a)) else s).yieldLine (lineOf a) = s.storeSnooped attr a := by
    have claimed : s.storeSnoop attr (lineOf a) s.other.l1d =
        if s.snooped attr then without (onLine (lineOf a)) (cleaned (onLine (lineOf a)) s.other.l1d) else s.other.l1d := by
      rw [without_cleaned (byPlace_onLine (lineOf a)).steady]
      rfl
    unfold State.storeSnooped State.withLines State.snoopedL2
    rw [claimed]
    cases s.snooped attr <;> rfl
  unfold State.storeData State.storeCached
  rw [hc, if_neg (by decide)]
  dsimp only
  rw [snoop]

theorem State.storesInMine_iff : ((s.storeSnooped attr a).me.dcacheOn && (holds (s.storeSnooped attr a).me.l1d (lineOf a) ||
    ((s.storeSnooped attr a).me.writeAllocate && (s.storeSnooped attr a).l2Takes (lineOf a)))) = true ↔ s.StoresInMine attr a := by
  rw [Bool.and_eq_true, Bool.or_eq_true, Bool.and_eq_true, State.l2Takes_storeSnooped, holds_iff_byteIn, and_or_left]
  exact Iff.rfl

/-- The own D-cache after such a store. -/
theorem State.storeData_mine (hc : cacheable attr = true) (mine : s.StoresInMine attr a) : s.storeData attr a bs =
    ((s.storeSnooped attr a).fill (lineOf a)).setMyL1 (storeIn ((s.storeSnooped attr a).fill (lineOf a)).me.l1d (lineOf a) a bs) := by
  rw [State.storeData_cached hc]
  exact if_pos (State.storesInMine_iff.2 mine)

/-- A cacheable store in the own D-cache (20_memory:R219). -/
theorem State.storeData_in_mine (hc : cacheable attr = true) (hl : OnLineOf a bs) (mine : s.StoresInMine attr a) :
    ∃ u, MakesRoom s u a (¬ s.HitIn (s.me.l1d.filter (staysFor (lineOf a))) a ∧ s.FullFor attr a) ∧
      ∃ c l2, s.storeData attr a bs = u.withLines (fun _ => c) (s.storeSnoop attr (lineOf a)) l2 ∧
        (∃ l ∈ c, l.line = lineOf a ∧ l.dirty = true) ∧
        ∀ q, lineOf q = lineOf a → byteIn c q =
          some (putBytes a bs q ((u.withLines (fun c => c.filter (staysFor (lineOf a))) (fun c => c) u.l2).sees attr true q)) := by
  rw [State.storeData_mine hc mine]
  by_cases hit : s.HitIn (s.me.l1d.filter (staysFor (lineOf a))) a
  · have held : holds (s.storeSnooped attr a).me.l1d (lineOf a) = true := holds_iff_byteIn.2 hit.2
    have there : (s.storeSnooped attr a).fill (lineOf a) = s.storeSnooped attr a := by rw [State.fill, if_pos held]
    rw [there]
    refine ⟨s, .none fun h => h.1 hit, _, _, rfl, exists_dirty_storeIn held a bs, fun q hq => ?_⟩
    obtain ⟨b, hb⟩ : ∃ b, byteIn (s.storeSnooped attr a).me.l1d q = some b := by
      rw [← Option.isSome_iff_exists, byteIn_isSome, hq]
      exact held
    rw [byteIn_storeIn _ _ _ _ hl, hb, State.sees, if_pos hc, if_pos rfl]
    exact congrArg (fun o : Option Byte => some (putBytes a bs q (o.getD _))) hb.symm
  · have on : s.me.dcacheOn = true := mine.elim (fun h => absurd h hit) fun h => h.1
    have ht : s.Found attr a ∨ s.Refills := mine.elim (fun h => absurd h hit) fun h => h.2.2
    obtain ⟨u, makes, frame, same, -, room⟩ :=
      s.exists_room attr a (onOneLine_stays (lineOf a)) (s.onOneLine_storeSnoop attr (lineOf a))
    obtain ⟨l2, room⟩ := room ht
    have cold : holds (s.storeSnooped attr a).me.l1d (lineOf a) = false := by
      rw [← Bool.not_eq_true, holds_iff_byteIn]
      exact fun h => hit ⟨on, h⟩
    have gone : holds (u.me.l1d.filter (staysFor (lineOf a))) (lineOf a) = false := by
      rw [holds_eq_false] at cold ⊢
      intro l h line
      obtain ⟨mem, stays⟩ := List.mem_filter.1 h
      exact cold l (List.mem_filter.2 ⟨same.mine.mem mem line, stays⟩) line
    have bytes := fun q (hq : lineOf q = lineOf a) => ((s.storeSnooped attr a).byteIn_fill cold hq).1
    have moved := State.fill_of_room (v := s.storeSnooped attr a) room cold
    refine ⟨u, makes.congr ⟨fun h => h.2, fun h => ⟨hit, h⟩⟩,
      storeIn ((s.storeSnooped attr a).fill (lineOf a)).me.l1d (lineOf a) a bs, ((s.storeSnooped attr a).fill (lineOf a)).l2, ?_,
      exists_dirty_storeIn ?_ a bs, fun q hq => ?_⟩
    · conv_lhs => rw [moved]
      rfl
    · rw [holds_iff_byteIn, bytes a rfl]
      exact Option.some_ne_none _
    · have below : (s.storeSnooped attr a).l2Byte q = s.below attr q := s.below_snoopedL2 attr hq
      have before : u.below attr q = s.below attr q := by
        rw [← State.sees_below hc, ← State.sees_below hc, same.sees frame.store attr false hq]
      rw [byteIn_storeIn _ _ _ _ hl, bytes q hq, below, State.sees_of_not_holds hc gone hq]
      exact congrArg (fun b => some (putBytes a bs q b)) before.symm

/-- A cacheable store past the own D-cache (20_memory:R219, R220, log 42). -/
theorem State.storeData_below_mine (hc : cacheable attr = true) (hl : OnLineOf a bs) (mine : ¬ s.StoresInMine attr a) :
    ∃ u, MakesRoom s u a (s.FullFor attr a) ∧
      ∃ l2 m, s.storeData attr a bs = { u.withLines (fun c => patchedIn (c.filter (staysFor (lineOf a))) a bs)
          (s.storeSnoop attr (lineOf a)) l2 with mem := m } ∧
        (s.Found attr a ∨ s.Refills → m = u.mem ∧ (∃ l ∈ l2, l.line = lineOf a ∧ l.dirty = true) ∧
          ∀ q, lineOf q = lineOf a → byteIn l2 q = some (putBytes a bs q (s.sees attr false q))) ∧
        (¬ (s.Found attr a ∨ s.Refills) → l2 = s.l2 ∧ m = Memory.writeBytes a bs s.mem) := by
  obtain ⟨u, makes, -, -, same, room⟩ := s.exists_room attr a (onOneLine_stays (lineOf a)) (s.onOneLine_storeSnoop attr (lineOf a))
  refine ⟨u, makes, ?_⟩
  rw [State.storeData_cached hc]
  dsimp only
  rw [if_neg (mt State.storesInMine_iff.1 mine)]
  by_cases ht : s.Found attr a ∨ s.Refills
  · obtain ⟨l2, room⟩ := room ht
    have moved := State.fillL2_of_room (v := s.storeSnooped attr a) room
    have bytes := fun q (hq : lineOf q = lineOf a) => (s.storeSnooped attr a).byteIn_fillL2 hq
    rw [if_pos (State.l2Takes_storeSnooped.2 ht)]
    refine ⟨storeIn ((s.storeSnooped attr a).fillL2 (lineOf a)).l2 (lineOf a) a bs, u.mem, ?_,
      fun _ => ⟨rfl, exists_dirty_storeIn ?_ a bs, fun q hq => ?_⟩, fun h => absurd ht h⟩
    · conv_lhs => rw [moved]
      rfl
    · rw [holds_iff_byteIn, bytes a rfl]
      exact Option.some_ne_none _
    · rw [byteIn_storeIn _ _ _ _ hl, bytes q hq, State.sees_below hc]
      exact congrArg (fun b => some (putBytes a bs q b)) (s.below_snoopedL2 attr hq)
  · rw [if_neg (mt State.l2Takes_storeSnooped.1 ht)]
    rw [same (.inr fun h => ht (.inr h))]
    exact ⟨_, _, rfl, fun h => absurd h ht, fun _ => ⟨State.snoopedL2_of_not_found fun h => ht (.inl h), rfl⟩⟩

end

end Sys2Proof.Machine

namespace Sys2Proof.Machine

/-! ### What an access does to the caches -/

theorem State.cacheable_of_snooped {s : State} {attr : BitVec 5} (h : s.snooped attr = true) : cacheable attr = true := by
  rw [State.snooped, Bool.and_eq_true, Bool.and_eq_true] at h
  exact h.1.1

section
variable (s : State) (attr : BitVec 5) (a : Nat)

/-- A read, wherever it finds its line. -/
theorem State.touch_spec :
    let t := s.touch attr a
    let hit := s.HitIn s.me.l1d a
    let takes := s.Found attr a ∨ s.Refills
    ∃ u, MakesRoom s u a (cacheable attr = true ∧ ¬ hit ∧ s.FullFor attr a) ∧
      t = { u with me := { u.me with l1d := t.me.l1d }, other := { u.other with l1d := t.other.l1d }, l2 := t.l2 } ∧
      (cacheable attr = false ∨ hit → t = s) ∧
      (s.snooped attr = true → ¬ hit → CleanedTo u.other.l1d t.other.l1d (lineAt a)) ∧ (s.snooped attr = false → t.other = u.other) ∧
      (cacheable attr = true → ¬ hit → takes → byteIn t.l2 a ≠ none ∧
        (s.me.dcacheOn = true → ∀ q, q / 64 = a / 64 → byteIn t.me.l1d q = some (s.sees attr true q)) ∧
        (s.me.dcacheOn = false → t.me = u.me ∧ ∀ q, q / 64 = a / 64 → byteIn t.l2 q = some (s.sees attr false q))) ∧
      (cacheable attr = true → ¬ hit → ¬ takes → t.me = s.me ∧ t.l2 = s.l2) := by
  intro t hit takes
  by_cases warm : cacheable attr = false ∨ hit
  · have still : t = s := State.touch_of_hit warm
    have no : cacheable attr = true → ¬ ¬ hit := fun hc miss => by
      rcases warm with h | h
      · exact Bool.false_ne_true (h.symm.trans hc)
      · exact miss h
    refine ⟨s, .none fun h => no h.1 h.2.1, ?_, fun _ => still, fun hs miss => absurd miss (no (State.cacheable_of_snooped hs)), fun _ => ?_,
      fun hc miss => absurd miss (no hc), fun hc miss => absurd miss (no hc)⟩
    · rw [still]
    · rw [still]
  · obtain ⟨hc, miss⟩ : cacheable attr = true ∧ ¬ hit := by
      rw [not_or, Bool.not_eq_false] at warm
      exact warm
    obtain ⟨u, makes, ⟨c, l2, moved⟩, brings, leaves⟩ := State.touch_miss hc miss
    have moved : t = u.withLines (fun _ => c) (s.readSnoop attr (lineOf a)) l2 := moved
    refine ⟨u, makes.congr ⟨fun h => h.2.2, fun h => ⟨hc, miss, h⟩⟩, ?_, fun h => absurd h warm, fun hs _ => ?_, fun hs => ?_,
      fun _ _ => brings, fun _ _ => leaves⟩
    · rw [moved]
      rfl
    · have : t.other.l1d = s.readSnoop attr (lineOf a) u.other.l1d := by rw [moved]; rfl
      rw [this, State.readSnoop, if_pos hs]
      exact .of_cleaned _ _
    · have : t.other = { u.other with l1d := s.readSnoop attr (lineOf a) u.other.l1d } := by rw [moved]; rfl
      rw [this, State.readSnoop, if_neg (by rw [hs]; exact Bool.false_ne_true)]

/-- A store on the line of its address, wherever it goes. -/
theorem State.storeData_spec {bs : List Byte} (hl : OnLineOf a bs) :
    let t := s.storeData attr a bs
    let hit := s.HitIn (s.me.l1d.filter (staysFor (lineOf a))) a
    let mine := s.StoresInMine attr a
    let takes := s.Found attr a ∨ s.Refills
    ∃ u, MakesRoom s u a (cacheable attr = true ∧ ¬ hit ∧ s.FullFor attr a) ∧
      let w : State := { u with me := { u.me with l1d := u.me.l1d.filter (staysFor (lineOf a)) } }
      t = { u with me := { u.me with l1d := t.me.l1d }, other := { u.other with l1d := t.other.l1d }, l2 := t.l2, mem := t.mem } ∧
      (s.snooped attr = true → EmptiedTo u.other.l1d t.other.l1d (lineAt a)) ∧
      (cacheable attr = true → s.snooped attr = false → t.other = u.other) ∧
      (cacheable attr = false → (∀ q, Memory.read t.mem q = putBytes a bs q (Memory.read s.mem q)) ∧
        (∀ q, byteIn t.l2 q = (byteIn s.l2 q).map (putBytes a bs q)) ∧
        (∀ q, byteIn t.me.l1d q = (byteIn s.me.l1d q).map (putBytes a bs q)) ∧
        (s.other.snoops = true → ∀ q, byteIn t.other.l1d q = (byteIn s.other.l1d q).map (putBytes a bs q)) ∧
        (s.other.snoops = false → t.other = s.other)) ∧
      (cacheable attr = true → mine → t.mem = u.mem ∧ (∃ l ∈ t.me.l1d, l.line = a / 64 ∧ l.dirty = true) ∧
        ∀ q, q / 64 = a / 64 → byteIn t.me.l1d q = some (putBytes a bs q (w.sees attr true q))) ∧
      (cacheable attr = true → ¬ mine → (∀ q, byteIn t.me.l1d q = (byteIn w.me.l1d q).map (putBytes a bs q)) ∧
        (takes → t.mem = u.mem ∧ (∃ l ∈ t.l2, l.line = a / 64 ∧ l.dirty = true) ∧
          ∀ q, q / 64 = a / 64 → byteIn t.l2 q = some (putBytes a bs q (s.sees attr false q))) ∧
        (¬ takes → t.l2 = s.l2 ∧ ∀ q, Memory.read t.mem q = putBytes a bs q (Memory.read s.mem q))) := by
  intro t hit mine takes
  cases hc : cacheable attr
  case false =>
    have past : t = s.storePast a bs := by
      show s.storeData attr a bs = _
      rw [State.storeData, hc]
      rfl
    refine ⟨s, .none fun h => Bool.false_ne_true h.1, ?_, fun h => absurd (State.cacheable_of_snooped h) ?_,
      fun h => absurd h Bool.false_ne_true, fun _ => ⟨fun q => ?_, fun q => ?_, fun q => ?_, fun on q => ?_, fun off => ?_⟩,
      fun h => absurd h Bool.false_ne_true, fun h => absurd h Bool.false_ne_true⟩
    · rw [past]
      rfl
    · rw [hc]
      exact Bool.false_ne_true
    · rw [past]
      exact Memory.read_writeBytes ..
    · rw [past]
      exact byteIn_patchedIn _ hl q
    · rw [past]
      exact byteIn_patchedIn _ hl q
    · rw [past, State.storePast, on]
      exact byteIn_patchedIn _ hl q
    · rw [past, State.storePast, off]
      rfl
  case true =>
    have emptied : ∀ u : State, s.snooped attr = true → s.storeSnoop attr (lineOf a) u.other.l1d = u.other.l1d.filter fun l => !lineAt a l :=
      fun u hs => if_pos hs
    have kept : ∀ u : State, s.snooped attr = false → s.storeSnoop attr (lineOf a) u.other.l1d = u.other.l1d :=
      fun u hs => if_neg (by rw [hs]; exact Bool.false_ne_true)
    by_cases hm : mine
    · obtain ⟨u, makes, c, l2, moved, dirty, bytes⟩ := State.storeData_in_mine hc hl hm
      have moved : t = u.withLines (fun _ => c) (s.storeSnoop attr (lineOf a)) l2 := moved
      clear_value t
      subst moved
      refine ⟨u, makes.congr ⟨fun h => h.2, fun h => ⟨rfl, h⟩⟩, rfl, emptied u, fun _ hs => ?_, fun h => absurd h.symm Bool.false_ne_true,
        fun _ _ => ⟨rfl, dirty, bytes⟩, fun _ h => absurd hm h⟩
      exact congrArg (fun c => { u.other with l1d := c }) (kept u hs)
    · obtain ⟨u, makes, l2, m, moved, inL2, inMem⟩ := State.storeData_below_mine hc hl hm
      have moved : t = { u.withLines (fun c => patchedIn (c.filter (staysFor (lineOf a))) a bs)
          (s.storeSnoop attr (lineOf a)) l2 with mem := m } := moved
      have missed : ¬ hit := fun h => hm (.inl h)
      clear_value t
      subst moved
      refine ⟨u, makes.congr ⟨fun h => h.2.2, fun h => ⟨rfl, missed, h⟩⟩, rfl, emptied u, fun _ hs => ?_,
        fun h => absurd h.symm Bool.false_ne_true, fun _ h => absurd h hm, fun _ _ => ⟨byteIn_patchedIn _ hl, inL2, fun nt => ?_⟩⟩
      · exact congrArg (fun c => { u.other with l1d := c }) (kept u hs)
      · obtain ⟨l2, mem⟩ := inMem nt
        exact ⟨l2, fun q => mem ▸ Memory.read_writeBytes ..⟩

end

/-! ### What the environment may do -/

/-- A prefetch acts only where the access resolves. -/
theorem State.environment_of_not_resolves {s : State} {va : Word} :
    (∀ fetch : Bool, (∀ pl s', s.resolve (if fetch then .fetch else .load) va ≠ .ok pl s') → s.environment (.l2Prefetch fetch va) = s) ∧
      ((∀ pl s', s.resolve .load va ≠ .ok pl s') → s.environment (.dcachePrefetch va) = s) ∧
      ((∀ pl s', s.resolve .fetch va ≠ .ok pl s') → s.environment (.icachePrefetch va) = s ∧ s.environment (.fetchAhead va) = s) := by
  refine ⟨fun fetch h => ?_, fun h => ?_, fun h => ⟨?_, ?_⟩⟩
  · show s.prefetchL2 fetch va = s
    unfold State.prefetchL2
    split
    · next e => exact absurd e (h _ _)
    · rfl
  · show s.prefetchData va = s
    unfold State.prefetchData
    split
    · next e => exact absurd e (h _ _)
    · rfl
  · show s.prefetchCode va = s
    unfold State.prefetchCode
    split
    · next e => exact absurd e (h _ _)
    · rfl
  · show State.fetchAhead s va = s
    unfold State.fetchAhead
    split
    · next e => exact absurd e (h _ _)
    · rfl

/-- An entry on its way out translates, or not (log 62). -/
theorem State.translate_leaving {s : State} {k : Access} {va : Word} (ht : s.me.translates (s.me.effPriv k) = true)
    (hc : va.toNat / 2 ^ 38 = 0 ∨ va.toNat / 2 ^ 38 = 2 ^ 26 - 1) (hits : s.me.hitsIn va s.me.tlb.leaving ≠ []) :
    s.translate k va = s.drawn.lookup k (s.me.effPriv k) va ∨
      ∃ e ∈ s.me.hitsIn va s.me.tlb.leaving, s.translate k va = s.drawn.throughTlb k (s.me.effPriv k) va e := by
  have canon : canonical va = true := by
    rw [canonical, Bool.or_eq_true, beq_iff_eq, beq_iff_eq]
    exact hc
  have leaving : s.translate k va = s.lookupLeaving k (s.me.effPriv k) va := by
    unfold State.translate
    dsimp only
    rw [if_pos ht, if_pos canon]
  rw [leaving]
  unfold State.lookupLeaving
  split
  · next none => exact absurd none hits
  · split
    · next e chosen => exact .inr ⟨e, List.mem_of_getElem? chosen, rfl⟩
    · exact .inl rfl

/-- Settles O43, by the rules of reads, stores, evictions, prefetches and of entries on their way out. -/
theorem cachesAndSnoops : Obligations.CachesAndSnoops := by
  unfold Obligations.CachesAndSnoops
  intro s attr a
  refine ⟨fun n => rfl, s.touch_spec attr a, fun bs hl => s.storeData_spec attr a fun q h1 h2 => ?_,
    (s.flushMine_spec (byPlace_onLine _)).2, (s.evictL2_spec (byLine_onLine _)).2, fun va fetch => ?_, ?_⟩
  · have := hl (q - a) (by omega)
    rwa [Nat.add_sub_cancel' h1] at this
  · obtain ⟨l2, data, code⟩ := State.environment_of_not_resolves (s := s) (va := va)
    exact ⟨l2 fetch, data, code⟩
  · rintro k p va rfl ht hc hits
    exact State.translate_leaving ht hc hits

end Sys2Proof.Machine

namespace Sys2Proof.Machine

/-! ### Physical memory protection -/

/-- The number of ones at the low end, below `n`, is `k` exactly if bits `0 .. k - 1` are ones and the next, if it is below `n`, is not. -/
theorem trailingOnes_eq_iff {v n k : Nat} :
    trailingOnes v n = k ↔ k ≤ n ∧ (∀ j, j < k → v.testBit j = true) ∧ (k < n → v.testBit k = false) := by
  induction n generalizing v k with
  | zero =>
    constructor
    · rintro rfl
      exact ⟨Nat.le_refl 0, fun j hj => absurd hj (Nat.not_lt_zero j), fun h => absurd h (Nat.lt_irrefl 0)⟩
    · rintro ⟨hk, -, -⟩
      exact (Nat.le_zero.1 hk).symm
  | succ n ih =>
    have low : v.testBit 0 = decide (v % 2 = 1) := Nat.testBit_zero v
    unfold trailingOnes
    split
    · next one =>
      cases k with
      | zero =>
        simp only [Nat.zero_lt_succ, forall_const, low, one, decide_true, Bool.true_eq_false, and_false, iff_false]
        omega
      | succ k =>
        rw [Nat.add_comm 1, Nat.add_right_cancel_iff, ih, Nat.forall_lt_succ_left', low, decide_eq_true one]
        simp only [Nat.testBit_succ, Nat.add_le_add_iff_right, Nat.add_lt_add_iff_right, true_and]
    · next zero =>
      constructor
      · rintro rfl
        exact ⟨Nat.zero_le _, fun j hj => absurd hj (Nat.not_lt_zero j), fun _ => by rw [low, decide_eq_false zero]⟩
      · rintro ⟨-, ones, -⟩
        by_contra hk
        have := ones 0 (by omega)
        rw [low, decide_eq_true_eq] at this
        exact zero this

/-- The bits of an address register above its 4 KB granularity. -/
theorem Pmp.testBit_addrOf (p : Pmp) (i : Fin 8) (j : Nat) : (p.addrOf i / 2 ^ 9).testBit j = (p.addr[i]).getLsbD (9 + j) := by
  rw [Nat.testBit_div_two_pow, Nat.add_comm]
  rfl

/-- A region of a power of two, in the numbers of its pages. -/
theorem div_eq_iff_in_region {a b w : Nat} : a / 2 ^ w = b ↔ b * 2 ^ w ≤ a ∧ a < b * 2 ^ w + 2 ^ w := by
  rw [Nat.div_eq_iff (by positivity)]
  have : 0 < 2 ^ w := by positivity
  omega

/-- The model's test is containment as 21_mmu_pmp:R261 and R263 have it. -/
theorem Pmp.covers_iff (p : Pmp) (i : Fin 8) (pa : BitVec 40) : p.covers i pa = true ↔ p.Contains i pa.toNat := by
  unfold Pmp.covers Pmp.Contains
  split
  · next tor =>
    have low : p.torLow i ≤ pa.toNat / 4096 ↔
        ∀ h : i.val ≠ 0, p.addrOf ⟨i.val - 1, by omega⟩ * 4 / 4096 * 4096 ≤ pa.toNat := by
      unfold Pmp.torLow
      split
      · next first => exact ⟨fun _ h => absurd first h, fun _ => Nat.zero_le _⟩
      · next later =>
        rw [forall_prop_of_true later]
        omega
    have high : pa.toNat / 4096 < p.addrOf i / 2 ^ 10 ↔ pa.toNat < p.addrOf i * 4 / 4096 * 4096 := by omega
    rw [decide_eq_true_eq, low, high, tor]
    simp
  · next napot =>
    rw [napot]
    simp only [Bool.and_eq_true, bne_iff_ne, beq_iff_eq, div_eq_iff_in_region, ← Pmp.testBit_addrOf]
    obtain ⟨le, ones, stop⟩ := trailingOnes_eq_iff.1 (Eq.refl (trailingOnes (p.addrOf i / 2 ^ 9) 29))
    constructor
    · rintro ⟨more, region⟩
      exact .inr ⟨trivial, _, by omega, ones, stop (by omega), region⟩
    · rintro (⟨tor, -⟩ | ⟨-, k, hk, ones', stop', region⟩)
      · cases tor
      · rw [trailingOnes_eq_iff.2 ⟨by omega, ones', fun _ => stop'⟩]
        exact ⟨by omega, region⟩
  · next notTor notNapot =>
    constructor
    · exact fun h => absurd h Bool.false_ne_true
    · rintro (⟨tor, -⟩ | ⟨napot, -⟩)
      · exact absurd tor notTor
      · exact absurd napot notNapot

/-- No entry decides where none contains the address. -/
theorem Pmp.entryOf_eq_none {p : Pmp} {pa : BitVec 40} (h : ∀ i, ¬ p.Contains i pa.toNat) : p.entryOf pa = none := by
  rw [Pmp.entryOf, List.find?_eq_none]
  exact fun i _ => (p.covers_iff i pa).not.2 (h i)

/-- The lowest-numbered entry that contains the address decides (21_mmu_pmp:R264). -/
theorem Pmp.entryOf_eq_some {p : Pmp} {pa : BitVec 40} {i : Fin 8} (hi : p.Contains i pa.toNat)
    (first : ∀ j, j < i → ¬ p.Contains j pa.toNat) : p.entryOf pa = some i := by
  have all : ([0, 1, 2, 3, 4, 5, 6, 7] : List (Fin 8)) = List.finRange 8 := by decide
  rw [Pmp.entryOf, all, List.find?_eq_some_iff_getElem]
  refine ⟨(p.covers_iff i pa).2 hi, i, by simp, by simp, fun j hj => ?_⟩
  rw [List.getElem_finRange, Bool.not_eq_true', ← Bool.not_eq_true, Pmp.covers_iff]
  exact first _ hj

theorem Pmp.allows_of_none {p : Pmp} {priv : Priv} {need : Byte} {pa : BitVec 40} (h : p.entryOf pa = none) :
    p.allows priv need pa = decide (priv = .machine) := by
  rw [Pmp.allows, h]
  rfl

theorem Pmp.allows_of_some {p : Pmp} {priv : Priv} {need : Byte} {pa : BitVec 40} {i : Fin 8} (h : p.entryOf pa = some i) :
    p.allows priv need pa = decide ((priv = .machine ∧ (p.cfg[i]).getLsbD 7 = false) ∨ p.cfg[i] &&& need = need) := by
  rw [Pmp.allows, h, Bool.eq_iff_iff]
  simp

section
variable {s s' : State} {k : Access} {va : Word} {pl : Place}

/-- Looking an address up leaves the PMP. -/
theorem Hidden.pmp {s t : State} (h : Hidden s t) : t.me.pmp = s.me.pmp := by rw [h]

/-- Where the PMP denies the place, the access raises its access fault (21_mmu_pmp:R264). -/
theorem State.checkPlace_of_denied (h : s.me.pmp.allows pl.priv k.pmpNeed pl.pa = false) :
    s.checkPlace k va pl = .trap k.accessFault va s := by
  rw [State.checkPlace, h]
  rfl

/-- Where the PMP allows the place and its attributes are defined, the bus decides (20_memory:R196). -/
theorem State.checkPlace_of_allowed (h : s.me.pmp.allows pl.priv k.pmpNeed pl.pa = true) (legal : attrLegal pl.attr = true) :
    s.checkPlace k va pl = if k.reads && s.soc.busError pl.pa then .trap k.accessFault va s else .ok pl s := by
  rw [State.checkPlace, h, legal]
  rfl

theorem State.resolve_of_translate (h : s.translate k va = .ok pl s') : s.resolve k va = s'.checkPlace k va pl := by
  rw [State.resolve, h, Res.ok_andThen]

end

/-- Every access but a plain store and an SC waits for data (20_memory:R196). -/
theorem Access.reads_iff (k : Access) : k.reads = true ↔ k ≠ .store := by cases k <;> decide

/-- Settles O50: the entries one by one, then the check of a translated place. -/
theorem pmpDecides : Obligations.PmpDecides := by
  unfold Obligations.PmpDecides
  refine ⟨fun p priv need pa => ⟨fun none => ?_, fun i hi first => ?_⟩, fun s k code need va pl s' hk ht => ?_⟩
  · exact Pmp.allows_of_none (Pmp.entryOf_eq_none none)
  · exact Pmp.allows_of_some (Pmp.entryOf_eq_some hi first)
  · obtain ⟨rfl, rfl⟩ : code = k.accessFault ∧ need = k.pmpNeed := by
      simp only [List.mem_cons, Prod.mk.injEq, List.not_mem_nil, or_false] at hk
      rcases hk with ⟨rfl, h⟩ | ⟨rfl, h⟩ | ⟨rfl, h⟩ | ⟨rfl, h⟩ | ⟨rfl, h⟩ <;> exact h
    have hidden : Hidden s s' := (s.translate_sat k va).of_ok ht
    rw [State.resolve_of_translate ht, ← hidden.pmp, ← hidden.soc]
    refine ⟨State.checkPlace_of_denied, fun allowed legal => ⟨fun quiet => ?_, fun reads error => ?_⟩⟩
    · rw [State.checkPlace_of_allowed allowed legal, if_neg]
      rw [Bool.and_eq_true, k.reads_iff]
      rintro ⟨reads, error⟩
      rcases quiet with store | none
      · exact reads store
      · exact absurd (error.symm.trans none) (by decide)
    · rw [State.checkPlace_of_allowed allowed legal, if_pos]
      rw [Bool.and_eq_true, k.reads_iff]
      exact ⟨reads, error⟩

end Sys2Proof.Machine
namespace Sys2Proof.Machine

/-! ### Page-table entries -/

/-- The walk's test for an entry that ends it (21_mmu_pmp:R234 step 3). -/
theorem pteValid_iff (e : Word) : PteValid e ↔ ¬ (!bit e 0 || (!bit e 1 && bit e 2)) = true := by
  unfold PteValid
  simp only [bit_eq, Bool.or_eq_true, Bool.and_eq_true, Bool.not_eq_true', not_or, Bool.not_eq_false]

/-- The walk's test for an entry that points to a table (21_mmu_pmp:R234 step 4). -/
theorem ptePointer_iff (e : Word) : PtePointer e ↔ field e 1 3 = 0 := by
  have bits : field e 1 3 = 0 ↔ ∀ k, k < 3 → e.getLsbD (1 + k) = false := by
    constructor
    · intro h k hk
      exact (bit_of_field h hk).trans (Nat.zero_testBit k)
    · intro h
      refine Nat.eq_of_testBit_eq fun k => ?_
      rw [testBit_field, Nat.zero_testBit, Bool.and_eq_false_imp]
      exact fun hk => h k (of_decide_eq_true hk)
  rw [bits, PtePointer]
  exact ⟨fun ⟨h1, h2, h3⟩ k hk => by interval_cases k <;> assumption, fun h => ⟨h 0 (by decide), h 1 (by decide), h 2 (by decide)⟩⟩

theorem ptePpn_lt (e : Word) : ptePpn e < 2 ^ 28 := field_lt e 10 28

/-- The flags of an entry are its bits 9:0. -/
theorem flags_of_pte (e : Word) : BitVec.ofNat 10 (field e 0 10) = e.setWidth 10 := by
  apply BitVec.eq_of_toNat_eq
  simp [field]

/-- The permission check of a leaf is that of 21_mmu_pmp:R239 to R241. -/
theorem State.leafAllows_iff (s : State) (k : Access) (p : Priv) (flags : BitVec 10) :
    s.me.leafAllows s.soc.sumAllowsFetch k p flags = true ↔ s.LeafPermits k p flags := by
  have apart : ∀ a b c d : Prop, (((a ∧ b) ∧ c) ∧ d) ↔ (a ∧ c) ∧ b ∧ d := by tauto
  unfold Hart.leafAllows State.LeafPermits
  dsimp only
  rw [Bool.and_eq_true, Bool.and_eq_true, Bool.and_eq_true, apart]
  refine and_congr ?kind (and_congr_right fun _ => ?mode)
  case kind =>
    have readable : (flags.getLsbD 1 || (bit s.me.m.mstatus mstatusMXR && flags.getLsbD 3)) = true ↔
        flags.getLsbD 1 = true ∨ (s.me.m.mstatus.getLsbD 19 = true ∧ flags.getLsbD 3 = true) := by
      rw [Bool.or_eq_true, Bool.and_eq_true]
      rfl
    cases k with
    | fetch | store => simp [Access.writes]
    | load | lr => simpa [Access.writes] using readable
    | amo =>
      rw [Bool.and_eq_true, readable]
      exact and_right_comm.trans and_assoc
  case mode =>
    cases p with
    | user | machine => simp
    | supervisor =>
      rw [Bool.or_eq_true, Bool.and_eq_true, Bool.not_eq_true', Bool.or_eq_true, bne_iff_ne]
      cases flags.getLsbD 4 <;> simp [bit_eq, mstatusSUM, imp_iff_not_or]

/-! ### One entry of the walk -/

/-- The address the walk reads at. -/
theorem pteAddress_eq (va : Word) (i table : Nat) :
    BitVec.ofNat 40 (table * 4096 + field va (12 + 9 * i) 9 * 8) = pteAddress va i table := rfl

/-- The walker may read at an address: the PMP allows it, the attributes are defined, the bus answers (21_mmu_pmp:R234 step 2). -/
def State.Readable (s : State) (pa : BitVec 40) : Prop :=
  s.me.pmp.allows .supervisor 1 pa = true ∧ attrLegal (s.soc.attrOf pa) = true ∧ s.soc.busError pa = false

section
variable {s t : State} {k : Access} {va : Word} {i table : Nat} {e : Word} {stale : Bool}

theorem State.walk_of_denied (h : s.me.pmp.allows .supervisor 1 (pteAddress va i table) = false) :
    s.walk k va table (i + 1) = .trap k.accessFault va s := by
  unfold State.walk
  simp only [pteAddress_eq, Access.pmpNeed, h, Bool.not_false, if_true]

theorem State.walk_of_undefined (h : s.me.pmp.allows .supervisor 1 (pteAddress va i table) = true)
    (illegal : attrLegal (s.soc.attrOf (pteAddress va i table)) = false) :
    s.walk k va table (i + 1) = .refused .undefinedAttributes := by
  unfold State.walk
  simp only [pteAddress_eq, Access.pmpNeed, h, illegal, Bool.not_true, Bool.not_false, Bool.false_eq_true, if_false, if_true]

theorem State.walk_of_busError (h : s.me.pmp.allows .supervisor 1 (pteAddress va i table) = true)
    (legal : attrLegal (s.soc.attrOf (pteAddress va i table)) = true) (error : s.soc.busError (pteAddress va i table) = true) :
    s.walk k va table (i + 1) = .trap k.pageFault va s := by
  unfold State.walk
  simp only [pteAddress_eq, Access.pmpNeed, h, legal, error, Bool.not_true, Bool.false_eq_true, if_false, if_true]

variable (readable : s.Readable (pteAddress va i table)) (read : s.readPte (pteAddress va i table) = (e, stale, t))
include readable read

/-- Where the walker may read, the entry it reads decides (21_mmu_pmp:R234 steps 3 to 5). -/
theorem State.walk_of_read :
    s.walk k va table (i + 1) =
      if !bit e 0 || (!bit e 1 && bit e 2) then .trap k.pageFault va t
      else if field e 1 3 = 0 then (t.walk k va (ptePpn e) i).andThen fun l u => .ok (l.after stale) u
      else if ptePpn e % 2 ^ (9 * i) ≠ 0 then .trap k.pageFault va t
      else .ok ⟨i, e, stale⟩ t := by
  obtain ⟨allowed, legal, quiet⟩ := readable
  conv_lhs => unfold State.walk
  simp only [pteAddress_eq, Access.pmpNeed, allowed, legal, quiet, read, Bool.not_true, Bool.false_eq_true, if_false]

theorem State.walk_of_invalid (invalid : ¬ PteValid e) : s.walk k va table (i + 1) = .trap k.pageFault va t := by
  rw [State.walk_of_read readable read, if_pos (not_not.1 ((pteValid_iff e).not.1 invalid))]

theorem State.walk_of_pointer (valid : PteValid e) (pointer : PtePointer e) :
    s.walk k va table (i + 1) = (t.walk k va (ptePpn e) i).andThen fun l u => .ok (l.after stale) u := by
  rw [State.walk_of_read readable read, if_neg ((pteValid_iff e).1 valid), if_pos ((ptePointer_iff e).1 pointer)]

theorem State.walk_of_leaf (valid : PteValid e) (leaf : ¬ PtePointer e) :
    s.walk k va table (i + 1) = if ptePpn e % 2 ^ (9 * i) = 0 then .ok ⟨i, e, stale⟩ t else .trap k.pageFault va t := by
  rw [State.walk_of_read readable read, if_neg ((pteValid_iff e).1 valid), if_neg ((ptePointer_iff e).not.1 leaf), ite_not]

end

/-! ### A walk through entries that have one value -/

section
variable {s : State} {k : Access} {va : Word} {i table : Nat} {e : Word}

theorem State.PteAt.readable {sure : Bool} (h : s.PteAt sure va i table e) : s.Readable (pteAddress va i table) := by
  obtain ⟨allowed, legal, quiet, -⟩ := h
  exact ⟨allowed, legal, quiet⟩

/-- An entry with one value is read with it, and reading it leaves the state. -/
theorem State.PteAt.read (h : s.PteAt true va i table e) : s.readPte (pteAddress va i table) = (e, false, s) := by
  obtain ⟨-, -, -, plain, none, rfl⟩ := h
  have none : s.me.notesAt (pteAddress va i table).toNat = [] := List.map_eq_nil_iff.1 none
  unfold State.readPte
  rw [plain, none]
  rfl

/-- A pointer with one value leads to the walk from the next table. -/
theorem State.PteAt.walk_next (h : s.PteAt true va i table e) (valid : PteValid e) (pointer : PtePointer e) :
    s.walk k va table (i + 1) = s.walk k va (ptePpn e) i := by
  rw [State.walk_of_pointer h.readable h.read valid pointer]
  cases s.walk k va (ptePpn e) i <;> rfl

/-- The walk that finds a leaf (21_mmu_pmp:R234, R243). -/
theorem State.walk_of_walksTo {n l : Nat} (h : s.WalksTo true va n table l e) :
    l < n ∧ s.walk k va table n = if ptePpn e % 2 ^ (9 * l) = 0 then .ok ⟨l, e, false⟩ s else .trap k.pageFault va s := by
  induction n generalizing table with
  | zero => exact h.elim
  | succ i ih =>
    obtain ⟨o, here, valid, ⟨leaf, rfl, rfl⟩ | ⟨pointer, rest⟩⟩ := h
    · exact ⟨Nat.lt_succ_self l, State.walk_of_leaf here.readable here.read valid leaf⟩
    · obtain ⟨below, walk⟩ := ih rest
      exact ⟨Nat.lt_succ_of_lt below, (here.walk_next valid pointer).trans walk⟩

/-- The walk that finds none. -/
theorem State.walk_of_walkFails {n : Nat} (h : s.WalkFails true va n table) : s.walk k va table n = .trap k.pageFault va s := by
  induction n generalizing table with
  | zero => rfl
  | succ i ih =>
    obtain ⟨e, here, invalid | ⟨valid, pointer, rest⟩⟩ := h
    · exact State.walk_of_invalid here.readable here.read invalid
    · exact (here.walk_next valid pointer).trans (ih rest)

/-- A walk that comes to an entry goes on as the walk from its table does. -/
theorem State.walk_of_walkMeets {n : Nat} {pa : BitVec 40} (h : s.WalkMeets true va pa n table) :
    ∃ i table', pa = pteAddress va i table' ∧ s.walk k va table n = s.walk k va table' (i + 1) := by
  induction n generalizing table with
  | zero => exact h.elim
  | succ i ih =>
    obtain rfl | ⟨e, here, valid, pointer, rest⟩ := h
    · exact ⟨i, table, rfl, rfl⟩
    · obtain ⟨j, table', address, walk⟩ := ih rest
      exact ⟨j, table', address, (here.walk_next valid pointer).trans walk⟩

end

/-! ### A walk through any entries -/

/-- What the walker may read is the same whatever the hidden state. -/
theorem Hidden.pteAt {s t : State} (h : Hidden s t) (sure : Bool) (va : Word) (i table : Nat) (e : Word) :
    t.PteAt sure va i table e ↔ s.PteAt sure va i table e := by
  unfold State.PteAt Hart.oldPtesAt Hart.notesAt
  dsimp only
  rw [h.number, h.soc, h.me]

/-- The walker reads a value that the entry may have (21_mmu_pmp:R242, log 34, 61). -/
theorem State.readPte_pteAt {s : State} {va : Word} {i table : Nat} (h : s.Readable (pteAddress va i table)) :
    s.PteAt false va i table (s.readPte (pteAddress va i table)).1 := by
  obtain ⟨allowed, legal, quiet⟩ := h
  refine ⟨allowed, legal, quiet, ?_⟩
  rw [if_neg Bool.false_ne_true]
  unfold State.readPte
  split
  · next window => exact .inl window
  · dsimp only
    split
    · exact .inr (.inl rfl)
    · split
      · next o chosen => exact .inr (.inr (List.mem_map_of_mem (List.mem_of_getElem? chosen)))
      · exact .inr (.inl rfl)

/-- A walk for `va` with `n` levels to go from `table`, and what follows it, ends as the entries it may read allow: with `Q`, or in
a page fault or an access fault or a refusal that such an entry accounts for; a leaf not `through` is a page fault
(21_mmu_pmp:R243, log 21, 37). -/
def Res.EndsWalk {α : Type} (r : Res α) (s : State) (k : Access) (va : Word) (n table : Nat) (through : Nat → Word → Prop)
    (Q : α → State → Prop) : Prop :=
  match r with
  | .ok v t => Q v t
  | .trap c info t => Hidden s t ∧ info = va ∧
    ((c = k.pageFault ∧ (s.WalkFails false va n table ∨ (∃ l e, s.WalksTo false va n table l e ∧ ¬ through l e) ∨
        ∃ pa, s.WalkMeets false va pa n table ∧ ¬ s.me.pmp.allows .supervisor 1 pa = false ∧ s.soc.busError pa = true)) ∨
      (c = k.accessFault ∧ ∃ pa, s.WalkMeets false va pa n table ∧ s.me.pmp.allows .supervisor 1 pa = false))
  | .fault _ => False
  | .refused r => r = .undefinedAttributes ∧ ∃ pa, s.WalkMeets false va pa n table ∧ attrLegal (s.soc.attrOf pa) = false

section
variable {α β : Type} {r : Res α} {s : State} {k : Access} {va : Word} {n table : Nat} {through : Nat → Word → Prop}
  {Q : α → State → Prop}

theorem Res.EndsWalk.andThen {f : α → State → Res β} {Q' : β → State → Prop} (h : r.EndsWalk s k va n table through Q)
    (hf : ∀ v t, Q v t → (f v t).EndsWalk s k va n table through Q') : (r.andThen f).EndsWalk s k va n table through Q' := by
  cases r with
  | ok v t => exact hf v t h
  | trap c info t => exact h
  | fault e => exact h
  | refused e => exact h

/-- Fewer leaves let the access through. -/
theorem Res.EndsWalk.mono {through' : Nat → Word → Prop} (h : r.EndsWalk s k va n table through Q)
    (sub : ∀ l e, through' l e → through l e) : r.EndsWalk s k va n table through' Q := by
  cases r with
  | ok v t => exact h
  | trap c info t =>
    obtain ⟨hidden, rfl, ⟨code, fails | ⟨l, e, leaf, denied⟩ | error⟩ | access⟩ := h
    · exact ⟨hidden, rfl, .inl ⟨code, .inl fails⟩⟩
    · exact ⟨hidden, rfl, .inl ⟨code, .inr (.inl ⟨l, e, leaf, fun h => denied (sub l e h)⟩)⟩⟩
    · exact ⟨hidden, rfl, .inl ⟨code, .inr (.inr error)⟩⟩
    · exact ⟨hidden, rfl, .inr access⟩
  | fault e => exact h
  | refused e => exact h

/-- A walk through a pointer ends as the walk from the next table does. -/
theorem Res.EndsWalk.through_pointer {e : Word} (here : s.PteAt false va n table e) (valid : PteValid e) (pointer : PtePointer e)
    (h : r.EndsWalk s k va n (ptePpn e) through Q) : r.EndsWalk s k va (n + 1) table through Q := by
  have meets : ∀ {pa}, s.WalkMeets false va pa n (ptePpn e) → s.WalkMeets false va pa (n + 1) table :=
    fun h => .inr ⟨e, here, valid, pointer, h⟩
  cases r with
  | ok v t => exact h
  | trap c info t =>
    obtain ⟨hidden, rfl, ⟨code, fails | ⟨l, o, leaf, denied⟩ | ⟨pa, met, error⟩⟩ | ⟨code, pa, met, denied⟩⟩ := h
    · exact ⟨hidden, rfl, .inl ⟨code, .inl ⟨e, here, .inr ⟨valid, pointer, fails⟩⟩⟩⟩
    · exact ⟨hidden, rfl, .inl ⟨code, .inr (.inl ⟨l, o, ⟨e, here, valid, .inr ⟨pointer, leaf⟩⟩, denied⟩)⟩⟩
    · exact ⟨hidden, rfl, .inl ⟨code, .inr (.inr ⟨pa, meets met, error⟩)⟩⟩
    · exact ⟨hidden, rfl, .inr ⟨code, pa, meets met, denied⟩⟩
  | fault e => exact h
  | refused e =>
    obtain ⟨rfl, pa, met, undefined⟩ := h
    exact ⟨rfl, pa, meets met, undefined⟩

end

/-- The walk ends as the entries it may read allow, and a leaf it finds is aligned (21_mmu_pmp:R234, R243). -/
theorem State.walk_endsWalk {s t : State} (h : Hidden s t) (k : Access) (va : Word) (table n : Nat) :
    (t.walk k va table n).EndsWalk s k va n table (fun l e => ptePpn e % 2 ^ (9 * l) = 0) fun leaf u =>
      Hidden s u ∧ s.WalksTo false va n table leaf.level leaf.pte ∧ ptePpn leaf.pte % 2 ^ (9 * leaf.level) = 0 := by
  induction n generalizing t table with
  | zero => exact ⟨h, rfl, .inl ⟨rfl, .inl trivial⟩⟩
  | succ i ih =>
    have met : s.WalkMeets false va (pteAddress va i table) (i + 1) table := .inl rfl
    by_cases allowed : t.me.pmp.allows .supervisor 1 (pteAddress va i table) = false
    · rw [State.walk_of_denied allowed]
      exact ⟨h, rfl, .inr ⟨rfl, _, met, h.pmp ▸ allowed⟩⟩
    by_cases legal : attrLegal (t.soc.attrOf (pteAddress va i table)) = false
    · rw [State.walk_of_undefined (Bool.not_eq_false _ ▸ allowed) legal]
      exact ⟨rfl, _, met, h.soc ▸ legal⟩
    by_cases error : t.soc.busError (pteAddress va i table) = true
    · rw [State.walk_of_busError (Bool.not_eq_false _ ▸ allowed) (Bool.not_eq_false _ ▸ legal) error]
      exact ⟨h, rfl, .inl ⟨rfl, .inr (.inr ⟨_, met, h.pmp ▸ allowed, h.soc ▸ error⟩)⟩⟩
    have readable : t.Readable (pteAddress va i table) :=
      ⟨Bool.not_eq_false _ ▸ allowed, Bool.not_eq_false _ ▸ legal, Bool.not_eq_true _ ▸ error⟩
    have here := (h.pteAt false va i table _).1 (State.readPte_pteAt readable)
    have later := h.trans (t.readPte_hidden (pteAddress va i table))
    rcases read : t.readPte (pteAddress va i table) with ⟨e, stale, u⟩
    rw [read] at here later
    by_cases valid : PteValid e
    · by_cases pointer : PtePointer e
      · rw [State.walk_of_pointer readable read valid pointer]
        exact (Res.EndsWalk.through_pointer here valid pointer (ih later (ptePpn e))).andThen fun leaf v ⟨hidden, found, aligned⟩ =>
          ⟨hidden, ⟨e, here, valid, .inr ⟨pointer, found⟩⟩, aligned⟩
      · have found : s.WalksTo false va (i + 1) table i e := ⟨e, here, valid, .inl ⟨pointer, rfl, rfl⟩⟩
        rw [State.walk_of_leaf readable read valid pointer]
        split
        · next aligned => exact ⟨later, found, aligned⟩
        · next misaligned => exact ⟨later, rfl, .inl ⟨rfl, .inr (.inl ⟨i, e, found, misaligned⟩)⟩⟩
    · rw [State.walk_of_invalid readable read valid]
      exact ⟨later, rfl, .inl ⟨rfl, .inl ⟨e, here, .inl valid⟩⟩⟩

/-! ### The refill of the TLBs -/

/-- What a leaf's entry in the TLB holds (21_mmu_pmp:R234 step 7). -/
theorem State.leafEntry_caches (s : State) (leaf : Leaf) (va : Word) (h : leaf.level < 3) :
    CachesLeaf s va leaf.level leaf.pte (s.leafEntry leaf va) := by
  have vpn : (vpnOf va).toNat = va.toNat / 2 ^ 12 % 2 ^ 27 := by
    rw [vpnOf, BitVec.toNat_ofNat, field, Nat.mod_mod]
  refine ⟨vpn, ?_, ?_, ?_, ?_, ?_, ?_⟩
  · exact Nat.mod_mod _ _
  · exact Nat.mod_eq_of_lt (Nat.pow_lt_pow_right (by decide) h)
  · exact Nat.mod_mod _ _
  · show field leaf.pte 0 10 % 2 ^ 10 = _
    rw [field, Nat.mod_mod, pow_zero, Nat.div_one]
  · show field leaf.pte 59 5 % 2 ^ 5 = _
    have := leaf.pte.isLt
    rw [field]
    omega
  · rfl

theorem Access.microSize_pos (k : Access) : 0 < k.microSize := by
  unfold Access.microSize
  split <;> decide

@[simp] theorem Tlb.setMicro_micro (t : Tlb) (k : Access) (es : List TlbEntry) : (t.setMicro k es).micro k = es := by
  unfold Tlb.setMicro Tlb.micro
  split <;> rfl

@[simp] theorem Tlb.setMicro_joint (t : Tlb) (k : Access) (es : List TlbEntry) : (t.setMicro k es).joint = t.joint := by
  unfold Tlb.setMicro
  split <;> rfl

/-- Another content of the uTLB of an access leaves the entries on their way out and the other uTLB. -/
theorem Tlb.setMicro_others (t : Tlb) (k : Access) (es : List TlbEntry) :
    (t.setMicro k es).leaving = t.leaving ∧
      if k = .fetch then (t.setMicro k es).data = t.data else (t.setMicro k es).fetch = t.fetch := by
  unfold Tlb.setMicro
  split <;> exact ⟨rfl, rfl⟩

/-- A uTLB that takes an entry, in the words of the model. -/
theorem fillsMicro_setMicro {t : Tlb} {k : Access} {e : TlbEntry} {es : List TlbEntry} (mem : e ∈ es)
    (old : ∀ o ∈ es, o = e ∨ o ∈ t.micro k) (all : (t.micro k).length < k.microSize → ∀ o ∈ t.micro k, o ∈ es)
    (size : es.length ≤ k.microSize) : FillsMicro t (t.setMicro k es) k e := by
  rw [← t.setMicro_micro k es] at mem old all size
  exact ⟨mem, old, all, le_max_of_le_left size, t.setMicro_others k es⟩

/-- The uTLB of the access after an entry is brought in (21_mmu_pmp:R245). -/
theorem State.fillMicro_fills (s : State) (k : Access) (e : TlbEntry) : FillsMicro s.me.tlb (s.fillMicro k e).me.tlb k e := by
  have size := k.microSize_pos
  unfold State.fillMicro
  dsimp only
  split
  · next room => exact fillsMicro_setMicro List.mem_cons_self (fun o => List.mem_cons.1) (fun _ o => List.mem_cons_of_mem e) room
  · next full =>
    refine fillsMicro_setMicro List.mem_cons_self (fun o ho => ?_) (fun room => absurd room full) ?_
    · exact (List.mem_cons.1 ho).imp_right fun h => List.mem_of_mem_eraseIdx (List.mem_of_mem_take h)
    · rw [List.length_cons, List.length_take]
      omega

theorem State.fillMicro_joint (s : State) (k : Access) (e : TlbEntry) : (s.fillMicro k e).me.tlb.joint = s.me.tlb.joint := by
  unfold State.fillMicro
  dsimp only
  split <;> exact Tlb.setMicro_joint _ _ _

/-! ### Through the page table -/

/-- The physical address in a page of a leaf. -/
theorem pageAddress_ptePpn (e : Word) (l : Nat) (va : Word) : pageAddress (BitVec.ofNat 28 (ptePpn e)) l va = inPage (ptePpn e) l va := by
  rw [pageAddress, inPage, BitVec.toNat_ofNat, Nat.mod_eq_of_lt (ptePpn_lt e)]

/-- The place that a leaf translates an address to (21_mmu_pmp:R234 step 7, 20_memory:R184). -/
def State.leafPlace (s : State) (p : Priv) (va : Word) (l : Nat) (e : Word) : Place :=
  ⟨inPage (ptePpn e) l va, s.pageAttr (BitVec.ofNat 5 (field e 59 5)) (inPage (ptePpn e) l va), p⟩

/-- The leaf lets the access through: its page is aligned and its flags permit it (21_mmu_pmp:R240, R243). -/
def State.LeafThrough (s : State) (k : Access) (p : Priv) (l : Nat) (e : Word) : Prop :=
  ptePpn e % 2 ^ (9 * l) = 0 ∧ s.LeafPermits k p (e.setWidth 10)

theorem Hidden.leafPermits {s t : State} (h : Hidden s t) (k : Access) (p : Priv) (flags : BitVec 10) :
    t.LeafPermits k p flags ↔ s.LeafPermits k p flags := by
  unfold State.LeafPermits
  rw [h.m, h.soc]

theorem Hidden.leafPlace {s t : State} (h : Hidden s t) (p : Priv) (va : Word) (l : Nat) (e : Word) :
    t.leafPlace p va l e = s.leafPlace p va l e := by
  unfold State.leafPlace State.pageAttr
  rw [h.soc, h.me]

/-- What becomes of an aligned leaf that a walk has found in the state `t`: the place and the refill, or the page fault. -/
def State.useLeaf (t : State) (k : Access) (p : Priv) (va : Word) (leaf : Leaf) : Res Place :=
  if t.me.leafAllows t.soc.sumAllowsFetch k p (leaf.pte.setWidth 10) then
    .ok (t.leafPlace p va leaf.level leaf.pte) (t.refillFor k leaf va)
  else .trap k.pageFault va t

section
variable {s t : State} {k : Access} {p : Priv} {va : Word} {l : Nat} {e : Word}

/-- Translation through the page table is a walk and the use of the leaf it finds. -/
theorem State.throughTable_eq :
    s.throughTable k p va = (s.walk k va (field s.me.sup.satp 0 28) 3).andThen fun leaf t => t.useLeaf k p va leaf := by
  simp only [State.throughTable, State.useLeaf, State.leafPlace, flags_of_pte, pageAddress_ptePpn]

theorem State.useLeaf_of_permits {leaf : Leaf} (h : t.LeafPermits k p (leaf.pte.setWidth 10)) :
    t.useLeaf k p va leaf = .ok (t.leafPlace p va leaf.level leaf.pte) (t.refillFor k leaf va) :=
  if_pos ((t.leafAllows_iff k p _).2 h)

theorem State.useLeaf_of_not_permits {leaf : Leaf} (h : ¬ t.LeafPermits k p (leaf.pte.setWidth 10)) :
    t.useLeaf k p va leaf = .trap k.pageFault va t :=
  if_neg ((t.leafAllows_iff k p _).not.2 h)

/-- A leaf that lets the access through gives its place and enters the TLBs (21_mmu_pmp:R234 step 7). -/
theorem State.throughTable_of_through (h : s.WalksTo true va 3 (field s.me.sup.satp 0 28) l e) (through : s.LeafThrough k p l e) :
    s.throughTable k p va = .ok (s.leafPlace p va l e) (s.refillFor k ⟨l, e, false⟩ va) := by
  obtain ⟨aligned, permits⟩ := through
  rw [State.throughTable_eq, (State.walk_of_walksTo h).2, if_pos aligned, Res.ok_andThen, State.useLeaf_of_permits (leaf := ⟨l, e, false⟩) permits]

/-- A leaf that does not is a page fault (21_mmu_pmp:R243). -/
theorem State.throughTable_of_not_through (h : s.WalksTo true va 3 (field s.me.sup.satp 0 28) l e)
    (barred : ¬ s.LeafThrough k p l e) : s.throughTable k p va = .trap k.pageFault va s := by
  rw [State.throughTable_eq, (State.walk_of_walksTo h).2]
  split
  · next aligned => rw [Res.ok_andThen, State.useLeaf_of_not_permits (leaf := ⟨l, e, false⟩) fun permits => barred ⟨aligned, permits⟩]
  · rfl

/-- The refill after a walk through entries with one value (21_mmu_pmp:R234 step 7, R245). -/
theorem State.refillFor_fills (s : State) (k : Access) (va : Word) (e : Word) (h : l < 3) :
    ∃ c t1, Hidden s (s.refillFor k ⟨l, e, false⟩ va) ∧ CachesLeaf s va l e c ∧
      (∀ o, o ∈ t1.joint ↔ o = c ∨ (o ∈ s.me.tlb.joint ∧ ¬ (o.set = c.set ∧ o.way = c.way))) ∧
      t1 = { s.me.tlb with joint := t1.joint } ∧ (s.refillFor k ⟨l, e, false⟩ va).me.tlb.joint = t1.joint ∧
      FillsMicro t1 (s.refillFor k ⟨l, e, false⟩ va).me.tlb k c :=
  ⟨s.leafEntry ⟨l, e, false⟩ va, (s.refill ⟨l, e, false⟩ va).me.tlb, Hidden.refillFor s k _ va, s.leafEntry_caches ⟨l, e, false⟩ va h,
    fun _ => mem_tlbInsert, rfl, State.fillMicro_joint _ k _, State.fillMicro_fills _ k _⟩

/-- Translation through the page table ends as the entries that the walk may read allow (21_mmu_pmp:R234, R243). -/
theorem State.throughTable_endsWalk (s : State) (k : Access) (p : Priv) (va : Word) :
    (s.throughTable k p va).EndsWalk s k va 3 (field s.me.sup.satp 0 28) (s.LeafThrough k p) fun pl t =>
      Hidden s t ∧ ∃ l e, s.WalksTo false va 3 (field s.me.sup.satp 0 28) l e ∧ s.LeafThrough k p l e ∧ pl = s.leafPlace p va l e := by
  rw [State.throughTable_eq]
  refine ((State.walk_endsWalk (Hidden.refl s) k va _ 3).mono fun l e through => through.1).andThen fun leaf t ⟨hidden, found, aligned⟩ => ?_
  by_cases permits : t.LeafPermits k p (leaf.pte.setWidth 10)
  · rw [State.useLeaf_of_permits permits]
    exact ⟨hidden.trans (Hidden.refillFor t k leaf va), leaf.level, leaf.pte, found, ⟨aligned, (hidden.leafPermits k p _).1 permits⟩,
      hidden.leafPlace p va leaf.level leaf.pte⟩
  · rw [State.useLeaf_of_not_permits permits]
    exact ⟨hidden, rfl, .inl ⟨rfl, .inr (.inl ⟨leaf.level, leaf.pte, found, fun ⟨_, h⟩ => permits ((hidden.leafPermits k p _).2 h)⟩)⟩⟩

end

/-! ### Through the TLBs -/

section
variable {s : State} {k : Access} {p : Priv} {va : Word} {e : TlbEntry}

theorem canonical_iff (va : Word) : canonical va = true ↔ va.toNat / 2 ^ 38 = 0 ∨ va.toNat / 2 ^ 38 = 2 ^ 26 - 1 := by
  rw [canonical, Bool.or_eq_true, beq_iff_eq, beq_iff_eq]

/-- Translation without an entry on its way out (21_mmu_pmp:R230, R236). -/
theorem State.translate_eq_lookup (ht : s.me.translates (s.me.effPriv k) = true)
    (hc : va.toNat / 2 ^ 38 = 0 ∨ va.toNat / 2 ^ 38 = 2 ^ 26 - 1) (gone : s.me.hitsIn va s.me.tlb.leaving = []) :
    s.translate k va = s.lookup k (s.me.effPriv k) va := by
  unfold State.translate State.lookupLeaving
  dsimp only
  rw [if_pos ht, if_pos ((canonical_iff va).2 hc), gone]

/-- An address that is not canonical (21_mmu_pmp:R236). -/
theorem State.translate_of_not_canonical (ht : s.me.translates (s.me.effPriv k) = true)
    (hc : ¬ (va.toNat / 2 ^ 38 = 0 ∨ va.toNat / 2 ^ 38 = 2 ^ 26 - 1)) : s.translate k va = .trap k.pageFault va s := by
  unfold State.translate
  dsimp only
  rw [if_pos ht, if_neg ((canonical_iff va).not.2 hc)]

/-- An address that is not translated (21_mmu_pmp:R230, log 8). -/
theorem State.translate_of_untranslated (ht : s.me.translates (s.me.effPriv k) = false) :
    s.translate k va =
      if s.soc.highAddrFault = true ∧ 2 ^ 40 ≤ va.toNat then .trap k.accessFault va s
      else .ok ⟨va.setWidth 40, s.soc.attrOf (va.setWidth 40), s.me.effPriv k⟩ s := by
  have high : (s.soc.highAddrFault && va.toNat / 2 ^ 40 != 0) = true ↔ s.soc.highAddrFault = true ∧ 2 ^ 40 ≤ va.toNat := by
    rw [Bool.and_eq_true, bne_iff_ne]
    exact and_congr_right fun _ => by omega
  unfold State.translate
  dsimp only
  rw [if_neg (by rw [ht]; exact Bool.false_ne_true)]
  simp only [high]

/-- One hit in the uTLB decides (21_mmu_pmp:R245). -/
theorem State.lookup_of_micro (h : s.me.hitsIn va (s.me.tlb.micro k) = [e]) : s.lookup k p va = s.throughTlb k p va e := by
  unfold State.lookup
  rw [h]

/-- Else one hit in the jTLB decides, and its entry enters the uTLB (21_mmu_pmp:R245). -/
theorem State.lookup_of_joint (none : s.me.hitsIn va (s.me.tlb.micro k) = []) (h : s.me.hitsIn va s.me.tlb.joint = [e]) :
    s.lookup k p va = (s.throughTlb k p va e).andThen fun pl t => .ok pl (t.fillMicro k e) := by
  unfold State.lookup
  rw [none, h]

/-- A miss raises the page fault with MHRD set (21_mmu_pmp:R244, log 44), and else goes through the page table. -/
theorem State.lookup_of_miss (none : s.me.hitsIn va (s.me.tlb.micro k) = []) (none' : s.me.hitsIn va s.me.tlb.joint = []) :
    s.lookup k p va = if s.me.th.mxstatus.getLsbD 18 then .trap k.pageFault va s else s.throughTable k p va := by
  unfold State.lookup
  rw [none, none']
  rfl

/-- An entry whose flags permit the access gives the place in its page (21_mmu_pmp:R246). -/
theorem State.throughTlb_of_permits {l : Nat} (hl : pageLevel e.pageSize = some l) (h : s.LeafPermits k p e.flags) :
    s.throughTlb k p va e = .ok ⟨inPage e.ppn.toNat l va, s.pageAttr e.attr (inPage e.ppn.toNat l va), p⟩ s := by
  unfold State.throughTlb
  rw [if_pos ((s.leafAllows_iff k p _).2 h), hl]
  rfl

theorem State.throughTlb_of_not_permits (h : ¬ s.LeafPermits k p e.flags) : s.throughTlb k p va e = .trap k.pageFault va s :=
  if_neg ((s.leafAllows_iff k p _).not.2 h)

end

/-! ### Settling -/

section
variable {s : State} {k : Access} {p : Priv} {va : Word}

/-- A walk that comes to an entry which the walker may not read ends there, as the check that bars it says (21_mmu_pmp:R234 step 2,
log 21, 37). -/
theorem State.throughTable_of_meets {pa : BitVec 40} (h : s.WalkMeets true va pa 3 (field s.me.sup.satp 0 28)) :
    (s.me.pmp.allows .supervisor 1 pa = false → s.throughTable k p va = .trap k.accessFault va s) ∧
    (s.me.pmp.allows .supervisor 1 pa = true → attrLegal (s.soc.attrOf pa) = false →
      s.throughTable k p va = .refused .undefinedAttributes) ∧
    (s.me.pmp.allows .supervisor 1 pa = true → attrLegal (s.soc.attrOf pa) = true → s.soc.busError pa = true →
      s.throughTable k p va = .trap k.pageFault va s) := by
  obtain ⟨i, table, rfl, walk⟩ := State.walk_of_walkMeets (k := k) h
  rw [State.throughTable_eq, walk]
  refine ⟨fun denied => ?_, fun allowed undefined => ?_, fun allowed legal error => ?_⟩
  · rw [State.walk_of_denied denied, Res.trap_andThen]
  · rw [State.walk_of_undefined allowed undefined]
    rfl
  · rw [State.walk_of_busError allowed legal error, Res.trap_andThen]

theorem State.throughTable_of_fails (h : s.WalkFails true va 3 (field s.me.sup.satp 0 28)) :
    s.throughTable k p va = .trap k.pageFault va s := by
  rw [State.throughTable_eq, State.walk_of_walkFails h, Res.trap_andThen]

/-- One hit, in the uTLB or else in the jTLB: the entry's page and flags decide, and that of the jTLB enters the uTLB
(21_mmu_pmp:R245, R246). -/
theorem State.lookup_of_hit {e : TlbEntry} {l : Nat}
    (h : s.me.hitsIn va (s.me.tlb.micro k) = [e] ∨ (s.me.hitsIn va (s.me.tlb.micro k) = [] ∧ s.me.hitsIn va s.me.tlb.joint = [e]))
    (hl : pageLevel e.pageSize = some l) :
    (s.LeafPermits k p e.flags →
      ∃ s', s.lookup k p va = .ok ⟨inPage e.ppn.toNat l va, s.pageAttr e.attr (inPage e.ppn.toNat l va), p⟩ s' ∧ Hidden s s' ∧
        (s.me.hitsIn va (s.me.tlb.micro k) = [e] → s' = s) ∧
        (s.me.hitsIn va (s.me.tlb.micro k) = [] →
          s'.me.tlb.joint = s.me.tlb.joint ∧ FillsMicro s.me.tlb s'.me.tlb k e)) ∧
    (¬ s.LeafPermits k p e.flags → s.lookup k p va = .trap k.pageFault va s) := by
  rcases h with micro | ⟨none, joint⟩
  · rw [State.lookup_of_micro micro, micro]
    exact ⟨fun permits => ⟨s, State.throughTlb_of_permits hl permits, .refl s, fun _ => rfl, fun h => absurd h (List.cons_ne_nil e [])⟩,
      State.throughTlb_of_not_permits⟩
  · rw [State.lookup_of_joint none joint, none]
    refine ⟨fun permits => ⟨s.fillMicro k e, ?_, .fillMicro s k e, fun h => absurd h.symm (List.cons_ne_nil e []),
      fun _ => ⟨s.fillMicro_joint k e, s.fillMicro_fills k e⟩⟩, fun barred => ?_⟩
    · rw [State.throughTlb_of_permits hl permits, Res.ok_andThen]
    · rw [State.throughTlb_of_not_permits barred, Res.trap_andThen]

end

/-- Settles O51: the rules of untranslated addresses, of the walk over entries of one value and over any, and of hits. -/
theorem sv39Translation : Obligations.Sv39Translation := by
  unfold Obligations.Sv39Translation
  intro s k code denied va hk p hits micro attrOf root
  obtain ⟨rfl, rfl⟩ : code = k.pageFault ∧ denied = k.accessFault := by
    simp only [List.mem_cons, Prod.mk.injEq, List.not_mem_nil, or_false] at hk
    rcases hk with ⟨rfl, h⟩ | ⟨rfl, h⟩ | ⟨rfl, h⟩ | ⟨rfl, h⟩ | ⟨rfl, h⟩ <;> exact h
  refine ⟨fun plain => ?_, fun ht => ⟨State.translate_of_not_canonical ht, fun hc gone => ?_⟩⟩
  · rw [State.translate_of_untranslated plain]
    refine ⟨fun low => if_neg ?_, fun faults high => if_pos ⟨faults, high⟩⟩
    rintro ⟨faults, high⟩
    rcases low with ignored | below
    · exact absurd (faults.symm.trans ignored) (by decide)
    · exact absurd below (Nat.not_lt.2 high)
  · rw [State.translate_eq_lookup ht hc gone]
    refine ⟨fun none none' mhrd => ?_, fun none none' mhrd => ?_, fun e l hit level => State.lookup_of_hit hit level⟩
    · exact (State.lookup_of_miss none none').trans (if_pos mhrd)
    · rw [(State.lookup_of_miss none none').trans (if_neg (by rw [mhrd]; exact Bool.false_ne_true))]
      refine ⟨fun l e found => ⟨fun through => ?_, State.throughTable_of_not_through found⟩, State.throughTable_of_fails,
        fun pa => State.throughTable_of_meets, ?_⟩
      · obtain ⟨c, t1, fills⟩ := s.refillFor_fills k va e (State.walk_of_walksTo (k := k) found).1
        exact ⟨_, c, t1, State.throughTable_of_through found through, fills⟩
      · have ends := s.throughTable_endsWalk k p va
        refine ⟨fun pl s' answer => ?_, fun c info s' answer => ?_, fun r answer => ?_, fun r answer => ?_⟩
        all_goals
          rw [answer] at ends
          exact ends

end Sys2Proof.Machine

namespace Sys2Proof

/-! ### The pieces of a code -/

/-- Numbers that fit the pieces of a 32-bit code (30_encoding:R282). -/
structure Fits32 (f7 b a f3 d op : Nat) : Prop where
  funct7 : f7 < 128
  rs2 : b < 32
  rs1 : a < 32
  funct3 : f3 < 8
  rd : d < 32
  opcode : op < 128

/-- Numbers that fit the pieces of a 16-bit code (30_encoding:R285). -/
structure Fits16 (f3 e r t q : Nat) : Prop where
  funct3 : f3 < 8
  bit12 : e < 2
  rd : r < 32
  rs2 : t < 32
  quadrant : q < 4

theorem bits_lt (w lo len : Nat) : bits w lo len < 2 ^ len := Nat.mod_lt _ (Nat.two_pow_pos len)

theorem fits32_bits (w : Nat) :
    Fits32 (bits w 25 7) (bits w 20 5) (bits w 15 5) (bits w 12 3) (bits w 7 5) (bits w 0 7) :=
  ⟨bits_lt .., bits_lt .., bits_lt .., bits_lt .., bits_lt .., bits_lt ..⟩

theorem fits16_bits (w : Nat) : Fits16 (bits w 13 3) (bits w 12 1) (bits w 7 5) (bits w 2 5) (bits w 0 2) :=
  ⟨bits_lt .., bits_lt .., bits_lt .., bits_lt .., bits_lt ..⟩

/-- A 32-bit code is made of the pieces the decoder reads. -/
theorem word32_bits (w : BitVec 32) :
    word32 (bits w.toNat 25 7) (bits w.toNat 20 5) (bits w.toNat 15 5) (bits w.toNat 12 3) (bits w.toNat 7 5)
      (bits w.toNat 0 7) = w :=
  word32_eq (by unfold bits; omega)

/-- A 16-bit code is made of the pieces the decoder reads. -/
theorem word16_bits (w : BitVec 16) :
    word16 (bits w.toNat 13 3) (bits w.toNat 12 1) (bits w.toNat 7 5) (bits w.toNat 2 5) (bits w.toNat 0 2) = w :=
  word16_eq (by unfold bits; omega)

/-- The decoder reads the pieces a 32-bit code was made of. -/
theorem decodeRow_full {f7 b a f3 d op : Nat} (p : Fits32 f7 b a f3 d op) :
    decodeRow (.full (word32 f7 b a f3 d op)) = decodeOpcode f7 b a f3 d op := by
  obtain ⟨h7, hb, ha, h3, hd, ho⟩ := p
  obtain ⟨w, hw⟩ : ∃ w, w = f7 * 33554432 + b * 1048576 + a * 32768 + f3 * 4096 + d * 128 + op := ⟨_, rfl⟩
  have number : (word32 f7 b a f3 d op).toNat = w := by
    unfold word32
    rw [BitVec.toNat_ofNat, ← hw, Nat.mod_eq_of_lt (by omega)]
  change decode32 _ = _
  unfold decode32
  rw [number, show bits w 25 7 = f7 by unfold bits; omega, show bits w 20 5 = b by unfold bits; omega,
    show bits w 15 5 = a by unfold bits; omega, show bits w 12 3 = f3 by unfold bits; omega,
    show bits w 7 5 = d by unfold bits; omega, show bits w 0 7 = op by unfold bits; omega]

/-- The decoder reads the pieces a 16-bit code was made of. -/
theorem decodeRow_half {f3 e r t q : Nat} (p : Fits16 f3 e r t q) :
    decodeRow (.half (word16 f3 e r t q)) = decodeQuadrant f3 e r t q := by
  obtain ⟨h3, he, hr, ht, hq⟩ := p
  obtain ⟨w, hw⟩ : ∃ w, w = f3 * 8192 + e * 4096 + r * 128 + t * 4 + q := ⟨_, rfl⟩
  have number : (word16 f3 e r t q).toNat = w := by
    unfold word16
    rw [BitVec.toNat_ofNat, ← hw, Nat.mod_eq_of_lt (by omega)]
  change decode16 _ = _
  unfold decode16
  rw [number, show bits w 13 3 = f3 by unfold bits; omega, show bits w 12 1 = e by unfold bits; omega,
    show bits w 7 5 = r by unfold bits; omega, show bits w 2 5 = t by unfold bits; omega,
    show bits w 0 2 = q by unfold bits; omega]

/-- The lowest digit of a number and the rest. -/
theorem div_mod_of_digit {n h m x : Nat} (hn : n = h * m + x) (hx : x < m) : n / m = h ∧ n % m = x :=
  (Nat.div_mod_unique (Nat.zero_lt_of_lt hx)).2 ⟨by rw [hn, Nat.mul_comm, Nat.add_comm], hx⟩

/-- The digit of a number at place `a` and the rest, from place `b`. -/
theorem div_mod_of_digit_above {n a h m x : Nat} (b : Nat) (hn : n / a = h * m + x) (hx : x < m)
    (place : a * m = b := by rfl) : n / b = h ∧ n / a % m = x := by
  rw [← place, ← Nat.div_div_eq_div_mul]
  exact div_mod_of_digit hn hx

theorem ofNat_eq_of_toNat {w n : Nat} {x : BitVec w} (h : n = x.toNat) : BitVec.ofNat w n = x := by
  rw [h, BitVec.ofNat_toNat, BitVec.setWidth_eq]

theorem ofNat_toNat_self {w : Nat} (x : BitVec w) : BitVec.ofNat w x.toNat = x := ofNat_eq_of_toNat rfl

/-! ### The formats of 32-bit codes: the row of an encoded instruction (30_encoding:R282, R286)

The numbers in implicit arguments are the constants of a row. What is left to each instruction is `row`: which row of its
opcode those constants choose. -/

section
variable {f7 b f3 d op k : Nat}

/-- Two registers and a destination. -/
theorem decodeRow_rType {i : Reg → Reg → Reg → Instr} {rd rs1 rs2 : Reg}
    (row : ∀ b a d, decodeOpcode f7 b a f3 d op = some (i (.ofNat 5 d) (.ofNat 5 a) (.ofNat 5 b)))
    (fits : f7 < 128 ∧ f3 < 8 ∧ op < 128 := by decide) :
    decodeRow (.full (word32 f7 rs2.toNat rs1.toNat f3 rd.toNat op)) = some (i rd rs1 rs2) := by
  obtain ⟨h7, h3, ho⟩ := fits
  refine (decodeRow_full ⟨h7, rs2.isLt, rs1.isLt, h3, rd.isLt, ho⟩).trans ((row _ _ _).trans ?_)
  simp only [ofNat_toNat_self]

/-- One register and a destination. -/
theorem decodeRow_unary {i : Reg → Reg → Instr} {rd rs1 : Reg}
    (row : ∀ a d, decodeOpcode f7 b a f3 d op = some (i (.ofNat 5 d) (.ofNat 5 a)))
    (fits : f7 < 128 ∧ b < 32 ∧ f3 < 8 ∧ op < 128 := by decide) :
    decodeRow (.full (word32 f7 b rs1.toNat f3 rd.toNat op)) = some (i rd rs1) := by
  obtain ⟨h7, hb, h3, ho⟩ := fits
  refine (decodeRow_full ⟨h7, hb, rs1.isLt, h3, rd.isLt, ho⟩).trans ((row _ _).trans ?_)
  simp only [ofNat_toNat_self]

/-- One register, no destination. -/
theorem decodeRow_rs1 {i : Reg → Instr} {rs1 : Reg}
    (row : ∀ a, decodeOpcode f7 b a f3 0 op = some (i (.ofNat 5 a)))
    (fits : f7 < 128 ∧ b < 32 ∧ f3 < 8 ∧ op < 128 := by decide) :
    decodeRow (.full (word32 f7 b rs1.toNat f3 0 op)) = some (i rs1) := by
  obtain ⟨h7, hb, h3, ho⟩ := fits
  refine (decodeRow_full ⟨h7, hb, rs1.isLt, h3, by decide, ho⟩).trans ((row _).trans ?_)
  simp only [ofNat_toNat_self]

/-- Two registers, no destination. -/
theorem decodeRow_rs1rs2 {i : Reg → Reg → Instr} {rs1 rs2 : Reg}
    (row : ∀ b a, decodeOpcode f7 b a f3 0 op = some (i (.ofNat 5 a) (.ofNat 5 b)))
    (fits : f7 < 128 ∧ f3 < 8 ∧ op < 128 := by decide) :
    decodeRow (.full (word32 f7 rs2.toNat rs1.toNat f3 0 op)) = some (i rs1 rs2) := by
  obtain ⟨h7, h3, ho⟩ := fits
  refine (decodeRow_full ⟨h7, rs2.isLt, rs1.isLt, h3, by decide, ho⟩).trans ((row _ _).trans ?_)
  simp only [ofNat_toNat_self]

/-- Two registers, a destination and a rounding mode. -/
theorem decodeRow_rounded {i : Reg → Reg → Reg → BitVec 3 → Instr} {fd fs1 fs2 : Reg} {rm : BitVec 3}
    (row : ∀ b a f3 d, decodeOpcode f7 b a f3 d op = some (i (.ofNat 5 d) (.ofNat 5 a) (.ofNat 5 b) (.ofNat 3 f3)))
    (fits : f7 < 128 ∧ op < 128 := by decide) :
    decodeRow (.full (word32 f7 fs2.toNat fs1.toNat rm.toNat fd.toNat op)) = some (i fd fs1 fs2 rm) := by
  obtain ⟨h7, ho⟩ := fits
  refine (decodeRow_full ⟨h7, fs2.isLt, fs1.isLt, rm.isLt, fd.isLt, ho⟩).trans ((row _ _ _ _).trans ?_)
  simp only [ofNat_toNat_self]

/-- One register, a destination and a rounding mode. -/
theorem decodeRow_roundedUnary {i : Reg → Reg → BitVec 3 → Instr} {fd fs1 : Reg} {rm : BitVec 3}
    (row : ∀ a f3 d, decodeOpcode f7 b a f3 d op = some (i (.ofNat 5 d) (.ofNat 5 a) (.ofNat 3 f3)))
    (fits : f7 < 128 ∧ b < 32 ∧ op < 128 := by decide) :
    decodeRow (.full (word32 f7 b fs1.toNat rm.toNat fd.toNat op)) = some (i fd fs1 rm) := by
  obtain ⟨h7, hb, ho⟩ := fits
  refine (decodeRow_full ⟨h7, hb, fs1.isLt, rm.isLt, fd.isLt, ho⟩).trans ((row _ _ _).trans ?_)
  simp only [ofNat_toNat_self]

/-- Three registers, a destination and a rounding mode; the number format in the low bits of `funct7`. -/
theorem decodeRow_r4Type {i : Reg → Reg → Reg → Reg → BitVec 3 → Instr} {fd fs1 fs2 fs3 : Reg} {rm : BitVec 3}
    (row : ∀ f7 b a f3 d, f7 % 4 = k →
      decodeOpcode f7 b a f3 d op = some (i (.ofNat 5 d) (.ofNat 5 a) (.ofNat 5 b) (.ofNat 5 (f7 / 4)) (.ofNat 3 f3)))
    (fits : k < 4 ∧ op < 128 := by decide) :
    decodeRow (.full (word32 (fs3.toNat * 4 + k) fs2.toNat fs1.toNat rm.toNat fd.toNat op)) = some (i fd fs1 fs2 fs3 rm) := by
  obtain ⟨hk, ho⟩ := fits
  have h3 := fs3.isLt
  refine (decodeRow_full ⟨by omega, fs2.isLt, fs1.isLt, rm.isLt, fd.isLt, ho⟩).trans ((row _ _ _ _ _ (by omega)).trans ?_)
  rw [show (fs3.toNat * 4 + k) / 4 = fs3.toNat by omega]
  simp only [ofNat_toNat_self]

theorem imm12_joined (imm : BitVec 12) : BitVec.ofNat 12 (imm.toNat / 32 * 32 + imm.toNat % 32) = imm :=
  ofNat_eq_of_toNat (by omega)

/-- A 12-bit immediate, one register and a destination. -/
theorem decodeRow_iType {i : Reg → Reg → BitVec 12 → Instr} {rd rs1 : Reg} {imm : BitVec 12}
    (row : ∀ f7 b a d, decodeOpcode f7 b a f3 d op = some (i (.ofNat 5 d) (.ofNat 5 a) (.ofNat 12 (f7 * 32 + b))))
    (fits : f3 < 8 ∧ op < 128 := by decide) :
    decodeRow (.full (word32 (imm.toNat / 32) (imm.toNat % 32) rs1.toNat f3 rd.toNat op)) = some (i rd rs1 imm) := by
  obtain ⟨h3, ho⟩ := fits
  have hi := imm.isLt
  refine (decodeRow_full ⟨by omega, by omega, rs1.isLt, h3, rd.isLt, ho⟩).trans ((row _ _ _ _).trans ?_)
  simp only [imm12_joined, ofNat_toNat_self]

/-- A register address, a source and a destination, as CSR instructions name them. -/
theorem decodeRow_csr {i : Reg → BitVec 12 → Reg → Instr} {rd rs1 : Reg} {csr : BitVec 12}
    (row : ∀ f7 b a d, decodeOpcode f7 b a f3 d op = some (i (.ofNat 5 d) (.ofNat 12 (f7 * 32 + b)) (.ofNat 5 a)))
    (fits : f3 < 8 ∧ op < 128 := by decide) :
    decodeRow (.full (word32 (csr.toNat / 32) (csr.toNat % 32) rs1.toNat f3 rd.toNat op)) = some (i rd csr rs1) :=
  decodeRow_iType (i := fun rd rs1 imm => i rd imm rs1) row fits

/-- A 12-bit immediate and two registers. -/
theorem decodeRow_sType {i : Reg → Reg → BitVec 12 → Instr} {rs2 rs1 : Reg} {imm : BitVec 12}
    (row : ∀ f7 b a d, decodeOpcode f7 b a f3 d op = some (i (.ofNat 5 b) (.ofNat 5 a) (.ofNat 12 (f7 * 32 + d))))
    (fits : f3 < 8 ∧ op < 128 := by decide) :
    decodeRow (.full (word32 (imm.toNat / 32) rs2.toNat rs1.toNat f3 (imm.toNat % 32) op)) = some (i rs2 rs1 imm) := by
  obtain ⟨h3, ho⟩ := fits
  have hi := imm.isLt
  refine (decodeRow_full ⟨by omega, rs2.isLt, rs1.isLt, h3, by omega, ho⟩).trans ((row _ _ _ _).trans ?_)
  simp only [imm12_joined, ofNat_toNat_self]

/-- The piece that holds bits 4:1 and 11 of an offset. -/
theorem low_offset (n : Nat) :
    (n % 16 * 2 + n / 1024 % 2) / 2 = n % 16 ∧ (n % 16 * 2 + n / 1024 % 2) % 2 = n / 1024 % 2 := by omega

/-- A branch offset and two registers. -/
theorem decodeRow_bType {i : Reg → Reg → BitVec 12 → Instr} {rs1 rs2 : Reg} {off : BitVec 12}
    (row : ∀ f7 b a d, decodeOpcode f7 b a f3 d op =
      some (i (.ofNat 5 a) (.ofNat 5 b) (.ofNat 12 (f7 / 64 * 2048 + d % 2 * 1024 + f7 % 64 * 16 + d / 2))))
    (fits : f3 < 8 ∧ op < 128 := by decide) :
    decodeRow (.full (word32 (off.toNat / 2048 * 64 + off.toNat / 16 % 64) rs2.toNat rs1.toNat f3
      (off.toNat % 16 * 2 + off.toNat / 1024 % 2) op)) = some (i rs1 rs2 off) := by
  obtain ⟨h3, ho⟩ := fits
  have hi := off.isLt
  refine (decodeRow_full ⟨by omega, rs2.isLt, rs1.isLt, h3, by omega, ho⟩).trans ((row _ _ _ _).trans ?_)
  have bit12 : (off.toNat / 2048 * 64 + off.toNat / 16 % 64) / 64 = off.toNat / 2048 := by omega
  have bits10_5 : (off.toNat / 2048 * 64 + off.toNat / 16 % 64) % 64 = off.toNat / 16 % 64 := by omega
  obtain ⟨bits4_1, bit11⟩ := low_offset off.toNat
  rw [bit12, bits10_5, bits4_1, bit11, ofNat_eq_of_toNat (x := off) (by omega)]
  simp only [ofNat_toNat_self]

/-- A 20-bit immediate and a destination. -/
theorem decodeRow_uType {i : Reg → BitVec 20 → Instr} {rd : Reg} {imm : BitVec 20}
    (row : ∀ f7 b a f3 d, decodeOpcode f7 b a f3 d op =
      some (i (.ofNat 5 d) (.ofNat 20 (f7 * 8192 + b * 256 + a * 8 + f3))))
    (fits : op < 128 := by decide) :
    decodeRow (.full (word32 (imm.toNat / 8192) (imm.toNat / 256 % 32) (imm.toNat / 8 % 32) (imm.toNat % 8) rd.toNat op)) =
      some (i rd imm) := by
  have hi := imm.isLt
  refine (decodeRow_full ⟨by omega, by omega, by omega, by omega, rd.isLt, fits⟩).trans ((row _ _ _ _ _).trans ?_)
  rw [ofNat_toNat_self, ofNat_eq_of_toNat (x := imm) (by omega)]

/-- The offset of JAL and its destination. -/
theorem decodeRow_jal (rd : Reg) (off : BitVec 20) : decodeRow (encode (.jal rd off)) = some (.jal rd off) := by
  have hi := off.isLt
  refine (decodeRow_full ⟨by omega, by omega, by omega, by omega, rd.isLt, by decide⟩).trans ?_
  have bit20 : (off.toNat / 524288 * 64 + off.toNat / 16 % 64) / 64 = off.toNat / 524288 := by omega
  have bits10_5 : (off.toNat / 524288 * 64 + off.toNat / 16 % 64) % 64 = off.toNat / 16 % 64 := by omega
  change decodeJal _ _ _ _ _ = _
  unfold decodeJal
  obtain ⟨bits4_1, bit11⟩ := low_offset off.toNat
  rw [bit20, bits10_5, bits4_1, bit11, ofNat_toNat_self, ofNat_eq_of_toNat (x := off) (by omega)]

/-- A 6-bit immediate, one register and a destination; the rest of `funct7` is the constant `k`. -/
theorem decodeRow_imm6 {i : Reg → Reg → BitVec 6 → Instr} {rd rs1 : Reg} {imm : BitVec 6}
    (row : ∀ f7 b a d, f7 = k ∨ f7 = k + 1 →
      decodeOpcode f7 b a f3 d op = some (i (.ofNat 5 d) (.ofNat 5 a) (.ofNat 6 (f7 % 2 * 32 + b))))
    (fits : k % 2 = 0 ∧ k < 128 ∧ f3 < 8 ∧ op < 128 := by decide) :
    decodeRow (.full (word32 (k + imm.toNat / 32) (imm.toNat % 32) rs1.toNat f3 rd.toNat op)) = some (i rd rs1 imm) := by
  obtain ⟨even, hk, h3, ho⟩ := fits
  have hi := imm.isLt
  refine (decodeRow_full ⟨by omega, by omega, rs1.isLt, h3, rd.isLt, ho⟩).trans ((row _ _ _ _ (by omega)).trans ?_)
  rw [ofNat_eq_of_toNat (x := imm) (by omega)]
  simp only [ofNat_toNat_self]

/-- Two 6-bit immediates, one register and a destination. -/
theorem decodeRow_bitField {i : Reg → Reg → BitVec 6 → BitVec 6 → Instr} {rd rs1 : Reg} {msb lsb : BitVec 6}
    (row : ∀ f7 b a d,
      decodeOpcode f7 b a f3 d op = some (i (.ofNat 5 d) (.ofNat 5 a) (.ofNat 6 (f7 / 2)) (.ofNat 6 (f7 % 2 * 32 + b))))
    (fits : f3 < 8 ∧ op < 128 := by decide) :
    decodeRow (.full (word32 (msb.toNat * 2 + lsb.toNat / 32) (lsb.toNat % 32) rs1.toNat f3 rd.toNat op)) =
      some (i rd rs1 msb lsb) := by
  obtain ⟨h3, ho⟩ := fits
  have hm := msb.isLt
  have hl := lsb.isLt
  refine (decodeRow_full ⟨by omega, by omega, rs1.isLt, h3, rd.isLt, ho⟩).trans ((row _ _ _ _).trans ?_)
  rw [ofNat_eq_of_toNat (x := msb) (by omega), ofNat_eq_of_toNat (x := lsb) (by omega)]
  simp only [ofNat_toNat_self]

/-- A 2-bit immediate and three registers, or two and a 5-bit immediate; the rest of `funct7` is the constant `k`. -/
theorem decodeRow_imm2 {i : Reg → Reg → Reg → BitVec 2 → Instr} {rd rs1 rs2 : Reg} {imm : BitVec 2}
    (row : ∀ f7 b a d, f7 = k ∨ f7 = k + 1 ∨ f7 = k + 2 ∨ f7 = k + 3 →
      decodeOpcode f7 b a f3 d op = some (i (.ofNat 5 d) (.ofNat 5 a) (.ofNat 5 b) (.ofNat 2 f7)))
    (fits : k % 4 = 0 ∧ k < 128 ∧ f3 < 8 ∧ op < 128 := by decide) :
    decodeRow (.full (word32 (k + imm.toNat) rs2.toNat rs1.toNat f3 rd.toNat op)) = some (i rd rs1 rs2 imm) := by
  obtain ⟨aligned, hk, h3, ho⟩ := fits
  have hi := imm.isLt
  refine (decodeRow_full ⟨by omega, rs2.isLt, rs1.isLt, h3, rd.isLt, ho⟩).trans ((row _ _ _ _ (by omega)).trans ?_)
  have low : BitVec.ofNat 2 (k + imm.toNat) = imm := BitVec.eq_of_toNat_eq (by rw [BitVec.toNat_ofNat]; omega)
  simp only [low, ofNat_toNat_self]

/-- The two data registers of a pair and its address. -/
theorem decodeRow_pair {i : Reg → Reg → Reg → BitVec 2 → Instr} {rd1 rd2 rs1 : Reg} {imm : BitVec 2}
    (row : ∀ f7 b a d, f7 = k ∨ f7 = k + 1 ∨ f7 = k + 2 ∨ f7 = k + 3 →
      decodeOpcode f7 b a f3 d op = some (i (.ofNat 5 d) (.ofNat 5 b) (.ofNat 5 a) (.ofNat 2 f7)))
    (fits : k % 4 = 0 ∧ k < 128 ∧ f3 < 8 ∧ op < 128 := by decide) :
    decodeRow (.full (word32 (k + imm.toNat) rd2.toNat rs1.toNat f3 rd1.toNat op)) = some (i rd1 rd2 rs1 imm) :=
  decodeRow_imm2 (i := fun rd rs1 rs2 => i rd rs2 rs1) row fits

/-- The bits of an atomic instruction's `funct7` (42_rv64a). -/
theorem ordering_bits (aq rl : BitVec 1) (aligned : k % 4 = 0) :
    BitVec.ofNat 1 ((k + aq.toNat * 2 + rl.toNat) / 2) = aq ∧ BitVec.ofNat 1 (k + aq.toNat * 2 + rl.toNat) = rl := by
  have ha := aq.isLt
  have hr := rl.isLt
  refine ⟨BitVec.eq_of_toNat_eq ?_, BitVec.eq_of_toNat_eq ?_⟩ <;> rw [BitVec.toNat_ofNat] <;> omega

/-- An atomic instruction with two source registers. -/
theorem decodeRow_amo {i : Reg → Reg → Reg → BitVec 1 → BitVec 1 → Instr} {rd rs2 rs1 : Reg} {aq rl : BitVec 1}
    (row : ∀ f7 b a d, f7 = k ∨ f7 = k + 1 ∨ f7 = k + 2 ∨ f7 = k + 3 →
      decodeOpcode f7 b a f3 d op = some (i (.ofNat 5 d) (.ofNat 5 b) (.ofNat 5 a) (.ofNat 1 (f7 / 2)) (.ofNat 1 f7)))
    (fits : k % 4 = 0 ∧ k < 128 ∧ f3 < 8 ∧ op < 128 := by decide) :
    decodeRow (.full (word32 (k + aq.toNat * 2 + rl.toNat) rs2.toNat rs1.toNat f3 rd.toNat op)) =
      some (i rd rs2 rs1 aq rl) := by
  obtain ⟨aligned, hk, h3, ho⟩ := fits
  obtain ⟨ha, hr⟩ := And.intro aq.isLt rl.isLt
  refine (decodeRow_full ⟨by omega, rs2.isLt, rs1.isLt, h3, rd.isLt, ho⟩).trans ((row _ _ _ _ (by omega)).trans ?_)
  simp only [ordering_bits aq rl aligned, ofNat_toNat_self]

/-- An atomic instruction with one source register. -/
theorem decodeRow_lr {i : Reg → Reg → BitVec 1 → BitVec 1 → Instr} {rd rs1 : Reg} {aq rl : BitVec 1}
    (row : ∀ f7 a d, f7 = k ∨ f7 = k + 1 ∨ f7 = k + 2 ∨ f7 = k + 3 →
      decodeOpcode f7 0 a f3 d op = some (i (.ofNat 5 d) (.ofNat 5 a) (.ofNat 1 (f7 / 2)) (.ofNat 1 f7)))
    (fits : k % 4 = 0 ∧ k < 128 ∧ f3 < 8 ∧ op < 128 := by decide) :
    decodeRow (.full (word32 (k + aq.toNat * 2 + rl.toNat) 0 rs1.toNat f3 rd.toNat op)) = some (i rd rs1 aq rl) := by
  obtain ⟨aligned, hk, h3, ho⟩ := fits
  obtain ⟨ha, hr⟩ := And.intro aq.isLt rl.isLt
  refine (decodeRow_full ⟨by omega, by decide, rs1.isLt, h3, rd.isLt, ho⟩).trans ((row _ _ _ (by omega)).trans ?_)
  simp only [ordering_bits aq rl aligned, ofNat_toNat_self]

/-- FENCE. -/
theorem decodeRow_fence (fm pred succ : BitVec 4) (rs1 rd : Reg) :
    decodeRow (encode (.fence fm pred succ rs1 rd)) = some (.fence fm pred succ rs1 rd) := by
  obtain ⟨hf, hp, hs⟩ := And.intro fm.isLt (And.intro pred.isLt succ.isLt)
  refine (decodeRow_full ⟨by omega, by omega, rs1.isLt, by decide, rd.isLt, by decide⟩).trans ?_
  change some (Instr.fence _ _ _ _ _) = _
  have low : BitVec.ofNat 4 (pred.toNat % 2 * 16 + succ.toNat) = succ :=
    BitVec.eq_of_toNat_eq (by rw [BitVec.toNat_ofNat]; omega)
  rw [low, ofNat_eq_of_toNat (x := fm) (by omega), ofNat_eq_of_toNat (x := pred) (by omega)]
  simp only [ofNat_toNat_self]

end

end Sys2Proof

namespace Sys2Proof

/-! ### The formats of 16-bit codes: the row of an encoded instruction (30_encoding:R285) -/

section
variable {f3 e q k : Nat}

theorem ofNat_eq_of_mod {w n : Nat} {x : BitVec w} (h : n % 2 ^ w = x.toNat) : BitVec.ofNat w n = x :=
  BitVec.eq_of_toNat_eq ((BitVec.toNat_ofNat n w).trans h)

/-- The bits of `n` from place `a` up, the lowest of them apart. -/
theorem div_eq_div_mul_add_mod (n a b : Nat) : n / a = n / (a * b) * b + n / a % b := by
  rw [← Nat.div_div_eq_div_mul, Nat.div_add_mod']

/-- A 6-bit immediate and a destination; `row` is stated of the operands, as reserved ones have another row. -/
theorem decodeRow_ci {i : Reg → BitVec 6 → Instr} {rd : Reg} {imm : BitVec 6}
    (row : decodeQuadrant f3 (imm.toNat / 32) rd.toNat (imm.toNat % 32) q =
      some (i (.ofNat 5 rd.toNat) (.ofNat 6 (imm.toNat / 32 * 32 + imm.toNat % 32))))
    (fits : f3 < 8 ∧ q < 4 := by decide) :
    decodeRow (.half (word16 f3 (imm.toNat / 32) rd.toNat (imm.toNat % 32) q)) = some (i rd imm) := by
  obtain ⟨h3, hq⟩ := fits
  have hi := imm.isLt
  refine (decodeRow_half ⟨h3, by omega, rd.isLt, by omega, hq⟩).trans (row.trans ?_)
  rw [ofNat_toNat_self, ofNat_eq_of_toNat (x := imm) (by omega)]

/-- Two registers; `row` is stated of the operands, as reserved ones have another row. -/
theorem decodeRow_cr {i : Reg → Reg → Instr} {rd rs2 : Reg}
    (row : decodeQuadrant f3 e rd.toNat rs2.toNat q = some (i (.ofNat 5 rd.toNat) (.ofNat 5 rs2.toNat)))
    (fits : f3 < 8 ∧ e < 2 ∧ q < 4 := by decide) :
    decodeRow (.half (word16 f3 e rd.toNat rs2.toNat q)) = some (i rd rs2) := by
  obtain ⟨h3, he, hq⟩ := fits
  refine (decodeRow_half ⟨h3, he, rd.isLt, rs2.isLt, hq⟩).trans (row.trans ?_)
  rw [ofNat_toNat_self, ofNat_toNat_self]

/-- One register; `row` is stated of the operand, as a reserved one has another row. -/
theorem decodeRow_crJump {i : Reg → Instr} {rs1 : Reg}
    (row : decodeQuadrant f3 e rs1.toNat 0 q = some (i (.ofNat 5 rs1.toNat)))
    (fits : f3 < 8 ∧ e < 2 ∧ q < 4 := by decide) :
    decodeRow (.half (word16 f3 e rs1.toNat 0 q)) = some (i rs1) := by
  obtain ⟨h3, he, hq⟩ := fits
  refine (decodeRow_half ⟨h3, he, rs1.isLt, by decide, hq⟩).trans (row.trans ?_)
  rw [ofNat_toNat_self]

/-- The offset of an access of 8 bytes relative to the stack pointer, put together again. -/
theorem sp8_joined (u : BitVec 6) :
    BitVec.ofNat 6 ((u.toNat % 4 * 8 + u.toNat / 8) % 8 * 8 + u.toNat / 4 % 2 * 4 + (u.toNat % 4 * 8 + u.toNat / 8) / 8) = u := by
  have hu := u.isLt
  have high : (u.toNat % 4 * 8 + u.toNat / 8) % 8 = u.toNat / 8 := by omega
  have low : (u.toNat % 4 * 8 + u.toNat / 8) / 8 = u.toNat % 4 := by omega
  rw [high, low, ofNat_eq_of_toNat (x := u) (by omega)]

/-- The offset of an access of 4 bytes relative to the stack pointer, put together again. -/
theorem sp4_joined (u : BitVec 6) :
    BitVec.ofNat 6 ((u.toNat % 8 * 4 + u.toNat / 16) % 4 * 16 + u.toNat / 8 % 2 * 8 + (u.toNat % 8 * 4 + u.toNat / 16) / 4) = u := by
  have hu := u.isLt
  have high : (u.toNat % 8 * 4 + u.toNat / 16) % 4 = u.toNat / 16 := by omega
  have low : (u.toNat % 8 * 4 + u.toNat / 16) / 4 = u.toNat % 8 := by omega
  rw [high, low, ofNat_eq_of_toNat (x := u) (by omega)]

/-- A load of 8 bytes relative to the stack pointer. -/
theorem decodeRow_loadSp8 {i : Reg → BitVec 6 → Instr} {rd : Reg} {u : BitVec 6}
    (row : ∀ e r t, decodeQuadrant f3 e r t 2 = some (i (.ofNat 5 r) (.ofNat 6 (t % 8 * 8 + e * 4 + t / 8))))
    (fits : f3 < 8 := by decide) :
    decodeRow (.half (word16 f3 (u.toNat / 4 % 2) rd.toNat (u.toNat % 4 * 8 + u.toNat / 8) 2)) = some (i rd u) := by
  have hu := u.isLt
  refine (decodeRow_half ⟨fits, by omega, rd.isLt, by omega, by decide⟩).trans ((row _ _ _).trans ?_)
  rw [ofNat_toNat_self, sp8_joined]

/-- A store of 8 bytes relative to the stack pointer. -/
theorem decodeRow_storeSp8 {i : Reg → BitVec 6 → Instr} {rs2 : Reg} {u : BitVec 6}
    (row : ∀ e r t, decodeQuadrant f3 e r t 2 = some (i (.ofNat 5 t) (.ofNat 6 (r % 8 * 8 + e * 4 + r / 8))))
    (fits : f3 < 8 := by decide) :
    decodeRow (.half (word16 f3 (u.toNat / 4 % 2) (u.toNat % 4 * 8 + u.toNat / 8) rs2.toNat 2)) = some (i rs2 u) := by
  have hu := u.isLt
  refine (decodeRow_half ⟨fits, by omega, by omega, rs2.isLt, by decide⟩).trans ((row _ _ _).trans ?_)
  rw [ofNat_toNat_self, sp8_joined]

/-- A load of 4 bytes relative to the stack pointer. -/
theorem decodeRow_cLwsp (rd : Reg) (u : BitVec 6) : decodeRow (encode (.cLwsp rd u)) = some (.cLwsp rd u) := by
  have hu := u.isLt
  refine (decodeRow_half ⟨by decide, by omega, rd.isLt, by omega, by decide⟩).trans ?_
  change some (Instr.cLwsp _ (.ofNat 6 (_ % 4 * 16 + _ * 8 + _ / 4))) = _
  rw [ofNat_toNat_self, sp4_joined]

/-- A store of 4 bytes relative to the stack pointer. -/
theorem decodeRow_cSwsp (rs2 : Reg) (u : BitVec 6) : decodeRow (encode (.cSwsp rs2 u)) = some (.cSwsp rs2 u) := by
  have hu := u.isLt
  refine (decodeRow_half ⟨by decide, by omega, by omega, rs2.isLt, by decide⟩).trans ?_
  change some (Instr.cSwsp _ (.ofNat 6 (_ % 4 * 16 + _ * 8 + _ / 4))) = _
  rw [ofNat_toNat_self, sp4_joined]

/-- A load or store of 8 bytes. -/
theorem decodeRow_access8 {i : Reg' → Reg' → BitVec 5 → Instr} {rd rs1 : Reg'} {u : BitVec 5}
    (row : ∀ e r t, decodeQuadrant f3 e r t 0 = some (i (.ofNat 3 t) (.ofNat 3 r) (.ofNat 5 (t / 8 * 8 + e * 4 + r / 8))))
    (fits : f3 < 8 := by decide) :
    decodeRow (.half (word16 f3 (u.toNat / 4 % 2) (u.toNat % 4 * 8 + rs1.toNat) (u.toNat / 8 * 8 + rd.toNat) 0)) =
      some (i rd rs1 u) := by
  obtain ⟨hu, hd, h1⟩ := And.intro u.isLt (And.intro rd.isLt rs1.isLt)
  refine (decodeRow_half ⟨fits, by omega, by omega, by omega, by decide⟩).trans ((row _ _ _).trans ?_)
  rw [ofNat_eq_of_mod (x := rd) (by omega), ofNat_eq_of_mod (x := rs1) (by omega), ofNat_eq_of_mod (x := u) (by omega)]

/-- A load or store of 4 bytes. -/
theorem decodeRow_access4 {i : Reg' → Reg' → BitVec 5 → Instr} {rd rs1 : Reg'} {u : BitVec 5}
    (row : ∀ e r t, decodeQuadrant f3 e r t 0 =
      some (i (.ofNat 3 t) (.ofNat 3 r) (.ofNat 5 (t / 8 % 2 * 16 + e * 8 + r / 8 * 2 + t / 16))))
    (fits : f3 < 8 := by decide) :
    decodeRow (.half (word16 f3 (u.toNat / 8 % 2) (u.toNat / 2 % 4 * 8 + rs1.toNat)
      (u.toNat % 2 * 16 + u.toNat / 16 * 8 + rd.toNat) 0)) = some (i rd rs1 u) := by
  obtain ⟨hu, hd, h1⟩ := And.intro u.isLt (And.intro rd.isLt rs1.isLt)
  refine (decodeRow_half ⟨fits, by omega, by omega, by omega, by decide⟩).trans ((row _ _ _).trans ?_)
  have bit6 : (u.toNat % 2 * 16 + u.toNat / 16 * 8 + rd.toNat) / 16 = u.toNat % 2 := by omega
  have bit2 : (u.toNat % 2 * 16 + u.toNat / 16 * 8 + rd.toNat) / 8 % 2 = u.toNat / 16 := by omega
  have bits5_3 : (u.toNat / 2 % 4 * 8 + rs1.toNat) / 8 = u.toNat / 2 % 4 := by omega
  have split2 := div_eq_div_mul_add_mod u.toNat 2 4
  have split8 := div_eq_div_mul_add_mod u.toNat 8 2
  rw [bit6, bit2, bits5_3, ofNat_eq_of_mod (x := rd) (by omega), ofNat_eq_of_mod (x := rs1) (by omega),
    ofNat_eq_of_toNat (x := u) (by omega)]

/-- Register and register of the 3-bit fields; the operation in bit 12 and the constant `k`. -/
theorem decodeRow_ca {i : Reg' → Reg' → Instr} {rd rs2 : Reg'}
    (row : ∀ r t, r / 8 = 3 → t / 8 = k / 8 → decodeQuadrant 4 e r t 1 = some (i (.ofNat 3 r) (.ofNat 3 t)))
    (fits : e < 2 ∧ k < 32 ∧ k % 8 = 0 := by decide) :
    decodeRow (.half (word16 4 e (24 + rd.toNat) (k + rs2.toNat) 1)) = some (i rd rs2) := by
  obtain ⟨he, hk, aligned⟩ := fits
  obtain ⟨hd, h2⟩ := And.intro rd.isLt rs2.isLt
  refine (decodeRow_half ⟨by decide, he, by omega, by omega, by decide⟩).trans ((row _ _ (by omega) (by omega)).trans ?_)
  rw [ofNat_eq_of_mod (x := rd) (by omega), ofNat_eq_of_mod (x := rs2) (by omega)]

/-- A 6-bit immediate and a register of the 3-bit fields; the operation in the constant `k`. -/
theorem decodeRow_cImm {i : Reg' → BitVec 6 → Instr} {rd : Reg'} {imm : BitVec 6}
    (row : ∀ e r t, e = 0 ∨ e = 1 → r / 8 = k / 8 → decodeQuadrant 4 e r t 1 = some (i (.ofNat 3 r) (.ofNat 6 (e * 32 + t))))
    (fits : k < 24 ∧ k % 8 = 0 := by decide) :
    decodeRow (.half (word16 4 (imm.toNat / 32) (k + rd.toNat) (imm.toNat % 32) 1)) = some (i rd imm) := by
  obtain ⟨hk, aligned⟩ := fits
  obtain ⟨hd, hi⟩ := And.intro rd.isLt imm.isLt
  refine (decodeRow_half ⟨by decide, by omega, by omega, by omega, by decide⟩).trans ((row _ _ _ (by omega) (by omega)).trans ?_)
  rw [ofNat_eq_of_mod (x := rd) (by omega), ofNat_eq_of_toNat (x := imm) (by omega)]

/-- A branch offset and a register. -/
theorem decodeRow_cb {i : Reg' → BitVec 8 → Instr} {rs1 : Reg'} {off : BitVec 8}
    (row : ∀ e r t, decodeQuadrant f3 e r t 1 =
      some (i (.ofNat 3 r) (.ofNat 8 (e * 128 + t / 8 * 32 + t % 2 * 16 + r / 8 * 4 + t / 2 % 4))))
    (fits : f3 < 8 := by decide) :
    decodeRow (.half (word16 f3 (off.toNat / 128) (off.toNat / 4 % 4 * 8 + rs1.toNat)
      (off.toNat / 32 % 4 * 8 + off.toNat % 4 * 2 + off.toNat / 16 % 2) 1)) = some (i rs1 off) := by
  obtain ⟨h1, ho⟩ := And.intro rs1.isLt off.isLt
  refine (decodeRow_half ⟨fits, by omega, by omega, by omega, by decide⟩).trans ((row _ _ _).trans ?_)
  have bits4_3 : (off.toNat / 4 % 4 * 8 + rs1.toNat) / 8 = off.toNat / 4 % 4 := by omega
  have low : ∀ x y z, y < 4 → z < 2 → (x * 8 + y * 2 + z) / 8 = x ∧ (x * 8 + y * 2 + z) / 2 % 4 = y ∧
      (x * 8 + y * 2 + z) % 2 = z := by omega
  obtain ⟨bits7_6, bits2_1, bit5⟩ := low (off.toNat / 32 % 4) (off.toNat % 4) (off.toNat / 16 % 2) (by omega) (by omega)
  have split4 := div_eq_div_mul_add_mod off.toNat 4 4
  have split16 := div_eq_div_mul_add_mod off.toNat 16 2
  have split32 := div_eq_div_mul_add_mod off.toNat 32 4
  rw [bits4_3, bits7_6, bits2_1, bit5, ofNat_eq_of_mod (x := rs1) (by omega), ofNat_eq_of_toNat (x := off) (by omega)]

theorem decodeRow_cAddi4spn (rd : Reg') (u : BitVec 8) : decodeRow (encode (.cAddi4spn rd u)) = some (.cAddi4spn rd u) := by
  obtain ⟨hd, hu⟩ := And.intro rd.isLt u.isLt
  refine (decodeRow_half ⟨by decide, by omega, by omega, by omega, by decide⟩).trans ?_
  change some (Instr.cAddi4spn _ (.ofNat 8 (_ % 16 * 16 + _ * 8 + _ / 16 * 4 + _ / 8 % 2 * 2 + _ / 16))) = _
  have bits9_6 : (u.toNat / 4 % 2 * 16 + u.toNat / 16) % 16 = u.toNat / 16 := by omega
  have bit4 : (u.toNat / 4 % 2 * 16 + u.toNat / 16) / 16 = u.toNat / 4 % 2 := by omega
  have bit3 : (u.toNat % 2 * 16 + u.toNat / 2 % 2 * 8 + rd.toNat) / 8 % 2 = u.toNat / 2 % 2 := by omega
  have bit2 : (u.toNat % 2 * 16 + u.toNat / 2 % 2 * 8 + rd.toNat) / 16 = u.toNat % 2 := by omega
  rw [bits9_6, bit4, bit3, bit2, ofNat_eq_of_mod (x := rd) (by omega), ofNat_eq_of_toNat (x := u) (by omega)]

theorem decodeRow_cAddi16sp (imm : BitVec 6) : decodeRow (encode (.cAddi16sp imm)) = some (.cAddi16sp imm) := by
  have hi := imm.isLt
  refine (decodeRow_half ⟨by decide, by omega, by omega, by omega, by decide⟩).trans ?_
  change some (Instr.cAddi16sp (.ofNat 6 (_ * 32 + _ / 2 % 4 * 8 + _ / 8 % 2 * 4 + _ % 2 * 2 + _ / 16))) = _
  have low : ∀ x y z w, y < 2 → z < 4 → w < 2 → (x * 16 + y * 8 + z * 2 + w) / 2 % 4 = z ∧
      (x * 16 + y * 8 + z * 2 + w) / 8 % 2 = y ∧ (x * 16 + y * 8 + z * 2 + w) % 2 = w ∧
      (x * 16 + y * 8 + z * 2 + w) / 16 = x := by omega
  obtain ⟨bits8_7, bit6, bit5, bit4⟩ := low (imm.toNat % 2) (imm.toNat / 4 % 2) (imm.toNat / 8 % 4) (imm.toNat / 2 % 2)
    (by omega) (by omega) (by omega)
  have split2 := div_eq_div_mul_add_mod imm.toNat 2 2
  have split4 := div_eq_div_mul_add_mod imm.toNat 4 2
  have split8 := div_eq_div_mul_add_mod imm.toNat 8 4
  rw [bits8_7, bit6, bit5, bit4, ofNat_eq_of_toNat (x := imm) (by omega)]

theorem decodeRow_cJ (off : BitVec 11) : decodeRow (encode (.cJ off)) = some (.cJ off) := by
  have ho := off.isLt
  refine (decodeRow_half ⟨by decide, by omega, by omega, by omega, by decide⟩).trans ?_
  change some (Instr.cJ (.ofNat 11 (_ * 1024 + _ / 2 % 2 * 512 + _ / 4 % 4 * 128 + _ / 16 * 64 + _ % 2 * 32 + _ % 2 * 16 +
    _ / 16 * 8 + _ / 2 % 8))) = _
  have middle : ∀ x y z w, y < 4 → z < 2 → w < 2 → (x * 16 + y * 4 + z * 2 + w) / 2 % 2 = z ∧
      (x * 16 + y * 4 + z * 2 + w) / 4 % 4 = y ∧ (x * 16 + y * 4 + z * 2 + w) % 2 = w ∧
      (x * 16 + y * 4 + z * 2 + w) / 16 = x := by omega
  have low : ∀ x y z, y < 8 → z < 2 → (x * 16 + y * 2 + z) / 16 = x ∧ (x * 16 + y * 2 + z) % 2 = z ∧
      (x * 16 + y * 2 + z) / 2 % 8 = y := by omega
  obtain ⟨bit10, bits9_8, bit6, bit4⟩ := middle (off.toNat / 8 % 2) (off.toNat / 128 % 4) (off.toNat / 512 % 2)
    (off.toNat / 32 % 2) (by omega) (by omega) (by omega)
  obtain ⟨bit7, bit5, bits3_1⟩ := low (off.toNat / 64 % 2) (off.toNat % 8) (off.toNat / 16 % 2) (by omega) (by omega)
  have split8 := div_eq_div_mul_add_mod off.toNat 8 2
  have split16 := div_eq_div_mul_add_mod off.toNat 16 2
  have split32 := div_eq_div_mul_add_mod off.toNat 32 2
  have split64 := div_eq_div_mul_add_mod off.toNat 64 2
  have split128 := div_eq_div_mul_add_mod off.toNat 128 4
  have split512 := div_eq_div_mul_add_mod off.toNat 512 2
  rw [bit10, bits9_8, bit6, bit4, bit7, bit5, bits3_1, ofNat_eq_of_toNat (x := off) (by omega)]

end

end Sys2Proof

namespace Sys2Proof

/-! ### Decoding what was encoded -/

theorem toNat_ne_zero {r : Reg} (h : (r != 0) = true) : r.toNat ≠ 0 := BitVec.toNat_ne.1 (bne_iff_ne.1 h)

/-- C.ADDI with every operand but the one that is C.NOP's. -/
theorem decodeRow_cAddi {rd : Reg} {imm : BitVec 6} (hw : (Instr.cAddi rd imm).wf = true) :
    decodeRow (encode (.cAddi rd imm)) = some (.cAddi rd imm) := by
  refine decodeRow_ci ?_
  change decodeQuadrant1 0 _ _ _ = _
  unfold decodeQuadrant1
  rw [if_neg]
  · rfl
  · rintro ⟨-, high, hr, low⟩
    have hd : rd = 0 := BitVec.eq_of_toNat_eq hr
    have hi : imm = 0 := BitVec.eq_of_toNat_eq (show imm.toNat = 0 by omega)
    subst hd hi
    exact absurd hw (by decide)

/-- C.LUI with every destination but the stack pointer, which is C.ADDI16SP's. -/
theorem decodeRow_cLui {rd : Reg} {imm : BitVec 6} (hw : (Instr.cLui rd imm).wf = true) :
    decodeRow (encode (.cLui rd imm)) = some (.cLui rd imm) := by
  obtain ⟨hd, -⟩ : (rd != 2) = true ∧ (imm != 0) = true := Bool.and_eq_true_iff.1 hw
  have notSp : rd.toNat ≠ 2 := BitVec.toNat_ne.1 (bne_iff_ne.1 hd)
  refine decodeRow_ci ?_
  change decodeQuadrant1 3 _ _ _ = _
  unfold decodeQuadrant1
  rw [if_neg fun h => absurd h.1 (by decide), if_neg fun h => notSp h.2]
  rfl

/-- C.JALR with every register but x0, which is C.EBREAK's. -/
theorem decodeRow_cJalr {rs1 : Reg} (hw : (Instr.cJalr rs1).wf = true) :
    decodeRow (encode (.cJalr rs1)) = some (.cJalr rs1) := by
  refine decodeRow_crJump ?_
  change decodeQuadrant2 4 1 _ 0 = _
  unfold decodeQuadrant2
  rw [if_neg fun h => absurd h.2.1 (by decide), if_neg fun ⟨_, _, h, _⟩ => toNat_ne_zero hw h]
  rfl

/-- C.ADD with every source but x0, which is C.JALR's. -/
theorem decodeRow_cAdd {rd rs2 : Reg} (hw : (Instr.cAdd rd rs2).wf = true) :
    decodeRow (encode (.cAdd rd rs2)) = some (.cAdd rd rs2) := by
  have notZero : rs2.toNat ≠ 0 := toNat_ne_zero hw
  refine decodeRow_cr ?_
  change decodeQuadrant2 4 1 _ _ = _
  unfold decodeQuadrant2
  rw [if_neg fun ⟨_, _, h⟩ => notZero h, if_neg fun ⟨_, _, _, h⟩ => notZero h, if_neg fun ⟨_, _, h⟩ => notZero h]
  rfl

/-- C.MV with every source but x0, which is C.JR's. -/
theorem decodeRow_cMv {rd rs2 : Reg} (hw : (Instr.cMv rd rs2).wf = true) :
    decodeRow (encode (.cMv rd rs2)) = some (.cMv rd rs2) := by
  refine decodeRow_cr ?_
  change decodeQuadrant2 4 0 _ _ = _
  unfold decodeQuadrant2
  rw [if_neg fun ⟨_, _, h⟩ => toNat_ne_zero hw h]
  rfl

/-- The row of an encoded well-formed instruction is that instruction, by its format. -/
theorem decodeRow_encode (i : Instr) (hw : i.wf = true) : decodeRow (encode i) = some i := by
  cases i with
  | add | sub | and | or | xor | sll | srl | sra | slt | sltu | div | divu | mul | mulh | mulhsu | mulhu | rem | remu | addw | subw
  | sllw | srlw | sraw | divuw | divw | mulw | remuw | remw | slliw | srliw | sraiw | mula | mulah | mulaw | muls | mulsh | mulsw
  | mveqz | mvnez | srriw | feqS | fleS | fltS | fmaxS | fminS | fsgnjS | fsgnjnS | fsgnjxS | feqD | fleD | fltD | fmaxD | fminD
  | fsgnjD | fsgnjnD | fsgnjxD | feqH | fleH | fltH | fmaxH | fminH | fsgnjH | fsgnjnH | fsgnjxH =>
    exact decodeRow_rType fun _ _ _ => rfl
  | ff0 | ff1 | rev | revw | tstnbz | fclassS | fmvWX | fmvXW | fclassD | fmvDX | fmvXD | fclassH | fmvHX | fmvXH =>
    exact decodeRow_unary fun _ _ => rfl
  | dcacheCipa | dcacheCisw | dcacheCiva | dcacheCpa | dcacheCpal1 | dcacheCva | dcacheCval1 | dcacheIpa | dcacheIsw | dcacheIva
  | icacheIpa | icacheIva | dcacheCsw => exact decodeRow_rs1 fun _ => rfl
  | sfenceVma | sfenceVmas => exact decodeRow_rs1rs2 fun _ _ => rfl
  | faddS | fdivS | fmulS | fsubS | faddD | fdivD | fmulD | fsubD | faddH | fdivH | fmulH | fsubH =>
    exact decodeRow_rounded fun _ _ _ _ => rfl
  | fcvtLS | fcvtLuS | fcvtSL | fcvtSLu | fcvtSW | fcvtSWu | fcvtWS | fcvtWuS | fsqrtS | fcvtDL | fcvtDLu | fcvtDS | fcvtDW
  | fcvtDWu | fcvtLD | fcvtLuD | fcvtSD | fcvtWD | fcvtWuD | fsqrtD | fcvtDH | fcvtHD | fcvtHL | fcvtHLu | fcvtHS | fcvtHW
  | fcvtHWu | fcvtLH | fcvtLuH | fcvtSH | fcvtWH | fcvtWuH | fsqrtH => exact decodeRow_roundedUnary fun _ _ _ => rfl
  | fmaddS | fmaddD | fmaddH | fmsubS | fmsubD | fmsubH | fnmsubS | fnmsubD | fnmsubH | fnmaddS | fnmaddD | fnmaddH =>
    exact decodeRow_r4Type fun _ _ _ _ _ h => by
      unfold decodeOpcode decodeMadd decodeMsub decodeNmsub decodeNmadd
      rw [h]
      rfl
  | addi | addiw | andi | ori | xori | slti | sltiu | jalr | lb | lbu | lh | lhu | lw | lwu | ld | flw | fld | flh =>
    exact decodeRow_iType fun _ _ _ _ => rfl
  | fenceI imm rs1 rd => exact decodeRow_iType (i := fun rd rs1 imm => .fenceI imm rs1 rd) fun _ _ _ _ => rfl
  | csrrw | csrrs | csrrc | csrrwi | csrrsi | csrrci => exact decodeRow_csr fun _ _ _ _ => rfl
  | sb | sh | sw | sd | fsw | fsd | fsh => exact decodeRow_sType fun _ _ _ _ => rfl
  | beq | bne | blt | bge | bltu | bgeu => exact decodeRow_bType fun _ _ _ _ => rfl
  | lui | auipc => exact decodeRow_uType fun _ _ _ _ _ => rfl
  | jal rd off => exact decodeRow_jal rd off
  | slli | srli | srai | srri | tst => exact decodeRow_imm6 (by rintro _ _ _ _ (rfl | rfl) <;> rfl)
  | ext | extu => exact decodeRow_bitField fun _ _ _ _ => rfl
  | addsl | flrd | flrw | flurd | flurw | fsrd | fsrw | fsurd | fsurw | lbia | lbib | lbuia | lbuib | ldia | ldib | lhia | lhib
  | lhuia | lhuib | lrb | lrbu | lrd | lrh | lrhu | lrw | lrwu | lurb | lurbu | lurd | lurh | lurhu | lurw | lurwu | lwia | lwib
  | lwuia | lwuib | sbia | sbib | sdia | sdib | shia | shib | srb | srd | srh | srw | surb | surd | surh | surw | swia | swib =>
    exact decodeRow_imm2 (by rintro _ _ _ _ (rfl | rfl | rfl | rfl) <;> rfl)
  | ldd | lwd | lwud | sdd | swd => exact decodeRow_pair (by rintro _ _ _ _ (rfl | rfl | rfl | rfl) <;> rfl)
  | amoaddD | amoaddW | amoandD | amoandW | amomaxD | amomaxW | amomaxuD | amomaxuW | amominD | amominW | amominuD | amominuW
  | amoorD | amoorW | amoswapD | amoswapW | amoxorD | amoxorW | scD | scW =>
    exact decodeRow_amo (by rintro _ _ _ _ (rfl | rfl | rfl | rfl) <;> rfl)
  | lrD | lrW => exact decodeRow_lr (by rintro _ _ _ (rfl | rfl | rfl | rfl) <;> rfl)
  | fence fm pred succ rs1 rd => exact decodeRow_fence fm pred succ rs1 rd
  | cAddiw | cLi | cSlli => exact decodeRow_ci rfl
  | cAddi => exact decodeRow_cAddi hw
  | cLui => exact decodeRow_cLui hw
  | cAdd => exact decodeRow_cAdd hw
  | cMv => exact decodeRow_cMv hw
  | cJalr => exact decodeRow_cJalr hw
  | cJr => exact decodeRow_crJump rfl
  | cFldsp | cLdsp => exact decodeRow_loadSp8 fun _ _ _ => rfl
  | cFsdsp | cSdsp => exact decodeRow_storeSp8 fun _ _ _ => rfl
  | cLwsp rd u => exact decodeRow_cLwsp rd u
  | cSwsp rs2 u => exact decodeRow_cSwsp rs2 u
  | cFld | cFsd | cLd | cSd => exact decodeRow_access8 fun _ _ _ => rfl
  | cLw | cSw => exact decodeRow_access4 fun _ _ _ => rfl
  | cAddw | cAnd | cOr | cSub | cSubw | cXor =>
    exact decodeRow_ca fun _ _ hr ht => by
      unfold decodeQuadrant decodeQuadrant1
      rw [hr, ht]
      rfl
  | cAndi | cSrai | cSrli =>
    exact decodeRow_cImm fun _ _ _ he h => by
      unfold decodeQuadrant decodeQuadrant1
      rw [h]
      rcases he with rfl | rfl <;> rfl
  | cBeqz | cBnez => exact decodeRow_cb fun _ _ _ => rfl
  | cJ off => exact decodeRow_cJ off
  | cAddi4spn rd u => exact decodeRow_cAddi4spn rd u
  | cAddi16sp imm => exact decodeRow_cAddi16sp imm
  | ecall | ebreak | sret | mret | wfi | dcacheCall | dcacheCiall | dcacheIall | icacheIall | icacheIalls | l2cacheCall
  | l2cacheCiall | l2cacheIall | sync | syncS | syncI | syncIs | cNop | cEbreak => rfl

end Sys2Proof

namespace Sys2Proof

/-! ### The bytes of a code (30_encoding:R280, 20_memory:R181) -/

/-- The two lowest bits of a code tell its length. -/
def Code.LengthBits : Code → Prop
  | .half c => c.toNat % 4 ≠ 3
  | .full w => w.toNat % 4 = 3

theorem low_bits_of_decodeOpcode {f7 b a f3 d op : Nat} {i : Instr} (h : decodeOpcode f7 b a f3 d op = some i) : op % 4 = 3 := by
  unfold decodeOpcode at h
  split at h
  on_goal 23 => cases h
  all_goals rfl

theorem quadrant_of_decodeQuadrant {f3 e r t q : Nat} {i : Instr} (h : decodeQuadrant f3 e r t q = some i) : q ≠ 3 := by
  rintro rfl
  cases h

/-- A code that matches a row has the length bits of its length. -/
theorem lengthBits_of_decodeRow {c : Code} {i : Instr} (h : decodeRow c = some i) : c.LengthBits := by
  cases c with
  | half c =>
    have hq := quadrant_of_decodeQuadrant h
    unfold bits at hq
    exact fun low => hq (by omega)
  | full w =>
    have ho := low_bits_of_decodeOpcode h
    unfold bits at ho
    exact show w.toNat % 4 = 3 by omega

theorem parcel_toNat (n : Nat) : (parcel (.ofNat 8 n) (.ofNat 8 (n / 256))).toNat = n % 65536 := by
  unfold parcel
  simp only [BitVec.toNat_ofNat]
  omega

theorem isFull_parcel (n : Nat) : isFull (parcel (.ofNat 8 n) (.ofNat 8 (n / 256))) = true ↔ n % 4 = 3 := by
  unfold isFull
  rw [parcel_toNat, beq_iff_eq]
  omega

/-- The bytes of a code are read back as that code, whatever follows them. -/
theorem codeOf_bytes {c : Code} (h : c.LengthBits) (rest : List Byte) : codeOf (c.bytes ++ rest) = .ok (c, rest) := by
  cases c with
  | half c =>
    have read : parcel (.ofNat 8 c.toNat) (.ofNat 8 (c.toNat / 256)) = c :=
      BitVec.eq_of_toNat_eq ((parcel_toNat _).trans (Nat.mod_eq_of_lt c.isLt))
    change (if isFull _ = true then _ else _) = _
    rw [if_neg (mt (isFull_parcel _).1 h), read]
    rfl
  | full w =>
    have read : joinParcels (parcel (.ofNat 8 w.toNat) (.ofNat 8 (w.toNat / 256)))
        (parcel (.ofNat 8 (w.toNat / 65536)) (.ofNat 8 (w.toNat / 16777216))) = w := by
      have hw := w.isLt
      have high : w.toNat / 16777216 = w.toNat / 65536 / 256 := by omega
      unfold joinParcels
      rw [high, parcel_toNat, parcel_toNat]
      exact ofNat_eq_of_toNat (by omega)
    change (if isFull _ = true then _ else _) = _
    rw [if_pos ((isFull_parcel _).2 h)]
    change Except.ok (Code.full (joinParcels _ _), rest) = _
    rw [read]

theorem decodeCode_of_decodeRow {c : Code} {i : Instr} (h : decodeRow c = some i) (hw : i.wf = true) :
    decodeCode c = .ok i := by
  unfold decodeCode
  rw [h]
  exact if_pos hw

/-- Settles O36: by the format of the instruction its row is found again, and the length bits delimit its bytes. -/
theorem decodeEncode : Obligations.DecodeEncode := by
  unfold Obligations.DecodeEncode
  intro i rest hw
  have row := decodeRow_encode i hw
  have code := decodeCode_of_decodeRow row hw
  refine ⟨code, ?_⟩
  unfold decode
  rw [codeOf_bytes (lengthBits_of_decodeRow row)]
  dsimp only
  rw [code]

end Sys2Proof

namespace Sys2Proof

/-! ### Encoding what was decoded -/

/-- Every instruction that `r` may be has the code `c`. -/
def Encodes (r : Option Instr) (c : Code) : Prop := ∀ i, r = some i → encode i = c

theorem Encodes.none (c : Code) : Encodes none c := fun _ h => nomatch h

theorem Encodes.some {i : Instr} {c : Code} (h : encode i = c) : Encodes (some i) c := by
  rintro _ ⟨⟩
  exact h

/-- One row of a decoder and the rows after it. -/
theorem Encodes.row {p : Prop} [Decidable p] {i : Instr} {r : Option Instr} {c : Code} (here : p → encode i = c)
    (later : Encodes r c) : Encodes (if p then Option.some i else r) c := by
  split
  · next h => exact .some (here h)
  · exact later

theorem full_congr {f7 b a f3 d f7' b' a' f3' d' op : Nat} (h7 : f7 = f7') (hb : b = b') (ha : a = a') (h3 : f3 = f3')
    (hd : d = d') : Code.full (word32 f7 b a f3 d op) = .full (word32 f7' b' a' f3' d' op) := by
  rw [h7, hb, ha, h3, hd]

theorem half_congr {f3 e r t f3' e' r' t' q : Nat} (h3 : f3 = f3') (he : e = e') (hr : r = r') (ht : t = t') :
    Code.half (word16 f3 e r t q) = .half (word16 f3' e' r' t' q) := by
  rw [h3, he, hr, ht]

theorem toNat_ofNat_of_lt {w n : Nat} (h : n < 2 ^ w) : (BitVec.ofNat w n).toNat = n :=
  (BitVec.toNat_ofNat n w).trans (Nat.mod_eq_of_lt h)

/-! ### Pieces of a 32-bit code after their operands are put together and taken apart again -/

section
variable {f7 b a f3 d op k : Nat} (p : Fits32 f7 b a f3 d op)
include p

theorem Fits32.rs2_eq : (BitVec.ofNat 5 b).toNat = b := toNat_ofNat_of_lt p.rs2

theorem Fits32.rs1_eq : (BitVec.ofNat 5 a).toNat = a := toNat_ofNat_of_lt p.rs1

theorem Fits32.rd_eq : (BitVec.ofNat 5 d).toNat = d := toNat_ofNat_of_lt p.rd

theorem Fits32.rm_eq : (BitVec.ofNat 3 f3).toNat = f3 := toNat_ofNat_of_lt p.funct3

theorem Fits32.imm12_toNat : (BitVec.ofNat 12 (f7 * 32 + b)).toNat = f7 * 32 + b := by
  obtain ⟨h7, hb, -⟩ := p
  exact toNat_ofNat_of_lt (by omega)

theorem Fits32.imm12_high : (BitVec.ofNat 12 (f7 * 32 + b)).toNat / 32 = f7 := by
  have hb := p.rs2
  rw [p.imm12_toNat]
  omega

theorem Fits32.imm12_low : (BitVec.ofNat 12 (f7 * 32 + b)).toNat % 32 = b := by
  have hb := p.rs2
  rw [p.imm12_toNat]
  omega

theorem Fits32.store_toNat : (BitVec.ofNat 12 (f7 * 32 + d)).toNat = f7 * 32 + d := by
  obtain ⟨h7, -, -, -, hd, -⟩ := p
  exact toNat_ofNat_of_lt (by omega)

theorem Fits32.store_high : (BitVec.ofNat 12 (f7 * 32 + d)).toNat / 32 = f7 := by
  have hd := p.rd
  rw [p.store_toNat]
  omega

theorem Fits32.store_low : (BitVec.ofNat 12 (f7 * 32 + d)).toNat % 32 = d := by
  have hd := p.rd
  rw [p.store_toNat]
  omega

theorem Fits32.imm6_toNat : (BitVec.ofNat 6 (f7 % 2 * 32 + b)).toNat = f7 % 2 * 32 + b := by
  have hb := p.rs2
  exact toNat_ofNat_of_lt (by omega)

theorem Fits32.imm6_high (h : f7 / 2 = k / 2) (even : k % 2 = 0 := by decide) :
    k + (BitVec.ofNat 6 (f7 % 2 * 32 + b)).toNat / 32 = f7 := by
  have hb := p.rs2
  rw [p.imm6_toNat]
  omega

theorem Fits32.imm6_low : (BitVec.ofNat 6 (f7 % 2 * 32 + b)).toNat % 32 = b := by
  have hb := p.rs2
  rw [p.imm6_toNat]
  omega

theorem Fits32.bitField_high :
    (BitVec.ofNat 6 (f7 / 2)).toNat * 2 + (BitVec.ofNat 6 (f7 % 2 * 32 + b)).toNat / 32 = f7 := by
  obtain ⟨h7, hb, -⟩ := id p
  rw [p.imm6_toNat, toNat_ofNat_of_lt (by omega)]
  omega

theorem Fits32.fs3_eq (h : f7 % 4 = k) : (BitVec.ofNat 5 (f7 / 4)).toNat * 4 + k = f7 := by
  have h7 := p.funct7
  rw [toNat_ofNat_of_lt (by omega)]
  omega

omit p in
theorem imm2_eq (h : f7 / 4 = k / 4) (aligned : k % 4 = 0 := by decide) : k + (BitVec.ofNat 2 f7).toNat = f7 := by
  rw [BitVec.toNat_ofNat]
  omega

omit p in
theorem ordering_eq (h : f7 / 4 = k / 4) (aligned : k % 4 = 0 := by decide) :
    k + (BitVec.ofNat 1 (f7 / 2)).toNat * 2 + (BitVec.ofNat 1 f7).toNat = f7 := by
  rw [BitVec.toNat_ofNat, BitVec.toNat_ofNat]
  omega

/-- The pieces of a branch's code, from the offset the decoder puts together. -/
theorem Fits32.branch_eq :
    let off := (BitVec.ofNat 12 (f7 / 64 * 2048 + d % 2 * 1024 + f7 % 64 * 16 + d / 2)).toNat
    off / 2048 * 64 + off / 16 % 64 = f7 ∧ off % 16 * 2 + off / 1024 % 2 = d := by
  obtain ⟨h7, -, -, -, hd, -⟩ := p
  intro off
  have number : off = ((f7 / 64 * 2 + d % 2) * 64 + f7 % 64) * 16 + d / 2 := (toNat_ofNat_of_lt (by omega)).trans (by omega)
  clear_value off
  obtain ⟨from16, digit1⟩ := div_mod_of_digit number (by omega)
  obtain ⟨from1024, digit16⟩ := div_mod_of_digit_above 1024 from16 (by omega)
  obtain ⟨from2048, digit1024⟩ := div_mod_of_digit_above 2048 from1024 (by omega)
  rw [digit1, digit16, digit1024, from2048]
  exact ⟨Nat.div_add_mod' f7 64, Nat.div_add_mod' d 2⟩

/-- The pieces of the code of LUI or AUIPC, from the immediate the decoder puts together. -/
theorem Fits32.upper_eq :
    let imm := (BitVec.ofNat 20 (f7 * 8192 + b * 256 + a * 8 + f3)).toNat
    imm / 8192 = f7 ∧ imm / 256 % 32 = b ∧ imm / 8 % 32 = a ∧ imm % 8 = f3 := by
  obtain ⟨h7, hb, ha, h3, -⟩ := p
  intro imm
  have number : imm = f7 * 8192 + b * 256 + a * 8 + f3 := toNat_ofNat_of_lt (by omega)
  rw [number]
  omega

/-- The pieces of JAL's code, from the offset the decoder puts together. -/
theorem Fits32.jal_eq :
    let off := (BitVec.ofNat 20 (f7 / 64 * 524288 + a * 16384 + f3 * 2048 + b % 2 * 1024 + f7 % 64 * 16 + b / 2)).toNat
    off / 524288 * 64 + off / 16 % 64 = f7 ∧ off % 16 * 2 + off / 1024 % 2 = b ∧ off / 16384 % 32 = a ∧ off / 2048 % 8 = f3 := by
  obtain ⟨h7, hb, ha, h3, -⟩ := p
  intro off
  have number : off = ((((f7 / 64 * 32 + a) * 8 + f3) * 2 + b % 2) * 64 + f7 % 64) * 16 + b / 2 :=
    (toNat_ofNat_of_lt (by omega)).trans (by omega)
  clear_value off
  obtain ⟨from16, digit1⟩ := div_mod_of_digit number (by omega)
  obtain ⟨from1024, digit16⟩ := div_mod_of_digit_above 1024 from16 (by omega)
  obtain ⟨from2048, digit1024⟩ := div_mod_of_digit_above 2048 from1024 (by omega)
  obtain ⟨from16384, digit2048⟩ := div_mod_of_digit_above 16384 from2048 h3
  obtain ⟨from524288, digit16384⟩ := div_mod_of_digit_above 524288 from16384 ha
  rw [digit1, digit16, digit1024, digit2048, digit16384, from524288]
  exact ⟨Nat.div_add_mod' f7 64, Nat.div_add_mod' b 2, rfl, rfl⟩

/-- The pieces of FENCE's code, from the sets the decoder reads. -/
theorem Fits32.fence_eq :
    (BitVec.ofNat 4 (f7 / 8)).toNat * 8 + (BitVec.ofNat 4 (f7 % 8 * 2 + b / 16)).toNat / 2 = f7 ∧
      (BitVec.ofNat 4 (f7 % 8 * 2 + b / 16)).toNat % 2 * 16 + (BitVec.ofNat 4 b).toNat = b := by
  obtain ⟨h7, hb, -⟩ := p
  simp only [BitVec.toNat_ofNat]
  omega

/-! ### The rows of each opcode -/

theorem decodeLoad_encodes : Encodes (decodeLoad f7 b a f3 d) (.full (word32 f7 b a f3 d 0x03)) := by
  unfold decodeLoad
  iterate 7 refine .row (fun h => full_congr p.imm12_high p.imm12_low p.rs1_eq h.symm p.rd_eq) ?_
  exact .none _

theorem decodeLoadFp_encodes : Encodes (decodeLoadFp f7 b a f3 d) (.full (word32 f7 b a f3 d 0x07)) := by
  unfold decodeLoadFp
  iterate 3 refine .row (fun h => full_congr p.imm12_high p.imm12_low p.rs1_eq h.symm p.rd_eq) ?_
  exact .none _

theorem decodeCustom0_0_encodes : Encodes (decodeCustom0_0 f7 b a f3 d) (.full (word32 f7 b a 0 d 0x0b)) := by
  unfold decodeCustom0_0
  iterate 2 refine .row (fun ⟨h7, hb, ha, hd⟩ => full_congr h7.symm hb.symm ha.symm rfl hd.symm) ?_
  iterate 10 refine .row (fun ⟨h7, hb, hd⟩ => full_congr h7.symm hb.symm p.rs1_eq rfl hd.symm) ?_
  iterate 3 refine .row (fun ⟨h7, hb, ha, hd⟩ => full_congr h7.symm hb.symm ha.symm rfl hd.symm) ?_
  iterate 2 refine .row (fun ⟨h7, hb, hd⟩ => full_congr h7.symm hb.symm p.rs1_eq rfl hd.symm) ?_
  iterate 3 refine .row (fun ⟨h7, hb, ha, hd⟩ => full_congr h7.symm hb.symm ha.symm rfl hd.symm) ?_
  refine .row (fun ⟨h7, hb, hd⟩ => full_congr h7.symm hb.symm p.rs1_eq rfl hd.symm) ?_
  refine .row (fun ⟨h7, hd⟩ => full_congr h7.symm p.rs2_eq p.rs1_eq rfl hd.symm) ?_
  iterate 4 refine .row (fun ⟨h7, hb, ha, hd⟩ => full_congr h7.symm hb.symm ha.symm rfl hd.symm) ?_
  exact .none _

theorem decodeCustom0_1_encodes : Encodes (decodeCustom0_1 f7 b a f3 d) (.full (word32 f7 b a 1 d 0x0b)) := by
  unfold decodeCustom0_1
  refine .row (fun h => full_congr (imm2_eq h) p.rs2_eq p.rs1_eq rfl p.rd_eq) ?_
  iterate 8 refine .row (fun h => full_congr h.symm p.rs2_eq p.rs1_eq rfl p.rd_eq) ?_
  refine .row (fun h => full_congr (p.imm6_high h) p.imm6_low p.rs1_eq rfl p.rd_eq) ?_
  refine .row (fun h => full_congr h.symm p.rs2_eq p.rs1_eq rfl p.rd_eq) ?_
  iterate 4 refine .row (fun ⟨h7, hb⟩ => full_congr h7.symm hb.symm p.rs1_eq rfl p.rd_eq) ?_
  refine .row (fun h => full_congr (p.imm6_high h) p.imm6_low p.rs1_eq rfl p.rd_eq) ?_
  refine .row (fun ⟨h7, hb⟩ => full_congr h7.symm hb.symm p.rs1_eq rfl p.rd_eq) ?_
  exact .none _

theorem decodeCustom0_2_encodes : Encodes (decodeCustom0_2 f7 b a f3 d) (.full (word32 f7 b a 2 d 0x0b)) :=
  .some (full_congr p.bitField_high p.imm6_low p.rs1_eq rfl p.rd_eq)

theorem decodeCustom0_3_encodes : Encodes (decodeCustom0_3 f7 b a f3 d) (.full (word32 f7 b a 3 d 0x0b)) :=
  .some (full_congr p.bitField_high p.imm6_low p.rs1_eq rfl p.rd_eq)

theorem decodeCustom0_4_encodes : Encodes (decodeCustom0_4 f7 b a f3 d) (.full (word32 f7 b a 4 d 0x0b)) := by
  unfold decodeCustom0_4
  iterate 31 refine .row (fun h => full_congr (imm2_eq h) p.rs2_eq p.rs1_eq rfl p.rd_eq) ?_
  exact .none _

theorem decodeCustom0_5_encodes : Encodes (decodeCustom0_5 f7 b a f3 d) (.full (word32 f7 b a 5 d 0x0b)) := by
  unfold decodeCustom0_5
  iterate 18 refine .row (fun h => full_congr (imm2_eq h) p.rs2_eq p.rs1_eq rfl p.rd_eq) ?_
  exact .none _

theorem decodeCustom0_6_encodes : Encodes (decodeCustom0_6 f7 b a f3 d) (.full (word32 f7 b a 6 d 0x0b)) := by
  unfold decodeCustom0_6
  iterate 4 refine .row (fun h => full_congr (imm2_eq h) p.rs2_eq p.rs1_eq rfl p.rd_eq) ?_
  exact .none _

theorem decodeCustom0_7_encodes : Encodes (decodeCustom0_7 f7 b a f3 d) (.full (word32 f7 b a 7 d 0x0b)) := by
  unfold decodeCustom0_7
  iterate 4 refine .row (fun h => full_congr (imm2_eq h) p.rs2_eq p.rs1_eq rfl p.rd_eq) ?_
  exact .none _

theorem decodeCustom0_encodes : Encodes (decodeCustom0 f7 b a f3 d) (.full (word32 f7 b a f3 d 0x0b)) := by
  unfold decodeCustom0
  split
  · exact decodeCustom0_0_encodes p
  · exact decodeCustom0_1_encodes p
  · exact decodeCustom0_2_encodes p
  · exact decodeCustom0_3_encodes p
  · exact decodeCustom0_4_encodes p
  · exact decodeCustom0_5_encodes p
  · exact decodeCustom0_6_encodes p
  · exact decodeCustom0_7_encodes p
  · exact .none _

theorem decodeMiscMem_encodes : Encodes (decodeMiscMem f7 b a f3 d) (.full (word32 f7 b a f3 d 0x0f)) := by
  unfold decodeMiscMem
  refine .row (fun h => full_congr p.fence_eq.1 p.fence_eq.2 p.rs1_eq h.symm p.rd_eq) ?_
  refine .row (fun h => full_congr p.imm12_high p.imm12_low p.rs1_eq h.symm p.rd_eq) ?_
  exact .none _

theorem decodeOpImm_encodes : Encodes (decodeOpImm f7 b a f3 d) (.full (word32 f7 b a f3 d 0x13)) := by
  unfold decodeOpImm
  iterate 4 refine .row (fun h => full_congr p.imm12_high p.imm12_low p.rs1_eq h.symm p.rd_eq) ?_
  iterate 3 refine .row (fun ⟨h3, h7⟩ => full_congr (p.imm6_high h7) p.imm6_low p.rs1_eq h3.symm p.rd_eq) ?_
  iterate 2 refine .row (fun h => full_congr p.imm12_high p.imm12_low p.rs1_eq h.symm p.rd_eq) ?_
  exact .none _

theorem decodeAuipc_encodes : Encodes (decodeAuipc f7 b a f3 d) (.full (word32 f7 b a f3 d 0x17)) := by
  obtain ⟨high, h2, h1, low⟩ := p.upper_eq
  exact .some (full_congr high h2 h1 low p.rd_eq)

theorem decodeOpImm32_encodes : Encodes (decodeOpImm32 f7 b a f3 d) (.full (word32 f7 b a f3 d 0x1b)) := by
  unfold decodeOpImm32
  refine .row (fun h => full_congr p.imm12_high p.imm12_low p.rs1_eq h.symm p.rd_eq) ?_
  iterate 3 refine .row (fun ⟨h3, h7⟩ => full_congr h7.symm p.rs2_eq p.rs1_eq h3.symm p.rd_eq) ?_
  exact .none _

theorem decodeStore_encodes : Encodes (decodeStore f7 b a f3 d) (.full (word32 f7 b a f3 d 0x23)) := by
  unfold decodeStore
  iterate 4 refine .row (fun h => full_congr p.store_high p.rs2_eq p.rs1_eq h.symm p.store_low) ?_
  exact .none _

theorem decodeStoreFp_encodes : Encodes (decodeStoreFp f7 b a f3 d) (.full (word32 f7 b a f3 d 0x27)) := by
  unfold decodeStoreFp
  iterate 3 refine .row (fun h => full_congr p.store_high p.rs2_eq p.rs1_eq h.symm p.store_low) ?_
  exact .none _

theorem decodeAmo_encodes : Encodes (decodeAmo f7 b a f3 d) (.full (word32 f7 b a f3 d 0x2f)) := by
  unfold decodeAmo
  iterate 18 refine .row (fun ⟨h3, h7⟩ => full_congr (ordering_eq h7) p.rs2_eq p.rs1_eq h3.symm p.rd_eq) ?_
  iterate 2 refine .row (fun ⟨h3, h7, hb⟩ => full_congr (ordering_eq h7) hb.symm p.rs1_eq h3.symm p.rd_eq) ?_
  iterate 2 refine .row (fun ⟨h3, h7⟩ => full_congr (ordering_eq h7) p.rs2_eq p.rs1_eq h3.symm p.rd_eq) ?_
  exact .none _

theorem decodeOp_encodes : Encodes (decodeOp f7 b a f3 d) (.full (word32 f7 b a f3 d 0x33)) := by
  unfold decodeOp
  iterate 18 refine .row (fun ⟨h3, h7⟩ => full_congr h7.symm p.rs2_eq p.rs1_eq h3.symm p.rd_eq) ?_
  exact .none _

theorem decodeLui_encodes : Encodes (decodeLui f7 b a f3 d) (.full (word32 f7 b a f3 d 0x37)) := by
  obtain ⟨high, h2, h1, low⟩ := p.upper_eq
  exact .some (full_congr high h2 h1 low p.rd_eq)

theorem decodeOp32_encodes : Encodes (decodeOp32 f7 b a f3 d) (.full (word32 f7 b a f3 d 0x3b)) := by
  unfold decodeOp32
  iterate 10 refine .row (fun ⟨h3, h7⟩ => full_congr h7.symm p.rs2_eq p.rs1_eq h3.symm p.rd_eq) ?_
  exact .none _

theorem decodeMadd_encodes : Encodes (decodeMadd f7 b a f3 d) (.full (word32 f7 b a f3 d 0x43)) := by
  unfold decodeMadd
  iterate 3 refine .row (fun h => full_congr (p.fs3_eq h) p.rs2_eq p.rs1_eq p.rm_eq p.rd_eq) ?_
  exact .none _

theorem decodeMsub_encodes : Encodes (decodeMsub f7 b a f3 d) (.full (word32 f7 b a f3 d 0x47)) := by
  unfold decodeMsub
  iterate 3 refine .row (fun h => full_congr (p.fs3_eq h) p.rs2_eq p.rs1_eq p.rm_eq p.rd_eq) ?_
  exact .none _

theorem decodeNmsub_encodes : Encodes (decodeNmsub f7 b a f3 d) (.full (word32 f7 b a f3 d 0x4b)) := by
  unfold decodeNmsub
  iterate 3 refine .row (fun h => full_congr (p.fs3_eq h) p.rs2_eq p.rs1_eq p.rm_eq p.rd_eq) ?_
  exact .none _

theorem decodeNmadd_encodes : Encodes (decodeNmadd f7 b a f3 d) (.full (word32 f7 b a f3 d 0x4f)) := by
  unfold decodeNmadd
  iterate 3 refine .row (fun h => full_congr (p.fs3_eq h) p.rs2_eq p.rs1_eq p.rm_eq p.rd_eq) ?_
  exact .none _

/-! The rows of opcode 0x53 are of four kinds: rounded operations of two operands, those of one, comparisons, and moves. -/

theorem Fits32.fp2_eq {n o : Nat} (h : f7 = n) :
    Code.full (word32 n (BitVec.ofNat 5 b).toNat (BitVec.ofNat 5 a).toNat (BitVec.ofNat 3 f3).toNat (BitVec.ofNat 5 d).toNat o) =
      .full (word32 f7 b a f3 d o) := full_congr h.symm p.rs2_eq p.rs1_eq p.rm_eq p.rd_eq

theorem Fits32.fp1_eq {n m o : Nat} (h : f7 = n ∧ b = m) :
    Code.full (word32 n m (BitVec.ofNat 5 a).toNat (BitVec.ofNat 3 f3).toNat (BitVec.ofNat 5 d).toNat o) =
      .full (word32 f7 b a f3 d o) := full_congr h.1.symm h.2.symm p.rs1_eq p.rm_eq p.rd_eq

theorem Fits32.fpCompare_eq {n m o : Nat} (h : f7 = n ∧ f3 = m) :
    Code.full (word32 n (BitVec.ofNat 5 b).toNat (BitVec.ofNat 5 a).toNat m (BitVec.ofNat 5 d).toNat o) =
      .full (word32 f7 b a f3 d o) := full_congr h.1.symm p.rs2_eq p.rs1_eq h.2.symm p.rd_eq

theorem Fits32.fpMove_eq {n m l o : Nat} (h : f7 = n ∧ b = m ∧ f3 = l) :
    Code.full (word32 n m (BitVec.ofNat 5 a).toNat l (BitVec.ofNat 5 d).toNat o) = .full (word32 f7 b a f3 d o) :=
  full_congr h.1.symm h.2.1.symm p.rs1_eq h.2.2.symm p.rd_eq

theorem decodeOpFp_0_encodes :
    Encodes (decodeOpFp_0 f7 b a f3 d) (.full (word32 f7 b a f3 d 0x53)) := by
  unfold decodeOpFp_0
  refine .row p.fp2_eq (.row p.fpMove_eq ?_)
  iterate 8 refine .row p.fp1_eq ?_
  refine .row p.fp2_eq ?_
  iterate 5 refine .row p.fpCompare_eq ?_
  refine .row p.fp2_eq (.row p.fpMove_eq (.row p.fpMove_eq ?_))
  iterate 3 refine .row p.fpCompare_eq ?_
  refine .row p.fp1_eq (.row p.fp2_eq ?_)
  iterate 2 refine .row p.fp1_eq ?_
  exact .none _

theorem decodeOpFp_1_encodes :
    Encodes (decodeOpFp_1 f7 b a f3 d) (.full (word32 f7 b a f3 d 0x53)) := by
  unfold decodeOpFp_1
  refine .row p.fp2_eq (.row p.fpMove_eq ?_)
  iterate 9 refine .row p.fp1_eq ?_
  refine .row p.fp2_eq ?_
  iterate 5 refine .row p.fpCompare_eq ?_
  refine .row p.fp2_eq (.row p.fpMove_eq (.row p.fpMove_eq ?_))
  iterate 3 refine .row p.fpCompare_eq ?_
  refine .row p.fp1_eq (.row p.fp2_eq (.row p.fp1_eq ?_))
  exact .none _

theorem decodeOpFp_2_encodes :
    Encodes (decodeOpFp_2 f7 b a f3 d) (.full (word32 f7 b a f3 d 0x53)) := by
  unfold decodeOpFp_2
  refine .row p.fp2_eq (.row p.fpMove_eq ?_)
  iterate 10 refine .row p.fp1_eq ?_
  refine .row p.fp2_eq ?_
  iterate 5 refine .row p.fpCompare_eq ?_
  refine .row p.fp2_eq (.row p.fpMove_eq (.row p.fpMove_eq ?_))
  iterate 3 refine .row p.fpCompare_eq ?_
  refine .row p.fp1_eq (.row p.fp2_eq ?_)
  exact .none _

theorem decodeOpFp_encodes :
    Encodes (decodeOpFp f7 b a f3 d) (.full (word32 f7 b a f3 d 0x53)) := by
  unfold decodeOpFp
  split
  · exact decodeOpFp_0_encodes p
  · exact decodeOpFp_1_encodes p
  · exact decodeOpFp_2_encodes p
  · exact .none _

theorem decodeBranch_encodes : Encodes (decodeBranch f7 b a f3 d) (.full (word32 f7 b a f3 d 0x63)) := by
  obtain ⟨high, low⟩ := p.branch_eq
  unfold decodeBranch
  iterate 6 refine .row (fun h => full_congr high p.rs2_eq p.rs1_eq h.symm low) ?_
  exact .none _

theorem decodeJalr_encodes : Encodes (decodeJalr f7 b a f3 d) (.full (word32 f7 b a f3 d 0x67)) := by
  unfold decodeJalr
  refine .row (fun h => full_congr p.imm12_high p.imm12_low p.rs1_eq h.symm p.rd_eq) ?_
  exact .none _

theorem decodeJal_encodes : Encodes (decodeJal f7 b a f3 d) (.full (word32 f7 b a f3 d 0x6f)) := by
  obtain ⟨high, h2, h1, h3⟩ := p.jal_eq
  exact .some (full_congr high h2 h1 h3 p.rd_eq)

theorem decodeSystem_encodes : Encodes (decodeSystem f7 b a f3 d) (.full (word32 f7 b a f3 d 0x73)) := by
  unfold decodeSystem
  iterate 6 refine .row (fun h => full_congr p.imm12_high p.imm12_low p.rs1_eq h.symm p.rd_eq) ?_
  iterate 4 refine .row (fun ⟨h7, hb, ha, h3, hd⟩ => full_congr h7.symm hb.symm ha.symm h3.symm hd.symm) ?_
  refine .row (fun ⟨h7, h3, hd⟩ => full_congr h7.symm p.rs2_eq p.rs1_eq h3.symm hd.symm) ?_
  refine .row (fun ⟨h7, hb, ha, h3, hd⟩ => full_congr h7.symm hb.symm ha.symm h3.symm hd.symm) ?_
  exact .none _

/-- What any row of the 32-bit codes decodes has the code it was decoded from. -/
theorem decodeOpcode_encodes : Encodes (decodeOpcode f7 b a f3 d op) (.full (word32 f7 b a f3 d op)) := by
  unfold decodeOpcode
  split
  · exact decodeLoad_encodes p
  · exact decodeLoadFp_encodes p
  · exact decodeCustom0_encodes p
  · exact decodeMiscMem_encodes p
  · exact decodeOpImm_encodes p
  · exact decodeAuipc_encodes p
  · exact decodeOpImm32_encodes p
  · exact decodeStore_encodes p
  · exact decodeStoreFp_encodes p
  · exact decodeAmo_encodes p
  · exact decodeOp_encodes p
  · exact decodeLui_encodes p
  · exact decodeOp32_encodes p
  · exact decodeMadd_encodes p
  · exact decodeMsub_encodes p
  · exact decodeNmsub_encodes p
  · exact decodeNmadd_encodes p
  · exact decodeOpFp_encodes p
  · exact decodeBranch_encodes p
  · exact decodeJalr_encodes p
  · exact decodeJal_encodes p
  · exact decodeSystem_encodes p
  · exact .none _

end

end Sys2Proof

namespace Sys2Proof

/-! ### Pieces of a 16-bit code after their operands are put together and taken apart again -/

section
variable {f3 e r t q : Nat} (p : Fits16 f3 e r t q)
include p

theorem Fits16.rd_eq : (BitVec.ofNat 5 r).toNat = r := toNat_ofNat_of_lt p.rd

theorem Fits16.rs2_eq : (BitVec.ofNat 5 t).toNat = t := toNat_ofNat_of_lt p.rs2

omit p in
theorem rdShort_eq {k : Nat} (h : r / 8 = k / 8) (aligned : k % 8 = 0 := by decide) : k + (BitVec.ofNat 3 r).toNat = r := by
  rw [BitVec.toNat_ofNat]
  omega

omit p in
theorem rs2Short_eq {k : Nat} (h : t / 8 = k / 8) (aligned : k % 8 = 0 := by decide) : k + (BitVec.ofNat 3 t).toNat = t := by
  rw [BitVec.toNat_ofNat]
  omega

theorem Fits16.imm6_eq :
    (BitVec.ofNat 6 (e * 32 + t)).toNat / 32 = e ∧ (BitVec.ofNat 6 (e * 32 + t)).toNat % 32 = t := by
  obtain ⟨-, he, -, ht, -⟩ := p
  rw [toNat_ofNat_of_lt (by omega)]
  omega

theorem Fits16.access8_eq :
    let u := (BitVec.ofNat 5 (t / 8 * 8 + e * 4 + r / 8)).toNat
    u / 4 % 2 = e ∧ u % 4 * 8 + (BitVec.ofNat 3 r).toNat = r ∧ u / 8 * 8 + (BitVec.ofNat 3 t).toNat = t := by
  obtain ⟨-, he, hr, ht, -⟩ := p
  intro u
  have number : u = t / 8 * 8 + e * 4 + r / 8 := toNat_ofNat_of_lt (by omega)
  rw [number, BitVec.toNat_ofNat, BitVec.toNat_ofNat]
  omega

theorem Fits16.access4_eq :
    let u := (BitVec.ofNat 5 (t / 8 % 2 * 16 + e * 8 + r / 8 * 2 + t / 16)).toNat
    u / 8 % 2 = e ∧ u / 2 % 4 * 8 + (BitVec.ofNat 3 r).toNat = r ∧ u % 2 * 16 + u / 16 * 8 + (BitVec.ofNat 3 t).toNat = t := by
  obtain ⟨-, he, hr, ht, -⟩ := p
  have joined_r : r / 8 * 8 + (BitVec.ofNat 3 r).toNat = r := by rw [BitVec.toNat_ofNat]; omega
  have joined_t : t / 16 * 16 + t / 8 % 2 * 8 + (BitVec.ofNat 3 t).toNat = t := by rw [BitVec.toNat_ofNat]; omega
  intro u
  have number : u = ((t / 8 % 2 * 2 + e) * 4 + r / 8) * 2 + t / 16 := (toNat_ofNat_of_lt (by omega)).trans (by omega)
  clear_value u
  obtain ⟨from2, digit1⟩ := div_mod_of_digit number (by omega)
  obtain ⟨from8, digit2⟩ := div_mod_of_digit_above 8 from2 (by omega)
  obtain ⟨from16, digit8⟩ := div_mod_of_digit_above 16 from8 he
  rw [digit1, digit2, digit8, from16]
  exact ⟨rfl, joined_r, joined_t⟩

theorem Fits16.addi4spn_eq :
    let u := (BitVec.ofNat 8 (r % 16 * 16 + e * 8 + r / 16 * 4 + t / 8 % 2 * 2 + t / 16)).toNat
    u / 8 % 2 = e ∧ u / 4 % 2 * 16 + u / 16 = r ∧ u % 2 * 16 + u / 2 % 2 * 8 + (BitVec.ofNat 3 t).toNat = t := by
  obtain ⟨-, he, hr, ht, -⟩ := p
  have joined_r : r / 16 * 16 + r % 16 = r := by omega
  have joined_t : t / 16 * 16 + t / 8 % 2 * 8 + (BitVec.ofNat 3 t).toNat = t := by rw [BitVec.toNat_ofNat]; omega
  intro u
  have number : u = (((r % 16 * 2 + e) * 2 + r / 16) * 2 + t / 8 % 2) * 2 + t / 16 :=
    (toNat_ofNat_of_lt (by omega)).trans (by omega)
  clear_value u
  obtain ⟨from2, digit1⟩ := div_mod_of_digit number (by omega)
  obtain ⟨from4, digit2⟩ := div_mod_of_digit_above 4 from2 (by omega)
  obtain ⟨from8, digit4⟩ := div_mod_of_digit_above 8 from4 (by omega)
  obtain ⟨from16, digit8⟩ := div_mod_of_digit_above 16 from8 he
  rw [digit1, digit2, digit4, digit8, from16]
  exact ⟨rfl, joined_r, joined_t⟩

theorem Fits16.addi16sp_eq :
    let imm := (BitVec.ofNat 6 (e * 32 + t / 2 % 4 * 8 + t / 8 % 2 * 4 + t % 2 * 2 + t / 16)).toNat
    imm / 32 = e ∧ imm % 2 * 16 + imm / 4 % 2 * 8 + imm / 8 % 4 * 2 + imm / 2 % 2 = t := by
  obtain ⟨-, he, -, ht, -⟩ := p
  have joined_t : t / 16 * 16 + t / 8 % 2 * 8 + t / 2 % 4 * 2 + t % 2 = t := by
    have split2 := div_eq_div_mul_add_mod t 2 4
    have split8 := div_eq_div_mul_add_mod t 8 2
    omega
  intro imm
  have number : imm = (((e * 4 + t / 2 % 4) * 2 + t / 8 % 2) * 2 + t % 2) * 2 + t / 16 :=
    (toNat_ofNat_of_lt (by omega)).trans (by omega)
  clear_value imm
  obtain ⟨from2, digit1⟩ := div_mod_of_digit number (by omega)
  obtain ⟨from4, digit2⟩ := div_mod_of_digit_above 4 from2 (by omega)
  obtain ⟨from8, digit4⟩ := div_mod_of_digit_above 8 from4 (by omega)
  obtain ⟨from32, digit8⟩ := div_mod_of_digit_above 32 from8 (by omega)
  rw [digit1, digit2, digit4, digit8, from32]
  exact ⟨rfl, joined_t⟩

theorem Fits16.branch_eq :
    let off := (BitVec.ofNat 8 (e * 128 + t / 8 * 32 + t % 2 * 16 + r / 8 * 4 + t / 2 % 4)).toNat
    off / 128 = e ∧ off / 4 % 4 * 8 + (BitVec.ofNat 3 r).toNat = r ∧ off / 32 % 4 * 8 + off % 4 * 2 + off / 16 % 2 = t := by
  obtain ⟨-, he, hr, ht, -⟩ := p
  have joined_r : r / 8 * 8 + (BitVec.ofNat 3 r).toNat = r := by rw [BitVec.toNat_ofNat]; omega
  have joined_t : t / 8 * 8 + t / 2 % 4 * 2 + t % 2 = t := by
    have split2 := div_eq_div_mul_add_mod t 2 4
    omega
  intro off
  have number : off = (((e * 4 + t / 8) * 2 + t % 2) * 4 + r / 8) * 4 + t / 2 % 4 :=
    (toNat_ofNat_of_lt (by omega)).trans (by omega)
  clear_value off
  obtain ⟨from4, digit1⟩ := div_mod_of_digit number (by omega)
  obtain ⟨from16, digit4⟩ := div_mod_of_digit_above 16 from4 (by omega)
  obtain ⟨from32, digit16⟩ := div_mod_of_digit_above 32 from16 (by omega)
  obtain ⟨from128, digit32⟩ := div_mod_of_digit_above 128 from32 (by omega)
  rw [digit1, digit4, digit16, digit32, from128]
  exact ⟨rfl, joined_r, joined_t⟩

theorem Fits16.jump_eq :
    let off := (BitVec.ofNat 11 (e * 1024 + r / 2 % 2 * 512 + r / 4 % 4 * 128 + t / 16 * 64 + r % 2 * 32 + t % 2 * 16 +
      r / 16 * 8 + t / 2 % 8)).toNat
    off / 1024 = e ∧ off / 8 % 2 * 16 + off / 128 % 4 * 4 + off / 512 % 2 * 2 + off / 32 % 2 = r ∧
      off / 64 % 2 * 16 + off % 8 * 2 + off / 16 % 2 = t := by
  obtain ⟨-, he, hr, ht, -⟩ := p
  have joined_r : r / 16 * 16 + r / 4 % 4 * 4 + r / 2 % 2 * 2 + r % 2 = r := by
    have split2 := div_eq_div_mul_add_mod r 2 2
    have split4 := div_eq_div_mul_add_mod r 4 4
    omega
  have joined_t : t / 16 * 16 + t / 2 % 8 * 2 + t % 2 = t := by
    have split2 := div_eq_div_mul_add_mod t 2 8
    omega
  intro off
  have number : off =
      ((((((e * 2 + r / 2 % 2) * 4 + r / 4 % 4) * 2 + t / 16) * 2 + r % 2) * 2 + t % 2) * 2 + r / 16) * 8 + t / 2 % 8 :=
    (toNat_ofNat_of_lt (by omega)).trans (by omega)
  clear_value off
  obtain ⟨from8, digit1⟩ := div_mod_of_digit number (by omega)
  obtain ⟨from16, digit8⟩ := div_mod_of_digit_above 16 from8 (by omega)
  obtain ⟨from32, digit16⟩ := div_mod_of_digit_above 32 from16 (by omega)
  obtain ⟨from64, digit32⟩ := div_mod_of_digit_above 64 from32 (by omega)
  obtain ⟨from128, digit64⟩ := div_mod_of_digit_above 128 from64 (by omega)
  obtain ⟨from512, digit128⟩ := div_mod_of_digit_above 512 from128 (by omega)
  obtain ⟨from1024, digit512⟩ := div_mod_of_digit_above 1024 from512 (by omega)
  rw [digit1, digit8, digit16, digit32, digit64, digit128, digit512, from1024]
  exact ⟨rfl, joined_r, joined_t⟩

theorem Fits16.loadSp8_eq :
    let u := (BitVec.ofNat 6 (t % 8 * 8 + e * 4 + t / 8)).toNat
    u / 4 % 2 = e ∧ u % 4 * 8 + u / 8 = t := by
  obtain ⟨-, he, -, ht, -⟩ := p
  have joined_t : t / 8 * 8 + t % 8 = t := by omega
  intro u
  have number : u = (t % 8 * 2 + e) * 4 + t / 8 := (toNat_ofNat_of_lt (by omega)).trans (by omega)
  clear_value u
  obtain ⟨from4, digit1⟩ := div_mod_of_digit number (by omega)
  obtain ⟨from8, digit4⟩ := div_mod_of_digit_above 8 from4 he
  rw [digit1, digit4, from8]
  exact ⟨rfl, joined_t⟩

theorem Fits16.storeSp8_eq :
    let u := (BitVec.ofNat 6 (r % 8 * 8 + e * 4 + r / 8)).toNat
    u / 4 % 2 = e ∧ u % 4 * 8 + u / 8 = r :=
  Fits16.loadSp8_eq (t := r) (f3 := f3) (r := r) (q := q) ⟨p.funct3, p.bit12, p.rd, p.rd, p.quadrant⟩

theorem Fits16.loadSp4_eq :
    let u := (BitVec.ofNat 6 (t % 4 * 16 + e * 8 + t / 4)).toNat
    u / 8 % 2 = e ∧ u % 8 * 4 + u / 16 = t := by
  obtain ⟨-, he, -, ht, -⟩ := p
  have joined_t : t / 4 * 4 + t % 4 = t := by omega
  intro u
  have number : u = (t % 4 * 2 + e) * 8 + t / 4 := (toNat_ofNat_of_lt (by omega)).trans (by omega)
  clear_value u
  obtain ⟨from8, digit1⟩ := div_mod_of_digit number (by omega)
  obtain ⟨from16, digit8⟩ := div_mod_of_digit_above 16 from8 he
  rw [digit1, digit8, from16]
  exact ⟨rfl, joined_t⟩

theorem Fits16.storeSp4_eq :
    let u := (BitVec.ofNat 6 (r % 4 * 16 + e * 8 + r / 4)).toNat
    u / 8 % 2 = e ∧ u % 8 * 4 + u / 16 = r :=
  Fits16.loadSp4_eq (t := r) (f3 := f3) (r := r) (q := q) ⟨p.funct3, p.bit12, p.rd, p.rd, p.quadrant⟩

/-! ### The rows of each quadrant -/

theorem decodeQuadrant0_encodes : Encodes (decodeQuadrant0 f3 e r t) (.half (word16 f3 e r t 0)) := by
  obtain ⟨spnBit12, spnRd, spnRs2⟩ := p.addi4spn_eq
  obtain ⟨access8Bit12, access8Rd, access8Rs2⟩ := p.access8_eq
  obtain ⟨access4Bit12, access4Rd, access4Rs2⟩ := p.access4_eq
  unfold decodeQuadrant0
  refine .row (fun h => half_congr h.symm spnBit12 spnRd spnRs2) ?_
  iterate 3 refine .row (fun h => half_congr h.symm access8Bit12 access8Rd access8Rs2) ?_
  refine .row (fun h => half_congr h.symm access4Bit12 access4Rd access4Rs2) ?_
  refine .row (fun h => half_congr h.symm access8Bit12 access8Rd access8Rs2) ?_
  refine .row (fun h => half_congr h.symm access4Bit12 access4Rd access4Rs2) ?_
  exact .none _

theorem decodeQuadrant1_encodes : Encodes (decodeQuadrant1 f3 e r t) (.half (word16 f3 e r t 1)) := by
  obtain ⟨immBit5, immLow⟩ := p.imm6_eq
  obtain ⟨spBit12, spRs2⟩ := p.addi16sp_eq
  obtain ⟨branchBit12, branchRd, branchRs2⟩ := p.branch_eq
  obtain ⟨jumpBit12, jumpRd, jumpRs2⟩ := p.jump_eq
  unfold decodeQuadrant1
  refine .row (fun ⟨h3, he, hr, ht⟩ => half_congr h3.symm he.symm hr.symm ht.symm) ?_
  refine .row (fun ⟨h3, hr⟩ => half_congr h3.symm spBit12 hr.symm spRs2) ?_
  iterate 2 refine .row (fun h => half_congr h.symm immBit5 p.rd_eq immLow) ?_
  iterate 2 refine .row (fun ⟨h3, he, hr, ht⟩ => half_congr h3.symm he.symm (rdShort_eq hr) (rs2Short_eq ht)) ?_
  refine .row (fun ⟨h3, hr⟩ => half_congr h3.symm immBit5 (rdShort_eq hr) immLow) ?_
  iterate 2 refine .row (fun h => half_congr h.symm branchBit12 branchRd branchRs2) ?_
  refine .row (fun h => half_congr h.symm jumpBit12 jumpRd jumpRs2) ?_
  iterate 2 refine .row (fun h => half_congr h.symm immBit5 p.rd_eq immLow) ?_
  refine .row (fun ⟨h3, he, hr, ht⟩ => half_congr h3.symm he.symm (rdShort_eq hr) (rs2Short_eq ht)) ?_
  iterate 2 refine .row (fun ⟨h3, hr⟩ => half_congr h3.symm immBit5 (rdShort_eq hr) immLow) ?_
  iterate 3 refine .row (fun ⟨h3, he, hr, ht⟩ => half_congr h3.symm he.symm (rdShort_eq hr) (rs2Short_eq ht)) ?_
  exact .none _

theorem decodeQuadrant2_encodes : Encodes (decodeQuadrant2 f3 e r t) (.half (word16 f3 e r t 2)) := by
  obtain ⟨immBit5, immLow⟩ := p.imm6_eq
  obtain ⟨load8Bit12, load8Rs2⟩ := p.loadSp8_eq
  obtain ⟨load4Bit12, load4Rs2⟩ := p.loadSp4_eq
  obtain ⟨store8Bit12, store8Rd⟩ := p.storeSp8_eq
  obtain ⟨store4Bit12, store4Rd⟩ := p.storeSp4_eq
  unfold decodeQuadrant2
  refine .row (fun ⟨h3, he, ht⟩ => half_congr h3.symm he.symm p.rd_eq ht.symm) ?_
  refine .row (fun ⟨h3, he, hr, ht⟩ => half_congr h3.symm he.symm hr.symm ht.symm) ?_
  refine .row (fun ⟨h3, he, ht⟩ => half_congr h3.symm he.symm p.rd_eq ht.symm) ?_
  refine .row (fun ⟨h3, he⟩ => half_congr h3.symm he.symm p.rd_eq p.rs2_eq) ?_
  refine .row (fun h => half_congr h.symm load8Bit12 p.rd_eq load8Rs2) ?_
  refine .row (fun h => half_congr h.symm store8Bit12 store8Rd p.rs2_eq) ?_
  refine .row (fun h => half_congr h.symm load8Bit12 p.rd_eq load8Rs2) ?_
  refine .row (fun h => half_congr h.symm load4Bit12 p.rd_eq load4Rs2) ?_
  refine .row (fun ⟨h3, he⟩ => half_congr h3.symm he.symm p.rd_eq p.rs2_eq) ?_
  refine .row (fun h => half_congr h.symm store8Bit12 store8Rd p.rs2_eq) ?_
  refine .row (fun h => half_congr h.symm immBit5 p.rd_eq immLow) ?_
  refine .row (fun h => half_congr h.symm store4Bit12 store4Rd p.rs2_eq) ?_
  exact .none _

/-- What any row of the 16-bit codes decodes has the code it was decoded from. -/
theorem decodeQuadrant_encodes : Encodes (decodeQuadrant f3 e r t q) (.half (word16 f3 e r t q)) := by
  unfold decodeQuadrant
  split
  · exact decodeQuadrant0_encodes p
  · exact decodeQuadrant1_encodes p
  · exact decodeQuadrant2_encodes p
  · exact .none _

end

/-- What any code decodes has that code. -/
theorem decodeRow_encodes (c : Code) : Encodes (decodeRow c) c := by
  cases c with
  | half c =>
    have h := decodeQuadrant_encodes (fits16_bits c.toNat)
    rw [word16_bits] at h
    exact h
  | full w =>
    have h := decodeOpcode_encodes (fits32_bits w.toNat)
    rw [word32_bits] at h
    exact h

/-- Settles O37: row by row, the operands a decoder puts together from the pieces of a code give the pieces back. -/
theorem decodeSound : Obligations.DecodeSound := by
  unfold Obligations.DecodeSound decodeCode
  intro c i h
  split at h
  · cases h
  · next j row =>
    split at h
    · next hw =>
      cases h
      exact ⟨hw, decodeRow_encodes c _ row⟩
    · cases h

end Sys2Proof

namespace Sys2Proof.Machine

/-! ### Closed gates (30_encoding:R288, R289) -/

section
variable {s : State} {c : Code} {k : Result}

theorem State.fpGate_closed (off : s.me.fpOn = false) : s.fpGate c k = .next (s.illegal c) := by
  unfold State.fpGate
  rw [off]
  rfl

theorem State.theadGate_closed (off : s.me.theadOn = false) : s.theadGate c k = .next (s.illegal c) := by
  unfold State.theadGate
  rw [off]
  rfl

/-- Behind both gates the instruction is illegal by the one or by the other, with the same code. -/
theorem State.theadGate_fpGate_closed (off : s.me.fpOn = false) : s.theadGate c (s.fpGate c k) = .next (s.illegal c) := by
  unfold State.theadGate
  rw [State.fpGate_closed off, ite_self]

end

/-- With the floating-point unit off, every instruction that needs it is illegal. -/
theorem exec_of_fpOff {i : Instr} {s : State} (gated : needsFp i = true) (off : s.me.fpOn = false) :
    exec i s = .next (s.illegal (encode i)) := by
  cases i with
  | faddS | fclassS | fcvtLS | fcvtLuS | fcvtSL | fcvtSLu | fcvtSW | fcvtSWu | fcvtWS | fcvtWuS | fdivS | feqS | fleS | fltS
  | flw | fmaddS | fmaxS | fminS | fmsubS | fmulS | fmvWX | fmvXW | fnmaddS | fnmsubS | fsgnjS | fsgnjnS | fsgnjxS | fsqrtS
  | fsubS | fsw | faddD | fclassD | fcvtDL | fcvtDLu | fcvtDS | fcvtDW | fcvtDWu | fcvtLD | fcvtLuD | fcvtSD | fcvtWD | fcvtWuD
  | fdivD | feqD | fld | fleD | fltD | fmaddD | fmaxD | fminD | fmsubD | fmulD | fmvDX | fmvXD | fnmaddD | fnmsubD | fsd | fsgnjD
  | fsgnjnD | fsgnjxD | fsqrtD | fsubD | cFld | cFldsp | cFsd | cFsdsp | faddH | fclassH | fcvtDH | fcvtHD | fcvtHL | fcvtHLu
  | fcvtHS | fcvtHW | fcvtHWu | fcvtLH | fcvtLuH | fcvtSH | fcvtWH | fcvtWuH | fdivH | feqH | fleH | flh | fltH | fmaddH | fmaxH
  | fminH | fmsubH | fmulH | fmvHX | fmvXH | fnmaddH | fnmsubH | fsgnjH | fsgnjnH | fsgnjxH | fsh | fsqrtH | fsubH =>
    exact State.fpGate_closed off
  | flrd | flrw | flurd | flurw | fsrd | fsrw | fsurd | fsurw => exact State.theadGate_fpGate_closed off
  | _ => exact absurd gated Bool.false_ne_true

/-- With the T-Head subsets off, every instruction of theirs is illegal. -/
theorem exec_of_theadOff {i : Instr} {s : State} (gated : needsThead i = true) (off : s.me.theadOn = false) :
    exec i s = .next (s.illegal (encode i)) := by
  cases i with
  | addsl | mula | mulah | mulaw | muls | mulsh | mulsw | mveqz | mvnez | srri | srriw | ext | extu | ff0 | ff1 | rev | revw | tst
  | tstnbz | flrd | flrw | flurd | flurw | fsrd | fsrw | fsurd | fsurw | lbia | lbib | lbuia | lbuib | ldd | ldia | ldib | lhia
  | lhib | lhuia | lhuib | lrb | lrbu | lrd | lrh | lrhu | lrw | lrwu | lurb | lurbu | lurd | lurh | lurhu | lurw | lurwu | lwd
  | lwia | lwib | lwud | lwuia | lwuib | sbia | sbib | sdd | sdia | sdib | shia | shib | srb | srd | srh | srw | surb | surd
  | surh | surw | swia | swib | swd | dcacheCall | dcacheCiall | dcacheCipa | dcacheCisw | dcacheCiva | dcacheCpa | dcacheCpal1
  | dcacheCva | dcacheCval1 | dcacheIpa | dcacheIsw | dcacheIva | dcacheIall | icacheIall | icacheIalls | icacheIpa | icacheIva
  | l2cacheCall | l2cacheCiall | l2cacheIall | dcacheCsw | sfenceVmas | sync | syncS | syncI | syncIs =>
    exact State.theadGate_closed off
  | _ => exact absurd gated Bool.false_ne_true

/-- Settles O54: every gated instruction asks its gate before all else. -/
theorem gatesClosed : Obligations.GatesClosed := by
  unfold Obligations.GatesClosed
  intro i s
  refine ⟨fun gated fs => exec_of_fpOff gated ?_, fun gated off => exec_of_theadOff gated off⟩
  exact bne_eq_false_iff_eq.2 fs

end Sys2Proof.Machine

namespace Sys2Proof

/-! ### The codes of compressed instructions as concatenations of their fields (30_encoding:R285) -/

/-- A field that reaches up to the highest bit. -/
theorem extract_high_toNat {n : Nat} (x : BitVec n) (lo len : Nat) (top : 2 ^ n = 2 ^ lo * 2 ^ len) :
    (x.extractLsb' lo len).toNat = x.toNat / 2 ^ lo := by
  rw [extract_toNat, Nat.mod_eq_of_lt (Nat.div_lt_of_lt_mul (top ▸ x.isLt))]

theorem word16_ci (f3 : BitVec 3) (imm : BitVec 6) (rd : Reg) (q : BitVec 2) :
    word16 f3.toNat (imm.toNat / 32) rd.toNat (imm.toNat % 32) q.toNat =
      f3 ++ imm.extractLsb' 5 1 ++ rd ++ imm.extractLsb' 0 5 ++ q :=
  word16_eq (by simp only [append_toNat, extract_high_toNat imm 5 1 rfl, extract_toNat, Nat.reducePow, Nat.div_one]; ring)

theorem word16_cr (f3 : BitVec 3) (e : BitVec 1) (rd rs2 : Reg) (q : BitVec 2) :
    word16 f3.toNat e.toNat rd.toNat rs2.toNat q.toNat = f3 ++ e ++ rd ++ rs2 ++ q :=
  word16_eq (by simp only [append_toNat]; ring)

theorem word16_crJump (f3 : BitVec 3) (e : BitVec 1) (rs1 : Reg) :
    word16 f3.toNat e.toNat rs1.toNat 0 2 = f3 ++ e ++ rs1 ++ 0b0000010#7 :=
  word16_eq (by simp only [append_toNat, BitVec.reduceToNat]; ring)

theorem word16_ca (f3 : BitVec 3) (e : BitVec 1) (f2 : BitVec 2) (rd : Reg') (op : BitVec 2) (rs2 : Reg') (q : BitVec 2) :
    word16 f3.toNat e.toNat (f2.toNat * 8 + rd.toNat) (op.toNat * 8 + rs2.toNat) q.toNat =
      f3 ++ e ++ f2 ++ rd ++ op ++ rs2 ++ q :=
  word16_eq (by simp only [append_toNat]; ring)

theorem word16_cImm (f3 : BitVec 3) (imm : BitVec 6) (f2 : BitVec 2) (rd : Reg') (q : BitVec 2) :
    word16 f3.toNat (imm.toNat / 32) (f2.toNat * 8 + rd.toNat) (imm.toNat % 32) q.toNat =
      f3 ++ imm.extractLsb' 5 1 ++ f2 ++ rd ++ imm.extractLsb' 0 5 ++ q :=
  word16_eq (by simp only [append_toNat, extract_high_toNat imm 5 1 rfl, extract_toNat, Nat.reducePow, Nat.div_one]; ring)

theorem word16_cb (f3 : BitVec 3) (rs1 : Reg') (off : BitVec 8) (q : BitVec 2) :
    word16 f3.toNat (off.toNat / 128) (off.toNat / 4 % 4 * 8 + rs1.toNat)
        (off.toNat / 32 % 4 * 8 + off.toNat % 4 * 2 + off.toNat / 16 % 2) q.toNat =
      f3 ++ off.extractLsb' 7 1 ++ off.extractLsb' 2 2 ++ rs1 ++ off.extractLsb' 5 2 ++ off.extractLsb' 0 2 ++
        off.extractLsb' 4 1 ++ q :=
  word16_eq (by simp only [append_toNat, extract_high_toNat off 7 1 rfl, extract_toNat, Nat.reducePow, Nat.div_one]; ring)

theorem encode_cAddi16sp (imm : BitVec 6) :
    encode (.cAddi16sp imm) = .half (0b011#3 ++ imm.extractLsb' 5 1 ++ 0b00010#5 ++ imm.extractLsb' 0 1 ++
      imm.extractLsb' 2 1 ++ imm.extractLsb' 3 2 ++ imm.extractLsb' 1 1 ++ 0b01#2) :=
  congrArg Code.half (word16_eq (by
    simp only [append_toNat, extract_high_toNat imm 5 1 rfl, extract_toNat, BitVec.reduceToNat, Nat.reducePow, Nat.div_one]
    ring))

theorem encode_cAddi4spn (rd : Reg') (u : BitVec 8) :
    encode (.cAddi4spn rd u) = .half (0b000#3 ++ u.extractLsb' 2 2 ++ u.extractLsb' 4 4 ++ u.extractLsb' 0 1 ++
      u.extractLsb' 1 1 ++ rd ++ 0b00#2) :=
  congrArg Code.half (word16_eq (by
    have upper : u.toNat / 4 % 4 = u.toNat / 8 % 2 * 2 + u.toNat / 4 % 2 := by omega
    simp only [append_toNat, extract_high_toNat u 4 4 rfl, extract_toNat, BitVec.reduceToNat, Nat.reducePow, Nat.div_one, upper]
    ring))

theorem encode_cJ (off : BitVec 11) :
    encode (.cJ off) = .half (0b101#3 ++ off.extractLsb' 10 1 ++ off.extractLsb' 3 1 ++ off.extractLsb' 7 2 ++
      off.extractLsb' 9 1 ++ off.extractLsb' 5 1 ++ off.extractLsb' 6 1 ++ off.extractLsb' 0 3 ++ off.extractLsb' 4 1 ++ 0b01#2) :=
  congrArg Code.half (word16_eq (by
    simp only [append_toNat, extract_high_toNat off 10 1 rfl, extract_toNat, BitVec.reduceToNat, Nat.reducePow, Nat.div_one]
    ring))

end Sys2Proof

namespace Sys2Proof.Machine

/-! ### Compressed arithmetic, branches and jumps (45_rv64c) -/

/-- The low half of an immediate extended to a word is the immediate extended to half a word. -/
theorem low32_imm6Word (imm : BitVec 6) : low32 (imm6Word imm) = imm.signExtend 32 := by
  unfold low32 imm6Word
  refine BitVec.eq_of_getLsbD_eq fun k hk => ?_
  have hk' : k < 64 := Nat.lt_trans hk (by decide)
  simp only [BitVec.getLsbD_setWidth, BitVec.getLsbD_signExtend, hk, hk', decide_true, Bool.true_and]

/-- A compressed conditional branch. -/
theorem State.branchC_computes (s : State) (taken : Word → Bool) (rs1 : Reg') (off : BitVec 8) :
    Computes s (s.branchC taken rs1 off)
      (if taken (s.getX (creg rs1)) then s.me.pc + (off ++ 0#1).signExtend 64 else s.me.pc + 2) [] := by
  unfold State.branchC
  split
  · exact s.jump_computes _
  · exact s.retire_computes 2

theorem execCBeqz_computes (s : State) (rs1 : Reg') (off : BitVec 8) :
    Computes s (execCBeqz rs1 off s)
      (if s.getX (creg rs1) = 0 then s.me.pc + (off ++ 0#1).signExtend 64 else s.me.pc + 2) [] := by
  have h := s.branchC_computes (fun a => a == 0) rs1 off
  simp only [beq_iff_eq] at h
  exact h

theorem execCBnez_computes (s : State) (rs1 : Reg') (off : BitVec 8) :
    Computes s (execCBnez rs1 off s)
      (if s.getX (creg rs1) ≠ 0 then s.me.pc + (off ++ 0#1).signExtend 64 else s.me.pc + 2) [] := by
  have h := s.branchC_computes (fun a => a != 0) rs1 off
  simp only [bne_iff_ne] at h
  exact h

theorem execCAddiw_computes (s : State) (rd : Reg) (imm : BitVec 6) :
    Computes s (execCAddiw rd imm s) (s.me.pc + 2) [(rd, ((s.getX rd).setWidth 32 + imm.signExtend 32).signExtend 64)] := by
  rw [← low32_imm6Word]
  exact s.writeX_computes 2 rd _

/-- Settles O16, by the formats of the codes and the shapes of the instructions they expand to. -/
theorem compressedArithmeticAndControl : Obligations.CompressedArithmeticAndControl := by
  unfold Obligations.CompressedArithmeticAndControl
  refine ⟨fun s rd rs2 imm6 shamt => ?_, fun s rd rs2 rs1 uimm8 off imm6 shamt => ?_, fun s off rs1 => ?_⟩
  · exact ⟨⟨congrArg _ (word16_cr 4 1 rd rs2 2), s.writeX_computes 2 rd _⟩,
      ⟨congrArg _ (word16_ci 0 imm6 rd 1), s.writeX_computes 2 rd _⟩,
      ⟨congrArg _ (word16_ci 1 imm6 rd 1), execCAddiw_computes s rd imm6⟩,
      ⟨congrArg _ (word16_ci 2 imm6 rd 1), s.writeX_computes 2 rd _⟩,
      ⟨congrArg _ (word16_ci 3 imm6 rd 1), s.writeX_computes 2 rd _⟩,
      ⟨congrArg _ (word16_cr 4 0 rd rs2 2), s.writeX_computes 2 rd _⟩,
      ⟨congrArg _ (word16_ci 0 shamt rd 2), s.writeX_computes 2 rd _⟩,
      ⟨rfl, s.retire_computes 2⟩,
      ⟨encode_cAddi16sp imm6, s.writeX_computes 2 2 _⟩⟩
  · exact ⟨⟨encode_cAddi4spn rd uimm8, s.writeX_computes 2 (creg rd) _⟩,
      ⟨congrArg _ (word16_ca 4 1 3 rd 1 rs2 1), s.writeX_computes 2 (creg rd) _⟩,
      ⟨congrArg _ (word16_ca 4 1 3 rd 0 rs2 1), s.writeX_computes 2 (creg rd) _⟩,
      ⟨congrArg _ (word16_ca 4 0 3 rd 3 rs2 1), s.writeX_computes 2 (creg rd) _⟩,
      ⟨congrArg _ (word16_ca 4 0 3 rd 2 rs2 1), s.writeX_computes 2 (creg rd) _⟩,
      ⟨congrArg _ (word16_ca 4 0 3 rd 1 rs2 1), s.writeX_computes 2 (creg rd) _⟩,
      ⟨congrArg _ (word16_ca 4 0 3 rd 0 rs2 1), s.writeX_computes 2 (creg rd) _⟩,
      ⟨congrArg _ (word16_cImm 4 imm6 2 rd 1), s.writeX_computes 2 (creg rd) _⟩,
      ⟨congrArg _ (word16_cImm 4 shamt 0 rd 1), s.writeX_computes 2 (creg rd) _⟩,
      ⟨congrArg _ (word16_cImm 4 shamt 1 rd 1), s.writeX_computes 2 (creg rd) _⟩,
      ⟨congrArg _ (word16_cb 6 rs1 off 1), execCBeqz_computes s rs1 off⟩,
      ⟨congrArg _ (word16_cb 7 rs1 off 1), execCBnez_computes s rs1 off⟩⟩
  · exact ⟨⟨encode_cJ off, s.jump_computes _⟩,
      ⟨congrArg _ (word16_crJump 4 0 rs1), s.jump_computes _⟩,
      ⟨congrArg _ (word16_crJump 4 1 rs1), s.link_computes 2 1 _⟩⟩

end Sys2Proof.Machine

namespace Sys2Proof

/-! ### The codes of 32-bit instructions as concatenations of their fields (30_encoding:R282) -/

theorem word32_rType (f7 : BitVec 7) (rs2 rs1 : Reg) (f3 : BitVec 3) (rd : Reg) (op : BitVec 7) :
    word32 f7.toNat rs2.toNat rs1.toNat f3.toNat rd.toNat op.toNat = f7 ++ rs2 ++ rs1 ++ f3 ++ rd ++ op :=
  word32_eq (by simp only [append_toNat]; omega)

theorem word32_iType (imm : BitVec 12) (rs1 : Reg) (f3 : BitVec 3) (rd : Reg) (op : BitVec 7) :
    word32 (imm.toNat / 32) (imm.toNat % 32) rs1.toNat f3.toNat rd.toNat op.toNat = imm ++ rs1 ++ f3 ++ rd ++ op :=
  word32_eq (by simp only [append_toNat]; omega)

theorem word32_shift (f6 shamt : BitVec 6) (rs1 : Reg) (f3 : BitVec 3) (rd : Reg) (op : BitVec 7) :
    word32 (f6.toNat * 2 + shamt.toNat / 32) (shamt.toNat % 32) rs1.toNat f3.toNat rd.toNat op.toNat =
      f6 ++ shamt ++ rs1 ++ f3 ++ rd ++ op :=
  word32_eq (by simp only [append_toNat]; omega)

theorem word32_sType (imm : BitVec 12) (rs2 rs1 : Reg) (f3 : BitVec 3) (op : BitVec 7) :
    word32 (imm.toNat / 32) rs2.toNat rs1.toNat f3.toNat (imm.toNat % 32) op.toNat =
      imm.extractLsb' 5 7 ++ rs2 ++ rs1 ++ f3 ++ imm.extractLsb' 0 5 ++ op :=
  word32_eq (by
    simp only [append_toNat, extract_high_toNat imm 5 7 rfl, extract_toNat, Nat.reducePow, Nat.div_one]
    ring)

theorem word32_bType (off : BitVec 12) (rs2 rs1 : Reg) (f3 : BitVec 3) (op : BitVec 7) :
    word32 (off.toNat / 2048 * 64 + off.toNat / 16 % 64) rs2.toNat rs1.toNat f3.toNat
        (off.toNat % 16 * 2 + off.toNat / 1024 % 2) op.toNat =
      off.extractLsb' 11 1 ++ off.extractLsb' 4 6 ++ rs2 ++ rs1 ++ f3 ++ off.extractLsb' 0 4 ++ off.extractLsb' 10 1 ++ op :=
  word32_eq (by
    simp only [append_toNat, extract_high_toNat off 11 1 rfl, extract_toNat, Nat.reducePow, Nat.div_one]
    ring)

theorem word32_uType (imm : BitVec 20) (rd : Reg) (op : BitVec 7) :
    word32 (imm.toNat / 8192) (imm.toNat / 256 % 32) (imm.toNat / 8 % 32) (imm.toNat % 8) rd.toNat op.toNat =
      imm ++ rd ++ op :=
  word32_eq (by simp only [append_toNat]; omega)

theorem word32_jType (off : BitVec 20) (rd : Reg) (op : BitVec 7) :
    word32 (off.toNat / 524288 * 64 + off.toNat / 16 % 64) (off.toNat % 16 * 2 + off.toNat / 1024 % 2)
        (off.toNat / 16384 % 32) (off.toNat / 2048 % 8) rd.toNat op.toNat =
      off.extractLsb' 19 1 ++ off.extractLsb' 0 10 ++ off.extractLsb' 10 1 ++ off.extractLsb' 11 8 ++ rd ++ op :=
  word32_eq (by
    have low : off.toNat % 1024 = off.toNat / 16 % 64 * 16 + off.toNat % 16 := by omega
    have high : off.toNat / 2048 % 256 = off.toNat / 16384 % 32 * 8 + off.toNat / 2048 % 8 := by omega
    simp only [append_toNat, extract_high_toNat off 19 1 rfl, extract_toNat, Nat.reducePow, Nat.div_one, low, high]
    ring)

end Sys2Proof

namespace Sys2Proof.Machine

/-! ### The number a load reads fits its bytes (20_memory:R181) -/

/-- The bytes of some parts together. -/
def partsSize : List Part → Nat
  | [] => 0
  | p :: rest => p.size + partsSize rest

theorem State.readParts_lt (s : State) (k : Access) (ps : List Part) (plain : ∀ p ∈ ps, Plain s p.place) :
    (s.readParts k ps).1 < 2 ^ (8 * partsSize ps) := by
  induction ps generalizing s with
  | nil => exact Nat.zero_lt_one
  | cons p rest ih =>
    have frame := s.touch_frame p.place.attr p.place.pa.toNat
    have upper := ih (s.touch p.place.attr p.place.pa.toNat) fun q hq =>
      (frame.store.plain _).2 (plain q (List.mem_cons_of_mem _ hq))
    have lower : s.number p.place.attr p.place.pa.toNat p.size < 2 ^ (8 * p.size) := numberAt_lt _ _ _
    unfold State.readParts
    rw [s.readPart_plain k p (plain p List.mem_cons_self)]
    dsimp only
    generalize ((s.touch p.place.attr p.place.pa.toNat).readParts k rest).1 = w at upper
    calc _ < 2 ^ (8 * p.size) + 2 ^ (8 * p.size) * w := Nat.add_lt_add_right lower _
      _ = 2 ^ (8 * p.size) * (w + 1) := by rw [Nat.mul_succ, Nat.add_comm]
      _ ≤ 2 ^ (8 * p.size) * 2 ^ (8 * partsSize rest) := Nat.mul_le_mul_left _ upper
      _ = 2 ^ (8 * partsSize (p :: rest)) := by rw [partsSize, Nat.mul_add, pow_add]

/-- A split access has a part for each of its bytes. -/
theorem State.planBytes_size (s : State) (k : Access) (start va : Word) (n : Nat) :
    (s.planBytes k start va n).Sat (fun ps _ => partsSize ps = n) (fun _ _ _ => True) := by
  induction n generalizing s va with
  | zero => exact rfl
  | succ n ih =>
    refine Res.Sat.andThen (Q := fun _ _ => True) ?_ fun pl s1 _ => ?_
    · exact (s.translate_sat k va).mono (fun _ _ _ => trivial) fun _ _ _ _ => trivial
    · split
      · trivial
      · refine Res.Sat.andThen (Q := fun _ _ => True) ?_ fun pl s2 _ => ?_
        · exact (s1.checkPlace_sat k va pl).mono (fun _ _ _ => trivial) fun _ _ _ _ => trivial
        · exact (ih s2 (va + 1)).andThen fun ps s3 size => by
            show 1 + partsSize ps = n + 1
            omega

/-- The parts of an access of `n` bytes are `n` bytes. -/
theorem State.plan_size {s s' : State} {k : Access} {va : Word} {n : Nat} {ps : List Part}
    (h : s.plan k false va n = .ok ps s') : partsSize ps = n := by
  unfold State.plan at h
  split at h
  · cases hr : s.resolve k va with
    | ok pl s1 =>
      rw [hr] at h
      cases h
      rfl
    | _ => rw [hr] at h; cases h
  · split at h
    · cases h
    · exact (s.planBytes_size k va va n).of_ok h

theorem Lands.readParts_lt {s s' : State} {va : Word} {n : Nat} {ps : List Part} (h : Lands s .load va n ps s') :
    (s'.readParts .load ps).1 < 2 ^ (8 * n) := by
  have hidden := ((s.plan_sat .load false va n).of_ok h.1).1
  exact s.plan_size h.1 ▸ s'.readParts_lt .load ps fun p hp => (hidden.plain _).2 (h.2 p hp)

/-! ### Loads and stores (40_rv64i section 4) -/

/-- The rule of a load speaks of its registers only at numbers of its size. -/
theorem LoadRule.congr {s : State} {r : Result} {pc va : Word} {n : Nat} {ws ws' : Nat → List (Reg × Word)}
    (h : LoadRule s r pc va n ws) (same : ∀ v < 2 ^ (8 * n), ws v = ws' v) : LoadRule s r pc va n ws' := by
  obtain ⟨lands, traps⟩ := h
  refine ⟨fun ps s' at_ => ?_, traps⟩
  rw [← same _ at_.readParts_lt]
  exact lands ps s' at_

theorem unsignedLoad_eq_setWidth {n v : Nat} (h : v < 2 ^ (8 * n)) : unsignedLoad v = (BitVec.ofNat (8 * n) v).setWidth 64 := by
  unfold unsignedLoad
  apply BitVec.eq_of_toNat_eq
  rw [BitVec.toNat_setWidth, BitVec.toNat_ofNat, BitVec.toNat_ofNat, Nat.mod_eq_of_lt h]

/-- A load that zero-extends what it reads. -/
theorem State.loadX_unsigned_rule (s : State) (len : Nat) {n : Nat} (hn : 64 % n = 0) (rd : Reg) (va : Word) :
    LoadRule s (s.loadX len false n rd va) (s.me.pc + BitVec.ofNat 64 len) va n
      fun v => [(rd, (BitVec.ofNat (8 * n) v).setWidth 64)] :=
  (s.loadX_rule len false hn rd va).congr fun _ small => congrArg (fun w => [(rd, w)]) (unsignedLoad_eq_setWidth small)

/-- A load of a whole register. -/
theorem execLd_rule (s : State) (rd rs1 : Reg) (imm12 : BitVec 12) :
    LoadRule s (execLd rd rs1 imm12 s) (s.me.pc + 4) (s.getX rs1 + imm12.signExtend 64) 8 fun v => [(rd, BitVec.ofNat 64 v)] :=
  (s.loadX_rule 4 true (by decide) rd _).congr fun v _ => congrArg (fun w => [(rd, w)]) (BitVec.signExtend_eq (BitVec.ofNat 64 v))

/-- Settles O7, by the rules of loads and stores of any size. -/
theorem loadsAndStores : Obligations.LoadsAndStores := by
  unfold Obligations.LoadsAndStores
  intro s rd rs1 rs2 imm12
  exact ⟨⟨congrArg _ (word32_iType imm12 rs1 0 rd 0x03), s.loadX_rule 4 true (by decide) rd _⟩,
    ⟨congrArg _ (word32_iType imm12 rs1 4 rd 0x03), s.loadX_unsigned_rule 4 (by decide) rd _⟩,
    ⟨congrArg _ (word32_iType imm12 rs1 1 rd 0x03), s.loadX_rule 4 true (by decide) rd _⟩,
    ⟨congrArg _ (word32_iType imm12 rs1 5 rd 0x03), s.loadX_unsigned_rule 4 (by decide) rd _⟩,
    ⟨congrArg _ (word32_iType imm12 rs1 2 rd 0x03), s.loadX_rule 4 true (by decide) rd _⟩,
    ⟨congrArg _ (word32_iType imm12 rs1 6 rd 0x03), s.loadX_unsigned_rule 4 (by decide) rd _⟩,
    ⟨congrArg _ (word32_iType imm12 rs1 3 rd 0x03), execLd_rule s rd rs1 imm12⟩,
    ⟨congrArg _ (word32_sType imm12 rs2 rs1 0 0x23), s.storeV_rule 4 (by decide) _ _⟩,
    ⟨congrArg _ (word32_sType imm12 rs2 rs1 1 0x23), s.storeV_rule 4 (by decide) _ _⟩,
    ⟨congrArg _ (word32_sType imm12 rs2 rs1 2 0x23), s.storeV_rule 4 (by decide) _ _⟩,
    ⟨congrArg _ (word32_sType imm12 rs2 rs1 3 0x23), s.storeV_rule 4 (by decide) _ _⟩⟩

end Sys2Proof.Machine

namespace Sys2Proof.Machine

/-! ### CSR instructions (40_rv64i:R386 to R391) -/

section
variable {s : State} {rd rs1 : Reg} {csr : BitVec 12} {uimm5 : BitVec 5} {w : BitVec 32}

/-- The rule of a CSR instruction whose code is the word `w`. -/
theorem State.csrOp_encoded {c : Code} {write : Bool} {f : Word → Word} (code : c = .full w) :
    CsrRule s (s.csrOp c csr write f rd) w csr write rd f :=
  code ▸ s.csrOp_rule w csr write f rd

theorem execCsrrw_rule (code : encode (.csrrw rd csr rs1) = .full w) :
    CsrRule s (execCsrrw rd csr rs1 s) w csr true rd fun _ => s.getX rs1 :=
  State.csrOp_encoded code

theorem execCsrrs_rule (code : encode (.csrrs rd csr rs1) = .full w) :
    CsrRule s (execCsrrs rd csr rs1 s) w csr (rs1 != 0) rd fun old => old ||| s.getX rs1 :=
  State.csrOp_encoded code

theorem execCsrrc_rule (code : encode (.csrrc rd csr rs1) = .full w) :
    CsrRule s (execCsrrc rd csr rs1 s) w csr (rs1 != 0) rd fun old => old &&& ~~~s.getX rs1 :=
  State.csrOp_encoded code

theorem execCsrrwi_rule (code : encode (.csrrwi rd csr uimm5) = .full w) :
    CsrRule s (execCsrrwi rd csr uimm5 s) w csr true rd fun _ => uimm5.setWidth 64 :=
  State.csrOp_encoded code

theorem execCsrrsi_rule (code : encode (.csrrsi rd csr uimm5) = .full w) :
    CsrRule s (execCsrrsi rd csr uimm5 s) w csr (uimm5 != 0) rd fun old => old ||| uimm5.setWidth 64 :=
  State.csrOp_encoded code

theorem execCsrrci_rule (code : encode (.csrrci rd csr uimm5) = .full w) :
    CsrRule s (execCsrrci rd csr uimm5 s) w csr (uimm5 != 0) rd fun old => old &&& ~~~uimm5.setWidth 64 :=
  State.csrOp_encoded code

end

/-- Settles O11: each instruction is the shared operation with its own new value. -/
theorem csrInstructions : Obligations.CsrInstructions := by
  unfold Obligations.CsrInstructions
  intro s rd rs1 csr uimm5
  have csrrw : encode (.csrrw rd csr rs1) = _ := congrArg Code.full (word32_iType csr rs1 1 rd 0x73)
  have csrrs : encode (.csrrs rd csr rs1) = _ := congrArg Code.full (word32_iType csr rs1 2 rd 0x73)
  have csrrc : encode (.csrrc rd csr rs1) = _ := congrArg Code.full (word32_iType csr rs1 3 rd 0x73)
  have csrrwi : encode (.csrrwi rd csr uimm5) = _ := congrArg Code.full (word32_iType csr uimm5 5 rd 0x73)
  have csrrsi : encode (.csrrsi rd csr uimm5) = _ := congrArg Code.full (word32_iType csr uimm5 6 rd 0x73)
  have csrrci : encode (.csrrci rd csr uimm5) = _ := congrArg Code.full (word32_iType csr uimm5 7 rd 0x73)
  exact ⟨⟨csrrw, execCsrrw_rule csrrw⟩,
    ⟨csrrs, execCsrrs_rule csrrs⟩,
    ⟨csrrc, execCsrrc_rule csrrc⟩,
    ⟨csrrwi, execCsrrwi_rule csrrwi⟩,
    ⟨csrrsi, execCsrrsi_rule csrrsi⟩,
    ⟨csrrci, execCsrrci_rule csrrci⟩⟩

end Sys2Proof.Machine

namespace Sys2Proof.Machine

/-! ### SFENCE.VMA and SFENCE.VMAS (40_rv64i:R397, 48_thead_cache_sync:R715) -/

theorem word32_fence (f7 : BitVec 7) (rs2 rs1 : Reg) (low : BitVec 15) :
    word32 f7.toNat rs2.toNat rs1.toNat 0 0 low.toNat = f7 ++ rs2 ++ rs1 ++ low :=
  word32_eq (by simp only [append_toNat]; omega)

section
variable {s : State}

/-- Machine mode, or supervisor mode with the trapping bit clear. -/
theorem State.mayFenceOrReturn_iff {n : Nat} : s.mayFenceOrReturn n = true ↔
    s.me.priv = .machine ∨ (s.me.priv = .supervisor ∧ s.me.m.mstatus.getLsbD n = false) := by
  unfold State.mayFenceOrReturn
  rw [bit_eq]
  cases s.me.priv <;> simp

/-- User mode, or supervisor mode with the trapping bit set. -/
theorem State.mayFenceOrReturn_eq_false {n : Nat} : s.mayFenceOrReturn n = false ↔
    s.me.priv = .user ∨ (s.me.priv = .supervisor ∧ s.me.m.mstatus.getLsbD n = true) := by
  unfold State.mayFenceOrReturn
  rw [bit_eq]
  cases s.me.priv <;> simp

/-- The rule of an SFENCE, from what it does where it is allowed and where it is not. -/
theorem FenceRule.of_gate {r : Result} {w : BitVec 32} {rs1 rs2 : Reg} {enabled broadcast : Bool}
    (runs : enabled = true → s.mayFenceOrReturn mstatusTVM = true → r = .next ((s.fenceTlb rs1 rs2 broadcast).retire 4))
    (stops : enabled = false ∨ s.mayFenceOrReturn mstatusTVM = false → r = .next (s.illegal (.full w))) :
    FenceRule s r w rs1 rs2 enabled broadcast :=
  ⟨fun ⟨on, may⟩ => ⟨_, runs on (State.mayFenceOrReturn_iff.2 may), s.fenceTlb_spec rs1 rs2 broadcast⟩,
    fun off => stops (off.imp_right State.mayFenceOrReturn_eq_false.2)⟩

/-- SFENCE.VMAS asks THEADISAEE, and then for the same modes as SFENCE.VMA. -/
theorem State.cacheGate_fence {c : Code} {k : Result} :
    s.cacheGate c false (if s.me.priv = .supervisor ∧ bit s.me.m.mstatus mstatusTVM = true then .next (s.illegal c) else k) =
      s.theadGate c (if s.mayFenceOrReturn mstatusTVM then k else .next (s.illegal c)) := by
  refine congrArg (s.theadGate c) ?_
  unfold State.mayFenceOrReturn
  cases s.me.priv with
  | user => rfl
  | supervisor => cases bit s.me.m.mstatus mstatusTVM <;> rfl
  | machine => rfl

end

theorem execSfenceVma_rule (s : State) (rs1 rs2 : Reg) {w : BitVec 32} (code : encode (.sfenceVma rs1 rs2) = .full w) :
    FenceRule s (execSfenceVma rs1 rs2 s) w rs1 rs2 true (!s.me.th.mhint.getLsbD 21) := by
  unfold execSfenceVma
  rw [code]
  refine .of_gate (fun _ may => if_pos may) ?_
  rintro (off | no)
  · cases off
  · exact if_neg (Bool.eq_false_iff.1 no)

theorem execSfenceVmas_rule (s : State) (rs1 rs2 : Reg) {w : BitVec 32} (code : encode (.sfenceVmas rs1 rs2) = .full w) :
    FenceRule s (execSfenceVmas rs1 rs2 s) w rs1 rs2 s.me.theadOn (!(s.soc.vmasObeysBroadDis && s.me.th.mhint.getLsbD 21)) := by
  unfold execSfenceVmas
  rw [code, State.cacheGate_fence]
  refine .of_gate (fun on may => ?_) ?_
  · unfold State.theadGate
    rw [if_pos on, if_pos may]
    rfl
  · rintro (off | no)
    · exact State.theadGate_closed off
    · unfold State.theadGate
      rw [if_neg (Bool.eq_false_iff.1 no), ite_self]

/-- Settles O15, by the shared rule of the fences behind their gates. -/
theorem tlbFences : Obligations.TlbFences := by
  unfold Obligations.TlbFences
  intro s rs1 rs2
  have vma : encode (.sfenceVma rs1 rs2) = _ := congrArg Code.full (word32_fence 9 rs2 rs1 0x73)
  have vmas : encode (.sfenceVmas rs1 rs2) = _ := congrArg Code.full (word32_fence 2 rs2 rs1 0x0b)
  exact ⟨⟨vma, execSfenceVma_rule s rs1 rs2 vma⟩, ⟨vmas, execSfenceVmas_rule s rs1 rs2 vmas⟩⟩

end Sys2Proof.Machine

namespace Sys2Proof.Machine

/-! ### Integer computation (40_rv64i section 2) -/

/-- The low half of an immediate extended to a word is the immediate extended to half a word. -/
theorem low32_signExtend {n : Nat} (imm : BitVec n) : low32 (imm.signExtend 64) = imm.signExtend 32 := by
  unfold low32
  refine BitVec.eq_of_getLsbD_eq fun k hk => ?_
  have hk' : k < 64 := Nat.lt_trans hk (by decide)
  simp only [BitVec.getLsbD_setWidth, BitVec.getLsbD_signExtend, hk, hk', decide_true, Bool.true_and]

theorem execAddiw_computes (s : State) (rd rs1 : Reg) (imm : BitVec 12) :
    Computes s (execAddiw rd rs1 imm s) (s.me.pc + 4) [(rd, ((s.getX rs1).setWidth 32 + imm.signExtend 32).signExtend 64)] := by
  rw [← low32_signExtend]
  exact s.writeX_computes 4 rd _

/-- Settles O1, by the formats of the codes and the shape that writes one register. -/
theorem addAndLogic : Obligations.AddAndLogic := by
  unfold Obligations.AddAndLogic
  intro s rd rs1 rs2 imm12
  exact ⟨⟨congrArg _ (word32_rType 0 rs2 rs1 0 rd 0x33), s.writeX_computes 4 rd _⟩,
    ⟨congrArg _ (word32_iType imm12 rs1 0 rd 0x13), s.writeX_computes 4 rd _⟩,
    ⟨congrArg _ (word32_iType imm12 rs1 0 rd 0x1b), execAddiw_computes s rd rs1 imm12⟩,
    ⟨congrArg _ (word32_rType 0 rs2 rs1 0 rd 0x3b), s.writeX_computes 4 rd _⟩,
    ⟨congrArg _ (word32_rType 32 rs2 rs1 0 rd 0x33), s.writeX_computes 4 rd _⟩,
    ⟨congrArg _ (word32_rType 32 rs2 rs1 0 rd 0x3b), s.writeX_computes 4 rd _⟩,
    ⟨congrArg _ (word32_rType 0 rs2 rs1 7 rd 0x33), s.writeX_computes 4 rd _⟩,
    ⟨congrArg _ (word32_iType imm12 rs1 7 rd 0x13), s.writeX_computes 4 rd _⟩,
    ⟨congrArg _ (word32_rType 0 rs2 rs1 6 rd 0x33), s.writeX_computes 4 rd _⟩,
    ⟨congrArg _ (word32_iType imm12 rs1 6 rd 0x13), s.writeX_computes 4 rd _⟩,
    ⟨congrArg _ (word32_rType 0 rs2 rs1 4 rd 0x33), s.writeX_computes 4 rd _⟩,
    ⟨congrArg _ (word32_iType imm12 rs1 4 rd 0x13), s.writeX_computes 4 rd _⟩⟩

/-- Settles O2, by the formats of the codes and the shape that writes one register. -/
theorem shifts : Obligations.Shifts := by
  unfold Obligations.Shifts
  refine ⟨fun s rd rs1 rs2 shamt => ?_, fun s rd rs1 rs2 shamt => ?_, fun s rd rs1 shamt => ?_, fun s rd rs1 rs2 shamt => ?_⟩
  · exact ⟨⟨congrArg _ (word32_rType 0 rs2 rs1 1 rd 0x33), s.writeX_computes 4 rd _⟩,
      ⟨congrArg _ (word32_shift 0 shamt rs1 1 rd 0x13), s.writeX_computes 4 rd _⟩,
      ⟨congrArg _ (word32_rType 0 rs2 rs1 1 rd 0x3b), s.writeX_computes 4 rd _⟩,
      ⟨congrArg _ (word32_rType 0 rs2 rs1 5 rd 0x33), s.writeX_computes 4 rd _⟩,
      ⟨congrArg _ (word32_shift 0 shamt rs1 5 rd 0x13), s.writeX_computes 4 rd _⟩⟩
  · exact ⟨⟨congrArg _ (word32_rType 0 shamt rs1 5 rd 0x1b), s.writeX_computes 4 rd _⟩,
      ⟨congrArg _ (word32_rType 0 rs2 rs1 5 rd 0x3b), s.writeX_computes 4 rd _⟩,
      ⟨congrArg _ (word32_rType 32 rs2 rs1 5 rd 0x33), s.writeX_computes 4 rd _⟩⟩
  · exact ⟨congrArg _ (word32_shift 16 shamt rs1 5 rd 0x13), s.writeX_computes 4 rd _⟩
  · exact ⟨⟨congrArg _ (word32_rType 32 shamt rs1 5 rd 0x1b), s.writeX_computes 4 rd _⟩,
      ⟨congrArg _ (word32_rType 32 rs2 rs1 5 rd 0x3b), s.writeX_computes 4 rd _⟩,
      ⟨congrArg _ (word32_rType 0 shamt rs1 1 rd 0x1b), s.writeX_computes 4 rd _⟩⟩

/-- The word 1 or 0 that a comparison writes, by the proposition it decides. -/
theorem boolWord_eq {b : Bool} {p : Prop} [Decidable p] (h : b = true ↔ p) : boolWord b = if p then 1 else 0 :=
  if_congr h rfl rfl

/-- An instruction that writes whether a comparison holds. -/
theorem State.compare_computes (s : State) (rd : Reg) {b : Bool} {p : Prop} [Decidable p] (h : b = true ↔ p) :
    Computes s (s.writeX 4 rd (boolWord b)) (s.me.pc + 4) [(rd, if p then 1 else 0)] :=
  boolWord_eq h ▸ s.writeX_computes 4 rd (boolWord b)

/-- Settles O3, by the formats of the codes and the shapes that write a comparison's result or an immediate. -/
theorem compareAndUpper : Obligations.CompareAndUpper := by
  unfold Obligations.CompareAndUpper
  intro s rd rs1 rs2 imm12 imm20
  exact ⟨⟨congrArg _ (word32_rType 0 rs2 rs1 2 rd 0x33), s.compare_computes rd BitVec.slt_iff_toInt_lt⟩,
    ⟨congrArg _ (word32_rType 0 rs2 rs1 3 rd 0x33), s.compare_computes rd BitVec.ult_iff_lt⟩,
    ⟨congrArg _ (word32_iType imm12 rs1 2 rd 0x13), s.compare_computes rd BitVec.slt_iff_toInt_lt⟩,
    ⟨congrArg _ (word32_iType imm12 rs1 3 rd 0x13), s.compare_computes rd BitVec.ult_iff_lt⟩,
    ⟨congrArg _ (word32_uType imm20 rd 0x37), s.writeX_computes 4 rd _⟩,
    ⟨congrArg _ (word32_uType imm20 rd 0x17), s.writeX_computes 4 rd _⟩⟩

/-! ### Branches and jumps (40_rv64i section 3) -/

theorem not_slt_iff (a b : Word) : (!a.slt b) = true ↔ b.toInt ≤ a.toInt := by
  rw [Bool.not_eq_true', ← Bool.not_eq_true, BitVec.slt_iff_toInt_lt, Int.not_lt]

theorem not_ult_iff (a b : Word) : (!a.ult b) = true ↔ b.toNat ≤ a.toNat := by
  rw [Bool.not_eq_true', ← Bool.not_eq_true, BitVec.ult_iff_lt, BitVec.lt_def, Nat.not_lt]

/-- A conditional branch, by the proposition its condition decides. -/
theorem State.branch_computes_iff (s : State) {taken : Word → Word → Bool} {rs1 rs2 : Reg} (off : BitVec 12) {p : Prop}
    [Decidable p] (h : taken (s.getX rs1) (s.getX rs2) = true ↔ p) :
    Computes s (s.branch taken rs1 rs2 off) (if p then s.me.pc + branchOffset off else s.me.pc + 4) [] :=
  if_congr h rfl rfl ▸ s.branch_computes taken rs1 rs2 off

/-- Settles O6, by the formats of the codes and the shapes of branches and linking jumps. -/
theorem branchesAndJumps : Obligations.BranchesAndJumps := by
  unfold Obligations.BranchesAndJumps
  refine ⟨fun s rs1 rs2 off => ?_, fun s rd rs1 off imm12 => ?_⟩
  · exact ⟨⟨congrArg _ (word32_bType off rs2 rs1 0 0x63), s.branch_computes_iff off beq_iff_eq⟩,
      ⟨congrArg _ (word32_bType off rs2 rs1 1 0x63), s.branch_computes_iff off bne_iff_ne⟩,
      ⟨congrArg _ (word32_bType off rs2 rs1 4 0x63), s.branch_computes_iff off BitVec.slt_iff_toInt_lt⟩,
      ⟨congrArg _ (word32_bType off rs2 rs1 5 0x63), s.branch_computes_iff (taken := fun a b => !a.slt b) off (not_slt_iff _ _)⟩,
      ⟨congrArg _ (word32_bType off rs2 rs1 6 0x63), s.branch_computes_iff off BitVec.ult_iff_lt⟩,
      ⟨congrArg _ (word32_bType off rs2 rs1 7 0x63), s.branch_computes_iff (taken := fun a b => !a.ult b) off (not_ult_iff _ _)⟩⟩
  · exact ⟨⟨congrArg _ (word32_jType off rd 0x6f), s.link_computes 4 rd _⟩,
      ⟨congrArg _ (word32_iType imm12 rs1 0 rd 0x67), s.link_computes 4 rd _⟩⟩

end Sys2Proof.Machine

namespace Sys2Proof

/-- Settles O38: each word is the code of its instruction, and what is encoded decodes to itself. -/
theorem decodeKnownWords : Obligations.DecodeKnownWords := by
  unfold Obligations.DecodeKnownWords
  have decodes (i : Instr) (wf : i.wf = true) : decodeCode (encode i) = .ok i := (decodeEncode i [] wf).1
  exact ⟨decodes (.add 6 5 10) rfl, decodes (.addi 1 0 0xfff) rfl, decodes (.csrrw 5 0x340 6) rfl, decodes (.fclassS 5 1) rfl,
    decodes .ecall rfl, decodes .mret rfl, decodes (.cJr 1) rfl, decodes .cEbreak rfl⟩

end Sys2Proof

namespace Sys2Proof.Machine

/-! ### Calls and returns (40_rv64i:R393 to R396) -/

theorem getLsbD_setBit_self (w : Word) {n : Nat} (b : Bool) (h : n < 64) : (setBit w n b).getLsbD n = b := by
  rw [getLsbD_setBit, if_pos ⟨rfl, h⟩]

theorem getLsbD_setBit_of_ne (w : Word) {n k : Nat} (b : Bool) (h : k ≠ n) : (setBit w n b).getLsbD k = w.getLsbD k := by
  rw [getLsbD_setBit, if_neg fun e => h e.1]

theorem getLsbD_setField_of_outside (w : Word) {lo len k : Nat} (v : Nat) (h : k < lo ∨ lo + len ≤ k) :
    (setField w lo len v).getLsbD k = w.getLsbD k := by
  rw [getLsbD_setField, if_neg (by omega)]

/-- The bits of `mstatus` after MRET's return. -/
theorem Hart.returnM_status (h : Hart) :
    h.returnM.m.mstatus.getLsbD 3 = h.m.mstatus.getLsbD 7 ∧ h.returnM.m.mstatus.getLsbD 7 = true ∧
      field h.returnM.m.mstatus 11 2 = 0 ∧
      ∀ n, n ∉ [3, 7, 11, 12] → h.returnM.m.mstatus.getLsbD n = h.m.mstatus.getLsbD n := by
  have status : h.returnM.m.mstatus = setField (setBit (setBit h.m.mstatus 3 (h.m.mstatus.getLsbD 7)) 7 true) 11 2 0 := rfl
  rw [status]
  refine ⟨?_, ?_, field_setField _ 11 2 0 (by decide) (by decide), fun n hn => ?_⟩
  · rw [getLsbD_setField_of_outside _ _ (by decide), getLsbD_setBit_of_ne _ _ (by decide), getLsbD_setBit_self _ _ (by decide)]
  · rw [getLsbD_setField_of_outside _ _ (by decide), getLsbD_setBit_self _ _ (by decide)]
  · simp only [List.mem_cons, List.not_mem_nil, or_false, not_or] at hn
    obtain ⟨mie, mpie, low, high⟩ := hn
    rw [getLsbD_setField_of_outside _ _ (by omega), getLsbD_setBit_of_ne _ _ mpie, getLsbD_setBit_of_ne _ _ mie]

/-- The bits of `mstatus` after SRET's return. -/
theorem Hart.returnS_status (h : Hart) :
    h.returnS.m.mstatus.getLsbD 1 = h.m.mstatus.getLsbD 5 ∧ h.returnS.m.mstatus.getLsbD 5 = true ∧
      h.returnS.m.mstatus.getLsbD 8 = false ∧
      ∀ n, n ∉ [1, 5, 8] → h.returnS.m.mstatus.getLsbD n = h.m.mstatus.getLsbD n := by
  have status : h.returnS.m.mstatus = setBit (setBit (setBit h.m.mstatus 1 (h.m.mstatus.getLsbD 5)) 5 true) 8 false := rfl
  rw [status]
  refine ⟨?_, ?_, getLsbD_setBit_self _ _ (by decide), fun n hn => ?_⟩
  · rw [getLsbD_setBit_of_ne _ _ (by decide), getLsbD_setBit_of_ne _ _ (by decide), getLsbD_setBit_self _ _ (by decide)]
  · rw [getLsbD_setBit_of_ne _ _ (by decide), getLsbD_setBit_self _ _ (by decide)]
  · simp only [List.mem_cons, List.not_mem_nil, or_false, not_or] at hn
    obtain ⟨sie, spie, spp⟩ := hn
    rw [getLsbD_setBit_of_ne _ _ spp, getLsbD_setBit_of_ne _ _ spie, getLsbD_setBit_of_ne _ _ sie]

/-- An executed instruction moves the counters alone. -/
theorem State.tick_eq (s : State) : s.tick = { s with me := { s.me.moved s.tick.me with pc := s.me.pc } } := by
  show State.mk _ _ _ _ _ _ _ _ _ _ _ _ = _
  rw [Hart.tick_eq]
  rfl

/-- MRET where it may run (40_rv64i:R396). -/
theorem execMret_returns {s : State} (mode : s.me.priv = .machine) :
    ∃ t, execMret s = .next t ∧ t.me.pc = s.me.m.mepc ∧ t.me.priv = Priv.ofCode (field s.me.m.mstatus 11 2) ∧
      t.me.m.mstatus.getLsbD 3 = s.me.m.mstatus.getLsbD 7 ∧ t.me.m.mstatus.getLsbD 7 = true ∧
      field t.me.m.mstatus 11 2 = 0 ∧
      (∀ n, n ∉ [3, 7, 11, 12] → t.me.m.mstatus.getLsbD n = s.me.m.mstatus.getLsbD n) ∧
      t = { s with me := { s.me.moved t.me with priv := t.me.priv, fetched := [],
                                                m := { s.me.m with mstatus := t.me.m.mstatus } } } ∧
      SameBytes s t := by
  obtain ⟨mie, mpie, mpp, rest⟩ := s.tick.me.returnM_status
  have status : s.tick.me.m = s.me.m := s.me.tick_m
  rw [status] at mie rest
  refine ⟨s.tick.returnM, if_pos mode, congrArg MachineCsr.mepc status,
    congrArg (fun m : MachineCsr => Priv.ofCode (field m.mstatus 11 2)) status, mie, mpie, mpp, rest, ?_,
    State.sees_congr (by simp) (by simp) (by simp) (by simp) (by simp)⟩
  rw [State.tick_eq]
  rfl

/-- SRET where it may run (40_rv64i:R395). -/
theorem execSret_returns {s : State} (may : s.mayFenceOrReturn mstatusTSR = true) :
    ∃ t, execSret s = .next t ∧ t.me.pc = s.me.sup.sepc ∧
      t.me.priv = (if s.me.m.mstatus.getLsbD 8 then .supervisor else .user) ∧
      t.me.m.mstatus.getLsbD 1 = s.me.m.mstatus.getLsbD 5 ∧ t.me.m.mstatus.getLsbD 5 = true ∧
      t.me.m.mstatus.getLsbD 8 = false ∧
      (∀ n, n ∉ [1, 5, 8] → t.me.m.mstatus.getLsbD n = s.me.m.mstatus.getLsbD n) ∧
      t = { s with me := { s.me.moved t.me with priv := t.me.priv, fetched := [],
                                                m := { s.me.m with mstatus := t.me.m.mstatus } } } ∧
      SameBytes s t := by
  obtain ⟨sie, spie, spp, rest⟩ := s.tick.me.returnS_status
  have status : s.tick.me.m = s.me.m := s.me.tick_m
  have sup : s.tick.me.sup = s.me.sup := s.me.tick_sup
  rw [status] at sie rest
  refine ⟨s.tick.returnS, if_pos may, congrArg SupervisorCsr.sepc sup,
    congrArg (fun m : MachineCsr => if m.mstatus.getLsbD 8 then Priv.supervisor else .user) status, sie, spie, spp, rest, ?_,
    State.sees_congr (by simp) (by simp) (by simp) (by simp) (by simp)⟩
  rw [State.tick_eq]
  rfl

/-- Settles O12: the exceptions, and each return where it may run and where it may not. -/
theorem callsAndReturns : Obligations.CallsAndReturns := by
  unfold Obligations.CallsAndReturns
  intro s
  refine ⟨⟨rfl, rfl⟩, ⟨rfl, rfl⟩, ⟨rfl, rfl⟩, ⟨rfl, execMret_returns, fun mode => ?_⟩, rfl, fun may => ?_, fun no => ?_⟩
  · exact if_neg mode
  · exact execSret_returns (State.mayFenceOrReturn_iff.2 may)
  · exact if_neg (Bool.eq_false_iff.1 (State.mayFenceOrReturn_eq_false.2 no))

/-! ### FENCE, FENCE.I and WFI (40_rv64i:R384, R385, R399) -/

theorem word32_fenceOrder (fm pred succ : BitVec 4) (rs1 : Reg) (f3 : BitVec 3) (rd : Reg) (op : BitVec 7) :
    word32 (fm.toNat * 8 + pred.toNat / 2) (pred.toNat % 2 * 16 + succ.toNat) rs1.toNat f3.toNat rd.toNat op.toNat =
      fm ++ pred ++ succ ++ rs1 ++ f3 ++ rd ++ op :=
  word32_eq (by simp only [append_toNat]; omega)

/-- The lines that leave a core as broadcasts complete are not dirty. -/
theorem dirtyByte_settled (h : Hart) (a : Nat) : dirtyByte (settled h).l1d a = dirtyByte h.l1d a := by
  show dirtyByte (h.l1d.filter fun l => l.state != .leaving) a = _
  rw [dirtyByte_filter]
  unfold dirtyAt dirtyByte CacheLine.dirty
  congr 2
  funext l
  refine congrArg (l.line == lineOf a && ·) ?_
  dsimp only
  cases l.state <;> rfl

/-- What accesses find, where the other core's D-cache differs in lines that are not dirty. -/
theorem State.sees_of_dirty {s t : State} (mine : t.me.l1d = s.me.l1d) (dirty : ∀ a, dirtyByte t.other.l1d a = dirtyByte s.other.l1d a)
    (snoops : t.other.th = s.other.th) (l2 : t.l2 = s.l2) (mem : t.mem = s.mem) : SameBytes s t := by
  intro attr own a
  unfold State.sees State.below State.l2Byte State.snooped Hart.snoops
  rw [mine, dirty, snoops, l2, mem]

/-- An access that looks into the own D-cache finds the lines written back from it there, and below it the rest. -/
theorem State.cleanMine_sees (s : State) (sel : CacheLine → Bool) (attr : BitVec 5) (a : Nat) :
    (s.cleanMine sel).sees attr true a = s.sees attr true a := by
  by_cases cached : cacheable attr = true
  · have l2 : (s.cleanMine sel).l2Byte a = (dirtyByte (s.me.l1d.filter sel) a).getD (s.l2Byte a) :=
      s.l2Byte_writeBack (s.me.l1d.filter sel) a
    have own : byteIn (s.cleanMine sel).me.l1d a = byteIn s.me.l1d a := byteIn_cleaned sel s.me.l1d a
    rw [State.sees_cacheable _ cached, State.sees_cacheable _ cached, own, l2]
    cases hit : byteIn s.me.l1d a with
    | some b => rfl
    | none =>
      have miss : holds s.me.l1d (lineOf a) = false := by rw [← byteIn_isSome, hit]; rfl
      have clean : dirtyByte (s.me.l1d.filter sel) a = none :=
        dirtyByte_none (holds_eq_false.2 fun l hl => holds_eq_false.1 miss l (List.mem_filter.1 hl).1)
      rw [clean]
      rfl
  · unfold State.sees
    rw [if_neg cached, if_neg cached]
    rfl

/-- The state in which FENCE.I drops what the core has fetched: where fetches do not look into the D-cache, that is written back. -/
def State.cleanedForFetch (s : State) : State :=
  if s.me.th.mxstatus.getLsbD 19 then s.cleanMine everyLine else s

theorem State.cleanedForFetch_frame (s : State) :
    s.cleanedForFetch = { s with me := { s.me with l1d := s.cleanedForFetch.me.l1d }, l2 := s.cleanedForFetch.l2 } := by
  unfold State.cleanedForFetch
  split <;> rfl

theorem State.cleanedForFetch_l1d (s : State) :
    if s.me.th.mxstatus.getLsbD 19 then CleanedTo s.me.l1d s.cleanedForFetch.me.l1d anyLine
    else s.cleanedForFetch.me.l1d = s.me.l1d := by
  unfold State.cleanedForFetch
  split
  · exact .of_cleaned everyLine s.me.l1d
  · rfl

theorem State.byteIn_cleanedForFetch (s : State) (a : Nat) : byteIn s.cleanedForFetch.l2 a =
    (if s.me.th.mxstatus.getLsbD 19 then dirtyAt s.me.l1d anyLine a else none).or (byteIn s.l2 a) := by
  unfold State.cleanedForFetch
  split
  · exact (s.cleanMine_inL2 everyLine).1.2 a
  · rfl

theorem State.cleanedForFetch_sees (s : State) (attr : BitVec 5) (a : Nat) :
    s.cleanedForFetch.sees attr true a = s.sees attr true a := by
  unfold State.cleanedForFetch
  split
  · exact s.cleanMine_sees everyLine attr a
  · rfl

/-- FENCE.I by its parts: what is written back, what this core fetches anew, what the other core loses. -/
theorem State.fenceI_eq (s : State) :
    s.fenceI = { s.cleanedForFetch with
      me := { s.cleanedForFetch.me with icache := [], fetched := [] }
      other := if s.me.th.mhint.getLsbD 23 then s.other else { settled s.other with icache := [] } } := by
  have settle : s.other.settle = settled s.other := congrArg State.other s.complete_eq
  have parts : s.fenceI =
      if s.cleanedForFetch.me.th.mhint.getLsbD 23 then
        { s.cleanedForFetch with me := { s.cleanedForFetch.me with icache := [], fetched := [] } }
      else { s.cleanedForFetch with
        me := { s.cleanedForFetch.me with icache := [], fetched := [] }
        other := { s.cleanedForFetch.other.settle with icache := [] } } := rfl
  rw [parts, s.cleanedForFetch_frame, ← settle]
  split <;> rfl

section
variable (s : State)

theorem State.fenceI_l1d : s.fenceI.me.l1d = s.cleanedForFetch.me.l1d := by rw [s.fenceI_eq]
theorem State.fenceI_icache : s.fenceI.me.icache = [] := by rw [s.fenceI_eq]
theorem State.fenceI_l2 : s.fenceI.l2 = s.cleanedForFetch.l2 := by rw [s.fenceI_eq]
theorem State.fenceI_other :
    s.fenceI.other = if s.me.th.mhint.getLsbD 23 then s.other else { settled s.other with icache := [] } :=
  congrArg State.other s.fenceI_eq

theorem State.fenceI_pc : s.fenceI.me.pc = s.me.pc := by
  rw [s.fenceI_eq, s.cleanedForFetch_frame]

theorem State.fenceI_th : s.fenceI.me.th = s.me.th := by
  rw [s.fenceI_eq, s.cleanedForFetch_frame]

end

/-- FENCE.I leaves every byte an access finds that looks into the own D-cache. -/
theorem State.fenceI_sees (s : State) (attr : BitVec 5) (a : Nat) : s.fenceI.sees attr true a = s.sees attr true a := by
  have same : SameBytes s.cleanedForFetch s.fenceI := by
    rw [s.fenceI_eq]
    refine State.sees_of_dirty rfl (fun a => ?_) ?_ rfl rfl
    · rw [s.cleanedForFetch_frame]
      dsimp only
      split
      · rfl
      · exact dirtyByte_settled s.other a
    · rw [s.cleanedForFetch_frame]
      dsimp only
      split <;> rfl
  rw [same, s.cleanedForFetch_sees]

/-- After FENCE.I, with INSDE clear, a fetch from a cacheable page finds what accesses find (20_memory:R224). -/
theorem State.codeByte_of_icache_nil {s : State} (empty : s.me.icache = []) (insde : s.me.th.mxstatus.getLsbD 19 = false)
    {attr : BitVec 5} (cached : attr.getLsbD 3 = true) (va : Word) (a : Nat) : s.codeByte attr va a = s.sees attr true a := by
  unfold State.codeByte
  rw [empty, insde, cached]
  dsimp only
  rw [List.find?_nil, ite_self]
  rfl

/-- The state after FENCE.I: pc and the counters, this core's D-cache, the other core and the L2 have changed. -/
theorem State.fenceI_retire_frame (s : State) :
    let t := s.fenceI.retire 4
    t = { s with me := { s.me.moved t.me with l1d := t.me.l1d, icache := [], fetched := [] }, other := t.other, l2 := t.l2 } := by
  dsimp only
  rw [State.retire_eq, State.fenceI_eq, State.cleanedForFetch_frame]
  rfl

/-- WFI where it may run (40_rv64i:R399). -/
theorem execWfi_waits {s : State} (runs : ¬ (s.me.priv = .supervisor ∧ s.me.m.mstatus.getLsbD 21 = true)) :
    ∃ t, execWfi s = .next t ∧ t.me.pc = s.me.pc + 4 ∧ t = { s with me := { s.me.moved t.me with lowPower := true } } ∧
      SameBytes s t := by
  refine ⟨(s.retire 4).sleep, if_neg runs, rfl, ?_, State.sees_congr ?_ rfl rfl rfl rfl⟩
  · rw [State.retire_eq]
    rfl
  · exact s.me.tick_l1d

/-- Settles O14: FENCE goes on, FENCE.I by its parts, and WFI where it may run and where it may not. -/
theorem fencesAndWait : Obligations.FencesAndWait := by
  unfold Obligations.FencesAndWait
  intro s fm pred succ rs1 rd imm12
  have same : SameBytes s.fenceI (s.fenceI.retire 4) := State.sees_congr s.fenceI.me.tick_l1d rfl rfl rfl rfl
  have sees (attr : BitVec 5) (a : Nat) : (s.fenceI.retire 4).sees attr true a = s.sees attr true a :=
    (same attr true a).trans (s.fenceI_sees attr a)
  have l1d : (s.fenceI.retire 4).me.l1d = s.cleanedForFetch.me.l1d := s.fenceI.me.tick_l1d.trans s.fenceI_l1d
  have icache : (s.fenceI.retire 4).me.icache = [] := s.fenceI.me.tick_icache.trans s.fenceI_icache
  have fetches : s.me.th.mxstatus.getLsbD 19 = false → (s.fenceI.retire 4).me.th.mxstatus.getLsbD 19 = false := by
    intro insde
    rw [State.retire_eq]
    exact (congrArg (fun th : TheadCsr => th.mxstatus.getLsbD 19) s.fenceI_th).trans insde
  refine ⟨⟨congrArg Code.full (word32_fenceOrder fm pred succ rs1 0 rd 0x0f), s.retire_computes 4⟩,
    ⟨congrArg Code.full (word32_iType imm12 rs1 1 rd 0x0f), s.fenceI.retire 4, rfl, congrArg (· + 4) s.fenceI_pc,
      s.fenceI_retire_frame, l1d ▸ s.cleanedForFetch_l1d, s.fenceI_other, fun a => ?_, sees, fun insde attr va a cached => ?_⟩,
    rfl, execWfi_waits, fun mode trapped => if_pos ⟨mode, trapped⟩⟩
  · rw [State.retire_l2, s.fenceI_l2]
    exact s.byteIn_cleanedForFetch a
  · rw [State.codeByte_of_icache_nil icache (fetches insde) cached, sees]

end Sys2Proof.Machine

namespace Sys2Proof.Machine

/-! ### Multiplication and division (41_rv64m) -/

/-- An instruction that writes what `f` makes of two registers, by the value the rule gives for it. -/
theorem State.aluReg_computes (s : State) {f : Word → Word → Word} (rd rs1 rs2 : Reg) {v : Word}
    (h : f (s.getX rs1) (s.getX rs2) = v) : Computes s (s.aluReg f rd rs1 rs2) (s.me.pc + 4) [(rd, v)] :=
  h ▸ s.writeX_computes 4 rd _

/-- The upper half of a product of two unsigned values is an unsigned quotient (41_rv64m:R418). -/
theorem highPart_natCast_mul (m n : Nat) : highPart (m * n) = BitVec.ofNat 64 (m * n / 2 ^ 64) := by
  have quotient : (m * n : Int) / 2 ^ 64 = (m * n / 2 ^ 64 : Nat) := by norm_cast
  unfold highPart
  rw [quotient, BitVec.ofInt_natCast]

section
variable {w : Nat} (a b : BitVec w)

theorem divSigned_eq : divSigned a b = if b = 0 then -1 else BitVec.ofInt w (a.toInt.tdiv b.toInt) :=
  if_congr Iff.rfl BitVec.neg_one_eq_allOnes.symm rfl

theorem divUnsigned_eq : divUnsigned a b = if b = 0 then -1 else a / b :=
  if_congr Iff.rfl BitVec.neg_one_eq_allOnes.symm BitVec.udiv_def.symm

theorem remUnsigned_eq : remUnsigned a b = if b = 0 then a else a % b :=
  if_congr Iff.rfl rfl BitVec.umod_def.symm

end

/-! On the low halves a zero divisor is met before the result is extended (41_rv64m:R413, R414, R422, R423). -/

theorem signExtend_neg_one : (-1 : BitVec 32).signExtend 64 = -1 := by decide

section
variable (a b : Word)

theorem onLow_divUnsigned : onLow divUnsigned a b =
    if b.setWidth 32 = 0 then -1 else (a.setWidth 32 / b.setWidth 32).signExtend 64 := by
  unfold onLow sext32 low32
  rw [divUnsigned_eq, apply_ite (BitVec.signExtend 64), signExtend_neg_one]

theorem onLow_divSigned : onLow divSigned a b =
    if b.setWidth 32 = 0 then -1
    else (BitVec.ofInt 32 ((a.setWidth 32).toInt.tdiv (b.setWidth 32).toInt)).signExtend 64 := by
  unfold onLow sext32 low32
  rw [divSigned_eq, apply_ite (BitVec.signExtend 64), signExtend_neg_one]

theorem onLow_remUnsigned : onLow remUnsigned a b =
    if b.setWidth 32 = 0 then (a.setWidth 32).signExtend 64 else (a.setWidth 32 % b.setWidth 32).signExtend 64 := by
  unfold onLow sext32 low32
  rw [remUnsigned_eq, apply_ite (BitVec.signExtend 64)]

theorem onLow_remSigned : onLow remSigned a b =
    if b.setWidth 32 = 0 then (a.setWidth 32).signExtend 64
    else (BitVec.ofInt 32 ((a.setWidth 32).toInt.tmod (b.setWidth 32).toInt)).signExtend 64 :=
  apply_ite sext32 _ _ _

end

/-- Settles O4, by the formats of the codes and the value of each quotient and remainder with its corner cases. -/
theorem division : Obligations.Division := by
  unfold Obligations.Division
  intro s rd rs1 rs2
  exact ⟨⟨congrArg _ (word32_rType 1 rs2 rs1 4 rd 0x33), s.aluReg_computes rd rs1 rs2 (divSigned_eq _ _)⟩,
    ⟨congrArg _ (word32_rType 1 rs2 rs1 5 rd 0x33), s.aluReg_computes rd rs1 rs2 (divUnsigned_eq _ _)⟩,
    ⟨congrArg _ (word32_rType 1 rs2 rs1 5 rd 0x3b), s.aluReg_computes rd rs1 rs2 (onLow_divUnsigned _ _)⟩,
    ⟨congrArg _ (word32_rType 1 rs2 rs1 4 rd 0x3b), s.aluReg_computes rd rs1 rs2 (onLow_divSigned _ _)⟩,
    ⟨congrArg _ (word32_rType 1 rs2 rs1 6 rd 0x33), s.writeX_computes 4 rd _⟩,
    ⟨congrArg _ (word32_rType 1 rs2 rs1 7 rd 0x33), s.aluReg_computes rd rs1 rs2 (remUnsigned_eq _ _)⟩,
    ⟨congrArg _ (word32_rType 1 rs2 rs1 7 rd 0x3b), s.aluReg_computes rd rs1 rs2 (onLow_remUnsigned _ _)⟩,
    ⟨congrArg _ (word32_rType 1 rs2 rs1 6 rd 0x3b), s.aluReg_computes rd rs1 rs2 (onLow_remSigned _ _)⟩⟩

theorem execMulhu_computes (s : State) (rd rs1 rs2 : Reg) :
    Computes s (execMulhu rd rs1 rs2 s) (s.me.pc + 4)
      [(rd, BitVec.ofNat 64 ((s.getX rs1).toNat * (s.getX rs2).toNat / 2 ^ 64))] := by
  rw [← highPart_natCast_mul]
  exact s.writeX_computes 4 rd _

/-- Settles O5, by the formats of the codes and the shape that writes one register. -/
theorem multiplication : Obligations.Multiplication := by
  unfold Obligations.Multiplication
  intro s rd rs1 rs2
  exact ⟨⟨congrArg _ (word32_rType 1 rs2 rs1 0 rd 0x33), s.writeX_computes 4 rd _⟩,
    ⟨congrArg _ (word32_rType 1 rs2 rs1 1 rd 0x33), s.writeX_computes 4 rd _⟩,
    ⟨congrArg _ (word32_rType 1 rs2 rs1 2 rd 0x33), s.writeX_computes 4 rd _⟩,
    ⟨congrArg _ (word32_rType 1 rs2 rs1 3 rd 0x33), execMulhu_computes s rd rs1 rs2⟩,
    ⟨congrArg _ (word32_rType 1 rs2 rs1 0 rd 0x3b), s.writeX_computes 4 rd _⟩⟩

end Sys2Proof.Machine

namespace Sys2Proof.Machine

/-! ### Atomic memory operations (42_rv64a:R434) -/

section
variable {w : Nat} (a b : BitVec w)

theorem maxSigned_eq : maxSigned a b = if a.toInt < b.toInt then b else a :=
  if_congr BitVec.slt_iff_toInt_lt rfl rfl

theorem minSigned_eq : minSigned a b = if b.toInt < a.toInt then b else a :=
  if_congr BitVec.slt_iff_toInt_lt rfl rfl

theorem maxUnsigned_eq : maxUnsigned a b = if a.toNat < b.toNat then b else a :=
  if_congr BitVec.ult_iff_lt rfl rfl

theorem minUnsigned_eq : minUnsigned a b = if b.toNat < a.toNat then b else a :=
  if_congr BitVec.ult_iff_lt rfl rfl

end

/-- The rule of an AMO, its operation given by its values. -/
theorem State.amo_rule_of_values (s : State) {n : Nat} (hn : 64 % n = 0) (rd rs2 rs1 : Reg)
    {f g : BitVec (8 * n) → BitVec (8 * n) → BitVec (8 * n)} (same : ∀ old v, f old v = g old v) :
    AmoRule s (s.amo n f rd rs2 rs1) n rd rs2 rs1 g :=
  funext₂ same ▸ s.amo_rule hn f rd rs2 rs1

/-- Settles O8, by the format of the codes, the rule of an AMO of any size, and the values of the minima and maxima. -/
theorem amoDoubleword : Obligations.AmoDoubleword := by
  unfold Obligations.AmoDoubleword
  intro s rd rs2 rs1 aq rl
  have code (f5 : BitVec 5) := congrArg Code.full (word32_atomic f5 aq rl rs2 rs1 3 rd 0x2f)
  exact ⟨⟨code 0, s.amo_rule rfl (· + ·) rd rs2 rs1⟩,
    ⟨code 12, s.amo_rule rfl (· &&& ·) rd rs2 rs1⟩,
    ⟨code 20, s.amo_rule_of_values rfl rd rs2 rs1 maxSigned_eq⟩,
    ⟨code 28, s.amo_rule_of_values rfl rd rs2 rs1 maxUnsigned_eq⟩,
    ⟨code 16, s.amo_rule_of_values rfl rd rs2 rs1 minSigned_eq⟩,
    ⟨code 24, s.amo_rule_of_values rfl rd rs2 rs1 minUnsigned_eq⟩,
    ⟨code 8, s.amo_rule rfl (· ||| ·) rd rs2 rs1⟩,
    ⟨code 1, s.amo_rule rfl (fun _ v => v) rd rs2 rs1⟩,
    ⟨code 4, s.amo_rule rfl (· ^^^ ·) rd rs2 rs1⟩⟩

/-- Settles O9, as O8 with the codes and the size of a word. -/
theorem amoWord : Obligations.AmoWord := by
  unfold Obligations.AmoWord
  intro s rd rs2 rs1 aq rl
  have code (f5 : BitVec 5) := congrArg Code.full (word32_atomic f5 aq rl rs2 rs1 2 rd 0x2f)
  exact ⟨⟨code 0, s.amo_rule rfl (· + ·) rd rs2 rs1⟩,
    ⟨code 12, s.amo_rule rfl (· &&& ·) rd rs2 rs1⟩,
    ⟨code 20, s.amo_rule_of_values rfl rd rs2 rs1 maxSigned_eq⟩,
    ⟨code 28, s.amo_rule_of_values rfl rd rs2 rs1 maxUnsigned_eq⟩,
    ⟨code 16, s.amo_rule_of_values rfl rd rs2 rs1 minSigned_eq⟩,
    ⟨code 24, s.amo_rule_of_values rfl rd rs2 rs1 minUnsigned_eq⟩,
    ⟨code 8, s.amo_rule rfl (· ||| ·) rd rs2 rs1⟩,
    ⟨code 1, s.amo_rule rfl (fun _ v => v) rd rs2 rs1⟩,
    ⟨code 4, s.amo_rule rfl (· ^^^ ·) rd rs2 rs1⟩⟩

end Sys2Proof.Machine

namespace Sys2Proof.Machine

/-! ### Gates of floating-point instructions (43_rv64f:R460, R461) -/

section
variable {s : State} {c : Code} {w : BitVec 32} {rm : BitVec 3} {k : Rounding → Result}

theorem State.fpGate_open {r : Result} (on : s.me.fpOn = true) : s.fpGate c r = r := if_pos on

theorem State.roundGate_closed (closed : s.me.fpOn = false ∨ s.rounding rm = none) :
    s.roundGate c rm k = .next (s.illegal c) := by
  unfold State.roundGate
  rcases closed with off | reserved
  · exact State.fpGate_closed off
  · rw [reserved]
    exact ite_self _

theorem State.roundGate_open {m : Rounding} (on : s.me.fpOn = true) (mode : s.rounding rm = some m) :
    s.roundGate c rm k = k m := by
  unfold State.roundGate
  rw [State.fpGate_open on, mode]

/-- A floating-point instruction behind its gate: what holds of its answer with the unit on. -/
theorem FpRule.of_fpGate (code : c = .full w) {r : Result} {P : Result → Prop} (h : P r) :
    FpRule s (s.fpGate c r) (w.setWidth 64) (P (s.fpGate c r)) := by
  subst code
  exact ⟨State.fpGate_closed, fun on => (State.fpGate_open on).symm ▸ h⟩

/-- The same of a compressed instruction. -/
theorem FpRule.of_fpGate_half {w : BitVec 16} (code : c = .half w) {r : Result} {P : Result → Prop} (h : P r) :
    FpRule s (s.fpGate c r) (w.setWidth 64) (P (s.fpGate c r)) := by
  subst code
  exact ⟨State.fpGate_closed, fun on => (State.fpGate_open on).symm ▸ h⟩

/-- An instruction with a rounding mode behind its gate: what holds of its answer in each mode. -/
theorem RoundedRule.of_roundGate (code : c = .full w) {P : Result → Rounding → Prop} (h : ∀ m, P (k m) m) :
    RoundedRule s (s.roundGate c rm k) (w.setWidth 64) rm (P (s.roundGate c rm k)) := by
  subst code
  exact ⟨State.roundGate_closed, fun m on mode => (State.roundGate_open on mode).symm ▸ h m⟩

end

/-! ### Shapes of floating-point instructions -/

section
variable (s : State) {c : Code} {w : BitVec 32} (code : c = .full w)
include code

theorem State.gatedF_rule {f : Fmt} (hf : f.mw = 10 ∧ f.ew = 5 ∨ f.mw = 23 ∧ f.ew = 8 ∨ f.mw = 52 ∧ f.ew = 11) (fd : Reg)
    (out : FpOut) :
    FpRule s (s.fpGate c (s.writeF f fd out)) (w.setWidth 64) (WritesF s (s.fpGate c (s.writeF f fd out)) f fd out) :=
  FpRule.of_fpGate code (P := fun r => WritesF s r f fd out) (s.writeF_rule f hf fd out)

theorem State.gatedXF_rule (rd : Reg) (v : Word) (fl : Flags) :
    FpRule s (s.fpGate c (s.writeXF rd v fl)) (w.setWidth 64) (WritesXF s (s.fpGate c (s.writeXF rd v fl)) rd v fl) :=
  FpRule.of_fpGate code (P := fun r => WritesXF s r rd v fl) (s.writeXF_rule rd v fl)

theorem State.roundedF_rule {f : Fmt} (hf : f.mw = 10 ∧ f.ew = 5 ∨ f.mw = 23 ∧ f.ew = 8 ∨ f.mw = 52 ∧ f.ew = 11) (fd : Reg)
    (rm : BitVec 3) (out : Rounding → FpOut) :
    RoundedRule s (s.roundGate c rm fun m => s.writeF f fd (out m)) (w.setWidth 64) rm fun m =>
      WritesF s (s.roundGate c rm fun m => s.writeF f fd (out m)) f fd (out m) :=
  RoundedRule.of_roundGate code (P := fun r m => WritesF s r f fd (out m)) fun m => s.writeF_rule f hf fd (out m)

theorem State.roundedXF_rule (rd : Reg) (rm : BitVec 3) (out : Rounding → Word × Flags) :
    RoundedRule s (s.roundGate c rm fun m => s.writeXF rd (out m).1 (out m).2) (w.setWidth 64) rm fun m =>
      WritesXF s (s.roundGate c rm fun m => s.writeXF rd (out m).1 (out m).2) rd (out m).1 (out m).2 :=
  RoundedRule.of_roundGate code (P := fun r m => WritesXF s r rd (out m).1 (out m).2) fun _ => s.writeXF_rule rd _ _

/-- A comparison, its relation given by the proposition it decides and its flags by their value (43_rv64f:R477 to R479). -/
theorem State.fpCompare_rule (f : Fmt) {signals : Bool} {rel : Int → Int → Bool} (rd fs1 fs2 : Reg) {p : Prop} [Decidable p]
    {fl : Flags} (decides : rel (f.key (s.operand f fs1)) (f.key (s.operand f fs2)) = true ↔ p)
    (flags : (f.compare signals rel (s.operand f fs1) (s.operand f fs2)).2 = fl) :
    FpRule s (s.fpCompare c f signals rel rd fs1 fs2) (w.setWidth 64)
      (WritesXF s (s.fpCompare c f signals rel rd fs1 fs2) rd
        (if f.isNan (s.operand f fs1) || f.isNan (s.operand f fs2) then 0 else if p then 1 else 0) fl) := by
  have value : BitVec.ofNat 64 (f.compare signals rel (s.operand f fs1) (s.operand f fs2)).1.toNat =
      if f.isNan (s.operand f fs1) || f.isNan (s.operand f fs2) then 0 else if p then 1 else 0 := by
    unfold Fmt.compare
    split
    · rfl
    · by_cases hp : p
      · rw [if_pos hp, decides.2 hp]
        rfl
      · rw [if_neg hp, Bool.eq_false_iff.2 fun h => hp (decides.1 h)]
        rfl
  rw [← value, ← flags]
  exact s.gatedXF_rule code rd _ _

/-- The low bits of a floating-point register moved to an integer register (43_rv64f:R487). -/
theorem State.fpMoveOut_rule (f : Fmt) (rd fs1 : Reg) :
    FpRule s (s.fpMoveOut c f rd fs1) (w.setWidth 64)
      (WritesXF s (s.fpMoveOut c f rd fs1) rd (((s.getF fs1).setWidth f.width).signExtend 64) 0) := by
  rw [← BitVec.ofNat_toNat f.width]
  exact s.gatedXF_rule code rd _ 0

end

theorem Fmt.isNan_of_isSnan {f : Fmt} {b : Nat} (h : f.isSnan b = true) : f.isNan b = true :=
  (Bool.and_eq_true_iff.1 h).1

/-- A comparison that only a signalling NaN disturbs (43_rv64f:R477). -/
theorem Fmt.compare_quiet_flags (f : Fmt) (rel : Int → Int → Bool) (a b : Nat) :
    (f.compare false rel a b).2 = if f.isSnan a || f.isSnan b then flagNV else 0 := by
  unfold Fmt.compare Fmt.snanFlag flagIf
  simp only [List.any_cons, List.any_nil, Bool.or_false]
  split
  · rfl
  · next ordered =>
    refine (if_neg fun signalling => ordered ?_).symm
    rw [Bool.or_eq_true] at signalling ⊢
    exact signalling.imp Fmt.isNan_of_isSnan Fmt.isNan_of_isSnan

/-- A comparison that any NaN disturbs (43_rv64f:R478, R479). -/
theorem Fmt.compare_signalling_flags (f : Fmt) (rel : Int → Int → Bool) (a b : Nat) :
    (f.compare true rel a b).2 = if f.isNan a || f.isNan b then flagNV else 0 := by
  unfold Fmt.compare
  split <;> rfl

end Sys2Proof.Machine

namespace Sys2Proof

/-! ### The codes of fused operations and of compressed loads and stores (30_encoding:R282, R285) -/

theorem word32_r4Type (fs3 : Reg) (f2 : BitVec 2) (fs2 fs1 : Reg) (rm : BitVec 3) (fd : Reg) (op : BitVec 7) :
    word32 (fs3.toNat * 4 + f2.toNat) fs2.toNat fs1.toNat rm.toNat fd.toNat op.toNat =
      fs3 ++ f2 ++ fs2 ++ fs1 ++ rm ++ fd ++ op :=
  word32_eq (by simp only [append_toNat]; omega)

theorem word16_cl (f3 : BitVec 3) (u : BitVec 5) (rs1 rd : Reg') (q : BitVec 2) :
    word16 f3.toNat (u.toNat / 4 % 2) (u.toNat % 4 * 8 + rs1.toNat) (u.toNat / 8 * 8 + rd.toNat) q.toNat =
      f3 ++ u.extractLsb' 0 3 ++ rs1 ++ u.extractLsb' 3 2 ++ rd ++ q :=
  word16_eq (by
    have low : u.toNat % 8 = u.toNat / 4 % 2 * 4 + u.toNat % 4 := by omega
    simp only [append_toNat, extract_high_toNat u 3 2 rfl, extract_toNat, Nat.reducePow, Nat.div_one, low]
    ring)

theorem word16_clsp (f3 : BitVec 3) (rd : Reg) (u : BitVec 6) (q : BitVec 2) :
    word16 f3.toNat (u.toNat / 4 % 2) rd.toNat (u.toNat % 4 * 8 + u.toNat / 8) q.toNat =
      f3 ++ u.extractLsb' 2 1 ++ rd ++ u.extractLsb' 0 2 ++ u.extractLsb' 3 3 ++ q :=
  word16_eq (by
    simp only [append_toNat, extract_high_toNat u 3 3 rfl, extract_toNat, Nat.reducePow, Nat.div_one]
    ring)

theorem word16_cssp (f3 : BitVec 3) (u : BitVec 6) (rs2 : Reg) (q : BitVec 2) :
    word16 f3.toNat (u.toNat / 4 % 2) (u.toNat % 4 * 8 + u.toNat / 8) rs2.toNat q.toNat =
      f3 ++ u.extractLsb' 0 3 ++ u.extractLsb' 3 3 ++ rs2 ++ q :=
  word16_eq (by
    have low : u.toNat % 8 = u.toNat / 4 % 2 * 4 + u.toNat % 4 := by omega
    simp only [append_toNat, extract_high_toNat u 3 3 rfl, extract_toNat, Nat.reducePow, Nat.div_one, low]
    ring)

end Sys2Proof

namespace Sys2Proof.Machine

/-! ### Floating-point loads and stores -/

section
variable (s : State) {c : Code}

/-- A gated load into a floating-point register. -/
theorem State.gatedLoadF_rule {w : BitVec 32} (code : c = .full w) {n : Nat} (hn : 64 % n = 0) (fd : Reg) (va : Word) :
    FpRule s (s.fpGate c (s.loadF 4 n fd va)) (w.setWidth 64)
      (LoadFRule s (s.fpGate c (s.loadF 4 n fd va)) (s.me.pc + 4) va n fd) :=
  FpRule.of_fpGate code (P := fun r => LoadFRule s r (s.me.pc + 4) va n fd) (s.loadF_rule 4 hn fd va)

/-- A gated store of a floating-point register. -/
theorem State.gatedStoreF_rule {w : BitVec 32} (code : c = .full w) {n : Nat} (hn : 64 % n = 0) (fs2 : Reg) (va : Word) :
    FpRule s (s.fpGate c (s.storeF 4 n fs2 va)) (w.setWidth 64)
      (StoreRule s (s.fpGate c (s.storeF 4 n fs2 va)) (s.me.pc + 4) va n (s.getF fs2) [] s.statusDirty) :=
  FpRule.of_fpGate code (P := fun r => StoreRule s r (s.me.pc + 4) va n (s.getF fs2) [] s.statusDirty)
    (s.storeF_rule 4 hn fs2 va)

/-- A compressed load of a double. -/
theorem State.gatedLoadF_rule_half {w : BitVec 16} (code : c = .half w) (fd : Reg) (va : Word) :
    FpRule s (s.fpGate c (s.loadF 2 8 fd va)) (w.setWidth 64)
      (LoadFRule s (s.fpGate c (s.loadF 2 8 fd va)) (s.me.pc + 2) va 8 fd) :=
  FpRule.of_fpGate_half code (P := fun r => LoadFRule s r (s.me.pc + 2) va 8 fd) (s.loadF_rule 2 rfl fd va)

/-- A compressed store of a double. -/
theorem State.gatedStoreF_rule_half {w : BitVec 16} (code : c = .half w) (fs2 : Reg) (va : Word) :
    FpRule s (s.fpGate c (s.storeF 2 8 fs2 va)) (w.setWidth 64)
      (StoreRule s (s.fpGate c (s.storeF 2 8 fs2 va)) (s.me.pc + 2) va 8 (s.getF fs2) [] s.statusDirty) :=
  FpRule.of_fpGate_half code (P := fun r => StoreRule s r (s.me.pc + 2) va 8 (s.getF fs2) [] s.statusDirty)
    (s.storeF_rule 2 rfl fs2 va)

end

/-- Settles O31, by the formats of the codes, the gate, and the rules of loads and stores of any size. -/
theorem floatLoadsAndStores : Obligations.FloatLoadsAndStores := by
  unfold Obligations.FloatLoadsAndStores
  refine ⟨fun s fd rs1 fs2 imm12 => ?_, fun s fd rs1 fs2 uimm5 => ?_, fun s fd fs2 uimm6 => ?_⟩
  · have load (f3 : BitVec 3) := congrArg Code.full (word32_iType imm12 rs1 f3 fd 0x07)
    have store (f3 : BitVec 3) := congrArg Code.full (word32_sType imm12 fs2 rs1 f3 0x27)
    exact ⟨⟨load 2, s.gatedLoadF_rule (load 2) rfl fd _⟩, ⟨store 2, s.gatedStoreF_rule (store 2) rfl fs2 _⟩,
      ⟨load 3, s.gatedLoadF_rule (load 3) rfl fd _⟩, ⟨store 3, s.gatedStoreF_rule (store 3) rfl fs2 _⟩,
      ⟨load 1, s.gatedLoadF_rule (load 1) rfl fd _⟩, ⟨store 1, s.gatedStoreF_rule (store 1) rfl fs2 _⟩⟩
  · have load := congrArg Code.half (word16_cl 1 uimm5 rs1 fd 0)
    have store := congrArg Code.half (word16_cl 5 uimm5 rs1 fs2 0)
    exact ⟨⟨load, s.gatedLoadF_rule_half load (creg fd) _⟩, ⟨store, s.gatedStoreF_rule_half store (creg fs2) _⟩⟩
  · have load := congrArg Code.half (word16_clsp 1 fd uimm6 2)
    have store := congrArg Code.half (word16_cssp 5 uimm6 fs2 2)
    exact ⟨⟨load, s.gatedLoadF_rule_half load fd _⟩, ⟨store, s.gatedStoreF_rule_half store fs2 _⟩⟩

/-! ### Arithmetic, comparisons, moves and conversions -/

/-- Settles O26, by the formats of the codes and the shape that rounds into a floating-point register. -/
theorem floatArithmetic : Obligations.FloatArithmetic := by
  unfold Obligations.FloatArithmetic
  intro s fd fs1 fs2 fs3 rm
  have two (f7 : BitVec 7) := congrArg Code.full (word32_rType f7 fs2 fs1 rm fd 0x53)
  have root (f12 : BitVec 12) := congrArg Code.full (word32_iType f12 fs1 rm fd 0x53)
  have fused (f2 : BitVec 2) (op : BitVec 7) := congrArg Code.full (word32_r4Type fs3 f2 fs2 fs1 rm fd op)
  have single {c w} (code : c = Code.full w) := s.roundedF_rule code (f := .single) (.inr (.inl ⟨rfl, rfl⟩)) fd rm
  have double {c w} (code : c = Code.full w) := s.roundedF_rule code (f := .double) (.inr (.inr ⟨rfl, rfl⟩)) fd rm
  have half {c w} (code : c = Code.full w) := s.roundedF_rule code (f := .half) (.inl ⟨rfl, rfl⟩) fd rm
  exact ⟨⟨two 0, single (two 0) _⟩, ⟨two 4, single (two 4) _⟩, ⟨two 8, single (two 8) _⟩, ⟨two 12, single (two 12) _⟩,
    ⟨root 0x580, single (root 0x580) _⟩,
    ⟨fused 0 0x43, single (fused 0 0x43) _⟩, ⟨fused 0 0x47, single (fused 0 0x47) _⟩,
    ⟨fused 0 0x4f, single (fused 0 0x4f) _⟩, ⟨fused 0 0x4b, single (fused 0 0x4b) _⟩,
    ⟨two 1, double (two 1) _⟩, ⟨two 5, double (two 5) _⟩, ⟨two 9, double (two 9) _⟩, ⟨two 13, double (two 13) _⟩,
    ⟨root 0x5a0, double (root 0x5a0) _⟩,
    ⟨fused 1 0x43, double (fused 1 0x43) _⟩, ⟨fused 1 0x47, double (fused 1 0x47) _⟩,
    ⟨fused 1 0x4f, double (fused 1 0x4f) _⟩, ⟨fused 1 0x4b, double (fused 1 0x4b) _⟩,
    ⟨two 2, half (two 2) _⟩, ⟨two 6, half (two 6) _⟩, ⟨two 10, half (two 10) _⟩, ⟨two 14, half (two 14) _⟩,
    ⟨root 0x5c0, half (root 0x5c0) _⟩,
    ⟨fused 2 0x43, half (fused 2 0x43) _⟩, ⟨fused 2 0x47, half (fused 2 0x47) _⟩,
    ⟨fused 2 0x4f, half (fused 2 0x4f) _⟩, ⟨fused 2 0x4b, half (fused 2 0x4b) _⟩⟩

/-- Settles O27, by the formats of the codes, the shapes that write a register, and the values of the comparisons. -/
theorem floatCompareAndMove : Obligations.FloatCompareAndMove := by
  unfold Obligations.FloatCompareAndMove
  intro s rd fs1 fs2 fd rs1
  have toX (f7 : BitVec 7) (f3 : BitVec 3) := congrArg Code.full (word32_rType f7 fs2 fs1 f3 rd 0x53)
  have toF (f7 : BitVec 7) (f3 : BitVec 3) := congrArg Code.full (word32_rType f7 fs2 fs1 f3 fd 0x53)
  have moveX (f12 : BitVec 12) (f3 : BitVec 3) := congrArg Code.full (word32_iType f12 fs1 f3 rd 0x53)
  have moveF (f12 : BitVec 12) := congrArg Code.full (word32_iType f12 rs1 0 fd 0x53)
  have eq {c w} (code : c = Code.full w) (f : Fmt) := s.fpCompare_rule code f rd fs1 fs2 beq_iff_eq (f.compare_quiet_flags _ _ _)
  have lt {c w} (code : c = Code.full w) (f : Fmt) :=
    s.fpCompare_rule code f rd fs1 fs2 decide_eq_true_iff (f.compare_signalling_flags (fun a b => decide (a < b)) _ _)
  have le {c w} (code : c = Code.full w) (f : Fmt) :=
    s.fpCompare_rule code f rd fs1 fs2 decide_eq_true_iff (f.compare_signalling_flags (fun a b => decide (a ≤ b)) _ _)
  have single {c w} (code : c = Code.full w) := s.gatedF_rule code (f := .single) (.inr (.inl ⟨rfl, rfl⟩)) fd
  have double {c w} (code : c = Code.full w) := s.gatedF_rule code (f := .double) (.inr (.inr ⟨rfl, rfl⟩)) fd
  have half {c w} (code : c = Code.full w) := s.gatedF_rule code (f := .half) (.inl ⟨rfl, rfl⟩) fd
  exact ⟨⟨toX 0x50 2, eq (toX 0x50 2) .single⟩, ⟨toX 0x50 1, lt (toX 0x50 1) .single⟩, ⟨toX 0x50 0, le (toX 0x50 0) .single⟩,
    ⟨toF 0x14 0, single (toF 0x14 0) _⟩, ⟨toF 0x14 1, single (toF 0x14 1) _⟩,
    ⟨moveX 0xe00 1, s.gatedXF_rule (moveX 0xe00 1) rd _ _⟩,
    ⟨toF 0x10 0, single (toF 0x10 0) _⟩, ⟨toF 0x10 1, single (toF 0x10 1) _⟩, ⟨toF 0x10 2, single (toF 0x10 2) _⟩,
    ⟨toX 0x51 2, eq (toX 0x51 2) .double⟩, ⟨toX 0x51 1, lt (toX 0x51 1) .double⟩, ⟨toX 0x51 0, le (toX 0x51 0) .double⟩,
    ⟨toF 0x15 0, double (toF 0x15 0) _⟩, ⟨toF 0x15 1, double (toF 0x15 1) _⟩,
    ⟨moveX 0xe20 1, s.gatedXF_rule (moveX 0xe20 1) rd _ _⟩,
    ⟨toF 0x11 0, double (toF 0x11 0) _⟩, ⟨toF 0x11 1, double (toF 0x11 1) _⟩, ⟨toF 0x11 2, double (toF 0x11 2) _⟩,
    ⟨toX 0x52 2, eq (toX 0x52 2) .half⟩, ⟨toX 0x52 1, lt (toX 0x52 1) .half⟩, ⟨toX 0x52 0, le (toX 0x52 0) .half⟩,
    ⟨toF 0x16 0, half (toF 0x16 0) _⟩, ⟨toF 0x16 1, half (toF 0x16 1) _⟩,
    ⟨moveX 0xe40 1, s.gatedXF_rule (moveX 0xe40 1) rd _ _⟩,
    ⟨toF 0x12 0, half (toF 0x12 0) _⟩, ⟨toF 0x12 1, half (toF 0x12 1) _⟩, ⟨toF 0x12 2, half (toF 0x12 2) _⟩,
    ⟨moveX 0xe00 0, s.fpMoveOut_rule (moveX 0xe00 0) .single rd fs1⟩, ⟨moveF 0xf00, single (moveF 0xf00) _⟩,
    ⟨moveX 0xe20 0, s.fpMoveOut_rule (moveX 0xe20 0) .double rd fs1⟩, ⟨moveF 0xf20, double (moveF 0xf20) _⟩,
    ⟨moveX 0xe40 0, s.fpMoveOut_rule (moveX 0xe40 0) .half rd fs1⟩, ⟨moveF 0xf40, half (moveF 0xf40) _⟩⟩

/-- Settles O28, by the format of the codes and the shape that rounds into an integer register. -/
theorem floatToInteger : Obligations.FloatToInteger := by
  unfold Obligations.FloatToInteger
  intro s rd fs1 rm
  have code (f12 : BitVec 12) := congrArg Code.full (word32_iType f12 fs1 rm rd 0x53)
  have rule (f12 : BitVec 12) := s.roundedXF_rule (code f12) rd rm
  exact ⟨⟨code 0xc00, rule 0xc00 _⟩, ⟨code 0xc01, rule 0xc01 _⟩, ⟨code 0xc02, rule 0xc02 _⟩, ⟨code 0xc03, rule 0xc03 _⟩,
    ⟨code 0xc20, rule 0xc20 _⟩, ⟨code 0xc21, rule 0xc21 _⟩, ⟨code 0xc22, rule 0xc22 _⟩, ⟨code 0xc23, rule 0xc23 _⟩,
    ⟨code 0xc40, rule 0xc40 _⟩, ⟨code 0xc41, rule 0xc41 _⟩, ⟨code 0xc42, rule 0xc42 _⟩, ⟨code 0xc43, rule 0xc43 _⟩⟩

/-- Settles O29, by the format of the codes and the shape that rounds into a floating-point register. -/
theorem integerToFloat : Obligations.IntegerToFloat := by
  unfold Obligations.IntegerToFloat
  intro s fd rs1 rm
  have code (f12 : BitVec 12) := congrArg Code.full (word32_iType f12 rs1 rm fd 0x53)
  have single (f12 : BitVec 12) := s.roundedF_rule (code f12) (f := .single) (.inr (.inl ⟨rfl, rfl⟩)) fd rm
  have double (f12 : BitVec 12) := s.roundedF_rule (code f12) (f := .double) (.inr (.inr ⟨rfl, rfl⟩)) fd rm
  have half (f12 : BitVec 12) := s.roundedF_rule (code f12) (f := .half) (.inl ⟨rfl, rfl⟩) fd rm
  exact ⟨⟨code 0xd00, single 0xd00 _⟩, ⟨code 0xd01, single 0xd01 _⟩, ⟨code 0xd02, single 0xd02 _⟩, ⟨code 0xd03, single 0xd03 _⟩,
    ⟨code 0xd20, double 0xd20 _⟩, ⟨code 0xd21, double 0xd21 _⟩, ⟨code 0xd22, double 0xd22 _⟩, ⟨code 0xd23, double 0xd23 _⟩,
    ⟨code 0xd40, half 0xd40 _⟩, ⟨code 0xd41, half 0xd41 _⟩, ⟨code 0xd42, half 0xd42 _⟩, ⟨code 0xd43, half 0xd43 _⟩⟩

end Sys2Proof.Machine

namespace Sys2Proof.Machine

/-! ### The fields of a pattern (43_rv64f:R460) -/

/-- The three formats have an exponent and a fraction. -/
theorem Fmt.fields_pos {f : Fmt} (standard : f ∈ [Fmt.half, .single, .double]) : 0 < f.mw ∧ 0 < f.ew := by
  simp only [List.mem_cons, List.not_mem_nil, or_false] at standard
  rcases standard with rfl | rfl | rfl <;> decide

theorem Fmt.mag_lt (f : Fmt) (b : Nat) : f.mag b < 2 ^ (f.ew + f.mw) := Nat.mod_lt _ (by positivity)

theorem Fmt.mag_signBits_add (f : Fmt) (n : Bool) {m : Nat} (h : m < 2 ^ (f.ew + f.mw)) : f.mag (f.signBits n + m) = m := by
  unfold Fmt.mag Fmt.signBits
  cases n with
  | false => rw [if_neg Bool.false_ne_true, Nat.zero_add, Nat.mod_eq_of_lt h]
  | true => rw [if_pos rfl, Nat.add_mod_left, Nat.mod_eq_of_lt h]

theorem Fmt.neg_signBits_add (f : Fmt) (n : Bool) {m : Nat} (h : m < 2 ^ (f.ew + f.mw)) : f.neg (f.signBits n + m) = n := by
  unfold Fmt.neg Fmt.signBits
  cases n with
  | false =>
    rw [if_neg Bool.false_ne_true, Nat.zero_add, Nat.div_eq_of_lt h]
    rfl
  | true =>
    rw [if_pos rfl, Nat.add_div_left _ (by positivity), Nat.div_eq_of_lt h]
    rfl

section
variable (f : Fmt) (n : Bool) (b : Nat)

@[simp] theorem Fmt.mag_flip : f.mag (f.flip n b) = f.mag b := by
  unfold Fmt.flip
  split
  · exact f.mag_signBits_add _ (f.mag_lt b)
  · rfl

@[simp] theorem Fmt.neg_flip : f.neg (f.flip n b) = (f.neg b != n) := by
  unfold Fmt.flip
  cases n with
  | false => exact (Bool.bne_false _).symm
  | true => rw [if_pos rfl, f.neg_signBits_add _ (f.mag_lt b), Bool.bne_true]

@[simp] theorem Fmt.isNan_flip : f.isNan (f.flip n b) = f.isNan b := by
  unfold Fmt.isNan
  rw [f.mag_flip]

@[simp] theorem Fmt.isInf_flip : f.isInf (f.flip n b) = f.isInf b := by
  unfold Fmt.isInf
  rw [f.mag_flip]

end

/-! ### NaNs, infinities and zeros exclude each other -/

section
variable {f : Fmt} {a b c : Nat}

theorem Fmt.isNan_of_isInf (h : f.isInf b = true) : f.isNan b = false := by
  unfold Fmt.isInf at h
  unfold Fmt.isNan
  rw [eq_of_beq h]
  exact decide_eq_false (lt_irrefl _)

theorem Fmt.isNan_of_isZero (h : f.isZero b = true) : f.isNan b = false := by
  unfold Fmt.isZero at h
  unfold Fmt.isNan
  rw [eq_of_beq h]
  exact decide_eq_false (Nat.not_lt_zero _)

theorem Fmt.isSnan_of_isNan (h : f.isNan b = false) : f.isSnan b = false :=
  Bool.eq_false_iff.2 fun signalling => Bool.false_ne_true (h.symm.trans (Fmt.isNan_of_isSnan signalling))

theorem Fmt.infBits_pos (wide : 0 < f.ew) : 0 < f.infBits :=
  Nat.mul_pos (Nat.sub_pos_of_lt (Nat.one_lt_two_pow wide.ne')) (by positivity)

theorem Fmt.isZero_of_isInf (wide : 0 < f.ew) (h : f.isInf b = true) : f.isZero b = false := by
  unfold Fmt.isInf at h
  unfold Fmt.isZero
  rw [eq_of_beq h]
  exact beq_eq_false_iff_ne.2 (Fmt.infBits_pos wide).ne'

theorem Fmt.isInf_of_isZero (wide : 0 < f.ew) (h : f.isZero b = true) : f.isInf b = false :=
  Bool.eq_false_iff.2 fun inf => Bool.false_ne_true ((Fmt.isZero_of_isInf wide inf).symm.trans h)

/-! ### NaN operands (43_rv64f:R462, R463) -/

theorem flagIf_or (c d : Bool) (fl : Flags) : flagIf c fl ||| flagIf d fl = flagIf (c || d) fl := by
  cases c with
  | false => exact BitVec.zero_or
  | true =>
    cases d with
    | false => exact BitVec.or_zero
    | true => exact BitVec.or_self

theorem flagIf_eq_ite {c : Bool} {p : Prop} [Decidable p] (h : c = true ↔ p) (fl : Flags) : flagIf c fl = if p then fl else 0 :=
  if_congr h rfl rfl

theorem Fmt.snanFlag_pair (f : Fmt) (a b : Nat) :
    f.snanFlag [a, b] = if f.isSnan a = true ∨ f.isSnan b = true then flagNV else 0 :=
  flagIf_eq_ite (by simp) _

variable {r : Rounding} {p q : Bool}

theorem Fmt.add_nan (h : f.isNan a = true ∨ f.isNan b = true) : f.add r a b = .nan (f.snanFlag [a, b]) :=
  if_pos (Bool.or_eq_true_iff.2 h)

theorem Fmt.mul_nan (h : f.isNan a = true ∨ f.isNan b = true) : f.mul r a b = .nan (f.snanFlag [a, b]) :=
  if_pos (Bool.or_eq_true_iff.2 h)

theorem Fmt.div_nan (h : f.isNan a = true ∨ f.isNan b = true) : f.div r a b = .nan (f.snanFlag [a, b]) :=
  if_pos (Bool.or_eq_true_iff.2 h)

theorem Fmt.sub_eq_add_flip (h : f.isNan b = false) : f.sub r a b = f.add r a (f.flip true b) :=
  if_neg (Bool.eq_false_iff.1 h)

theorem Fmt.sub_nan (h : f.isNan a = true ∨ f.isNan b = true) : f.sub r a b = .nan (f.snanFlag [a, b]) := by
  cases hb : f.isNan b with
  | true => exact if_pos hb
  | false =>
    rw [Fmt.sub_eq_add_flip hb, Fmt.add_nan (by simpa using h), Fmt.snanFlag_pair, Fmt.snanFlag_pair,
      Fmt.isSnan_of_isNan hb, Fmt.isSnan_of_isNan ((f.isNan_flip true b).trans hb)]

theorem Fmt.sqrt_nan (h : f.isNan a = true) : f.sqrt r a = .nan (if f.isSnan a = true then flagNV else 0) := by
  simp [Fmt.sqrt, h, Fmt.snanFlag, flagIf]

/-- A product of an infinity and a zero. -/
abbrev Fmt.BadProduct (f : Fmt) (a b : Nat) : Prop :=
  (f.isInf a = true ∧ f.isZero b = true) ∨ (f.isZero a = true ∧ f.isInf b = true)

theorem Fmt.fma_nan (h : f.isNan a = true ∨ f.isNan b = true ∨ f.isNan c = true) :
    f.fma r p q a b c = .nan
      (if f.isSnan a = true ∨ f.isSnan b = true ∨ f.isSnan c = true ∨ f.BadProduct a b then flagNV else 0) := by
  have nan : (f.isNan a || f.isNan b || f.isNan c) = true := by simpa [or_assoc] using h
  unfold Fmt.fma
  rw [if_pos nan]
  refine congrArg FpOut.nan ((flagIf_or _ _ _).trans (flagIf_eq_ite ?_ _))
  simp [or_assoc]

theorem Fmt.fma_badProduct (h : f.BadProduct a b) : f.fma r p q a b c = .nan flagNV := by
  have bad : ((f.isInf a && f.isZero b) || (f.isZero a && f.isInf b)) = true := by simpa [Fmt.BadProduct] using h
  unfold Fmt.fma
  simp only [bad]
  split
  · exact congrArg FpOut.nan ((flagIf_or _ _ _).trans (flagIf_eq_ite (p := True) (by simp) _))
  · rfl

end

end Sys2Proof.Machine

namespace Sys2Proof.Machine

/-! ### Invalid operations and divisions by zero (43_rv64f:R462, R476, R493, R498) -/

section
variable {f : Fmt} {r : Rounding} {a b c : Nat} {p q : Bool}

theorem Fmt.fma_invalid (wide : 0 < f.ew) (infA : f.isInf a = true) (nanB : f.isNan b = false) (zeroB : f.isZero b = false)
    (infC : f.isInf c = true) (opposite : ((f.neg a != f.neg b) != p) ≠ (f.neg c != q)) :
    f.fma r p q a b c = .nan flagNV := by
  have signs : ((f.neg c != q) != ((f.neg a != f.neg b) != p)) = true := bne_iff_ne.2 opposite.symm
  simp only [Fmt.fma, Fmt.isNan_of_isInf infA, Fmt.isNan_of_isInf infC, Fmt.isZero_of_isInf wide infA, nanB, infA, infC, zeroB,
    Fmt.isInf_flip, Fmt.neg_flip, signs, Bool.and_false, Bool.false_and, Bool.or_self, Bool.and_self, Bool.true_or,
    Bool.false_eq_true, if_true, if_false]

theorem Fmt.add_invalid (infA : f.isInf a = true) (infB : f.isInf b = true) (opposite : f.neg a ≠ f.neg b) :
    f.add r a b = .nan flagNV := by
  simp [Fmt.add, Fmt.isNan_of_isInf infA, Fmt.isNan_of_isInf infB, infA, infB, opposite]

theorem Fmt.sub_invalid (infA : f.isInf a = true) (infB : f.isInf b = true) (same : f.neg a = f.neg b) :
    f.sub r a b = .nan flagNV := by
  rw [Fmt.sub_eq_add_flip (Fmt.isNan_of_isInf infB)]
  exact Fmt.add_invalid infA (by rwa [Fmt.isInf_flip]) (by simp [same])

theorem Fmt.mul_invalid (zeroA : f.isZero a = true) (infB : f.isInf b = true) : f.mul r a b = .nan flagNV := by
  simp [Fmt.mul, Fmt.isNan_of_isZero zeroA, Fmt.isNan_of_isInf infB, zeroA, infB]

theorem Fmt.div_invalid_inf (infA : f.isInf a = true) (infB : f.isInf b = true) : f.div r a b = .nan flagNV := by
  simp [Fmt.div, Fmt.isNan_of_isInf infA, Fmt.isNan_of_isInf infB, infA, infB]

theorem Fmt.div_invalid_zero (wide : 0 < f.ew) (zeroA : f.isZero a = true) (zeroB : f.isZero b = true) :
    f.div r a b = .nan flagNV := by
  simp [Fmt.div, Fmt.isNan_of_isZero zeroA, Fmt.isNan_of_isZero zeroB, Fmt.isInf_of_isZero wide zeroA,
    Fmt.isInf_of_isZero wide zeroB, zeroA, zeroB]

theorem Fmt.div_by_zero (wide : 0 < f.ew) (nanA : f.isNan a = false) (infA : f.isInf a = false) (zeroA : f.isZero a = false)
    (zeroB : f.isZero b = true) : f.div r a b = ⟨some (f.signBits (f.neg a != f.neg b) + f.infBits), flagDZ⟩ := by
  simp [Fmt.div, nanA, infA, zeroA, Fmt.isNan_of_isZero zeroB, Fmt.isInf_of_isZero wide zeroB, zeroB]

theorem Fmt.sqrt_invalid (nan : f.isNan a = false) (zero : f.isZero a = false) (neg : f.neg a = true) :
    f.sqrt r a = .nan flagNV := by
  simp [Fmt.sqrt, nan, zero, neg]

/-! ### Minimum, maximum and class (43_rv64f:R467, R497) -/

variable {ord isMax : Bool}

theorem Fmt.minMax_flags :
    (f.minMax ord isMax a b).flags = if f.isSnan a = true ∨ f.isSnan b = true then flagNV else 0 := by
  rw [← Fmt.snanFlag_pair]
  unfold Fmt.minMax
  cases nanA : f.isNan a <;> cases nanB : f.isNan b
  case false.false =>
    simp [FpOut.of, Fmt.snanFlag_pair, Fmt.isSnan_of_isNan nanA, Fmt.isSnan_of_isNan nanB]
  all_goals rfl

theorem Fmt.minMax_ordered (nanA : f.isNan a = false) (nanB : f.isNan b = false) :
    (f.minMax ord isMax a b).bits = some (if f.atLeast ord a b == isMax then a else b) := by
  simp [Fmt.minMax, nanA, nanB, FpOut.of]

theorem Fmt.key_of_isZero (h : f.isZero b = true) : f.key b = 0 := by
  unfold Fmt.isZero at h
  simp [Fmt.key, eq_of_beq h]

/-- The order of zeros only decides between operands of the same value. -/
theorem Fmt.atLeast_of_key_ne (h : f.key a ≠ f.key b) : f.atLeast ord a b = decide (f.key b ≤ f.key a) := by
  refine if_neg fun zeros => h ?_
  simp only [Bool.and_eq_true] at zeros
  obtain ⟨⟨-, zeroA⟩, zeroB⟩ := zeros
  rw [Fmt.key_of_isZero zeroA, Fmt.key_of_isZero zeroB]

theorem Fmt.minMax_of_key_lt (nanA : f.isNan a = false) (nanB : f.isNan b = false) (h : f.key a < f.key b) :
    (f.minMax ord isMax a b).bits = some (if isMax then b else a) := by
  rw [Fmt.minMax_ordered nanA nanB, Fmt.atLeast_of_key_ne h.ne, decide_eq_false h.not_ge]
  cases isMax <;> rfl

theorem Fmt.minMax_of_key_gt (nanA : f.isNan a = false) (nanB : f.isNan b = false) (h : f.key b < f.key a) :
    (f.minMax ord isMax a b).bits = some (if isMax then a else b) := by
  rw [Fmt.minMax_ordered nanA nanB, Fmt.atLeast_of_key_ne h.ne', decide_eq_true h.le]
  cases isMax <;> rfl

/-- With ordered zeros, -0 is below +0 whichever comes first. -/
theorem Fmt.minMax_zeros (zeroA : f.isZero a = true) (zeroB : f.isZero b = true) (negA : f.neg a = true)
    (negB : f.neg b = false) : (f.minMax true isMax a b).bits = some (if isMax then b else a) ∧
      (f.minMax true isMax b a).bits = some (if isMax then b else a) := by
  have nanA := Fmt.isNan_of_isZero zeroA
  have nanB := Fmt.isNan_of_isZero zeroB
  rw [Fmt.minMax_ordered nanA nanB, Fmt.minMax_ordered nanB nanA]
  cases isMax <;> simp [Fmt.atLeast, zeroA, zeroB, negA, negB]

theorem Fmt.classify_eq (f : Fmt) (a : Nat) : f.classify a =
    (if f.isNan a then (if f.isSnan a then 0x100 else 0x200)
     else if f.isInf a then (if f.neg a then 0x1 else 0x80)
     else if f.isZero a then (if f.neg a then 0x8 else 0x10)
     else if f.mag a / 2 ^ f.mw = 0 then (if f.neg a then 0x4 else 0x20)
     else (if f.neg a then 0x2 else 0x40)) := by
  have subnormal : f.mag a / 2 ^ f.mw = 0 ↔ f.mag a < 2 ^ f.mw := Nat.div_eq_zero_iff_lt (by positivity)
  simp only [subnormal]
  unfold Fmt.classify
  cases nan : f.isNan a with
  | true => cases f.isSnan a <;> rfl
  | false =>
    rw [Fmt.isSnan_of_isNan nan]
    rfl

/-! ### Float to integer (43_rv64f:R496) -/

variable {t : IntType}

theorem Fmt.toInt_nan (h : f.isNan a = true) : f.toInt r t a = (t.toWord t.hi, flagNV) := if_pos h

theorem Fmt.toInt_inf (h : f.isInf a = true) : f.toInt r t a = (t.toWord (if f.neg a then t.lo else t.hi), flagNV) := by
  simp [Fmt.toInt, Fmt.isNan_of_isInf h, h]

/-- The integer a finite pattern rounds to, and whether it was inexact. -/
theorem Fmt.toInt_finite (nan : f.isNan a = false) (inf : f.isInf a = false) :
    let n := roundTo r (f.exact a) 0
    let v : Int := if f.neg a then -n.1 else n.1
    (v < t.lo → f.toInt r t a = (t.toWord t.lo, flagNV)) ∧ (t.hi < v → f.toInt r t a = (t.toWord t.hi, flagNV)) ∧
      (t.lo ≤ v → v ≤ t.hi → f.toInt r t a = (t.toWord v, if n.2 then flagNX else 0)) := by
  have range : t.lo ≤ t.hi := by cases t <;> decide
  intro n v
  have value : f.toInt r t a = if v < t.lo then (t.toWord t.lo, flagNV) else if t.hi < v then (t.toWord t.hi, flagNV)
      else (t.toWord v, flagIf n.2 flagNX) := by
    unfold Fmt.toInt
    rw [nan, inf]
    rfl
  rw [value]
  refine ⟨fun low => if_pos low, fun high => ?_, fun low high => ?_⟩
  · rw [if_neg (by omega), if_pos high]
  · rw [if_neg (by omega), if_neg (by omega)]
    rfl

end

/-- Settles O58, by the branch that each operation takes on special operands. -/
theorem floatSpecialCases : Obligations.FloatSpecialCases := by
  unfold Obligations.FloatSpecialCases
  intro f r a b c standard
  obtain ⟨-, wide⟩ := Fmt.fields_pos standard
  refine ⟨fun nan => ?_, Fmt.sqrt_nan, ⟨fun nan p q => Fmt.fma_nan nan, fun bad p q => Fmt.fma_badProduct bad⟩,
    fun infA nanB zeroB infC p q => Fmt.fma_invalid wide infA nanB zeroB infC,
    fun infA infB => ⟨Fmt.add_invalid infA infB, Fmt.sub_invalid infA infB, Fmt.div_invalid_inf infA infB⟩,
    fun zeroA => ⟨Fmt.mul_invalid zeroA, Fmt.div_invalid_zero wide zeroA⟩, Fmt.sqrt_invalid, Fmt.div_by_zero wide,
    fun ord isMax => ⟨fun nanA nanB => ?_, fun nanA nanB => ?_, fun nanA nanB => ?_, Fmt.minMax_flags,
      fun nanA nanB => ⟨Fmt.minMax_of_key_lt nanA nanB, Fmt.minMax_of_key_gt nanA nanB⟩⟩,
    fun zeroA zeroB negA negB isMax => Fmt.minMax_zeros zeroA zeroB negA negB, f.classify_eq a,
    fun t => ⟨Fmt.toInt_nan, Fmt.toInt_inf, Fmt.toInt_finite⟩⟩
  · dsimp only
    rw [← Fmt.snanFlag_pair]
    exact ⟨Fmt.add_nan nan, Fmt.sub_nan nan, Fmt.mul_nan nan, Fmt.div_nan nan⟩
  all_goals simp [Fmt.minMax, nanA, nanB, FpOut.nan]

end Sys2Proof.Machine

namespace Sys2Proof.Machine

/-! ### The five rounding modes of a shifted number (43_rv64f:R461) -/

/-- Whether `m / 2 ^ d` is rounded to the integer above its integer part. -/
def Rounding.Up (r : Rounding) (neg : Bool) (m d : Nat) : Prop :=
  match r with
  | .rne => 2 ^ d < 2 * (m % 2 ^ d) ∨ (2 * (m % 2 ^ d) = 2 ^ d ∧ m / 2 ^ d % 2 = 1)
  | .rtz => False
  | .rdn => neg = true ∧ m % 2 ^ d ≠ 0
  | .rup => neg = false ∧ m % 2 ^ d ≠ 0
  | .rmm => 2 ^ d ≤ 2 * (m % 2 ^ d)

section
variable {r : Rounding} {neg : Bool} {m d : Nat}

theorem roundShift_inexact : (roundShift r neg m d).2 = true ↔ m % 2 ^ d ≠ 0 := bne_iff_ne

theorem roundShift_of_up (h : r.Up neg m d) : (roundShift r neg m d).1 = m / 2 ^ d + 1 := by
  refine if_pos ?_
  cases r with
  | rtz => exact h.elim
  | _ => simpa [Rounding.Up] using h

theorem roundShift_of_not_up (h : ¬ r.Up neg m d) : (roundShift r neg m d).1 = m / 2 ^ d := by
  refine if_neg ?_
  cases r with
  | rtz => exact Bool.false_ne_true
  | _ => simpa [Rounding.Up] using h

theorem Rounding.not_up_of_toward_zero (h : r = .rtz ∨ (r = .rdn ∧ neg = false) ∨ (r = .rup ∧ neg = true)) :
    ¬ r.Up neg m d := by
  rcases h with rfl | ⟨rfl, rfl⟩ | ⟨rfl, rfl⟩ <;> simp [Rounding.Up]

theorem Rounding.up_iff_of_away (h : (r = .rdn ∧ neg = true) ∨ (r = .rup ∧ neg = false)) : r.Up neg m d ↔ m % 2 ^ d ≠ 0 := by
  rcases h with ⟨rfl, rfl⟩ | ⟨rfl, rfl⟩ <;> simp [Rounding.Up]

theorem Rounding.rest_of_up (h : r = .rne ∨ r = .rmm) (up : r.Up neg m d) : 2 ^ d ≤ 2 * (m % 2 ^ d) := by
  rcases h with rfl | rfl
  · rcases up with above | ⟨tie, -⟩
    · exact above.le
    · exact tie.ge
  · exact up

theorem Rounding.rest_of_not_up (h : r = .rne ∨ r = .rmm) (up : ¬ r.Up neg m d) : 2 * (m % 2 ^ d) ≤ 2 ^ d := by
  rcases h with rfl | rfl
  · exact not_lt.1 fun above => up (.inl above)
  · exact (not_le.1 up).le

theorem Rounding.not_up_of_exact (divides : m % 2 ^ d = 0) : ¬ r.Up neg m d := by
  intro up
  have pos : 0 < 2 ^ d := by positivity
  cases r with
  | rtz => exact up
  | rdn | rup => exact up.2 divides
  | rne => have half := Rounding.rest_of_up (.inl rfl) up; omega
  | rmm => have half := Rounding.rest_of_up (.inr rfl) up; omega

theorem roundShift_toward_zero (h : r = .rtz ∨ (r = .rdn ∧ neg = false) ∨ (r = .rup ∧ neg = true)) :
    (roundShift r neg m d).1 = m / 2 ^ d :=
  roundShift_of_not_up (Rounding.not_up_of_toward_zero h)

/-- Rounded away from zero, a number is the least integer that is not smaller. -/
theorem roundShift_away (h : (r = .rdn ∧ neg = true) ∨ (r = .rup ∧ neg = false)) :
    m ≤ (roundShift r neg m d).1 * 2 ^ d ∧ (roundShift r neg m d).1 * 2 ^ d < m + 2 ^ d := by
  have parts : m / 2 ^ d * 2 ^ d + m % 2 ^ d = m := Nat.div_add_mod' m (2 ^ d)
  have rest : m % 2 ^ d < 2 ^ d := Nat.mod_lt m (by positivity)
  have up : r.Up neg m d ↔ m % 2 ^ d ≠ 0 := Rounding.up_iff_of_away h
  by_cases inexact : m % 2 ^ d = 0
  · rw [roundShift_of_not_up (not_not_intro inexact ∘ up.1)]
    omega
  · rw [roundShift_of_up (up.2 inexact), Nat.add_mul]
    omega

/-- Rounded to nearest, a number is no further than half from the result. -/
theorem roundShift_nearest (h : r = .rne ∨ r = .rmm) :
    2 * ((roundShift r neg m d).1 * 2 ^ d) ≤ 2 * m + 2 ^ d ∧ 2 * m ≤ 2 * ((roundShift r neg m d).1 * 2 ^ d) + 2 ^ d := by
  have parts : m / 2 ^ d * 2 ^ d + m % 2 ^ d = m := Nat.div_add_mod' m (2 ^ d)
  have rest : m % 2 ^ d < 2 ^ d := Nat.mod_lt m (by positivity)
  by_cases up : r.Up neg m d
  · have half := Rounding.rest_of_up h up
    rw [roundShift_of_up up, Nat.add_mul]
    omega
  · have half := Rounding.rest_of_not_up h up
    rw [roundShift_of_not_up up]
    omega

theorem roundShift_tie_even (tie : 2 * (m % 2 ^ d) = 2 ^ d) : (roundShift .rne neg m d).1 % 2 = 0 := by
  by_cases up : Rounding.rne.Up neg m d
  · have odd : m / 2 ^ d % 2 = 1 := (up.resolve_left tie.not_gt).2
    rw [roundShift_of_up up]
    omega
  · have even : m / 2 ^ d % 2 ≠ 1 := fun odd => up (.inr ⟨tie, odd⟩)
    rw [roundShift_of_not_up up]
    omega

end

/-! ### The length of a number -/

section
variable {n k : Nat}

theorem bitLength_le_iff : bitLength n ≤ k ↔ n < 2 ^ k := by
  unfold bitLength
  split
  · next zero => simp [zero]
  · next pos => exact Nat.log2_lt pos

theorem lt_bitLength_iff : k < bitLength n ↔ 2 ^ k ≤ n := by
  rw [← not_le, bitLength_le_iff, not_lt]

end

/-! ### Finite patterns -/

section
variable {f : Fmt} {b : Nat}

theorem Fmt.isNan_eq_false_iff : f.isNan b = false ↔ f.mag b ≤ f.infBits :=
  decide_eq_false_iff_not.trans not_lt

theorem Fmt.finite_iff : f.isNan b = false ∧ f.isInf b = false ↔ f.mag b < f.infBits := by
  rw [Fmt.isNan_eq_false_iff, lt_iff_le_and_ne]
  exact and_congr_right fun _ => beq_eq_false_iff_ne

/-- A pattern is its sign and its magnitude. -/
theorem Fmt.signBits_add_mag (h : b < 2 ^ f.width) : f.signBits (f.neg b) + f.mag b = b := by
  have width : 2 ^ f.width = 2 ^ (f.ew + f.mw) * 2 := pow_succ 2 _
  have sign : b / 2 ^ (f.ew + f.mw) < 2 := Nat.div_lt_of_lt_mul (width ▸ h)
  have parts : b / 2 ^ (f.ew + f.mw) * 2 ^ (f.ew + f.mw) + b % 2 ^ (f.ew + f.mw) = b := Nat.div_add_mod' b _
  unfold Fmt.signBits Fmt.neg Fmt.mag
  rcases Nat.le_one_iff_eq_zero_or_eq_one.1 (Nat.le_of_lt_succ sign) with zero | one
  · rw [zero] at parts ⊢
    simpa using parts
  · rw [one] at parts ⊢
    simpa using parts

theorem Fmt.sig_lt (f : Fmt) (b : Nat) : f.sig b < 2 ^ (f.mw + 1) := by
  have fraction : f.mag b % 2 ^ f.mw < 2 ^ f.mw := Nat.mod_lt _ (by positivity)
  have double : 2 ^ (f.mw + 1) = 2 ^ f.mw * 2 := pow_succ 2 _
  unfold Fmt.sig
  split <;> omega

theorem Fmt.sig_eq_zero_iff : f.sig b = 0 ↔ f.isZero b = true := by
  have pos : 0 < 2 ^ f.mw := by positivity
  unfold Fmt.sig Fmt.isZero
  rw [beq_iff_eq]
  split <;> omega

/-- The magnitude of a finite pattern is its exponent field and its significand. -/
theorem Fmt.mag_eq (f : Fmt) (b : Nat) : (f.exp b - f.minExp).toNat * 2 ^ f.mw + f.sig b = f.mag b := by
  have parts : f.mag b / 2 ^ f.mw * 2 ^ f.mw + f.mag b % 2 ^ f.mw = f.mag b := Nat.div_add_mod' _ _
  unfold Fmt.exp Fmt.sig
  rw [add_sub_cancel_left, Int.toNat_natCast, Nat.sub_mul, Nat.one_mul]
  split
  · next subnormal => simp [Nat.div_eq_of_lt subnormal]
  · next normal =>
    have : 1 * 2 ^ f.mw ≤ f.mag b / 2 ^ f.mw * 2 ^ f.mw :=
      Nat.mul_le_mul_right _ ((Nat.one_le_div_iff (by positivity)).2 (not_lt.1 normal))
    omega

theorem Fmt.minExp_le_exp (f : Fmt) (b : Nat) : f.minExp ≤ f.exp b := Int.le_add_of_nonneg_right (Int.natCast_nonneg _)

/-- Above the smallest exponent the leading bit is set. -/
theorem Fmt.le_sig_of_lt_exp (h : f.minExp < f.exp b) : 2 ^ f.mw ≤ f.sig b := by
  unfold Fmt.sig
  split
  · next subnormal =>
    unfold Fmt.exp at h
    rw [Nat.div_eq_of_lt subnormal] at h
    exact absurd h (by simp)
  · exact Nat.le_add_right _ _

/-- A finite pattern is rounded at its own exponent. -/
theorem Fmt.max_exp (f : Fmt) (b : Nat) : max (f.exp b + bitLength (f.sig b) - (f.mw + 1)) f.minExp = f.exp b := by
  have length : bitLength (f.sig b) ≤ f.mw + 1 := bitLength_le_iff.2 (f.sig_lt b)
  rcases (f.minExp_le_exp b).eq_or_lt with lowest | above
  · omega
  · have normal : f.mw < bitLength (f.sig b) := lt_bitLength_iff.2 (Fmt.le_sig_of_lt_exp above)
    omega

/-- A finite pattern rounds to itself. -/
theorem Fmt.round_exact (r : Rounding) (small : b < 2 ^ f.width) (finite : f.mag b < f.infBits) :
    f.round r (f.exact b) = ⟨some b, 0⟩ := by
  have rounded : roundTo r (f.exact b) (f.exp b) = (f.sig b, false) := by
    unfold roundTo
    rw [if_pos (show f.exp b ≤ (f.exact b).e from le_rfl)]
    simp [Fmt.exact]
  unfold Fmt.round
  simp only [show (f.exact b).e = f.exp b from rfl, show (f.exact b).m = f.sig b from rfl, f.max_exp, rounded, f.mag_eq]
  rw [if_neg finite.not_ge, Bool.and_false]
  exact congrArg (FpOut.mk · 0) (congrArg some (Fmt.signBits_add_mag small))

end

/-- Settles O56, by what decides between the two integers about a number, and by the exponent a finite pattern is rounded at. -/
theorem floatRounding : Obligations.FloatRounding := by
  unfold Obligations.FloatRounding
  refine ⟨fun r neg m d => ⟨roundShift_inexact, fun divides => ?_, fun toward => ?_, roundShift_away, roundShift_nearest,
      fun _ tie => ⟨fun rne => ?_, fun rmm => ?_⟩⟩,
    fun f r b _ small nan inf _ => Fmt.round_exact r small (Fmt.finite_iff.1 ⟨nan, inf⟩)⟩
  · rw [roundShift_of_not_up (Rounding.not_up_of_exact divides)]
    exact Nat.div_mul_cancel (Nat.dvd_of_mod_eq_zero divides)
  · rw [roundShift_toward_zero toward]
    exact ⟨Nat.div_mul_le_self m _, (Nat.div_lt_iff_lt_mul (by positivity)).1 (Nat.lt_succ_self _)⟩
  · subst rne
    exact roundShift_tie_even (by omega)
  · subst rmm
    exact roundShift_of_up (by simp only [Rounding.Up]; omega)

end Sys2Proof.Machine

namespace Sys2Proof.Machine

/-! ### Signs as factors -/

/-- The factor of a sign. -/
noncomputable def sgn (neg : Bool) : ℝ := if neg then -1 else 1

section
variable (neg : Bool) (a z : ℝ)

@[simp] theorem sgn_true : sgn true = -1 := rfl

@[simp] theorem sgn_false : sgn false = 1 := rfl

theorem sgn_mul_self : sgn neg * sgn neg = 1 := by cases neg <;> simp

theorem sgn_mul_sgn_mul : sgn neg * (sgn neg * a) = a := by rw [← mul_assoc, sgn_mul_self, one_mul]

theorem abs_sgn_mul : |sgn neg * a| = |a| := by cases neg <;> simp

theorem abs_sgn_mul_sub : |sgn neg * a - z| = |a - sgn neg * z| := by
  rw [← abs_sgn_mul neg (a - sgn neg * z), mul_sub, sgn_mul_sgn_mul]

theorem sgn_mul_abs {x : ℝ} (h : neg = true ↔ x < 0) : sgn neg * |x| = x := by
  cases neg with
  | true => rw [abs_of_neg (h.1 rfl), sgn_true, neg_one_mul, neg_neg]
  | false => rw [abs_of_nonneg (not_lt.1 fun hx => Bool.false_ne_true (h.2 hx)), sgn_false, one_mul]

end

/-! ### Rounding between two neighbours of a grid (43_rv64f:R461) -/

/-- Of the neighbours of magnitudes `A` and `B` of a number of the magnitude `X` between them, mode `r` takes the lower. -/
def TakesLower (r : Rounding) (neg : Bool) (even : ℝ → Prop) (A X B : ℝ) : Prop :=
  match r with
  | .rne => X - A ≤ B - X ∧ (X - A = B - X → even (sgn neg * A))
  | .rtz => True
  | .rdn => neg = false
  | .rup => neg = true
  | .rmm => X - A < B - X

/-- The same for the upper one. -/
def TakesUpper (r : Rounding) (neg : Bool) (even : ℝ → Prop) (A X B : ℝ) : Prop :=
  match r with
  | .rne => B - X ≤ X - A ∧ (B - X = X - A → even (sgn neg * B))
  | .rtz => False
  | .rdn => neg = true
  | .rup => neg = false
  | .rmm => B - X ≤ X - A

section
variable {r : Rounding} {neg : Bool} {g even : ℝ → Prop} {A X B x : ℝ}

theorem Rounds.of_mem (on : g x) : Rounds r g even x x := by
  refine ⟨on, ?_⟩
  cases r with
  | rne | rmm =>
    refine fun z _ => ⟨by simp, fun ne tie => absurd ?_ ne⟩
    rw [sub_self, abs_zero, abs_eq_zero, sub_eq_zero] at tie
    exact tie.symm
  | rtz => exact ⟨le_rfl, mul_self_nonneg x, fun _ _ _ h => h⟩
  | rdn => exact ⟨le_rfl, fun _ _ h => h⟩
  | rup => exact ⟨le_rfl, fun _ _ h => h⟩

variable (lower : A < X) (upper : X < B) (gap : ∀ z, g z → sgn neg * z ≤ A ∨ B ≤ sgn neg * z)
include lower upper gap

/-- No number of the grid is closer than a lower neighbour not further than the upper one; only that one can be as close. -/
theorem nearest_lower (closer : X - A ≤ B - X) {z : ℝ} (hz : g z) :
    |sgn neg * X - sgn neg * A| ≤ |sgn neg * X - z| ∧
      (z ≠ sgn neg * A → |sgn neg * X - z| = |sgn neg * X - sgn neg * A| → X - A = B - X) := by
  rw [← mul_sub, abs_sgn_mul, abs_sgn_mul_sub, abs_of_pos (sub_pos.2 lower)]
  rcases gap z hz with below | above
  · rw [abs_of_pos (by linarith)]
    refine ⟨by linarith, fun ne tie => absurd ?_ ne⟩
    rw [← sgn_mul_sgn_mul neg z, show sgn neg * z = A by linarith]
  · rw [abs_of_neg (by linarith)]
    exact ⟨by linarith, fun _ tie => by linarith⟩

/-- The same for an upper neighbour not further than the lower one. -/
theorem nearest_upper (closer : B - X ≤ X - A) {z : ℝ} (hz : g z) :
    |sgn neg * X - sgn neg * B| ≤ |sgn neg * X - z| ∧
      (z ≠ sgn neg * B → |sgn neg * X - z| = |sgn neg * X - sgn neg * B| → B - X = X - A ∧ sgn neg * z = A) := by
  rw [← mul_sub, abs_sgn_mul, abs_sgn_mul_sub, abs_of_neg (sub_neg.2 upper)]
  rcases gap z hz with below | above
  · rw [abs_of_pos (by linarith)]
    exact ⟨by linarith, fun _ tie => ⟨by linarith, by linarith⟩⟩
  · rw [abs_of_neg (by linarith)]
    refine ⟨by linarith, fun ne tie => absurd ?_ ne⟩
    rw [← sgn_mul_sgn_mul neg z, show sgn neg * z = B by linarith]

theorem Rounds.of_takesLower (nonneg : 0 ≤ A) (on : g (sgn neg * A)) (takes : TakesLower r neg even A X B) :
    Rounds r g even (sgn neg * X) (sgn neg * A) := by
  refine ⟨on, ?_⟩
  cases r with
  | rne =>
    obtain ⟨closer, tieEven⟩ := takes
    intro z hz
    obtain ⟨near, tie⟩ := nearest_lower lower upper gap closer hz
    exact ⟨near, fun ne same => tieEven (tie ne same)⟩
  | rmm =>
    have closer : X - A < B - X := takes
    intro z hz
    obtain ⟨near, tie⟩ := nearest_lower lower upper gap closer.le hz
    exact ⟨near, fun ne same => absurd (tie ne same) closer.ne⟩
  | rtz =>
    have pos : 0 < X := nonneg.trans_lt lower
    rw [abs_sgn_mul, abs_sgn_mul, abs_of_nonneg nonneg, abs_of_pos pos]
    refine ⟨lower.le, ?_, fun z hz sign small => ?_⟩
    · rw [mul_mul_mul_comm, sgn_mul_self, one_mul]
      exact mul_nonneg pos.le nonneg
    · rw [mul_assoc, mul_left_comm] at sign
      have same : 0 ≤ sgn neg * z := nonneg_of_mul_nonneg_right sign pos
      rw [← abs_sgn_mul neg z, abs_of_nonneg same] at small ⊢
      exact (gap z hz).resolve_right fun above => by linarith
  | rdn =>
    have plus : neg = false := takes
    subst plus
    simp only [sgn_false, one_mul] at gap ⊢
    exact ⟨lower.le, fun z hz below => (gap z hz).resolve_right fun above => by linarith⟩
  | rup =>
    have minus : neg = true := takes
    subst minus
    simp only [sgn_true, neg_one_mul] at gap ⊢
    exact ⟨by linarith, fun z hz above => neg_le.1 ((gap z hz).resolve_right fun far => by linarith)⟩

theorem Rounds.of_takesUpper (nonneg : 0 ≤ A) (on : g (sgn neg * B)) (takes : TakesUpper r neg even A X B) :
    Rounds r g even (sgn neg * X) (sgn neg * B) := by
  refine ⟨on, ?_⟩
  cases r with
  | rne =>
    obtain ⟨closer, tieEven⟩ := takes
    intro z hz
    obtain ⟨near, tie⟩ := nearest_upper lower upper gap closer hz
    exact ⟨near, fun ne same => tieEven (tie ne same).1⟩
  | rmm =>
    intro z hz
    obtain ⟨near, tie⟩ := nearest_upper lower upper gap takes hz
    refine ⟨near, fun ne same => ?_⟩
    rw [← abs_sgn_mul neg z, (tie ne same).2, abs_sgn_mul, abs_of_nonneg nonneg, abs_of_pos (by linarith)]
    exact lower.trans upper
  | rtz => exact takes.elim
  | rdn =>
    have minus : neg = true := takes
    subst minus
    simp only [sgn_true, neg_one_mul] at gap ⊢
    exact ⟨by linarith, fun z hz below => le_neg_of_le_neg ((gap z hz).resolve_left fun near => by linarith)⟩
  | rup =>
    have plus : neg = false := takes
    subst plus
    simp only [sgn_false, one_mul] at gap ⊢
    exact ⟨upper.le, fun z hz above => (gap z hz).resolve_left fun near => by linarith⟩

end

end Sys2Proof.Machine

namespace Sys2Proof.Machine

/-! ### Exact values and what stands for them -/

/-- The number of an exact value. -/
noncomputable def Exact.value (v : Exact) : ℝ := sgn v.neg * (v.m * (2 : ℝ) ^ v.e)

/-- `v` stands for the non-zero number `x` where `p` bits are kept: it is `x`, or it has a last bit set that says that `x` lies
on either side of it, with at least two bits more than are kept. -/
structure Exact.Stands (v : Exact) (p : Nat) (x : ℝ) : Prop where
  sign : v.neg = true ↔ x < 0
  pos : 0 < v.m
  size : |x| = v.m * (2 : ℝ) ^ v.e ∨
    (v.m % 2 = 1 ∧ 2 ^ (p + 1) ≤ v.m ∧ (v.m - 1 : ℝ) * 2 ^ v.e < |x| ∧ |x| < (v.m + 1 : ℝ) * 2 ^ v.e)

/-- Where `X` lies between the multiples `A` and `B`, told by the remainder `rest` of a division by `D`. -/
structure Between (rest D : Nat) (A X B : ℝ) : Prop where
  lower : A < X
  upper : X < B
  of_lt : 2 * rest < D → X - A < B - X
  of_gt : D < 2 * rest → B - X < X - A
  of_eq : 2 * rest = D → X - A = B - X

theorem Between.scale {rest D : Nat} {A X B U : ℝ} (h : Between rest D A X B) (pos : 0 < U) :
    Between rest D (A * U) (X * U) (B * U) := by
  obtain ⟨lower, upper, of_lt, of_gt, of_eq⟩ := h
  refine ⟨by gcongr, by gcongr, fun h => ?_, fun h => ?_, fun h => ?_⟩ <;> rw [← sub_mul, ← sub_mul]
  · exact mul_lt_mul_of_pos_right (of_lt h) pos
  · exact mul_lt_mul_of_pos_right (of_gt h) pos
  · rw [of_eq h]

/-- The remainder of the number `m` that stands for `T` tells where `T` lies: `T` is `m`, or `m` is odd, `T` next to it, and the
divisor a multiple of 4. -/
theorem between_of_remainder {m D : Nat} {T : ℝ} (pos : 0 < D)
    (size : T = m ∨ (m % 2 = 1 ∧ 4 ∣ D ∧ (m - 1 : ℝ) < T ∧ T < m + 1)) :
    (m % D = 0 → T = (m / D : Nat) * D) ∧
    (m % D ≠ 0 → Between (m % D) D ((m / D : Nat) * D) T ((m / D + 1 : Nat) * D)) := by
  have parts : ((m / D : Nat) * D : ℝ) + (m % D : Nat) = m := mod_cast Nat.div_add_mod' m D
  have next : (((m / D + 1 : Nat) : ℝ)) * D = (m / D : Nat) * D + D := by push_cast; ring
  have rest : m % D < D := Nat.mod_lt m pos
  rw [next]
  rcases size with same | ⟨odd, ⟨k, four⟩, above, below⟩
  · have restR : ((m % D : Nat) : ℝ) < D := mod_cast rest
    refine ⟨fun zero => ?_, fun ne => ?_⟩
    · rw [same, ← parts, zero, Nat.cast_zero, add_zero]
    · have restPos : (0 : ℝ) < (m % D : Nat) := mod_cast Nat.pos_of_ne_zero ne
      refine ⟨by linarith, by linarith, fun h => ?_, fun h => ?_, fun h => ?_⟩
      · have : (2 * (m % D : Nat) : ℝ) < D := mod_cast h
        linarith
      · have : (D : ℝ) < 2 * (m % D : Nat) := mod_cast h
        linarith
      · have : (2 * (m % D : Nat) : ℝ) = D := mod_cast h
        linarith
  · have restOdd : m % D % 2 = 1 := by rw [Nat.mod_mod_of_dvd m ⟨2 * k, by omega⟩, odd]
    have restPos : (1 : ℝ) ≤ (m % D : Nat) := mod_cast (by omega : 1 ≤ m % D)
    have restR : ((m % D : Nat) : ℝ) + 1 ≤ D := mod_cast rest
    refine ⟨fun zero => by omega, fun ne => ⟨by linarith, by linarith, fun h => ?_, fun h => ?_, fun h => by omega⟩⟩
    · have : (2 * (m % D : Nat) + 2 : ℝ) ≤ D := mod_cast (by omega : 2 * (m % D) + 2 ≤ D)
      linarith
    · have : (D : ℝ) + 2 ≤ 2 * (m % D : Nat) := mod_cast (by omega : D + 2 ≤ 2 * (m % D))
      linarith

section
variable {r : Rounding} {neg : Bool} {even : ℝ → Prop} {m d : Nat} {A X B : ℝ}

theorem takesUpper_of_up (h : Between (m % 2 ^ d) (2 ^ d) A X B) (up : r.Up neg m d)
    (evenB : (m / 2 ^ d + 1) % 2 = 0 → even (sgn neg * B)) : TakesUpper r neg even A X B := by
  have closer : 2 ^ d ≤ 2 * (m % 2 ^ d) → B - X ≤ X - A := fun half =>
    half.lt_or_eq.elim (fun gt => (h.of_gt gt).le) fun eq => (h.of_eq eq.symm).ge
  cases r with
  | rne =>
    refine ⟨closer (Rounding.rest_of_up (.inl rfl) up), fun tie => evenB ?_⟩
    rcases up with above | ⟨-, odd⟩
    · exact absurd tie (h.of_gt above).ne
    · omega
  | rtz => exact up
  | rdn | rup => exact up.1
  | rmm => exact closer up

theorem takesLower_of_not_up (h : Between (m % 2 ^ d) (2 ^ d) A X B) (up : ¬ r.Up neg m d) (inexact : m % 2 ^ d ≠ 0)
    (evenA : m / 2 ^ d % 2 = 0 → even (sgn neg * A)) : TakesLower r neg even A X B := by
  cases r with
  | rne =>
    refine ⟨?_, fun tie => evenA ?_⟩
    · exact (Rounding.rest_of_not_up (.inl rfl) up).lt_or_eq.elim (fun lt => (h.of_lt lt).le) fun eq => (h.of_eq eq).le
    · have half : 2 * (m % 2 ^ d) = 2 ^ d := (Rounding.rest_of_not_up (.inl rfl) up).eq_of_not_lt fun lt =>
        absurd tie (h.of_lt lt).ne
      exact Nat.mod_two_ne_one.1 fun odd => up (.inr ⟨half, odd⟩)
  | rtz => trivial
  | rdn => exact Bool.eq_false_iff.2 fun minus => up ⟨minus, inexact⟩
  | rup => exact eq_true_of_ne_false fun plus => up ⟨plus, inexact⟩
  | rmm => exact h.of_lt (not_le.1 up)

end

/-! ### Rounding to a multiple of a power of two -/

/-- About `x`, the numbers of `g` are the multiples of `2 ^ q` of at most `p` bits: those of even multiples are in `even`, and
what else `g` holds lies below a multiple not above `x`. -/
structure GridAt (p : Nat) (q : Int) (x : ℝ) (g even : ℝ → Prop) : Prop where
  on : ∀ (neg : Bool) (n : Nat), n ≤ 2 ^ p → g (sgn neg * (n * 2 ^ q))
  onEven : ∀ (neg : Bool) (n : Nat), n ≤ 2 ^ p → n % 2 = 0 → even (sgn neg * (n * 2 ^ q))
  gap : ∀ z, g z → (∃ k : Int, z = k * 2 ^ q) ∨ ∃ L : Nat, |z| < L * 2 ^ q ∧ L * 2 ^ q ≤ |x|

theorem lt_of_scaled_lt {L n : Nat} {q : Int} (h : (L * 2 ^ q : ℝ) < n * 2 ^ q) : L < n :=
  Nat.cast_lt.1 (lt_of_mul_lt_mul_right h (by positivity))

theorem le_of_scaled_le {L n : Nat} {q : Int} (h : (L * 2 ^ q : ℝ) ≤ n * 2 ^ q) : L ≤ n :=
  Nat.cast_le.1 (le_of_mul_le_mul_right h (by positivity))

/-- No number of the grid lies between two neighbouring multiples about `x`. -/
theorem GridAt.between {p : Nat} {q : Int} {x : ℝ} {g even : ℝ → Prop} (grid : GridAt p q x g even) (neg : Bool) {n : Nat}
    (upper : |x| < (n + 1 : Nat) * 2 ^ q) {z : ℝ} (hz : g z) :
    sgn neg * z ≤ n * 2 ^ q ∨ (n + 1 : Nat) * 2 ^ q ≤ sgn neg * z := by
  have pos : (0 : ℝ) < 2 ^ q := by positivity
  rcases grid.gap z hz with ⟨k, rfl⟩ | ⟨L, small, below⟩
  · have multiple : ∃ j : Int, sgn neg * (k * 2 ^ q) = j * 2 ^ q := by
      cases neg with
      | true => exact ⟨-k, by simp⟩
      | false => exact ⟨k, by simp⟩
    obtain ⟨j, eq⟩ := multiple
    rw [eq]
    rcases le_or_gt j n with low | high
    · exact .inl (mul_le_mul_of_nonneg_right (mod_cast low) pos.le)
    · exact .inr (mul_le_mul_of_nonneg_right (mod_cast high) pos.le)
  · left
    have bound : (L : ℝ) ≤ n := mod_cast Nat.le_of_lt_succ (lt_of_scaled_lt (below.trans_lt upper))
    calc sgn neg * z ≤ |sgn neg * z| := le_abs_self _
      _ = |z| := abs_sgn_mul neg z
      _ ≤ L * 2 ^ q := small.le
      _ ≤ n * 2 ^ q := mul_le_mul_of_nonneg_right bound pos.le

/-- What `roundTo` gives: the multiple of `2 ^ q` that `x` rounds to, and whether it is another number. -/
structure RoundedAt (r : Rounding) (p : Nat) (q : Int) (x : ℝ) (g even : ℝ → Prop) (neg : Bool) (out : Nat × Bool) : Prop where
  rounds : Rounds r g even x (sgn neg * (out.1 * 2 ^ q))
  inexact : out.2 = true ↔ sgn neg * (out.1 * 2 ^ q) ≠ x
  upper : out.1 ≤ 2 ^ p
  lower : ∀ L : Nat, L * 2 ^ q ≤ |x| → L ≤ out.1

section
variable {r : Rounding} {v : Exact} {p : Nat} {q : Int} {x : ℝ} {g even : ℝ → Prop}

/-- A multiple already. -/
theorem RoundedAt.of_multiple (grid : GridAt p q x g even) {neg : Bool} {n : Nat} (small : n ≤ 2 ^ p)
    (same : sgn neg * (n * 2 ^ q) = x) : RoundedAt r p q x g even neg (n, false) := by
  refine ⟨same ▸ Rounds.of_mem (same ▸ grid.on neg n small), by simpa using same, small, fun L below => ?_⟩
  rw [← same, abs_sgn_mul, abs_of_nonneg (by positivity)] at below
  exact le_of_scaled_le below

/-- Between two multiples, by the remainder of the division that tells where. -/
theorem RoundedAt.of_between (grid : GridAt p q x g even) (sign : v.neg = true ↔ x < 0) {d : Nat} (inexact : v.m % 2 ^ d ≠ 0)
    (h : Between (v.m % 2 ^ d) (2 ^ d) ((v.m / 2 ^ d : Nat) * 2 ^ q) |x| ((v.m / 2 ^ d + 1 : Nat) * 2 ^ q))
    (small : v.m / 2 ^ d + 1 ≤ 2 ^ p) : RoundedAt r p q x g even v.neg (roundShift r v.neg v.m d) := by
  have signed : sgn v.neg * |x| = x := sgn_mul_abs v.neg sign
  have gap : ∀ z, g z → _ := fun z => grid.between v.neg h.upper (z := z)
  have nonneg : (0 : ℝ) ≤ (v.m / 2 ^ d : Nat) * 2 ^ q := by positivity
  have floor : ∀ L : Nat, L * 2 ^ q ≤ |x| → L ≤ v.m / 2 ^ d := fun L below =>
    Nat.le_of_lt_succ (lt_of_scaled_lt (below.trans_lt h.upper))
  have differs : ∀ Y : ℝ, 0 ≤ Y → Y ≠ |x| → sgn v.neg * Y ≠ x := fun Y hY ne same => ne (by
    rw [← same, abs_sgn_mul, abs_of_nonneg hY])
  by_cases up : r.Up v.neg v.m d
  · have value : (roundShift r v.neg v.m d).1 = v.m / 2 ^ d + 1 := roundShift_of_up up
    refine ⟨?_, ?_, value ▸ small, fun L below => value ▸ (floor L below).trans (Nat.le_succ _)⟩
    · have := Rounds.of_takesUpper h.lower h.upper gap nonneg (grid.on v.neg _ small)
        (takesUpper_of_up h up (grid.onEven v.neg _ small))
      rwa [signed, ← value] at this
    · rw [roundShift_inexact, value]
      exact iff_of_true inexact (differs _ (by positivity) h.upper.ne')
  · have value : (roundShift r v.neg v.m d).1 = v.m / 2 ^ d := roundShift_of_not_up up
    have small' := (Nat.le_succ _).trans small
    refine ⟨?_, ?_, value ▸ small', fun L below => value ▸ floor L below⟩
    · have := Rounds.of_takesLower h.lower h.upper gap nonneg (grid.on v.neg _ small')
        (takesLower_of_not_up h up inexact (grid.onEven v.neg _ small'))
      rwa [signed, ← value] at this
    · rw [roundShift_inexact, value]
      exact iff_of_true inexact (differs _ nonneg h.lower.ne)

/-- `roundTo` rounds the number that its argument stands for. -/
theorem Exact.Stands.roundedAt (stands : v.Stands p x) (grid : GridAt p q x g even) (length : v.e + bitLength v.m ≤ q + p) :
    RoundedAt r p q x g even v.neg (roundTo r v q) := by
  have signed : sgn v.neg * |x| = x := sgn_mul_abs v.neg stands.sign
  have unit : (0 : ℝ) < 2 ^ v.e := by positivity
  have sticky_length : 2 ^ (p + 1) ≤ v.m → p + 1 < bitLength v.m := lt_bitLength_iff.2
  have fits : v.m < 2 ^ bitLength v.m := bitLength_le_iff.1 le_rfl
  unfold roundTo
  split
  · next coarse =>
    obtain ⟨k, hk⟩ := Int.eq_ofNat_of_zero_le (Int.sub_nonneg_of_le coarse)
    have size : |x| = v.m * (2 : ℝ) ^ v.e := stands.size.resolve_right fun h => by
      have := sticky_length h.2.1
      omega
    rw [hk, Int.toNat_natCast]
    refine RoundedAt.of_multiple grid ?_ ?_
    · calc v.m * 2 ^ k ≤ 2 ^ bitLength v.m * 2 ^ k := Nat.mul_le_mul_right _ fits.le
        _ = 2 ^ (bitLength v.m + k) := (pow_add 2 _ _).symm
        _ ≤ 2 ^ p := Nat.pow_le_pow_right (by decide) (by omega)
    · rw [← signed, size, show v.e = k + q by omega, zpow_add₀ two_ne_zero, zpow_natCast]
      push_cast
      ring
  · next fine =>
    obtain ⟨d, hd⟩ := Int.eq_ofNat_of_zero_le (Int.sub_nonneg_of_le (not_le.1 fine).le)
    have step : (2 : ℝ) ^ q = (2 ^ d : Nat) * 2 ^ v.e := by
      rw [show q = d + v.e by omega, zpow_add₀ two_ne_zero, zpow_natCast]
      push_cast
      rfl
    have size : |x| / 2 ^ v.e = v.m ∨
        (v.m % 2 = 1 ∧ 4 ∣ 2 ^ d ∧ (v.m - 1 : ℝ) < |x| / 2 ^ v.e ∧ |x| / 2 ^ v.e < v.m + 1) := by
      rcases stands.size with same | ⟨odd, long, above, below⟩
      · exact .inl (by rw [same, mul_div_cancel_right₀ _ unit.ne'])
      · have := sticky_length long
        exact .inr ⟨odd, pow_dvd_pow 2 (by omega : 2 ≤ d), (lt_div_iff₀ unit).2 above, (div_lt_iff₀ unit).2 below⟩
    obtain ⟨multiple, between⟩ := between_of_remainder (D := 2 ^ d) (by positivity) size
    have small : v.m / 2 ^ d + 1 ≤ 2 ^ p := Nat.div_lt_of_lt_mul (calc
      v.m < 2 ^ bitLength v.m := fits
      _ ≤ 2 ^ (d + p) := Nat.pow_le_pow_right (by decide) (by omega)
      _ = 2 ^ d * 2 ^ p := pow_add 2 _ _)
    rw [hd, Int.toNat_natCast]
    by_cases rest : v.m % 2 ^ d = 0
    · rw [show roundShift r v.neg v.m d = (v.m / 2 ^ d, false) from
        Prod.ext (roundShift_of_not_up (Rounding.not_up_of_exact rest)) (by simp [roundShift, rest])]
      refine RoundedAt.of_multiple grid ((Nat.le_succ _).trans small) ?_
      rw [step, ← mul_assoc (_ : ℝ) _ (2 ^ v.e), ← multiple rest, div_mul_cancel₀ _ unit.ne', signed]
    · refine RoundedAt.of_between grid stands.sign rest ?_ small
      have := (between rest).scale unit
      rwa [div_mul_cancel₀ _ unit.ne', mul_assoc, mul_assoc, ← step] at this

end

end Sys2Proof.Machine

namespace Sys2Proof.Machine

/-! ### The grid of a format -/

section
variable {p : Nat} {q : Int} {lo even : Int → Prop} {x : ℝ}

/-- A multiple of `2 ^ q` of at most `p` bits, or the first of more, is on a grid that admits the exponents from `q` on. -/
theorem OnGrid.of_multiple (pos : 0 < p) (admits : ∀ e, q ≤ e → lo e) (neg : Bool) {n : Nat} (small : n ≤ 2 ^ p) :
    OnGrid p lo (sgn neg * (n * 2 ^ q)) := by
  rcases small.lt_or_eq with lt | rfl
  · refine ⟨if neg then -n else n, q, admits q le_rfl, ?_, ?_⟩
    · cases neg <;> simpa using mod_cast lt
    · cases neg <;> simp
  · refine ⟨if neg then -1 else 1, q + p, admits _ (by omega), ?_, ?_⟩
    · cases neg <;> simpa using one_lt_pow₀ (one_lt_two : (1 : Int) < 2) pos.ne'
    · rw [zpow_add₀ two_ne_zero, zpow_natCast]
      cases neg <;> simp [mul_comm]

/-- The grid of `p + 1` bits about a number that has no finer point of the grid above its leading bit. -/
theorem gridAt_onGrid (pos : 0 < p) (admits : ∀ e, q ≤ e → lo e) (admitsEven : ∀ e, q + 1 ≤ e → even e)
    (normal : ∀ e, lo e → e < q → (2 : ℝ) ^ (p + q) ≤ |x|) : GridAt (p + 1) q x (OnGrid (p + 1) lo) (OnGrid p even) where
  on neg n small := OnGrid.of_multiple p.succ_pos admits neg small
  onEven neg n small two := by
    obtain ⟨k, rfl⟩ := Nat.dvd_of_mod_eq_zero two
    have half : k ≤ 2 ^ p := by rw [pow_succ] at small; omega
    have scaled : ((2 * k : Nat) * 2 ^ q : ℝ) = k * 2 ^ (q + 1) := by
      rw [zpow_add_one₀ two_ne_zero]
      push_cast
      ring
    rw [scaled]
    exact OnGrid.of_multiple pos admitsEven neg half
  gap := by
    rintro z ⟨k, e, admitted, small, rfl⟩
    rcases le_or_gt q e with coarse | fine
    · obtain ⟨d, hd⟩ := Int.eq_ofNat_of_zero_le (Int.sub_nonneg_of_le coarse)
      refine .inl ⟨k * 2 ^ d, ?_⟩
      rw [show e = d + q by omega, zpow_add₀ two_ne_zero, zpow_natCast]
      push_cast
      ring
    · refine .inr ⟨2 ^ p, ?_, ?_⟩
      · have smallR : |(k : ℝ)| < 2 ^ (p + 1) := mod_cast small
        rw [abs_mul, abs_of_pos (by positivity : (0 : ℝ) < 2 ^ e)]
        calc |(k : ℝ)| * 2 ^ e < 2 ^ (p + 1) * 2 ^ e := mul_lt_mul_of_pos_right smallR (by positivity)
          _ = 2 ^ p * 2 ^ (e + 1) := by rw [zpow_add_one₀ two_ne_zero, pow_succ]; ring
          _ ≤ 2 ^ p * 2 ^ q := mul_le_mul_of_nonneg_left (zpow_le_zpow_right₀ one_le_two (by omega)) (by positivity)
          _ = (2 ^ p : Nat) * 2 ^ q := by push_cast; rfl
      · have := normal e admitted fine
        rw [zpow_add₀ two_ne_zero, zpow_natCast] at this
        exact_mod_cast this

end

/-! ### The leading bit of what stands for a number -/

section
variable {v : Exact} {p : Nat} {x : ℝ}

theorem Exact.Stands.leading (stands : v.Stands p x) : (2 : ℝ) ^ (v.e + bitLength v.m - 1) ≤ |x| := by
  have unit : (0 : ℝ) < 2 ^ v.e := by positivity
  obtain ⟨k, hk⟩ := Nat.exists_eq_succ_of_ne_zero (lt_bitLength_iff.2 stands.pos : 0 < bitLength v.m).ne'
  have bit : 2 ^ k ≤ v.m := lt_bitLength_iff.1 (hk ▸ Nat.lt_succ_self k)
  have power : (2 : ℝ) ^ (v.e + bitLength v.m - 1) = (2 ^ k : Nat) * 2 ^ v.e := by
    rw [show v.e + (bitLength v.m : Int) - 1 = k + v.e by omega, zpow_add₀ two_ne_zero, zpow_natCast]
    push_cast
    rfl
  rw [power]
  rcases stands.size with same | ⟨odd, long, above, -⟩
  · rw [same]
    exact mul_le_mul_of_nonneg_right (mod_cast bit) unit.le
  · have below : 2 ^ k + 1 ≤ v.m := by
      have : p + 1 < bitLength v.m := lt_bitLength_iff.2 long
      obtain ⟨j, rfl⟩ : ∃ j, k = j + 1 := ⟨k - 1, by omega⟩
      rw [pow_succ] at bit ⊢
      omega
    have belowR : ((2 ^ k : Nat) : ℝ) ≤ v.m - 1 := by
      rw [le_sub_iff_add_le]
      exact_mod_cast below
    exact (mul_le_mul_of_nonneg_right belowR unit.le).trans above.le

theorem Exact.Stands.ne_zero (stands : v.Stands p x) : x ≠ 0 :=
  abs_pos.1 (lt_of_lt_of_le (by positivity) stands.leading)

end

/-! ### Patterns of rounded numbers -/

section
variable {f : Fmt} {n k : Nat}

/-- The value of the magnitude bits that rounding puts together from an exponent and a significand, which may have run over. -/
theorem Fmt.sig_mul_exp {b : Nat} (hb : f.mag b = k * 2 ^ f.mw + n) (small : n ≤ 2 ^ (f.mw + 1)) (normal : 0 < k → 2 ^ f.mw ≤ n) :
    (f.sig b * (2 : ℝ) ^ f.exp b) = n * 2 ^ (f.minExp + k) := by
  have pos : 0 < 2 ^ f.mw := by positivity
  have double : 2 ^ (f.mw + 1) = 2 ^ f.mw * 2 := pow_succ 2 _
  have fields : ∀ j s : Nat, s < 2 ^ f.mw → f.mag b = (j + 1) * 2 ^ f.mw + s →
      f.sig b = 2 ^ f.mw + s ∧ f.exp b = f.minExp + j := by
    intro j s hs eq
    have quotient : f.mag b / 2 ^ f.mw = j + 1 := by
      rw [eq, Nat.mul_comm, Nat.mul_add_div pos, Nat.div_eq_of_lt hs, Nat.add_zero]
    have rest : f.mag b % 2 ^ f.mw = s := by
      rw [eq, Nat.mul_comm, Nat.mul_add_mod, Nat.mod_eq_of_lt hs]
    have high : ¬ f.mag b < 2 ^ f.mw := by rw [eq, Nat.succ_mul]; omega
    exact ⟨by rw [Fmt.sig, if_neg high, rest], by rw [Fmt.exp, quotient, Nat.add_sub_cancel]⟩
  rcases lt_or_ge n (2 ^ f.mw) with subnormal | high
  · obtain rfl : k = 0 := Nat.eq_zero_of_not_pos fun hk => absurd (normal hk) subnormal.not_ge
    rw [Nat.zero_mul, Nat.zero_add] at hb
    rw [Fmt.sig, Fmt.exp, hb, if_pos subnormal, Nat.div_eq_of_lt subnormal]
  · rcases small.lt_or_eq with lt | rfl
    · obtain ⟨sig, exp⟩ := fields k (n - 2 ^ f.mw) (by omega) (by rw [hb, Nat.succ_mul]; omega)
      rw [sig, exp, Nat.add_sub_cancel' high]
    · obtain ⟨sig, exp⟩ := fields (k + 1) 0 pos (by rw [hb, double, Nat.succ_mul, Nat.succ_mul]; omega)
      rw [sig, exp, Nat.add_zero, double]
      push_cast
      rw [← add_assoc, zpow_add_one₀ two_ne_zero]
      ring

theorem exponent_and_significand_le_iff {M K : Nat} (pos : 0 < M) (small : n ≤ 2 * M) (normal : 0 < k → M ≤ n) :
    (K + 1) * M ≤ k * M + n ↔ M * 2 ^ K ≤ n * 2 ^ k := by
  rcases lt_trichotomy K k with lt | rfl | gt
  · refine iff_of_true ?_ (Nat.mul_le_mul (normal (Nat.zero_lt_of_lt lt)) (Nat.pow_le_pow_right (by decide) lt.le))
    exact (Nat.mul_le_mul_right M lt).trans (Nat.le_add_right _ _)
  · rw [Nat.succ_mul, Nat.add_le_add_iff_left, Nat.mul_le_mul_right_iff (by positivity)]
  · obtain ⟨j, rfl⟩ := Nat.exists_eq_add_of_lt gt
    have left : (k + j + 1 + 1) * M = k * M + (2 * M + j * M) := by ring
    have right : M * 2 ^ (k + j + 1) = 2 * M * 2 ^ j * 2 ^ k := by ring
    rw [left, right, Nat.add_le_add_iff_left, Nat.mul_le_mul_right_iff (by positivity)]
    rcases Nat.eq_zero_or_pos j with rfl | hj
    · simp
    · have more : M ≤ j * M := Nat.le_mul_of_pos_left M hj
      have twice : 2 * M * 2 ≤ 2 * M * 2 ^ j := Nat.mul_le_mul_left _ (Nat.le_self_pow hj.ne' 2)
      exact iff_of_false (by omega) (by omega)

/-- A rounded number exceeds the format exactly if its bits reach those of infinity. -/
theorem Fmt.infBits_le_iff (wide : 0 < f.ew) (small : n ≤ 2 ^ (f.mw + 1)) (normal : 0 < k → 2 ^ f.mw ≤ n) :
    f.infBits ≤ k * 2 ^ f.mw + n ↔ (2 : ℝ) ^ (2 ^ (f.ew - 1) : Nat) ≤ n * 2 ^ (f.minExp + k) := by
  obtain ⟨K, hK⟩ : ∃ K, 2 ^ f.ew = K + 2 := ⟨2 ^ f.ew - 2, by have := Nat.le_self_pow wide.ne' 2; omega⟩
  have half : 2 ^ f.ew = 2 * 2 ^ (f.ew - 1) := by rw [← pow_succ', Nat.sub_add_cancel wide]
  have limit : (2 : ℝ) ^ (2 ^ (f.ew - 1) : Nat) = (2 ^ f.mw * 2 ^ K : Nat) * 2 ^ f.minExp := by
    rw [← pow_add, Nat.cast_pow, Nat.cast_ofNat, ← zpow_natCast, ← zpow_natCast, ← zpow_add₀ two_ne_zero]
    congr 1
    unfold Fmt.minExp
    push_cast
    have : (K : Int) + 2 = 2 * 2 ^ (f.ew - 1) := mod_cast hK.symm.trans half
    omega
  have scaled : (n * 2 ^ (f.minExp + k) : ℝ) = (n * 2 ^ k : Nat) * 2 ^ f.minExp := by
    rw [zpow_add₀ two_ne_zero, zpow_natCast]
    push_cast
    ring
  have infBits : f.infBits = (K + 1) * 2 ^ f.mw := congrArg (fun e => (e - 1) * 2 ^ f.mw) hK
  rw [infBits, exponent_and_significand_le_iff (by positivity) (by rwa [pow_succ'] at small) normal, limit, scaled,
    mul_le_mul_iff_of_pos_right (by positivity), Nat.cast_le]

theorem Fmt.infBits_lt (f : Fmt) : f.infBits < 2 ^ (f.ew + f.mw) := by
  unfold Fmt.infBits
  rw [pow_add]
  exact Nat.mul_lt_mul_of_pos_right (Nat.sub_lt (by positivity) Nat.one_pos) (by positivity)

theorem Fmt.signBits_add_lt (f : Fmt) (neg : Bool) {m : Nat} (h : m < 2 ^ (f.ew + f.mw)) : f.signBits neg + m < 2 ^ f.width := by
  have double : 2 ^ f.width = 2 ^ (f.ew + f.mw) * 2 := pow_succ 2 _
  unfold Fmt.signBits
  split <;> omega

end

end Sys2Proof.Machine

namespace Sys2Proof.Machine

/-! ### Overflow and flags (43_rv64f:R462) -/

section
variable {f : Fmt} {r : Rounding} {neg : Bool}

theorem Fmt.overflow_toInfinity (h : ToInfinity r (neg = true)) : f.overflow r neg = f.signBits neg + f.infBits := by
  rcases h with rfl | rfl | ⟨rfl, rfl⟩ | ⟨rfl, minus⟩
  · rfl
  · rfl
  · rfl
  · rw [Bool.not_eq_true] at minus
    subst minus
    rfl

theorem Fmt.overflow_toMax (h : ¬ ToInfinity r (neg = true)) : f.overflow r neg = f.signBits neg + f.maxBits := by
  cases r with
  | rne => exact absurd (.inl rfl) h
  | rmm => exact absurd (.inr (.inl rfl)) h
  | rtz => rfl
  | rdn =>
    cases neg with
    | true => exact absurd (.inr (.inr (.inl ⟨rfl, rfl⟩))) h
    | false => rfl
  | rup =>
    cases neg with
    | true => rfl
    | false => exact absurd (.inr (.inr (.inr ⟨rfl, Bool.false_ne_true⟩))) h

theorem flags_of_rounding (tiny inexact : Bool) : let fl := flagIf (tiny && inexact) flagUF ||| flagIf inexact flagNX
    fl.getLsbD 0 = inexact ∧ fl.getLsbD 1 = (tiny && inexact) ∧ fl &&& 0b11100 = 0 := by
  cases tiny <;> cases inexact <;> decide

end

/-! ### One rounding (43_rv64f:R461, R462, R498) -/

/-- The exponent of the last bit that the format keeps of a value, were there no smallest exponent. -/
def Fmt.lastBit (f : Fmt) (v : Exact) : Int := v.e + bitLength v.m - (f.mw + 1)

/-- The result rounded with no smallest exponent is below the normal numbers. -/
def Fmt.tiny (f : Fmt) (r : Rounding) (v : Exact) : Bool :=
  decide (f.lastBit v < f.minExp) &&
    !((roundTo r v (f.lastBit v)).1 == 2 ^ (f.mw + 1) && f.lastBit v + 1 == f.minExp)

/-- The magnitude bits of a rounded value, before they are compared with the largest number. -/
def Fmt.roundedBits (f : Fmt) (r : Rounding) (v : Exact) : Nat :=
  (max (f.lastBit v) f.minExp - f.minExp).toNat * 2 ^ f.mw + (roundTo r v (max (f.lastBit v) f.minExp)).1

theorem Fmt.round_eq (f : Fmt) (r : Rounding) (v : Exact) :
    f.round r v =
      if f.infBits ≤ f.roundedBits r v then ⟨some (f.overflow r v.neg), flagOF ||| flagNX⟩
      else ⟨some (f.signBits v.neg + f.roundedBits r v),
        flagIf (f.tiny r v && (roundTo r v (max (f.lastBit v) f.minExp)).2) flagUF |||
          flagIf (roundTo r v (max (f.lastBit v) f.minExp)).2 flagNX⟩ := rfl

section
variable {f : Fmt} {r : Rounding} {v : Exact} {x : ℝ} (fraction : 0 < f.mw) (stands : v.Stands (f.mw + 1) x)
include stands

theorem Fmt.leading_lastBit : (2 : ℝ) ^ (f.mw + f.lastBit v) ≤ |x| := by
  have := stands.leading
  rwa [show v.e + (bitLength v.m : Int) - 1 = f.mw + f.lastBit v by unfold Fmt.lastBit; omega] at this

theorem Fmt.le_roundTo_lastBit {q : Int} (le : q ≤ f.lastBit v) {g even : ℝ → Prop} {neg : Bool} {out : Nat × Bool}
    (rounded : RoundedAt r (f.mw + 1) q x g even neg out) : 2 ^ f.mw ≤ out.1 := by
  refine rounded.lower _ (le_trans ?_ (Fmt.leading_lastBit stands))
  rw [Nat.cast_pow, Nat.cast_ofNat, ← zpow_natCast, ← zpow_add₀ two_ne_zero]
  exact zpow_le_zpow_right₀ one_le_two (by omega)

include fraction

/-- The value rounded to the format's precision, with no largest number. -/
theorem Fmt.roundedAt_max :
    RoundedAt r (f.mw + 1) (max (f.lastBit v) f.minExp) x (OnGrid (f.mw + 1) fun e => f.minExp ≤ e)
      (OnGrid f.mw fun e => f.minExp + 1 ≤ e) v.neg (roundTo r v (max (f.lastBit v) f.minExp)) := by
  refine stands.roundedAt (gridAt_onGrid fraction (fun e he => by omega) (fun e he => by omega) fun e admitted fine => ?_) ?_
  · rw [max_eq_left (by omega : f.minExp ≤ f.lastBit v)]
    exact Fmt.leading_lastBit stands
  · have : f.lastBit v ≤ max (f.lastBit v) f.minExp := le_max_left _ _
    unfold Fmt.lastBit at this ⊢
    push_cast
    omega

/-- The value rounded with no smallest exponent either. -/
theorem Fmt.roundedAt_lastBit :
    RoundedAt r (f.mw + 1) (f.lastBit v) x (OnGrid (f.mw + 1) fun _ => True) (OnGrid f.mw fun _ => True) v.neg
      (roundTo r v (f.lastBit v)) := by
  refine stands.roundedAt (gridAt_onGrid fraction (fun _ _ => trivial) (fun _ _ => trivial) fun _ _ _ =>
    Fmt.leading_lastBit stands) ?_
  unfold Fmt.lastBit
  push_cast
  omega

/-- Tininess is a property of the value rounded with no smallest exponent. -/
theorem Fmt.tiny_iff :
    f.tiny r v = true ↔
      |sgn v.neg * ((roundTo r v (f.lastBit v)).1 * (2 : ℝ) ^ f.lastBit v)| < (2 : ℝ) ^ (f.minExp + f.mw) := by
  have rounded := Fmt.roundedAt_lastBit (r := r) fraction stands
  have low : 2 ^ f.mw ≤ (roundTo r v (f.lastBit v)).1 := Fmt.le_roundTo_lastBit stands le_rfl rounded
  have high := rounded.upper
  rw [abs_sgn_mul, abs_of_nonneg (by positivity)]
  unfold Fmt.tiny
  generalize (roundTo r v (f.lastBit v)).1 = n at low high
  have scaled : ∀ k : Nat, (2 : ℝ) ^ (f.lastBit v + k) = (2 ^ k : Nat) * 2 ^ f.lastBit v := fun k => by
    rw [zpow_add₀ two_ne_zero, zpow_natCast, mul_comm]
    push_cast
    rfl
  rcases lt_or_ge (f.lastBit v) f.minExp with below | normal
  · rcases (Int.add_one_le_of_lt below).lt_or_eq with far | last
    · refine iff_of_true (by simp [below, far.ne]) ?_
      calc (n * 2 ^ f.lastBit v : ℝ) ≤ (2 ^ (f.mw + 1) : Nat) * 2 ^ f.lastBit v :=
            mul_le_mul_of_nonneg_right (mod_cast high) (by positivity)
        _ = 2 ^ (f.lastBit v + (f.mw + 1 : Nat)) := (scaled _).symm
        _ < 2 ^ (f.minExp + f.mw) := zpow_lt_zpow_right₀ one_lt_two (by push_cast; omega)
    · rw [show f.minExp + (f.mw : Int) = f.lastBit v + (f.mw + 1 : Nat) by push_cast; omega, scaled,
        mul_lt_mul_iff_of_pos_right (by positivity), Nat.cast_lt]
      simp [below, last, high.lt_iff_ne]
  · refine iff_of_false (by simp [normal.not_gt]) (not_lt.2 ?_)
    calc (2 : ℝ) ^ (f.minExp + f.mw) ≤ 2 ^ (f.lastBit v + f.mw) := zpow_le_zpow_right₀ one_le_two (by omega)
      _ = (2 ^ f.mw : Nat) * 2 ^ f.lastBit v := scaled _
      _ ≤ n * 2 ^ f.lastBit v := mul_le_mul_of_nonneg_right (mod_cast low) (by positivity)

variable (wide : 0 < f.ew)
include wide

/-- A value is rounded once. -/
theorem Fmt.round_roundsTo (zeroNeg : Bool) : RoundsTo f r x zeroNeg (f.round r v) := by
  refine ⟨fun zero => absurd zero stands.ne_zero, fun _ => ?_⟩
  have rounded := Fmt.roundedAt_max (r := r) fraction stands
  have roundedU := Fmt.roundedAt_lastBit (r := r) fraction stands
  have tiny := Fmt.tiny_iff (r := r) fraction stands
  refine ⟨_, _, rounded.rounds, roundedU.rounds, ?_⟩
  obtain ⟨k, hk⟩ := Int.eq_ofNat_of_zero_le (Int.sub_nonneg_of_le (le_max_right (f.lastBit v) f.minExp))
  have bits : f.roundedBits r v = k * 2 ^ f.mw + (roundTo r v (max (f.lastBit v) f.minExp)).1 := by
    rw [Fmt.roundedBits, hk, Int.toNat_natCast]
  have exponent : max (f.lastBit v) f.minExp = f.minExp + k := by omega
  have normal : 0 < k → 2 ^ f.mw ≤ (roundTo r v (max (f.lastBit v) f.minExp)).1 := fun pos =>
    Fmt.le_roundTo_lastBit stands (by omega) rounded
  have exceeds := Fmt.infBits_le_iff wide rounded.upper normal
  rw [← bits, ← exponent] at exceeds
  have inexact := rounded.inexact
  have sign := stands.sign
  have upper := rounded.upper
  rw [abs_sgn_mul, abs_of_nonneg (by positivity), ← exceeds, Fmt.round_eq]
  refine ⟨fun exceeded => ?_, fun finite => ?_⟩
  · rw [if_pos exceeded]
    have same : ∀ neg : Bool, (neg = true ↔ x < 0) → neg = v.neg := fun neg h => Bool.eq_iff_iff.2 (h.trans sign.symm)
    refine ⟨rfl, fun toInf neg h => ?_, fun toMax neg h => ?_⟩
    · rw [same neg h, Fmt.overflow_toInfinity (by rwa [sign])]
    · rw [same neg h, Fmt.overflow_toMax (by rwa [sign]), Nat.add_sub_assoc (Fmt.infBits_pos wide)]
      rfl
  · have below : f.roundedBits r v < f.infBits := not_le.1 (mt exceeds.1 finite.not_ge)
    have small : f.roundedBits r v < 2 ^ (f.ew + f.mw) := below.trans f.infBits_lt
    have mag := f.mag_signBits_add v.neg small
    have neg := f.neg_signBits_add v.neg small
    obtain ⟨nan, inf⟩ := Fmt.finite_iff.2 (mag.trans_lt below)
    obtain ⟨flagNX, flagUF, others⟩ :=
      flags_of_rounding (f.tiny r v) (roundTo r v (max (f.lastBit v) f.minExp)).2
    rw [if_neg below.not_ge]
    refine ⟨⟨_, rfl, f.signBits_add_lt v.neg small, nan, inf, ?_, by rw [neg, sign]⟩, ?_, ?_, others⟩
    · rw [Fmt.value, neg, mul_assoc, Fmt.sig_mul_exp (mag.trans bits) upper normal, exponent]
      rfl
    · rw [flagNX, inexact]
    · rw [flagUF, Bool.and_eq_true, tiny, inexact, and_comm]

end

end Sys2Proof.Machine

namespace Sys2Proof.Machine

/-! ### Exact results (43_rv64f:R466, R470, R481, R485) -/

theorem sgn_mul_neg_iff (neg : Bool) {a : ℝ} (pos : 0 < a) : neg = true ↔ sgn neg * a < 0 := by
  cases neg with
  | true => exact iff_of_true rfl (by simpa using pos)
  | false => exact iff_of_false Bool.false_ne_true (by simpa using pos.le)

theorem sgn_bne (p q : Bool) : sgn (p != q) = sgn p * sgn q := by
  cases p <;> cases q <;> simp

theorem Exact.stands {v : Exact} (pos : 0 < v.m) (p : Nat) : v.Stands p v.value := by
  have size : (0 : ℝ) < v.m * 2 ^ v.e := mul_pos (mod_cast pos) (by positivity)
  exact ⟨sgn_mul_neg_iff v.neg size, pos, .inl (by rw [Exact.value, abs_sgn_mul, abs_of_pos size])⟩

theorem RoundsTo.of_zero (f : Fmt) (r : Rounding) (zeroNeg : Bool) : RoundsTo f r 0 zeroNeg (.of (f.signBits zeroNeg)) :=
  ⟨fun _ => rfl, fun ne => absurd rfl ne⟩

section
variable {f : Fmt} {r : Rounding} (fraction : 0 < f.mw) (wide : 0 < f.ew)
include fraction wide

theorem Fmt.roundOrZero_roundsTo (v : Exact) (zeroNeg : Bool) : RoundsTo f r v.value zeroNeg (f.roundOrZero r v zeroNeg) := by
  unfold Fmt.roundOrZero
  split
  · next zero =>
    rw [show v.value = 0 by rw [Exact.value, zero, Nat.cast_zero, zero_mul, mul_zero]]
    exact RoundsTo.of_zero f r zeroNeg
  · next ne => exact Fmt.round_roundsTo fraction (Exact.stands (Nat.pos_of_ne_zero ne) _) wide zeroNeg

end

theorem Fmt.exact_value (f : Fmt) (b : Nat) : (f.exact b).value = f.value b := (mul_assoc _ _ _).symm

theorem Exact.scaled_mul {v : Exact} {e : Int} (le : e ≤ v.e) : (v.scaled e : ℝ) * 2 ^ e = v.value := by
  obtain ⟨k, hk⟩ := Int.eq_ofNat_of_zero_le (Int.sub_nonneg_of_le le)
  rw [Exact.value, show v.e = k + e by omega, zpow_add₀ two_ne_zero, zpow_natCast, Exact.scaled, hk, Int.toNat_natCast]
  cases v.neg with
  | true =>
    simp only [if_true, sgn_true]
    push_cast
    ring
  | false =>
    simp only [Bool.false_eq_true, if_false, sgn_false]
    push_cast
    ring

/-- An integer multiple of a power of two as an exact value. -/
theorem Exact.value_of_int (s e : Int) : Exact.value ⟨decide (s < 0), s.natAbs, e⟩ = s * 2 ^ e := by
  have size : ((s.natAbs : Nat) : ℝ) = |(s : ℝ)| := by rw [Nat.cast_natAbs, Int.cast_abs]
  rw [Exact.value, size, ← mul_assoc, sgn_mul_abs _ (by rw [decide_eq_true_iff, Int.cast_lt_zero])]

theorem Exact.value_mul (a b : Exact) : (a.mul b).value = a.value * b.value := by
  simp only [Exact.value, Exact.mul, sgn_bne, zpow_add₀ (two_ne_zero' ℝ)]
  push_cast
  ring

theorem Fmt.value_flip (f : Fmt) (n : Bool) (b : Nat) : f.value (f.flip n b) = sgn n * f.value b := by
  have sig : f.sig (f.flip n b) = f.sig b := by simp only [Fmt.sig, f.mag_flip]
  have exp : f.exp (f.flip n b) = f.exp b := by simp only [Fmt.exp, f.mag_flip]
  rw [← f.exact_value, ← f.exact_value]
  simp only [Exact.value, Fmt.exact, sig, exp, f.neg_flip, sgn_bne]
  ring

/-- The sign of an exact zero that is a sum: the common one, or minus only when rounding down (43_rv64f:R494). -/
def zeroSign (r : Rounding) (p q : Bool) : Bool := if p = q then p else r == .rdn

section
variable {f : Fmt} {r : Rounding} {a b c : Nat} (fraction : 0 < f.mw) (wide : 0 < f.ew)
include fraction wide

theorem Fmt.sum_roundsTo (v w : Exact) : RoundsTo f r (v.value + w.value) (zeroSign r v.neg w.neg) (f.sum r v w) := by
  have value : Exact.value ⟨decide (v.scaled (min v.e w.e) + w.scaled (min v.e w.e) < 0),
      (v.scaled (min v.e w.e) + w.scaled (min v.e w.e)).natAbs, min v.e w.e⟩ = v.value + w.value := by
    rw [Exact.value_of_int, Int.cast_add, add_mul, Exact.scaled_mul (min_le_left _ _), Exact.scaled_mul (min_le_right _ _)]
  have sign : (if v.neg == w.neg then v.neg else r == .rdn) = zeroSign r v.neg w.neg := if_congr beq_iff_eq rfl rfl
  unfold Fmt.sum
  rw [sign, ← value]
  exact Fmt.roundOrZero_roundsTo fraction wide _ _

theorem Fmt.ofInt_roundsTo (v : Int) : RoundsTo f r v false (f.ofInt r v) := by
  have value := Exact.value_of_int v 0
  rw [zpow_zero, mul_one] at value
  rw [← value]
  exact Fmt.roundOrZero_roundsTo fraction wide _ _

theorem Fmt.convert_roundsTo (src : Fmt) (nan : src.isNan a = false) (inf : src.isInf a = false) (snanNv : Bool) :
    RoundsTo f r (src.value a) (src.neg a) (Fmt.convert src f r snanNv a) := by
  unfold Fmt.convert
  rw [nan, inf, ← src.exact_value]
  exact Fmt.roundOrZero_roundsTo fraction wide _ _

variable (nanA : f.isNan a = false) (infA : f.isInf a = false) (nanB : f.isNan b = false) (infB : f.isInf b = false)
include nanA infA nanB infB

theorem Fmt.add_roundsTo : RoundsTo f r (f.value a + f.value b) (zeroSign r (f.neg a) (f.neg b)) (f.add r a b) := by
  unfold Fmt.add
  rw [nanA, nanB, infA, infB, ← f.exact_value, ← f.exact_value]
  exact Fmt.sum_roundsTo fraction wide _ _

theorem Fmt.sub_roundsTo : RoundsTo f r (f.value a - f.value b) (zeroSign r (f.neg a) (!f.neg b)) (f.sub r a b) := by
  have sum := Fmt.add_roundsTo (r := r) (b := f.flip true b) fraction wide nanA infA (by rwa [f.isNan_flip])
    (by rwa [f.isInf_flip])
  rw [f.value_flip, f.neg_flip, sgn_true, neg_one_mul, ← sub_eq_add_neg, Bool.bne_true] at sum
  rwa [Fmt.sub_eq_add_flip nanB]

theorem Fmt.mul_roundsTo : RoundsTo f r (f.value a * f.value b) (f.neg a != f.neg b) (f.mul r a b) := by
  unfold Fmt.mul
  rw [nanA, nanB, infA, infB, ← f.exact_value, ← f.exact_value, ← Exact.value_mul]
  exact Fmt.roundOrZero_roundsTo fraction wide _ _

theorem Fmt.fma_roundsTo (nanC : f.isNan c = false) (infC : f.isInf c = false) (negProd negAdd : Bool) :
    RoundsTo f r (sgn negProd * (f.value a * f.value b) + sgn negAdd * f.value c)
      (zeroSign r ((f.neg a != f.neg b) != negProd) (f.neg c != negAdd)) (f.fma r negProd negAdd a b c) := by
  have product : Exact.value { (f.exact a).mul (f.exact b) with neg := (f.neg a != f.neg b) != negProd } =
      sgn negProd * (f.value a * f.value b) := by
    rw [← f.exact_value, ← f.exact_value, ← Exact.value_mul]
    simp only [Exact.value, sgn_bne, Exact.mul, Fmt.exact]
    ring
  have finite : f.fma r negProd negAdd a b c =
      f.sum r { (f.exact a).mul (f.exact b) with neg := (f.neg a != f.neg b) != negProd } (f.exact (f.flip negAdd c)) := by
    simp [Fmt.fma, nanA, nanB, nanC, infA, infB, infC]
  rw [finite, ← product, ← f.value_flip, ← f.exact_value, ← f.neg_flip negAdd c]
  exact Fmt.sum_roundsTo fraction wide _ _

end

end Sys2Proof.Machine

namespace Sys2Proof.Machine

/-! ### Quotients and roots (43_rv64f:R476, R493) -/

/-- A number cut to an integer, with a last bit that says whether anything was cut, stands for it. -/
theorem stands_sticky {neg inexact : Bool} {q p : Nat} {e : Int} {t x : ℝ} (sign : neg = true ↔ x < 0) (long : 2 ^ p ≤ q)
    (size : |x| = t * 2 ^ (e + 1)) (floor : (q : ℝ) ≤ t ∧ t < q + 1) (cut : inexact = true ↔ t ≠ q) :
    Exact.Stands ⟨neg, sticky q inexact, e⟩ p x := by
  have unit : (0 : ℝ) < 2 ^ e := by positivity
  have scaled : |x| = 2 * t * 2 ^ e := by rw [size, zpow_add_one₀ two_ne_zero]; ring
  have pos : 0 < q := lt_of_lt_of_le (by positivity) long
  cases inexact with
  | false =>
    have same : t = q := not_not.1 fun ne => Bool.false_ne_true (cut.2 ne)
    refine ⟨sign, by simpa [sticky] using pos, .inl ?_⟩
    rw [scaled, same]
    simp [sticky]
  | true =>
    have above : (q : ℝ) < t := floor.1.lt_of_ne (cut.1 rfl).symm
    have mantissa : ((sticky q true : Nat) : ℝ) = 2 * q + 1 := by simp [sticky]
    refine ⟨sign, Nat.succ_pos _, .inr ⟨by simp [sticky], by simp only [sticky, pow_succ]; omega, ?_, ?_⟩⟩
    · rw [scaled, mantissa]
      exact mul_lt_mul_of_pos_right (by linarith) unit
    · rw [scaled, mantissa]
      exact mul_lt_mul_of_pos_right (by linarith [floor.2]) unit

/-- The bits from `i - 1` down complete a root known to lie below `root + 2 ^ i`. -/
theorem isqrtFrom_spec (n i root : Nat) (low : root * root ≤ n) (high : n < (root + 2 ^ i) * (root + 2 ^ i)) :
    isqrtFrom n i root * isqrtFrom n i root ≤ n ∧ n < (isqrtFrom n i root + 1) * (isqrtFrom n i root + 1) := by
  induction i generalizing root with
  | zero => exact ⟨low, high⟩
  | succ i ih =>
    unfold isqrtFrom
    split
    · next fits =>
      refine ih _ fits ?_
      rwa [Nat.add_assoc, ← Nat.two_mul, ← pow_succ']
    · next large => exact ih _ low (not_le.1 large)

theorem isqrt_eq_sqrt (n : Nat) : isqrt n = Nat.sqrt n := by
  have long : n < 2 ^ bitLength n := bitLength_le_iff.1 le_rfl
  obtain ⟨low, high⟩ := isqrtFrom_spec n (bitLength n) 0 (Nat.zero_le n) (by
    rw [Nat.zero_add]
    exact long.trans_le (Nat.le_mul_of_pos_left _ (by positivity)))
  exact Nat.eq_sqrt.2 ⟨low, high⟩

section
variable {f : Fmt} {r : Rounding} {a b : Nat}

theorem Fmt.sig_pos (h : f.isZero a = false) : 0 < f.sig a :=
  Nat.pos_of_ne_zero fun zero => Bool.false_ne_true (h.symm.trans (Fmt.sig_eq_zero_iff.1 zero))

theorem Fmt.value_of_isZero (h : f.isZero a = true) : f.value a = 0 := by
  rw [Fmt.value, Fmt.sig_eq_zero_iff.2 h, Nat.cast_zero, mul_zero, zero_mul]

theorem Fmt.abs_value (f : Fmt) (a : Nat) : |f.value a| = f.sig a * 2 ^ f.exp a := by
  rw [← f.exact_value, Exact.value, abs_sgn_mul, abs_of_nonneg (by positivity)]
  rfl

/-- A quotient cut to enough bits stands for the quotient. -/
theorem Fmt.div_stands (zeroA : f.isZero a = false) (zeroB : f.isZero b = false) :
    let k := 2 * f.mw + 4
    let m := f.sig a * 2 ^ k
    Exact.Stands ⟨f.neg a != f.neg b, sticky (m / f.sig b) (m % f.sig b != 0), f.exp a - f.exp b - k - 1⟩ (f.mw + 1)
      (f.value a / f.value b) := by
  intro k m
  have posA := Fmt.sig_pos zeroA
  have posB := Fmt.sig_pos zeroB
  have posBR : (0 : ℝ) < f.sig b := mod_cast posB
  have parts : ((m / f.sig b : Nat) * f.sig b + (m % f.sig b : Nat) : ℝ) = m := mod_cast Nat.div_add_mod' m (f.sig b)
  have rest : ((m % f.sig b : Nat) : ℝ) < f.sig b := mod_cast Nat.mod_lt m posB
  have restNonneg : (0 : ℝ) ≤ (m % f.sig b : Nat) := Nat.cast_nonneg _
  refine stands_sticky (t := m / f.sig b) ?_ ?_ ?_ ⟨?_, ?_⟩ ?_
  · have quotient : f.value a / f.value b =
        sgn (f.neg a != f.neg b) * ((f.sig a * 2 ^ f.exp a) / (f.sig b * 2 ^ f.exp b)) := by
      rw [← f.exact_value, ← f.exact_value, sgn_bne]
      simp only [Exact.value, Fmt.exact]
      cases f.neg a <;> cases f.neg b <;> simp [neg_div, div_neg]
    rw [quotient]
    exact sgn_mul_neg_iff _ (by have : (0 : ℝ) < f.sig a := mod_cast posA; positivity)
  · refine (Nat.le_div_iff_mul_le posB).2 ?_
    calc 2 ^ (f.mw + 1) * f.sig b ≤ 2 ^ (f.mw + 1) * 2 ^ (f.mw + 1) := Nat.mul_le_mul_left _ (f.sig_lt b).le
      _ = 2 ^ (2 * f.mw + 2) := by rw [← pow_add]; congr 1; omega
      _ ≤ 2 ^ k := Nat.pow_le_pow_right (by decide) (by omega)
      _ ≤ m := Nat.le_mul_of_pos_left _ posA
  · have shift : (2 : ℝ) ^ f.exp a = 2 ^ (f.exp a - f.exp b - k - 1 + 1) * 2 ^ k * 2 ^ f.exp b := by
      rw [← zpow_natCast, ← zpow_add₀ two_ne_zero, ← zpow_add₀ two_ne_zero]
      congr 1
      omega
    rw [abs_div, f.abs_value, f.abs_value, shift, show (m : ℝ) = f.sig a * 2 ^ k by simp only [m]; push_cast; rfl]
    field_simp
  · rw [le_div_iff₀ posBR]
    linarith
  · rw [div_lt_iff₀ posBR]
    linarith
  · rw [bne_iff_ne, ne_eq, ne_eq, div_eq_iff posBR.ne', ← parts, add_eq_left, Nat.cast_eq_zero]

/-- A root cut to enough bits stands for the root. -/
theorem Fmt.sqrt_stands (zero : f.isZero a = false) (plus : f.neg a = false) :
    let odd := (f.exp a % 2).toNat
    let k := f.mw + 3
    let n := f.sig a * 2 ^ (odd + 2 * k)
    Exact.Stands ⟨false, sticky (isqrt n) (isqrt n * isqrt n != n), (f.exp a - odd) / 2 - k - 1⟩ (f.mw + 1)
      (Real.sqrt (f.value a)) := by
  intro odd k n
  rw [isqrt_eq_sqrt]
  have pos := Fmt.sig_pos zero
  have value : f.value a = n * (2 ^ ((f.exp a - odd) / 2 - k - 1 + 1)) ^ 2 := by
    have shift : f.exp a = (odd + 2 * k : Nat) + ((f.exp a - odd) / 2 - k - 1 + 1) * 2 := by omega
    rw [← f.exact_value, Exact.value, show (f.exact a).neg = false from plus, sgn_false, one_mul]
    show (f.sig a : ℝ) * 2 ^ f.exp a = _
    conv_lhs => rw [shift]
    rw [zpow_add₀ two_ne_zero, zpow_natCast, zpow_mul, ← mul_assoc]
    simp only [n]
    push_cast
    norm_cast
  have root : Real.sqrt (f.value a) = Real.sqrt n * 2 ^ ((f.exp a - odd) / 2 - k - 1 + 1) := by
    rw [value, Real.sqrt_mul (Nat.cast_nonneg n), Real.sqrt_sq (by positivity)]
  refine stands_sticky (t := Real.sqrt n) ?_ ?_ ?_ ⟨Real.nat_sqrt_le_real_sqrt, Real.real_sqrt_lt_nat_sqrt_succ⟩ ?_
  · exact iff_of_false Bool.false_ne_true (Real.sqrt_nonneg _).not_gt
  · refine Nat.le_sqrt.2 ?_
    calc 2 ^ (f.mw + 1) * 2 ^ (f.mw + 1) = 2 ^ (2 * f.mw + 2) := by rw [← pow_add]; congr 1; omega
      _ ≤ 2 ^ (odd + 2 * k) := Nat.pow_le_pow_right (by decide) (by omega)
      _ ≤ n := Nat.le_mul_of_pos_left _ pos
  · rw [abs_of_nonneg (Real.sqrt_nonneg _), root]
  · rw [bne_iff_ne, ne_eq, ne_eq, not_iff_not, Real.sqrt_eq_iff_mul_self_eq (Nat.cast_nonneg _) (Nat.cast_nonneg _)]
    exact_mod_cast eq_comm

variable (fraction : 0 < f.mw) (wide : 0 < f.ew)
include fraction wide

theorem Fmt.div_roundsTo (nanA : f.isNan a = false) (infA : f.isInf a = false) (nanB : f.isNan b = false)
    (infB : f.isInf b = false) (zeroB : f.isZero b = false) :
    RoundsTo f r (f.value a / f.value b) (f.neg a != f.neg b) (f.div r a b) := by
  unfold Fmt.div
  rw [nanA, nanB, infA, infB, zeroB]
  cases zeroA : f.isZero a with
  | true =>
    rw [Fmt.value_of_isZero zeroA, zero_div]
    exact RoundsTo.of_zero f r _
  | false => exact Fmt.round_roundsTo fraction (Fmt.div_stands zeroA zeroB) wide _

theorem Fmt.sqrt_roundsTo (nan : f.isNan a = false) (inf : f.isInf a = false) (zero : f.isZero a = false)
    (plus : f.neg a = false) : RoundsTo f r (Real.sqrt (f.value a)) false (f.sqrt r a) := by
  unfold Fmt.sqrt
  rw [nan, inf, zero, plus]
  exact Fmt.round_roundsTo fraction (Fmt.sqrt_stands zero plus) wide _

end

theorem Fmt.sqrt_zero {f : Fmt} {r : Rounding} {a : Nat} (zero : f.isZero a = true) : f.sqrt r a = ⟨some a, 0⟩ := by
  simp [Fmt.sqrt, Fmt.isNan_of_isZero zero, zero, FpOut.of]

/-- Settles O57: each operation rounds, once, an exact value that is the real result or stands for it. -/
theorem floatFinite : Obligations.FloatFinite := by
  unfold Obligations.FloatFinite
  intro f r a b c standard _ _ _ nanA infA nanB infB nanC infC
  obtain ⟨fraction, wide⟩ := Fmt.fields_pos standard
  refine ⟨Fmt.add_roundsTo fraction wide nanA infA nanB infB, Fmt.sub_roundsTo fraction wide nanA infA nanB infB,
    Fmt.mul_roundsTo fraction wide nanA infA nanB infB, Fmt.div_roundsTo fraction wide nanA infA nanB infB, Fmt.sqrt_zero,
    Fmt.sqrt_roundsTo fraction wide nanA infA, Fmt.fma_roundsTo fraction wide nanA infA nanB infB nanC infC,
    Fmt.ofInt_roundsTo fraction wide, fun g standardG snanNv => ?_⟩
  obtain ⟨fractionG, wideG⟩ := Fmt.fields_pos standardG
  exact Fmt.convert_roundsTo fractionG wideG f nanA infA snanNv

end Sys2Proof.Machine

namespace Sys2Proof.Machine

/-! ### Conversions between the formats -/

/-- Settles O30, by the format of the codes and the shape that rounds into a floating-point register. -/
theorem formatConversions : Obligations.FormatConversions := by
  unfold Obligations.FormatConversions
  intro s fd fs1 rm
  have code (f12 : BitVec 12) := congrArg Code.full (word32_iType f12 fs1 rm fd 0x53)
  have single (f12 : BitVec 12) := s.roundedF_rule (code f12) (f := .single) (.inr (.inl ⟨rfl, rfl⟩)) fd rm
  have double (f12 : BitVec 12) := s.roundedF_rule (code f12) (f := .double) (.inr (.inr ⟨rfl, rfl⟩)) fd rm
  have half (f12 : BitVec 12) := s.roundedF_rule (code f12) (f := .half) (.inl ⟨rfl, rfl⟩) fd rm
  exact ⟨⟨code 0x401, single 0x401 _⟩, ⟨code 0x420, double 0x420 _⟩, ⟨code 0x440, half 0x440 _⟩,
    ⟨code 0x402, single 0x402 _⟩, ⟨code 0x441, half 0x441 _⟩, ⟨code 0x422, double 0x422 _⟩⟩

end Sys2Proof.Machine

namespace Sys2Proof

/-! ### The codes of compressed word accesses and of T-Head instructions (30_encoding:R285, R286) -/

theorem word16_clWord (f3 : BitVec 3) (u : BitVec 5) (rs1 rd : Reg') (q : BitVec 2) :
    word16 f3.toNat (u.toNat / 8 % 2) (u.toNat / 2 % 4 * 8 + rs1.toNat) (u.toNat % 2 * 16 + u.toNat / 16 * 8 + rd.toNat) q.toNat =
      f3 ++ u.extractLsb' 1 3 ++ rs1 ++ u.extractLsb' 0 1 ++ u.extractLsb' 4 1 ++ rd ++ q :=
  word16_eq (by
    have middle : u.toNat / 2 % 8 = u.toNat / 8 % 2 * 4 + u.toNat / 2 % 4 := by omega
    simp only [append_toNat, extract_high_toNat u 4 1 rfl, extract_toNat, Nat.reducePow, Nat.div_one, middle]
    ring)

theorem word16_clwsp (f3 : BitVec 3) (rd : Reg) (u : BitVec 6) (q : BitVec 2) :
    word16 f3.toNat (u.toNat / 8 % 2) rd.toNat (u.toNat % 8 * 4 + u.toNat / 16) q.toNat =
      f3 ++ u.extractLsb' 3 1 ++ rd ++ u.extractLsb' 0 3 ++ u.extractLsb' 4 2 ++ q :=
  word16_eq (by
    simp only [append_toNat, extract_high_toNat u 4 2 rfl, extract_toNat, Nat.reducePow, Nat.div_one]
    ring)

theorem word16_cswsp (f3 : BitVec 3) (u : BitVec 6) (rs2 : Reg) (q : BitVec 2) :
    word16 f3.toNat (u.toNat / 8 % 2) (u.toNat % 8 * 4 + u.toNat / 16) rs2.toNat q.toNat =
      f3 ++ u.extractLsb' 0 4 ++ u.extractLsb' 4 2 ++ rs2 ++ q :=
  word16_eq (by
    have low : u.toNat % 16 = u.toNat / 8 % 2 * 8 + u.toNat % 8 := by omega
    simp only [append_toNat, extract_high_toNat u 4 2 rfl, extract_toNat, Nat.reducePow, Nat.div_one, low]
    ring)

/-- The T-Head format with a two-bit shift below its function code. -/
theorem word32_thead (f5 : BitVec 5) (imm2 : BitVec 2) (b a : BitVec 5) (f3 : BitVec 3) (d : BitVec 5) (op : BitVec 7) :
    word32 (f5.toNat * 4 + imm2.toNat) b.toNat a.toNat f3.toNat d.toNat op.toNat =
      f5 ++ imm2 ++ b ++ a ++ f3 ++ d ++ op :=
  word32_eq (by simp only [append_toNat]; omega)

end Sys2Proof

namespace Sys2Proof.Machine

/-! ### Compressed integer loads and stores (45_rv64c) -/

/-- A load of a whole register, whatever the length of its instruction. -/
theorem State.loadX_double_rule (s : State) (len : Nat) (rd : Reg) (va : Word) :
    LoadRule s (s.loadX len true 8 rd va) (s.me.pc + BitVec.ofNat 64 len) va 8 fun v => [(rd, BitVec.ofNat 64 v)] :=
  (s.loadX_rule len true rfl rd va).congr fun v _ => congrArg (fun w => [(rd, w)]) (BitVec.signExtend_eq (BitVec.ofNat 64 v))

/-- Settles O18, by the formats of the codes and the rules of loads and stores of any size. -/
theorem compressedMemory : Obligations.CompressedMemory := by
  unfold Obligations.CompressedMemory
  refine ⟨fun s rd rs1 uimm5 => ?_, fun s rd uimm6 rs2 rs1 uimm5 => ?_, fun s rs2 uimm6 => ?_⟩
  · exact ⟨⟨congrArg _ (word16_clWord 2 uimm5 rs1 rd 0), s.loadX_rule 2 true rfl (creg rd) _⟩,
      ⟨congrArg _ (word16_cl 3 uimm5 rs1 rd 0), s.loadX_double_rule 2 (creg rd) _⟩⟩
  · exact ⟨⟨congrArg _ (word16_clwsp 2 rd uimm6 2), s.loadX_rule 2 true rfl rd _⟩,
      ⟨congrArg _ (word16_clsp 3 rd uimm6 2), s.loadX_double_rule 2 rd _⟩,
      ⟨congrArg _ (word16_clWord 6 uimm5 rs1 rs2 0), s.storeV_rule 2 rfl _ _⟩,
      ⟨congrArg _ (word16_cl 7 uimm5 rs1 rs2 0), s.storeV_rule 2 rfl _ _⟩⟩
  · exact ⟨⟨congrArg _ (word16_cswsp 6 uimm6 rs2 2), s.storeV_rule 2 rfl _ _⟩,
      ⟨congrArg _ (word16_cssp 7 uimm6 rs2 2), s.storeV_rule 2 rfl _ _⟩⟩

end Sys2Proof.Machine

namespace Sys2Proof.Machine

/-! ### T-Head loads and stores behind their gate (47_thead_mem) -/

section
variable {s : State} {c : Code} {w : BitVec 32} {signed : Bool} {n : Nat} {value : Nat → Word}

theorem State.theadGate_open {r : Result} (on : s.me.theadOn = true) : s.theadGate c r = r := if_pos on

/-- What holds of the instruction behind an open gate. -/
theorem State.of_theadGate (on : s.me.theadOn = true) {r : Result} {P : Result → Prop} (h : P r) : P (s.theadGate c r) :=
  (State.theadGate_open on).symm ▸ h

/-- The values that the signed loads, the unsigned ones and those of a whole register write. -/
theorem loadWord_signed : ∀ v < 2 ^ (8 * n), loadWord true n v = (BitVec.ofNat (8 * n) v).signExtend 64 := fun _ _ => rfl
theorem loadWord_unsigned : ∀ v < 2 ^ (8 * n), loadWord false n v = (BitVec.ofNat (8 * n) v).setWidth 64 :=
  fun _ => unsignedLoad_eq_setWidth
theorem loadWord_double : ∀ v < 2 ^ (8 * 8), loadWord true 8 v = BitVec.ofNat 64 v :=
  fun v _ => BitVec.signExtend_eq (BitVec.ofNat 64 v)

theorem State.theadLoad_rule (on : s.me.theadOn = true) (hn : 64 % n = 0)
    (same : ∀ v < 2 ^ (8 * n), loadWord signed n v = value v) (rd : Reg) (va : Word) :
    LoadRule s (s.theadGate c (s.loadX 4 signed n rd va)) (s.me.pc + 4) va n fun v => [(rd, value v)] :=
  State.of_theadGate on (P := fun r => LoadRule s r (s.me.pc + 4) va n fun v => [(rd, value v)])
    ((s.loadX_rule 4 signed hn rd va).congr fun v small => by rw [same v small])

theorem State.theadStore_rule (on : s.me.theadOn = true) (hn : 64 % n = 0) (v va : Word) :
    StoreRule s (s.theadGate c (s.storeV 4 n v va)) (s.me.pc + 4) va n v [] s.me.m.mstatus :=
  State.of_theadGate on (P := fun r => StoreRule s r (s.me.pc + 4) va n v [] s.me.m.mstatus) (s.storeV_rule 4 hn v va)

/-- A base-update load: two different registers, or illegal (47_thead_mem:R621). -/
theorem State.theadLoadUpdate_rule (on : s.me.theadOn = true) (code : c = .full w) (hn : 64 % n = 0)
    (same : ∀ v < 2 ^ (8 * n), loadWord signed n v = value v) (after : Bool) (rd rs1 : Reg) (step : Word) :
    (rd ≠ rs1 → LoadRule s (s.theadGate c (s.loadUpdate c signed n after rd rs1 step)) (s.me.pc + 4)
      (if after then s.getX rs1 else s.getX rs1 + step) n fun v => [(rd, value v), (rs1, s.getX rs1 + step)]) ∧
    (rd = rs1 → s.theadGate c (s.loadUpdate c signed n after rd rs1 step) = .next (s.raise 2 (w.setWidth 64))) := by
  subst code
  rw [State.theadGate_open on]
  exact ⟨fun different => (s.loadUpdate_rule _ signed hn after rd rs1 step different).congr fun v small => by rw [same v small],
    fun equal => if_pos equal⟩

theorem State.theadStoreUpdate_rule (on : s.me.theadOn = true) (hn : 64 % n = 0) (after : Bool) (rs2 rs1 : Reg) (step : Word) :
    StoreRule s (s.theadGate c (s.storeUpdate n after rs2 rs1 step)) (s.me.pc + 4)
      (if after then s.getX rs1 else s.getX rs1 + step) n (s.getX rs2) [(rs1, s.getX rs1 + step)] s.me.m.mstatus :=
  State.of_theadGate on
    (P := fun r => StoreRule s r (s.me.pc + 4) (if after then s.getX rs1 else s.getX rs1 + step) n (s.getX rs2)
      [(rs1, s.getX rs1 + step)] s.me.m.mstatus)
    (s.storeUpdate_rule hn after rs2 rs1 step)

/-- A T-Head floating-point access behind both gates: what holds of its answer with the unit on. -/
theorem State.theadFp_rule (on : s.me.theadOn = true) (code : c = .full w) {r : Result} {P : Result → Prop} (h : P r) :
    FpRule s (s.theadGate c (s.fpGate c r)) (w.setWidth 64) (P (s.theadGate c (s.fpGate c r))) :=
  (State.theadGate_open on).symm ▸ FpRule.of_fpGate code h

theorem State.theadLoadF_rule (on : s.me.theadOn = true) (code : c = .full w) (hn : 64 % n = 0) (fd : Reg) (va : Word) :
    FpRule s (s.theadGate c (s.fpGate c (s.loadF 4 n fd va))) (w.setWidth 64)
      (LoadFRule s (s.theadGate c (s.fpGate c (s.loadF 4 n fd va))) (s.me.pc + 4) va n fd) :=
  State.theadFp_rule on code (P := fun r => LoadFRule s r (s.me.pc + 4) va n fd) (s.loadF_rule 4 hn fd va)

theorem State.theadStoreF_rule (on : s.me.theadOn = true) (code : c = .full w) (hn : 64 % n = 0) (fs2 : Reg) (va : Word) :
    FpRule s (s.theadGate c (s.fpGate c (s.storeF 4 n fs2 va))) (w.setWidth 64)
      (StoreRule s (s.theadGate c (s.fpGate c (s.storeF 4 n fs2 va))) (s.me.pc + 4) va n (s.getF fs2) [] s.statusDirty) :=
  State.theadFp_rule on code (P := fun r => StoreRule s r (s.me.pc + 4) va n (s.getF fs2) [] s.statusDirty)
    (s.storeF_rule 4 hn fs2 va)

end

/-- Settles O19, by the format of the codes, the gate, and the rules of loads and stores of any size. -/
theorem indexedAccess : Obligations.IndexedAccess := by
  unfold Obligations.IndexedAccess
  intro s rd rs1 rs2 rs imm2 on
  have load (f5 : BitVec 5) := congrArg Code.full (word32_thead f5 imm2 rs2 rs1 4 rd 0x0b)
  have store (f5 : BitVec 5) := congrArg Code.full (word32_thead f5 imm2 rs2 rs1 5 rs 0x0b)
  exact ⟨⟨load 0, State.theadLoad_rule on rfl loadWord_signed rd _⟩,
    ⟨load 16, State.theadLoad_rule on rfl loadWord_unsigned rd _⟩,
    ⟨load 4, State.theadLoad_rule on rfl loadWord_signed rd _⟩,
    ⟨load 20, State.theadLoad_rule on rfl loadWord_unsigned rd _⟩,
    ⟨load 8, State.theadLoad_rule on rfl loadWord_signed rd _⟩,
    ⟨load 24, State.theadLoad_rule on rfl loadWord_unsigned rd _⟩,
    ⟨load 12, State.theadLoad_rule on rfl loadWord_double rd _⟩,
    ⟨store 0, State.theadStore_rule on rfl _ _⟩, ⟨store 4, State.theadStore_rule on rfl _ _⟩,
    ⟨store 8, State.theadStore_rule on rfl _ _⟩, ⟨store 12, State.theadStore_rule on rfl _ _⟩⟩

/-- Settles O20, as O19 with the codes and the address of the 32-bit index. -/
theorem indexedUnsignedAccess : Obligations.IndexedUnsignedAccess := by
  unfold Obligations.IndexedUnsignedAccess
  intro s rd rs1 rs2 rs imm2 on
  have load (f5 : BitVec 5) := congrArg Code.full (word32_thead f5 imm2 rs2 rs1 4 rd 0x0b)
  have store (f5 : BitVec 5) := congrArg Code.full (word32_thead f5 imm2 rs2 rs1 5 rs 0x0b)
  exact ⟨⟨load 2, State.theadLoad_rule on rfl loadWord_signed rd _⟩,
    ⟨load 18, State.theadLoad_rule on rfl loadWord_unsigned rd _⟩,
    ⟨load 6, State.theadLoad_rule on rfl loadWord_signed rd _⟩,
    ⟨load 22, State.theadLoad_rule on rfl loadWord_unsigned rd _⟩,
    ⟨load 10, State.theadLoad_rule on rfl loadWord_signed rd _⟩,
    ⟨load 26, State.theadLoad_rule on rfl loadWord_unsigned rd _⟩,
    ⟨load 14, State.theadLoad_rule on rfl loadWord_double rd _⟩,
    ⟨store 2, State.theadStore_rule on rfl _ _⟩, ⟨store 6, State.theadStore_rule on rfl _ _⟩,
    ⟨store 10, State.theadStore_rule on rfl _ _⟩, ⟨store 14, State.theadStore_rule on rfl _ _⟩⟩

/-- Settles O21, by the format of the codes and the base-update shapes with the access first. -/
theorem updateAfterAccess : Obligations.UpdateAfterAccess := by
  unfold Obligations.UpdateAfterAccess
  intro s rd rs1 rs2 imm5 imm2 on
  have load (f5 : BitVec 5) := congrArg Code.full (word32_thead f5 imm2 imm5 rs1 4 rd 0x0b)
  have store (f5 : BitVec 5) := congrArg Code.full (word32_thead f5 imm2 imm5 rs1 5 rs2 0x0b)
  exact ⟨⟨load 3, State.theadLoadUpdate_rule on (load 3) rfl loadWord_signed true rd rs1 _⟩,
    ⟨load 19, State.theadLoadUpdate_rule on (load 19) rfl loadWord_unsigned true rd rs1 _⟩,
    ⟨load 7, State.theadLoadUpdate_rule on (load 7) rfl loadWord_signed true rd rs1 _⟩,
    ⟨load 23, State.theadLoadUpdate_rule on (load 23) rfl loadWord_unsigned true rd rs1 _⟩,
    ⟨load 11, State.theadLoadUpdate_rule on (load 11) rfl loadWord_signed true rd rs1 _⟩,
    ⟨load 27, State.theadLoadUpdate_rule on (load 27) rfl loadWord_unsigned true rd rs1 _⟩,
    ⟨load 15, State.theadLoadUpdate_rule on (load 15) rfl loadWord_double true rd rs1 _⟩,
    ⟨store 3, State.theadStoreUpdate_rule on rfl true rs2 rs1 _⟩, ⟨store 7, State.theadStoreUpdate_rule on rfl true rs2 rs1 _⟩,
    ⟨store 11, State.theadStoreUpdate_rule on rfl true rs2 rs1 _⟩, ⟨store 15, State.theadStoreUpdate_rule on rfl true rs2 rs1 _⟩⟩

/-- Settles O22, by the format of the codes and the base-update shapes with the access at the increased base. -/
theorem updateBeforeAccess : Obligations.UpdateBeforeAccess := by
  unfold Obligations.UpdateBeforeAccess
  intro s rd rs1 rs2 imm5 imm2 on
  have load (f5 : BitVec 5) := congrArg Code.full (word32_thead f5 imm2 imm5 rs1 4 rd 0x0b)
  have store (f5 : BitVec 5) := congrArg Code.full (word32_thead f5 imm2 imm5 rs1 5 rs2 0x0b)
  exact ⟨⟨load 1, State.theadLoadUpdate_rule on (load 1) rfl loadWord_signed false rd rs1 _⟩,
    ⟨load 17, State.theadLoadUpdate_rule on (load 17) rfl loadWord_unsigned false rd rs1 _⟩,
    ⟨load 5, State.theadLoadUpdate_rule on (load 5) rfl loadWord_signed false rd rs1 _⟩,
    ⟨load 21, State.theadLoadUpdate_rule on (load 21) rfl loadWord_unsigned false rd rs1 _⟩,
    ⟨load 9, State.theadLoadUpdate_rule on (load 9) rfl loadWord_signed false rd rs1 _⟩,
    ⟨load 25, State.theadLoadUpdate_rule on (load 25) rfl loadWord_unsigned false rd rs1 _⟩,
    ⟨load 13, State.theadLoadUpdate_rule on (load 13) rfl loadWord_double false rd rs1 _⟩,
    ⟨store 1, State.theadStoreUpdate_rule on rfl false rs2 rs1 _⟩, ⟨store 5, State.theadStoreUpdate_rule on rfl false rs2 rs1 _⟩,
    ⟨store 9, State.theadStoreUpdate_rule on rfl false rs2 rs1 _⟩, ⟨store 13, State.theadStoreUpdate_rule on rfl false rs2 rs1 _⟩⟩

/-- Settles O32, by the format of the codes, both gates, and the rules of floating-point loads and stores. -/
theorem indexedFloatAccess : Obligations.IndexedFloatAccess := by
  unfold Obligations.IndexedFloatAccess
  intro s fd rs1 rs2 imm2 on
  have load (f5 : BitVec 5) := congrArg Code.full (word32_thead f5 imm2 rs2 rs1 6 fd 0x0b)
  have store (f5 : BitVec 5) := congrArg Code.full (word32_thead f5 imm2 rs2 rs1 7 fd 0x0b)
  exact ⟨⟨load 12, State.theadLoadF_rule on (load 12) rfl fd _⟩, ⟨load 8, State.theadLoadF_rule on (load 8) rfl fd _⟩,
    ⟨load 14, State.theadLoadF_rule on (load 14) rfl fd _⟩, ⟨load 10, State.theadLoadF_rule on (load 10) rfl fd _⟩,
    ⟨store 12, State.theadStoreF_rule on (store 12) rfl fd _⟩, ⟨store 8, State.theadStoreF_rule on (store 8) rfl fd _⟩,
    ⟨store 14, State.theadStoreF_rule on (store 14) rfl fd _⟩, ⟨store 10, State.theadStoreF_rule on (store 10) rfl fd _⟩⟩

end Sys2Proof.Machine

namespace Sys2Proof.Machine

/-! ### Pairs (47_thead_mem:R621) -/

/-- What an access reads at the parts it lands on fits its size, whatever hidden state has moved and lines have come since. -/
theorem Lands.readParts_lt_of_frame {s t u : State} {k : Access} {va : Word} {n : Nat} {ps : List Part} {s' : State}
    (h : Lands s k va n ps s') (hidden : Hidden s t) (frame : LineFrame t u) : (u.readParts .load ps).1 < 2 ^ (8 * n) :=
  s.plan_size h.1 ▸ u.readParts_lt .load ps fun p hp => (frame.store.plain _).2 ((hidden.plain _).2 (h.2 p hp))

/-- The rule of a pair load speaks of its registers only at numbers of its size. -/
theorem LoadPairRule.congr {s : State} {r : Result} {va : Word} {n : Nat} {ws ws' : Nat → Nat → List (Reg × Word)}
    (h : LoadPairRule s r va n ws) (same : ∀ v < 2 ^ (8 * n), ∀ w < 2 ^ (8 * n), ws v w = ws' v w) : LoadPairRule s r va n ws' := by
  obtain ⟨lands, traps⟩ := h
  refine ⟨fun ps s1 qs s2 at1 at2 => ?_, traps⟩
  have hidden1 := ((s.plan_sat .load false va n).of_ok at1.1).1
  have hidden2 := ((s1.plan_sat .load false (va + BitVec.ofNat 64 n) n).of_ok at2.1).1
  have hidden := hidden1.trans hidden2
  have frame := (s2.readParts_plain .load ps fun p hp => (hidden.plain _).2 (at1.2 p hp)).1
  have first := at1.readParts_lt_of_frame hidden (LineFrame.refl s2)
  have second := at2.readParts_lt_of_frame hidden2 frame
  dsimp only
  rw [← same _ first _ second]
  exact lands ps s1 qs s2 at1 at2

theorem distinct3_iff {a b c : Reg} : distinct3 a b c = true ↔ a ≠ b ∧ a ≠ c ∧ b ≠ c := by
  simp only [distinct3, Bool.and_eq_true, bne_iff_ne, and_assoc]

section
variable {s : State} {c : Code} {w : BitVec 32} {signed : Bool} {n : Nat} {value : Nat → Word}

/-- A pair load: three different registers, or illegal. -/
theorem State.theadLoadPair_rule (on : s.me.theadOn = true) (code : c = .full w) (hn : 64 % n = 0)
    (same : ∀ v < 2 ^ (8 * n), loadWord signed n v = value v) (rd1 rd2 rs1 : Reg) (va : Word) :
    (rd1 ≠ rd2 ∧ rd1 ≠ rs1 ∧ rd2 ≠ rs1 → LoadPairRule s (s.theadGate c (s.loadPair c signed n rd1 rd2 rs1 va)) va n
      fun v w => [(rd2, value w), (rd1, value v)]) ∧
    (rd1 = rd2 ∨ rd1 = rs1 ∨ rd2 = rs1 →
      s.theadGate c (s.loadPair c signed n rd1 rd2 rs1 va) = .next (s.raise 2 (w.setWidth 64))) := by
  subst code
  rw [State.theadGate_open on]
  refine ⟨fun different => ?_, fun equal => if_neg fun different => ?_⟩
  · exact (s.loadPair_rule _ signed hn rd1 rd2 rs1 va (distinct3_iff.2 different)).congr fun v hv w hw => by
      rw [same v hv, same w hw]
  · obtain ⟨h12, h1, h2⟩ := distinct3_iff.1 different
    exact equal.elim h12 fun h => h.elim h1 h2

theorem State.theadStorePair_rule (on : s.me.theadOn = true) (hn : 64 % n = 0) (rd1 rd2 : Reg) (va : Word) :
    StorePairRule s (s.theadGate c (s.storePair n rd1 rd2 va)) va n (s.getX rd1) (s.getX rd2) :=
  State.of_theadGate on (P := fun r => StorePairRule s r va n (s.getX rd1) (s.getX rd2)) (s.storePair_rule hn rd1 rd2 va)

end

/-- Settles O23, by the format of the codes and the shapes of pairs. -/
theorem pairAccess : Obligations.PairAccess := by
  unfold Obligations.PairAccess
  intro s rd1 rd2 rs1 imm2 on
  have load (f5 : BitVec 5) := congrArg Code.full (word32_thead f5 imm2 rd2 rs1 4 rd1 0x0b)
  have store (f5 : BitVec 5) := congrArg Code.full (word32_thead f5 imm2 rd2 rs1 5 rd1 0x0b)
  exact ⟨⟨load 31, State.theadLoadPair_rule on (load 31) rfl loadWord_double rd1 rd2 rs1 _⟩,
    ⟨load 28, State.theadLoadPair_rule on (load 28) rfl loadWord_signed rd1 rd2 rs1 _⟩,
    ⟨load 30, State.theadLoadPair_rule on (load 30) rfl loadWord_unsigned rd1 rd2 rs1 _⟩,
    ⟨store 31, State.theadStorePair_rule on rfl rd1 rd2 _⟩, ⟨store 28, State.theadStorePair_rule on rfl rd1 rd2 _⟩⟩

/-! ### T-Head arithmetic (46_thead_arith_bit) -/

theorem State.theadWriteX_computes {s : State} (on : s.me.theadOn = true) {c : Code} (rd : Reg) {v w : Word} (value : v = w) :
    Computes s (s.theadGate c (s.writeX 4 rd v)) (s.me.pc + 4) [(rd, w)] :=
  State.of_theadGate on (P := fun r => Computes s r (s.me.pc + 4) [(rd, w)]) (value ▸ s.writeX_computes 4 rd v)

theorem boolWord_bit (w : Word) (n : Nat) : boolWord (bit w n) = if w.getLsbD n then 1 else 0 := by
  rw [bit_eq]
  rfl

/-- Settles O24, by the formats of the codes, the gate, and the shape that writes one register. -/
theorem theadArithmetic : Obligations.TheadArithmetic := by
  unfold Obligations.TheadArithmetic
  intro s rd rs1 rs2 imm2 imm6 imm5 on
  have three (f7 : BitVec 7) := congrArg Code.full (word32_rType f7 rs2 rs1 1 rd 0x0b)
  have shift (f6 : BitVec 6) := congrArg Code.full (word32_shift f6 imm6 rs1 1 rd 0x0b)
  exact ⟨⟨congrArg Code.full (word32_thead 0 imm2 rs2 rs1 1 rd 0x0b), State.theadWriteX_computes on rd rfl⟩,
    ⟨three 16, State.theadWriteX_computes on rd rfl⟩,
    ⟨three 18, State.theadWriteX_computes on rd rfl⟩,
    ⟨three 17, State.theadWriteX_computes on rd rfl⟩,
    ⟨three 19, State.theadWriteX_computes on rd rfl⟩,
    ⟨three 32, State.theadWriteX_computes on rd rfl⟩,
    ⟨three 33, State.theadWriteX_computes on rd (ite_not ..)⟩,
    ⟨shift 4, State.theadWriteX_computes on rd rfl⟩,
    ⟨congrArg Code.full (word32_rType 10 imm5 rs1 1 rd 0x0b), State.theadWriteX_computes on rd rfl⟩,
    ⟨shift 34, State.theadWriteX_computes on rd (boolWord_bit _ _)⟩,
    ⟨three 20, State.theadWriteX_computes on rd rfl⟩,
    ⟨three 21, State.theadWriteX_computes on rd rfl⟩⟩

end Sys2Proof.Machine

namespace Sys2Proof.Machine

/-! ### Bytes of a number (20_memory:R181) -/

/-- Byte `i` of the number that some bytes hold. -/
theorem ofBytesLe_div (bs : List Byte) (i : Nat) : ofBytesLe bs / 256 ^ i % 256 = (bs.getD i 0).toNat := by
  induction bs generalizing i with
  | nil => exact (congrArg (· % 256) (Nat.zero_div _)).trans (Nat.zero_mod _)
  | cons b rest ih =>
    have small := b.isLt
    cases i with
    | zero =>
      rw [ofBytesLe, List.getD_cons_zero, pow_zero]
      omega
    | succ i =>
      have tail : (b.toNat + 256 * ofBytesLe rest) / 256 = ofBytesLe rest := by omega
      rw [ofBytesLe, List.getD_cons_succ, pow_succ', ← Nat.div_div_eq_div_mul, tail, ih]

theorem extractLsb'_ofBytesLe {n : Nat} (bs : List Byte) (i : Nat) (inside : 8 * i + 8 ≤ n) :
    (BitVec.ofNat n (ofBytesLe bs)).extractLsb' (8 * i) 8 = bs.getD i 0 := by
  have split : 2 ^ n = 2 ^ (8 * i) * 2 ^ (n - 8 * i) := by rw [← pow_add, Nat.add_sub_cancel' (by omega)]
  have byte : 2 ^ (n - 8 * i) = 2 ^ 8 * 2 ^ (n - 8 * i - 8) := by rw [← pow_add, Nat.add_sub_cancel' (by omega)]
  apply BitVec.eq_of_toNat_eq
  rw [extract_toNat, BitVec.toNat_ofNat, ← ofBytesLe_div, split, Nat.mod_mul_right_div_self, byte, Nat.mod_mul_right_mod,
    pow_mul]
  rfl

theorem extractLsb'_eq_byte (w : Word) (i : Nat) : w.extractLsb' (8 * i) 8 = BitVec.ofNat 8 (w.toNat / 256 ^ i) := by
  apply BitVec.eq_of_toNat_eq
  rw [extract_toNat, BitVec.toNat_ofNat, pow_mul]
  rfl

/-- Byte `i` of a value, read from the bytes in reverse order. -/
theorem bytesLe_reverse_getD (w : Word) {n i : Nat} (h : i < n) :
    (bytesLe w.toNat n).reverse.getD i 0 = w.extractLsb' (8 * (n - 1 - i)) 8 := by
  have len := bytesLe_length w.toNat n
  rw [extractLsb'_eq_byte, ← bytesLe_getD w.toNat n (n - 1 - i) (by omega), List.getD_eq_getElem?_getD, List.getD_eq_getElem?_getD,
    List.getElem?_reverse (by omega), len]

theorem reverseBytes_byte (w : Word) {i : Nat} (h : i < 8) :
    (reverseBytes 8 w).extractLsb' (8 * i) 8 = w.extractLsb' (8 * (7 - i)) 8 := by
  rw [reverseBytes, extractLsb'_ofBytesLe _ _ (by omega), bytesLe_reverse_getD w h]

theorem reverseBytes_byte_half (w : Word) {i : Nat} (h : i < 4) :
    ((reverseBytes 4 w).setWidth 32).extractLsb' (8 * i) 8 = w.extractLsb' (8 * (3 - i)) 8 := by
  rw [reverseBytes, BitVec.setWidth_ofNat_of_le (by decide), extractLsb'_ofBytesLe _ _ (by omega), bytesLe_reverse_getD w h]

theorem zeroByteMask_byte (w : Word) {i : Nat} (h : i < 8) :
    (zeroByteMask w).extractLsb' (8 * i) 8 = if w.extractLsb' (8 * i) 8 = 0 then 0xff else 0 := by
  have len := bytesLe_length w.toNat 8
  have byte : (bytesLe w.toNat 8)[i]'(by omega) = w.extractLsb' (8 * i) 8 := by
    rw [extractLsb'_eq_byte, ← bytesLe_getD w.toNat 8 i h, List.getD_eq_getElem _ _ (by omega)]
  rw [zeroByteMask, extractLsb'_ofBytesLe _ _ (by omega), List.getD_eq_getElem _ _ (by rw [List.length_map]; omega), List.getElem_map,
    byte]

/-! ### Searching and bit fields (46_thead_arith_bit:R602 to R605) -/

/-- The number of leading zeros: only zeros above, and a one next where there is a next bit. -/
theorem leadingZeros_spec (w : Word) :
    ∃ n, n ≤ 64 ∧ (∀ k, k < n → w.getMsbD k = false) ∧ (n < 64 → w.getMsbD n = true) ∧ leadingZeros w = BitVec.ofNat 64 n := by
  by_cases zero : w = 0
  · subst zero
    exact ⟨64, le_rfl, fun k _ => BitVec.getMsbD_zero, fun h => absurd h (lt_irrefl 64), rfl⟩
  · have nonzero : w.toNat ≠ 0 := fun h => zero (BitVec.eq_of_toNat_eq h)
    have top : w.toNat.log2 < 64 := (Nat.log2_lt nonzero).2 w.isLt
    refine ⟨63 - w.toNat.log2, by omega, fun k hk => ?_, fun _ => ?_, if_neg zero⟩
    · rw [BitVec.getMsbD_eq_getLsbD]
      have above : w.toNat < 2 ^ (64 - 1 - k) := (Nat.log2_lt nonzero).1 (by omega)
      rw [BitVec.getLsbD, Nat.testBit_lt_two_pow above, Bool.and_false]
    · rw [BitVec.getMsbD_eq_getLsbD, decide_eq_true (by omega), Bool.true_and, show 64 - 1 - (63 - w.toNat.log2) = w.toNat.log2 by omega]
      exact Nat.testBit_log2 nonzero

/-- The bits of a bit field as a number. -/
theorem bitField_digit (w : Word) {msb lsb : Nat} (k : Nat) :
    (BitVec.ofNat (msb - lsb + 1) (w.toNat / 2 ^ lsb)).getLsbD k = (decide (k < msb - lsb + 1) && w.getLsbD (lsb + k)) := by
  rw [BitVec.getLsbD_ofNat, Nat.testBit_div_two_pow, Nat.add_comm k]
  rfl

/-- A signed bit field is the word shifted up to its top bit and back down (46_thead_arith_bit:R602). -/
theorem bitField_signed (w : Word) {msb lsb : Nat} (order : lsb ≤ msb) (inside : msb < 64) :
    bitField true w msb lsb = (w <<< (63 - msb)).sshiftRight (63 - msb + lsb) := by
  apply word_ext
  intro k hk
  rw [bitField, if_pos rfl, BitVec.getLsbD_signExtend, BitVec.getLsbD_sshiftRight, BitVec.msb_eq_getLsbD_last,
    BitVec.msb_eq_getLsbD_last, bitField_digit, bitField_digit, BitVec.getLsbD_shiftLeft, BitVec.getLsbD_shiftLeft]
  by_cases inField : k < msb - lsb + 1
  · have low : 63 - msb + lsb + k < 64 := by omega
    have shifted : 63 - msb + lsb + k - (63 - msb) = lsb + k := by omega
    have notBelow : ¬ 63 - msb + lsb + k < 63 - msb := by omega
    have notAbove : ¬ 64 ≤ k := by omega
    simp only [inField, low, shifted, notBelow, notAbove, hk, if_true, decide_true, decide_false, Bool.true_and, Bool.not_false]
  · have high : ¬ 63 - msb + lsb + k < 64 := by omega
    have last : lsb + (msb - lsb + 1 - 1) = msb := by omega
    have lastIn : msb - lsb + 1 - 1 < msb - lsb + 1 := by omega
    have topBit : 64 - 1 - (63 - msb) = msb := by omega
    have notBelow : ¬ 64 - 1 < 63 - msb := by omega
    have notAbove : ¬ 64 ≤ k := by omega
    simp only [inField, high, last, lastIn, topBit, notBelow, notAbove, hk, if_false, decide_true, decide_false, Bool.true_and,
      Bool.not_false, Nat.lt_add_one, Nat.reduceSub]

/-- The same of an unsigned one (46_thead_arith_bit:R603). -/
theorem bitField_unsigned (w : Word) {msb lsb : Nat} (order : lsb ≤ msb) (inside : msb < 64) :
    bitField false w msb lsb = (w <<< (63 - msb)) >>> (63 - msb + lsb) := by
  apply word_ext
  intro k hk
  rw [bitField, if_neg Bool.false_ne_true, BitVec.getLsbD_setWidth, BitVec.getLsbD_ushiftRight, bitField_digit,
    BitVec.getLsbD_shiftLeft]
  have shifted : 63 - msb + lsb + k - (63 - msb) = lsb + k := by omega
  have notBelow : ¬ 63 - msb + lsb + k < 63 - msb := by omega
  have same : 63 - msb + lsb + k < 64 ↔ k < msb - lsb + 1 := by omega
  simp only [shifted, notBelow, same, hk, decide_true, decide_false, Bool.true_and, Bool.not_false, Bool.and_true]

/-- EXT and EXTU where the field is none: some value is written (93_implementation_defined:U25, log 30). -/
theorem State.extract_free (s : State) (signed : Bool) (rd rs1 : Reg) {msb lsb : Nat} (h : msb < lsb) :
    ∃ t v, s.extract signed rd rs1 msb lsb = .next t ∧ t.me.pc = s.me.pc + 4 ∧ (∀ q, t.getX q = regAfter s [(rd, v)] q) ∧
      t = { s with me := { s.me.moved t.me with x := t.me.x }, draws := t.draws } ∧ SameBytes s t := by
  obtain ⟨t, next, pc, x, frame, bytes⟩ := s.drawn.writeX_computes 4 rd (Config.freeWord s.draws)
  have draws : t.draws = s.drawn.draws := by rw [frame]
  refine ⟨t, Config.freeWord s.draws, (if_pos h).trans next, pc, x, ?_, bytes⟩
  rw [draws]
  exact frame

section
variable {s : State} (on : s.me.theadOn = true) {c : Code} (signed : Bool) (rd rs1 : Reg) (msb lsb : BitVec 6)
include on

/-- A bit-field instruction behind its gate, the field given by the shifts of its rule. -/
theorem State.theadExtract_rule {field : Word}
    (value : lsb.toNat ≤ msb.toNat → bitField signed (s.getX rs1) msb.toNat lsb.toNat = field) :
    (lsb.toNat ≤ msb.toNat →
      Computes s (s.theadGate c (s.extract signed rd rs1 msb.toNat lsb.toNat)) (s.me.pc + 4) [(rd, field)]) ∧
    (msb.toNat < lsb.toNat → ∃ t v, s.theadGate c (s.extract signed rd rs1 msb.toNat lsb.toNat) = .next t ∧
      t.me.pc = s.me.pc + 4 ∧ (∀ q, t.getX q = regAfter s [(rd, v)] q) ∧
      t = { s with me := { s.me.moved t.me with x := t.me.x }, draws := t.draws } ∧ SameBytes s t) := by
  rw [State.theadGate_open on]
  refine ⟨fun order => ?_, s.extract_free signed rd rs1⟩
  rw [State.extract, if_neg (Nat.not_lt.2 order), value order]
  exact s.writeX_computes 4 rd field

end

/-- Settles O25, by the formats of the codes and the bits or bytes of each result. -/
theorem theadBitFields : Obligations.TheadBitFields := by
  unfold Obligations.TheadBitFields
  intro s rd rs1 msb lsb on
  have fields (f3 : BitVec 3) : word32 (msb.toNat * 2 + lsb.toNat / 32) (lsb.toNat % 32) rs1.toNat f3.toNat rd.toNat 0x0b = _ :=
    word32_shift msb lsb rs1 f3 rd 0x0b
  have one (f12 : BitVec 12) := congrArg Code.full (word32_iType f12 rs1 1 rd 0x0b)
  obtain ⟨n0, le0, above0, here0, value0⟩ := leadingZeros_spec (~~~s.getX rs1)
  obtain ⟨n1, le1, above1, here1, value1⟩ := leadingZeros_spec (s.getX rs1)
  have inverted {k : Nat} (hk : k < 64) : (s.getX rs1).getMsbD k = !(~~~s.getX rs1).getMsbD k := by
    rw [BitVec.getMsbD_not, decide_eq_true hk, Bool.true_and, Bool.not_not]
  exact ⟨⟨congrArg _ (fields 2), State.theadExtract_rule on true rd rs1 msb lsb fun order => bitField_signed _ order msb.isLt⟩,
    ⟨congrArg _ (fields 3), State.theadExtract_rule on false rd rs1 msb lsb fun order => bitField_unsigned _ order msb.isLt⟩,
    ⟨one 0x840, n0, le0, fun k hk => (inverted (by omega)).trans (congrArg not (above0 k hk)),
      fun hn => (inverted hn).trans (congrArg not (here0 hn)), State.theadWriteX_computes on rd value0⟩,
    ⟨one 0x860, n1, le1, above1, here1, State.theadWriteX_computes on rd value1⟩,
    ⟨one 0x820, _, fun _ hi => reverseBytes_byte _ hi, State.theadWriteX_computes on rd rfl⟩,
    ⟨one 0x900, _, fun _ hi => reverseBytes_byte_half _ hi, State.theadWriteX_computes on rd rfl⟩,
    ⟨one 0x800, _, fun _ hi => zeroByteMask_byte _ hi, State.theadWriteX_computes on rd rfl⟩⟩

end Sys2Proof.Machine

namespace Sys2Proof

/-- The codes of the cache instructions with one operand (48_thead_cache_sync). -/
theorem word32_cache (f12 : BitVec 12) (rs1 : Reg) (low : BitVec 15) :
    word32 (f12.toNat / 32) (f12.toNat % 32) rs1.toNat 0 0 low.toNat = f12 ++ rs1 ++ low :=
  word32_eq (by simp only [append_toNat]; omega)

end Sys2Proof

namespace Sys2Proof.Machine

/-! ### What is said of the caches does not depend on hidden state or on the counters -/

theorem Hidden.exists {s s' : State} (h : Hidden s s') : ∃ tlb draws, s' = { s with me := { s.me with tlb := tlb }, draws := draws } :=
  ⟨_, _, h⟩

/-- A relation of two states that hidden state of the first and the counters of the second do not touch. -/
def BlindToHidden (K : State → State → Prop) : Prop := ∀ s s' t : State, Hidden s s' → K s' t → K s (t.retire 4)

section
variable (sel : CacheLine → Bool) (both l2 : Bool)

theorem blind_cleansLines : BlindToHidden fun s t => CleansLines s t sel both l2 := by
  intro s s' t hidden cleans
  obtain ⟨tlb, draws, rfl⟩ := hidden.exists
  rw [State.retire_eq]
  exact cleans

theorem blind_flushesLines : BlindToHidden fun s t => FlushesLines s t sel both l2 := by
  intro s s' t hidden flushes
  obtain ⟨tlb, draws, rfl⟩ := hidden.exists
  rw [State.retire_eq]
  exact flushes

theorem blind_dropsLines : BlindToHidden fun s t => DropsLines s t sel both l2 := by
  intro s s' t hidden drops
  obtain ⟨tlb, draws, rfl⟩ := hidden.exists
  rw [State.retire_eq]
  exact drops

theorem blind_invalidatesCode (sel : CodeLine → Bool) : BlindToHidden fun s t => InvalidatesCode s t sel both := by
  intro s s' t hidden invalidates
  obtain ⟨tlb, draws, rfl⟩ := hidden.exists
  rw [State.retire_eq]
  exact invalidates

end

theorem State.invalIcache_spec (s : State) (sel : CodeLine → Bool) (broadcast : Bool) :
    CacheFrame s (s.invalIcache sel broadcast) ∧ InvalidatesCode s (s.invalIcache sel broadcast) sel broadcast := by
  have bytes : SameBytes s (s.invalIcache sel broadcast) :=
    State.sees_congr rfl (by cases broadcast <;> rfl) (by cases broadcast <;> rfl) rfl rfl
  exact ⟨by cases broadcast <;> rfl, rfl, rfl, rfl, bytes, rfl, rfl⟩

/-! ### Cache instructions behind their gate (48_thead_cache_sync:R690 to R692) -/

section
variable {s : State} {c : Code} {w : BitVec 32} {userOk : Bool} {K : State → State → Prop}

/-- A cache instruction behind its gate: what holds of its answer where it may run. -/
theorem CacheRule.of_gate (code : c = .full w) {r : Result} {P : Result → Prop} (h : P r) :
    CacheRule s (s.cacheGate c userOk r) w userOk (P (s.cacheGate c userOk r)) := by
  subst code
  exact s.cacheGate_rule w userOk r _ fun _ _ runs => runs.symm ▸ h

/-- A cache instruction that moves the lines its operation moves. -/
theorem CacheRule.of_operation (blind : BlindToHidden K) (code : c = .full w) {t : State} (spec : CacheFrame s t ∧ K s t) :
    CacheRule s (s.cacheGate c userOk (.next (t.retire 4))) w userOk
      (∃ u, Maintains s (s.cacheGate c userOk (.next (t.retire 4))) u ∧ K s u) :=
  .of_gate code (P := fun r => ∃ u, Maintains s r u ∧ K s u)
    ⟨t.retire 4, Maintains.of_frame spec.1, blind s s t (Hidden.refl s) spec.2⟩

end

/-! ### The line of a virtual address (48_thead_cache_sync:R692) -/

section
variable {s s' : State} {va : Word} {pl : Place}

theorem State.cacheLine_of_allowed (found : s.translate .load va = .ok pl s') (allowed : s.me.pmp.allows pl.priv 1 pl.pa = true)
    (noError : s.soc.busError pl.pa = false) : s.cacheLine va = .ok (some (pl.pa.toNat, shareable pl.attr)) s' := by
  have hidden := (s.translate_sat .load va).of_ok found
  unfold State.cacheLine
  rw [found]
  refine if_pos ?_
  rw [hidden.soc, hidden.me]
  exact Bool.and_eq_true_iff.2 ⟨allowed, congrArg not noError⟩

theorem State.cacheLine_of_denied (found : s.translate .load va = .ok pl s')
    (denied : s.me.pmp.allows pl.priv 1 pl.pa = false ∨ s.soc.busError pl.pa = true) : s.cacheLine va = .ok none s' := by
  have hidden := (s.translate_sat .load va).of_ok found
  unfold State.cacheLine
  rw [found]
  refine if_neg fun h => ?_
  rw [hidden.soc, hidden.me] at h
  obtain ⟨allowed, noError⟩ := Bool.and_eq_true_iff.1 h
  rcases denied with refused | error
  · exact Bool.false_ne_true (refused.symm.trans allowed)
  · exact Bool.false_ne_true ((congrArg not error).symm.trans noError)

theorem State.cacheLine_of_accessFault {info : Word} (fault : s.translate .load va = .trap 5 info s') :
    s.cacheLine va = .ok none s' := by
  unfold State.cacheLine
  rw [fault]
  rfl

theorem State.cacheLine_of_pageFault {info : Word} (fault : s.translate .load va = .trap 13 info s') :
    s.cacheLine va = .trap 13 info s' := by
  unfold State.cacheLine
  rw [fault]
  rfl

end

/-- Where a lookup ends without a line, only the lookup shows. -/
theorem LeavesAlone.of_hidden {s s' : State} (hidden : Hidden s s') : LeavesAlone s (.next (s'.retire 4)) := by
  obtain ⟨next, pc, _⟩ := MaintainsVa.of_hidden hidden (CacheFrame.refl s')
  refine ⟨_, next, pc, ?_, State.sees_congr ?_ ?_ ?_ ?_ ?_⟩ <;> rw [State.retire_eq, hidden] <;> rfl

/-- An operation on the line of a virtual address, by what it does once the address is translated. -/
theorem State.onVirtualLine_rule (s : State) (rs1 : Reg) {act : State → (CacheLine → Bool) → Bool → State}
    {K : Nat → Bool → State → State → Prop} (blind : ∀ pa shared, BlindToHidden (K pa shared))
    (spec : ∀ t pa shared, CacheFrame t (act t (onLine (lineOf pa)) shared) ∧ K pa shared t (act t (onLine (lineOf pa)) shared)) :
    LineRule s (s.onVirtualLine rs1 act) (s.getX rs1) fun t pa shared => K pa shared s t := by
  have sat := s.translate_sat .load (s.getX rs1)
  unfold State.onVirtualLine
  refine ⟨fun pl s' found allowed noError => ?_, fun pl s' found denied => ?_, fun info s' denied => ?_, fun info s' fault => ?_⟩
  · have hidden := sat.of_ok found
    obtain ⟨frame, acted⟩ := spec s' pl.pa.toNat (shareable pl.attr)
    rw [State.cacheLine_of_allowed found allowed noError]
    exact ⟨_, MaintainsVa.of_hidden hidden frame, blind _ _ s s' _ hidden acted⟩
  · rw [State.cacheLine_of_denied found denied]
    exact .of_hidden (sat.of_ok found)
  · rw [State.cacheLine_of_accessFault denied]
    exact .of_hidden (sat.of_trap denied).1
  · rw [State.cacheLine_of_pageFault fault]
    exact ⟨(sat.of_trap fault).1, rfl⟩

/-- Such an instruction behind its gate. -/
theorem CacheRule.of_virtual {s : State} {c : Code} {w : BitVec 32} {userOk : Bool} (rs1 : Reg)
    {act : State → (CacheLine → Bool) → Bool → State} {K : Nat → Bool → State → State → Prop}
    (blind : ∀ pa shared, BlindToHidden (K pa shared)) (code : c = .full w)
    (spec : ∀ t pa shared, CacheFrame t (act t (onLine (lineOf pa)) shared) ∧ K pa shared t (act t (onLine (lineOf pa)) shared)) :
    CacheRule s (s.cacheGate c userOk (s.onVirtualLine rs1 act)) w userOk
      (LineRule s (s.cacheGate c userOk (s.onVirtualLine rs1 act)) (s.getX rs1) fun t pa shared => K pa shared s t) :=
  .of_gate code (P := fun r => LineRule s r (s.getX rs1) fun t pa shared => K pa shared s t) (s.onVirtualLine_rule rs1 blind spec)

/-! ### The operations on the line of a virtual address -/

theorem State.cleanVa_spec (s : State) (pa : Nat) (shared : Bool) :
    CacheFrame s (s.cleanVa (onLine (lineOf pa)) shared) ∧
      CleansLines s (s.cleanVa (onLine (lineOf pa)) shared) (lineAt pa) shared true := by
  cases shared
  · exact s.cleanMineL2_spec (byLine_onLine (lineOf pa))
  · exact s.cleanAll_spec (byLine_onLine (lineOf pa))

theorem State.flushVa_spec (s : State) (pa : Nat) (shared : Bool) :
    CacheFrame s (s.flushVa (onLine (lineOf pa)) shared) ∧
      FlushesLines s (s.flushVa (onLine (lineOf pa)) shared) (lineAt pa) shared true := by
  cases shared
  · exact s.flushMineL2_spec (byLine_onLine (lineOf pa))
  · exact s.flushAll_spec (byLine_onLine (lineOf pa))

theorem State.cleanVaL1_spec (s : State) (pa : Nat) (shared : Bool) :
    CacheFrame s (s.cleanVaL1 (onLine (lineOf pa)) shared) ∧
      CleansLines s (s.cleanVaL1 (onLine (lineOf pa)) shared) (lineAt pa) shared false := by
  cases shared
  · exact s.cleanMine_spec _
  · exact s.cleanBoth_spec _

theorem State.invalVa_spec (s : State) (pa : Nat) (shared : Bool) :
    CacheFrame s (s.invalVa (onLine (lineOf pa)) shared) ∧
      DropsLines s (s.invalVa (onLine (lineOf pa)) shared) (lineAt pa) shared true := by
  cases shared
  · exact s.invalMineL2_spec (byLine_onLine (lineOf pa))
  · exact s.invalAll_spec _

/-- The line of a physical address operand. -/
theorem physicalLine_eq (w : Word) : physicalLine w = lineAt (w.toNat % 2 ^ 40) := by
  rw [← BitVec.toNat_setWidth]
  rfl

theorem byLine_lineAt (pa : Nat) : ByLine (lineAt pa) := byLine_onLine (lineOf pa)

/-- Settles O33, by the formats of the codes, the gate, and what each clean or flush leaves. -/
theorem cacheCleans : Obligations.CacheCleans := by
  unfold Obligations.CacheCleans
  intro s rs1
  have code (f12 : BitVec 12) := congrArg Code.full (word32_cache f12 rs1 0x0b)
  have here := physicalLine_eq (s.getX rs1)
  have byAddress := byLine_lineAt ((s.getX rs1).toNat % 2 ^ 40)
  exact ⟨⟨rfl, .of_operation (blind_cleansLines _ _ _) rfl (s.cleanMine_spec _)⟩,
    ⟨rfl, .of_operation (blind_flushesLines _ _ _) rfl (s.flushMine_spec byPlace_everyLine)⟩,
    ⟨code 0x029, .of_operation (blind_cleansLines _ _ _) (code 0x029) (here ▸ s.cleanAll_spec byAddress)⟩,
    ⟨code 0x02b, .of_operation (blind_flushesLines _ _ _) (code 0x02b) (here ▸ s.flushAll_spec byAddress)⟩,
    ⟨code 0x028, .of_operation (blind_cleansLines _ _ _) (code 0x028) (here ▸ s.cleanBoth_spec _)⟩,
    ⟨code 0x021, .of_operation (blind_cleansLines _ _ _) (code 0x021) (s.cleanMine_spec _)⟩,
    ⟨code 0x023, .of_operation (blind_flushesLines _ _ _) (code 0x023) (s.flushMine_spec (byPlace_inWay _))⟩,
    ⟨code 0x025, .of_virtual rs1 (fun _ _ => blind_cleansLines _ _ _) (code 0x025) State.cleanVa_spec⟩,
    ⟨code 0x027, .of_virtual rs1 (fun _ _ => blind_flushesLines _ _ _) (code 0x027) State.flushVa_spec⟩,
    ⟨code 0x024, .of_virtual rs1 (fun _ _ => blind_cleansLines _ _ _) (code 0x024) State.cleanVaL1_spec⟩,
    ⟨rfl, .of_operation (blind_cleansLines _ _ _) rfl (s.cleanAll_spec byLine_everyLine)⟩,
    ⟨rfl, .of_operation (blind_flushesLines _ _ _) rfl (s.flushAll_spec byLine_everyLine)⟩⟩

/-- Settles O34, as O33 with what each invalidation leaves. -/
theorem cacheInvalidates : Obligations.CacheInvalidates := by
  unfold Obligations.CacheInvalidates
  intro s rs1
  have code (f12 : BitVec 12) := congrArg Code.full (word32_cache f12 rs1 0x0b)
  have here := physicalLine_eq (s.getX rs1)
  exact ⟨⟨rfl, .of_operation (blind_dropsLines _ _ _) rfl (s.invalMine_spec _)⟩,
    ⟨code 0x02a, .of_operation (blind_dropsLines _ _ _) (code 0x02a) (here ▸ s.invalAll_spec _)⟩,
    ⟨code 0x022, .of_operation (blind_dropsLines _ _ _) (code 0x022) (s.invalMine_spec _)⟩,
    ⟨code 0x026, .of_virtual rs1 (fun _ _ => blind_dropsLines _ _ _) (code 0x026) State.invalVa_spec⟩,
    ⟨rfl, .of_operation (blind_dropsLines _ _ _) rfl (s.invalAll_spec _)⟩⟩

/-! ### The SYNC instructions (48_thead_cache_sync:R716 to R719) -/

/-- A SYNC instruction: its effect on the two harts, and then the next instruction. -/
theorem CacheRule.of_sync {s : State} {c : Code} {w : BitVec 32} {userOk : Bool} (code : c = .full w) (me other : Hart)
    (pc : me.pc = s.me.pc) :
    CacheRule s (s.cacheGate c userOk (.next (({ s with me := me, other := other } : State).retire 4))) w userOk
      (∃ t, s.cacheGate c userOk (.next (({ s with me := me, other := other } : State).retire 4)) = .next t ∧
        t.me.pc = s.me.pc + 4 ∧ t = { s with me := me.moved t.me, other := other }) :=
  .of_gate code (P := fun r => ∃ t, r = .next t ∧ t.me.pc = s.me.pc + 4 ∧ t = { s with me := me.moved t.me, other := other })
    ⟨_, rfl, pc ▸ rfl, State.retire_eq _ 4⟩

/-- Settles O35, by the formats of the codes, the gates, and what each invalidation and each SYNC leaves. -/
theorem instructionCacheAndSync : Obligations.InstructionCacheAndSync := by
  unfold Obligations.InstructionCacheAndSync
  refine ⟨fun s rs1 => ?_, fun s => ?_⟩
  · have code (f12 : BitVec 12) := congrArg Code.full (word32_cache f12 rs1 0x0b)
    have here := physicalLine_eq (s.getX rs1)
    exact ⟨⟨rfl, .of_operation (blind_invalidatesCode _ _) rfl (s.invalIcache_spec _ _)⟩,
      ⟨rfl, .of_operation (blind_invalidatesCode _ _) rfl (s.invalIcache_spec _ _)⟩,
      ⟨code 0x038, .of_operation (blind_invalidatesCode _ _) (code 0x038) (here ▸ s.invalIcache_spec _ _)⟩,
      ⟨code 0x030, .of_virtual rs1 (fun _ _ => blind_invalidatesCode _ _) (code 0x030)
        fun t _ _ => t.invalIcache_spec _ _⟩⟩
  · exact ⟨⟨rfl, .of_sync rfl s.me s.other rfl⟩,
      ⟨rfl, .of_sync rfl s.me (settled s.other) rfl⟩,
      ⟨rfl, .of_sync rfl s.me.drain s.other rfl⟩,
      ⟨rfl, .of_sync rfl s.me.drain (settled s.other).drain rfl⟩⟩

end Sys2Proof.Machine

namespace Sys2Proof.Machine

/-! ### Which interrupt is taken (60_exceptions:R807, R812) -/

/-- Candidate `c` is taken in the mode that `inM` names. -/
def State.taken (s : State) (x : Nat × Bool) : Bool := if x.2 then s.takenInM x.1 else s.takenInS x.1

theorem State.taken_iff (s : State) (c : Nat) (inM : Bool) : s.taken (c, inM) = true ↔ s.Takes c inM := by
  unfold State.taken State.Takes
  rw [s.getLsbD_mip]
  cases inM
  · simp only [State.takenInS, State.candidate, bit_eq, mstatusSIE, Bool.false_eq_true, if_false, Bool.and_eq_true, Bool.or_eq_true,
      beq_iff_eq, and_assoc]
  · have inMachine : s.me.priv ≠ .machine ∨ s.me.m.mstatus.getLsbD 3 = true ↔
        s.me.priv ≠ .machine ∨ s.me.priv = .machine ∧ s.me.m.mstatus.getLsbD 3 = true := by tauto
    simp only [State.takenInM, State.candidate, bit_eq, mstatusMIE, if_true, Bool.and_eq_true, Bool.or_eq_true, Bool.not_eq_true',
      bne_iff_ne, and_assoc, inMachine]

/-- The interrupt chosen is the first taken one of the order. -/
theorem State.interrupt?_eq (s : State) : s.interrupt? = (interruptOrder.find? s.taken).map Prod.fst := by
  have order : interruptOrder = [11, 3, 7, 9, 1, 5, 17].map (·, true) ++ [9, 1, 5, 17].map (·, false) := rfl
  rw [order, List.find?_append, Option.map_or, List.find?_map, List.find?_map, Option.map_map, Option.map_map]
  exact congrArg₂ Option.or Option.map_id'.symm Option.map_id'.symm

/-- Settles O41: the choice is the first of the order that is taken. -/
theorem interruptChoice : Obligations.InterruptChoice := by
  unfold Obligations.InterruptChoice
  intro s
  refine ⟨fun before c inM after order takes none => ?_, fun none => ?_⟩
  · have skipped : before.find? s.taken = Option.none :=
      List.find?_eq_none.2 fun x hx h => none x hx ((s.taken_iff x.1 x.2).1 h)
    rw [s.interrupt?_eq, order, List.find?_append, skipped, Option.none_or,
      List.find?_cons_of_pos ((s.taken_iff c inM).2 takes)]
    rfl
  · rw [s.interrupt?_eq, List.find?_eq_none.2 fun x hx h => none x hx ((s.taken_iff x.1 x.2).1 h)]
    rfl

/-! ### A step of the running hart (60_exceptions:R813) -/

section
variable {s : State}

theorem State.hartStep_held (h : s.me.inReset = true ∨ (s.me.lowPower = true ∧ s.wakeUp = false)) (sample : Bool) :
    s.hartStep sample = .next s := by
  refine if_pos ?_
  rcases h with held | ⟨waits, quiet⟩
  · rw [held, Bool.true_or]
  · rw [waits, quiet, Bool.not_false, Bool.and_true, Bool.or_true]

theorem State.not_held (free : s.me.inReset = false) (awake : s.me.lowPower = true → s.wakeUp = true) :
    ¬ (s.me.inReset || (s.me.lowPower && !s.wakeUp)) = true := by
  intro held
  rw [free, Bool.false_or, Bool.and_eq_true, Bool.not_eq_true'] at held
  exact Bool.false_ne_true (held.2.symm.trans (awake held.1))

theorem State.hartStep_interrupted (free : s.me.inReset = false) (awake : s.me.lowPower = true → s.wakeUp = true) {c : Nat}
    (chosen : s.wake.interrupt? = some c) : s.hartStep true = .next (s.wake.takeInterrupt c) := by
  unfold State.hartStep
  rw [if_neg (State.not_held free awake), if_pos rfl, chosen]

theorem State.hartStep_runs (free : s.me.inReset = false) (awake : s.me.lowPower = true → s.wakeUp = true)
    (none : s.wake.interrupt? = none) : s.hartStep true = s.wake.runInstr := by
  unfold State.hartStep
  rw [if_neg (State.not_held free awake), if_pos rfl, none]

theorem State.runInstr_of_decoded {c : Code} {s' : State} {i : Instr} (fetched : s.fetch = .ok c s')
    (decodes : decodeCode c = .ok i) : s.runInstr = exec i s' := by
  unfold State.runInstr
  rw [fetched]
  dsimp only
  rw [decodes]

theorem State.runInstr_of_refused {c : Code} {s' : State} {e : Reject} (fetched : s.fetch = .ok c s')
    (refused : decodeCode c = .error e) : s.runInstr = .next (s'.raise 2 c.value) := by
  unfold State.runInstr
  rw [fetched]
  dsimp only
  rw [refused]
  rfl

theorem State.runInstr_of_trap {c : Nat} {info : Word} {s' : State} (fault : s.fetch = .trap c info s') :
    s.runInstr = .next (s'.raise c info) := by
  unfold State.runInstr
  rw [fault]

end

/-- Settles O39: the cases of the turn, and then those of the fetch and of the decoder. -/
theorem stepRunsDecoded : Obligations.StepRunsDecoded := by
  unfold Obligations.StepRunsDecoded
  intro s empty
  have turn : step s = s.hartStep true := by
    unfold step
    rw [empty]
  rw [turn]
  refine ⟨fun held => State.hartStep_held (.inl held) true, fun waits quiet => State.hartStep_held (.inr ⟨waits, quiet⟩) true,
    fun free awake => ?_⟩
  refine ⟨fun c chosen => State.hartStep_interrupted free awake chosen, fun none => ?_⟩
  rw [State.hartStep_runs free awake none]
  have sat := s.wake.fetch_sat
  refine ⟨fun c s' fetched => ?_, fun code va s' fault => ?_⟩
  · exact ⟨sat.of_ok fetched, fun i decodes => State.runInstr_of_decoded fetched decodes,
      fun e refused => State.runInstr_of_refused fetched refused⟩
  · obtain ⟨frame, codes⟩ := sat.of_trap fault
    exact ⟨List.mem_pair.2 codes, frame, State.runInstr_of_trap fault⟩

end Sys2Proof.Machine

namespace Sys2Proof.Machine

/-! ### Trap entry (60_exceptions:R800 to R802) -/

/-- The hart `g` is `h` about to take a trap: a cycle has been counted, `smeh` may note a page fault, and what was fetched ahead is
gone (60_exceptions:R800, 21_mmu_pmp:R258, log 13, 42). -/
def Hart.Poised (h g : Hart) : Prop :=
  g = { h with pmu := { h.pmu with mcycle := g.pmu.mcycle }, th := { h.th with mcounterof := g.th.mcounterof }
               smmu := { h.smmu with smeh := g.smmu.smeh }, fetched := [] }

theorem Hart.poised_interrupt (h : Hart) : h.Poised (h.tickCycles 1).drain := by
  unfold Hart.Poised
  rw [h.tickCycles_eq 1]
  rfl

theorem Hart.poised_exception (h : Hart) (code : Nat) (info : Word) :
    h.Poised ((h.tickCycles 1).notePageFault code info).drain := by
  unfold Hart.Poised
  rw [h.tickCycles_eq 1]
  unfold Hart.notePageFault
  split <;> rfl

/-- `mstatus` after trap entry into machine mode. -/
theorem Hart.trapToM_status (h : Hart) (interrupt : Bool) (code : Nat) (tval : Word) (n : Nat) :
    (h.trapToM interrupt code tval).m.mstatus.getLsbD n =
      if n < 64 ∧ 11 ≤ n ∧ n < 13 then h.priv.code.testBit (n - 11)
      else if n = 3 ∧ n < 64 then false
      else if n = 7 ∧ n < 64 then h.m.mstatus.getLsbD 3 else h.m.mstatus.getLsbD n := by
  show (setField _ 11 2 _).getLsbD n = _
  rw [getLsbD_setField, getLsbD_setBit, getLsbD_setBit]
  rfl

/-- `mstatus` after trap entry into supervisor mode. -/
theorem Hart.trapToS_status (h : Hart) (interrupt : Bool) (code : Nat) (tval : Word) (n : Nat) :
    (h.trapToS interrupt code tval).m.mstatus.getLsbD n =
      if n = 8 ∧ n < 64 then h.priv == .supervisor
      else if n = 1 ∧ n < 64 then false
      else if n = 5 ∧ n < 64 then h.m.mstatus.getLsbD 1 else h.m.mstatus.getLsbD n := by
  show (setBit _ 8 _).getLsbD n = _
  rw [getLsbD_setBit, getLsbD_setBit, getLsbD_setBit]
  rfl

theorem Hart.trapToM_spec (h : Hart) (interrupt : Bool) (code : Nat) (tval : Word) :
    TrapsToM h (h.trapToM interrupt code tval) (causeWord interrupt code) tval := by
  refine ⟨rfl, rfl, rfl, ?_, ?_, field_setField _ _ _ _ h.priv.code_lt.1 (by decide), fun n others => ?_⟩
  · exact h.trapToM_status interrupt code tval 7
  · exact h.trapToM_status interrupt code tval 3
  · simp only [List.mem_cons, List.not_mem_nil, or_false, not_or] at others
    rw [Hart.trapToM_status, if_neg (by omega), if_neg (by omega), if_neg (by omega)]

theorem Hart.trapToS_spec (h : Hart) (interrupt : Bool) (code : Nat) (tval : Word) :
    TrapsToS h (h.trapToS interrupt code tval) (causeWord interrupt code) tval := by
  refine ⟨rfl, rfl, rfl, ?_, ?_, ?_, fun n others => ?_⟩
  · exact h.trapToS_status interrupt code tval 5
  · exact h.trapToS_status interrupt code tval 1
  · exact h.trapToS_status interrupt code tval 8
  · simp only [List.mem_cons, List.not_mem_nil, or_false, not_or] at others
    rw [Hart.trapToS_status, if_neg (by omega), if_neg (by omega), if_neg (by omega)]

section
variable {s : State} {g : Hart} (ready : s.me.Poised g) (interrupt : Bool) (code : Nat) (tval : Word)
include ready

/-- A trap into machine mode: what it leaves of the hart before it was poised. -/
theorem Hart.Poised.toM {cause : Word} (number : causeWord interrupt code = cause) :
    TrapsToM s.me (g.trapToM interrupt code tval) cause tval ∧
      (g.trapToM interrupt code tval).pc = trapEntry s.me.m.mtvec interrupt code := by
  have spec := g.trapToM_spec interrupt code tval
  have entry : (g.trapToM interrupt code tval).pc = trapEntry g.m.mtvec interrupt code := rfl
  rw [number] at spec
  generalize g.trapToM interrupt code tval = t at spec entry ⊢
  rw [ready] at spec entry
  exact ⟨spec, entry⟩

theorem Hart.Poised.toS {cause : Word} (number : causeWord interrupt code = cause) :
    TrapsToS s.me (g.trapToS interrupt code tval) cause tval ∧
      (g.trapToS interrupt code tval).pc = trapEntry s.me.sup.stvec interrupt code := by
  have spec := g.trapToS_spec interrupt code tval
  have entry : (g.trapToS interrupt code tval).pc = trapEntry g.sup.stvec interrupt code := rfl
  rw [number] at spec
  generalize g.trapToS interrupt code tval = t at spec entry ⊢
  rw [ready] at spec entry
  exact ⟨spec, entry⟩

/-- Whichever mode takes the trap, the rest is as before. -/
theorem Hart.Poised.frame (toS : Bool) {t : Hart}
    (taken : t = if toS then g.trapToS interrupt code tval else g.trapToM interrupt code tval) :
    TrapFrame s { s with me := t } ∧ SameBytes s { s with me := t } ∧ t.smmu = g.smmu := by
  have smmu : t.smmu = g.smmu := by
    subst taken
    cases toS <;> rfl
  rw [ready] at taken
  subst taken
  cases toS <;> exact ⟨rfl, State.sees_congr rfl rfl rfl rfl rfl, smmu⟩

end

/-! ### Exceptions and interrupts (60_exceptions:R790, R791, R813) -/

theorem Hart.notePageFault_of_page {h : Hart} {code : Nat} {va : Word} (page : code ∈ [12, 13, 15]) :
    (h.notePageFault code va).smmu = { h.smmu with smeh := setField h.smmu.smeh 19 27 (field va 12 27) } := by
  simp only [List.mem_cons, List.not_mem_nil, or_false] at page
  obtain rfl | rfl | rfl := page <;> rfl

theorem Hart.notePageFault_of_other {h : Hart} {code : Nat} {va : Word} (other : code ∉ [12, 13, 15]) :
    h.notePageFault code va = h := by
  unfold Hart.notePageFault
  split
  case h_4 => rfl
  all_goals exact absurd (by decide) other

theorem trapValue_eq (code : Nat) (info : Word) : trapValue code info = if code ∈ [1, 2, 4, 6, 12, 13, 15] then info else 0 := by
  unfold trapValue
  split
  case h_8 => exact (if_neg (by simp_all only [List.mem_cons, List.not_mem_nil, or_false, not_false_eq_true, imp_false])).symm
  all_goals rfl

theorem causeWord_exception : ∀ c < 16, causeWord false c = BitVec.ofNat 64 c := by decide
theorem causeWord_interrupt : ∀ c ∈ [1, 3, 5, 7, 9, 11, 17], causeWord true c = BitVec.ofNat 64 (2 ^ 63 + c) := by decide

theorem trapEntry_interrupt (tvec : Word) (c : Nat) :
    trapEntry tvec true c = (tvec &&& ~~~3) + if field tvec 0 2 = 1 then BitVec.ofNat 64 (4 * c) else 0 := by
  unfold trapEntry
  by_cases vectored : field tvec 0 2 = 1
  · rw [vectored]
    rfl
  · rw [if_neg vectored]
    exact (if_neg fun h => vectored (eq_of_beq h)).trans (BitVec.add_zero _).symm

/-- An exception goes to supervisor mode exactly when it is delegated below machine mode. -/
theorem Hart.delegated_iff (h : Hart) (code : Nat) :
    h.delegated code = true ↔ h.priv ≠ .machine ∧ h.m.medeleg.getLsbD code = true := by
  rw [Hart.delegated, Bool.and_eq_true, bne_iff_ne, bit_eq]

end Sys2Proof.Machine

namespace Sys2Proof

open Machine in
/-- Settles O42: entry into the mode that the delegation names, from the hart about to take the trap. -/
theorem trapEntry : Obligations.TrapEntry := by
  unfold Obligations.TrapEntry
  refine ⟨fun s c info small => ?_, fun s c known => ?_⟩
  · have ready := s.me.poised_exception c info
    have cause := causeWord_exception c small
    have taken : (s.raise c info).me = if s.me.delegated c then _ else _ := rfl
    obtain ⟨frame, bytes, smmu⟩ := ready.frame false c (trapValue c info) (s.me.delegated c) taken
    have toS := ready.toS false c (trapValue c info) cause
    have toM := ready.toM false c (trapValue c info) cause
    rw [trapValue_eq] at taken toS toM
    dsimp only
    refine ⟨fun delegated => ?_, fun kept => ?_, fun page => ?_, fun other => ?_, frame, bytes⟩
    · rw [taken, if_pos ((s.me.delegated_iff c).2 delegated)]
      exact toS
    · rw [taken, if_neg fun h => kept ((s.me.delegated_iff c).1 h)]
      exact toM
    · have noted : (s.raise c info).me.smmu.smeh = setField s.me.smmu.smeh 19 27 (field info 12 27) := by
        rw [smmu, Hart.drain_smmu, Hart.notePageFault_of_page page, Hart.tickCycles_smmu]
      rw [noted]
      exact ⟨field_setField _ _ _ _ (field_lt _ _ _) (by decide), fun n outside => by rw [getLsbD_setField, if_neg (by omega)]⟩
    · rw [smmu, Hart.drain_smmu, Hart.notePageFault_of_other other, Hart.tickCycles_smmu]
  · have ready := s.me.poised_interrupt
    have cause := causeWord_interrupt c known
    have taken : (s.takeInterrupt c).me = if s.me.m.mideleg.getLsbD c then _ else _ := rfl
    obtain ⟨frame, bytes, smmu⟩ := ready.frame true c 0 (s.me.m.mideleg.getLsbD c) taken
    have toS := ready.toS true c 0 cause
    have toM := ready.toM true c 0 cause
    rw [trapEntry_interrupt] at toS toM
    dsimp only
    refine ⟨fun delegated => ?_, fun kept => ?_, smmu.trans (Hart.tickCycles_smmu _ _), frame, bytes⟩
    · rw [taken, if_pos delegated]
      exact toS
    · rw [taken, if_neg (Bool.eq_false_iff.1 kept)]
      exact toM

end Sys2Proof

namespace Sys2Proof.Machine

/-! ### Bits of the PLIC's vectors (61_clint_plic:R873) -/

theorem testBit_live (n : Nat) : (2 ^ 145 - 2).testBit n = decide (1 ≤ n ∧ n ≤ 144) := by
  have shape : 2 ^ 145 - 2 = (2 ^ 144 - 1) * 2 ^ 1 := by decide
  rw [shape, Nat.testBit_mul_two_pow, Nat.testBit_two_pow_sub_one, Bool.eq_iff_iff]
  simp only [Bool.and_eq_true, decide_eq_true_eq]
  omega

theorem getLsbD_live (n : Nat) : Plic.live.getLsbD n = decide (1 ≤ n ∧ n ≤ 144) := by
  rw [Plic.live, BitVec.getLsbD_ofNat, testBit_live, Bool.eq_iff_iff]
  simp only [Bool.and_eq_true, decide_eq_true_eq]
  omega

theorem getLsbD_setSource (v : BitVec 1024) (n : Nat) (b : Bool) (k : Nat) :
    (setSource v n b).getLsbD k = if k = n then b && decide (k < 1024) else v.getLsbD k := by
  have one : (1#1024 <<< n).getLsbD k = (decide (k < 1024) && decide (k = n)) := by
    rw [BitVec.getLsbD_shiftLeft, BitVec.getLsbD_one, Bool.eq_iff_iff]
    simp only [Bool.and_eq_true, Bool.not_eq_true', decide_eq_true_eq, decide_eq_false_iff_not]
    omega
  have out : ¬ k < 1024 → v.getLsbD k = false := fun h => BitVec.getLsbD_of_ge v k (by omega)
  cases b
  · simp only [setSource, Bool.false_eq_true, if_false, BitVec.getLsbD_and, BitVec.getLsbD_not, one]
    by_cases small : k < 1024 <;> by_cases same : k = n <;> simp_all
  · simp only [setSource, if_true, BitVec.getLsbD_or, one]
    by_cases small : k < 1024 <;> by_cases same : k = n <;> simp_all

theorem Plic.getLsbD_sample (p : Plic) (n : Nat) :
    p.sample.ip.getLsbD n = (p.ip.getLsbD n || (p.lines.getLsbD n && !p.masked.getLsbD n && decide (1 ≤ n ∧ n ≤ 144))) := by
  rw [Plic.sample, BitVec.getLsbD_or, BitVec.getLsbD_and, BitVec.getLsbD_and, BitVec.getLsbD_not, getLsbD_live]
  by_cases h : n < 1024
  · rw [decide_eq_true h, Bool.true_and]
  · simp only [BitVec.getLsbD_of_ge p.lines n (by omega), Bool.false_and]

/-! ### Arbitration (61_clint_plic:R876, R877) -/

theorem Plic.priority_zero (p : Plic) : p.priority 0 = 0 := rfl

/-- `w` is the winner among the sources up to `n`, or 0 where none qualifies. -/
structure Plic.Leads (p : Plic) (t : Target) (n w : Nat) : Prop where
  upTo      : w ≤ n
  qualifies : w ≠ 0 → p.Qualifies t w
  best      : ∀ m ≤ n, p.Qualifies t m → p.priority m < p.priority w ∨ (p.priority m = p.priority w ∧ w ≤ m)

theorem Plic.winnerUpTo_leads (p : Plic) (t : Target) {n : Nat} (live : n ≤ 144) : p.Leads t n (p.winnerUpTo t n) := by
  induction n with
  | zero => exact ⟨le_rfl, fun h => absurd rfl h, fun m hm q => absurd q.1 (by omega)⟩
  | succ n ih =>
    obtain ⟨upTo, qualifies, best⟩ := ih (by omega)
    unfold Plic.winnerUpTo
    dsimp only
    split
    · next wins =>
      simp only [Bool.and_eq_true, decide_eq_true_eq] at wins
      obtain ⟨⟨pending, enabled⟩, higher⟩ := wins
      have new : p.Qualifies t (n + 1) := ⟨by omega, live, pending, enabled, by omega⟩
      refine ⟨le_rfl, fun _ => new, fun m hm q => ?_⟩
      obtain rfl | earlier : m = n + 1 ∨ m ≤ n := by omega
      · exact .inr ⟨rfl, le_rfl⟩
      · have := best m earlier q
        omega
    · next loses =>
      refine ⟨by omega, qualifies, fun m hm q => ?_⟩
      obtain rfl | earlier : m = n + 1 ∨ m ≤ n := by omega
      · have notHigher : ¬ p.priority (p.winnerUpTo t n) < p.priority (n + 1) := fun higher =>
          loses (by simp only [q.2.2.1, q.2.2.2.1, higher, decide_true, Bool.and_true])
        omega
      · exact best m earlier q

theorem Plic.winner_leads (p : Plic) (t : Target) : p.Leads t 144 (p.winner t) := p.winnerUpTo_leads t le_rfl

theorem Plic.winner_eq_zero_iff (p : Plic) (t : Target) : p.winner t = 0 ↔ ∀ n, ¬ p.Qualifies t n := by
  obtain ⟨-, qualifies, best⟩ := p.winner_leads t
  constructor
  · intro none n q
    have lower := best n q.2.1 q
    rw [none, p.priority_zero] at lower
    exact absurd q.2.2.2.2 (by omega)
  · intro none
    by_contra some
    exact none _ (qualifies some)

theorem Plic.request_iff (p : Plic) (t : Target) :
    p.request t = true ↔ p.winner t ≠ 0 ∧ (p.target t).threshold.toNat < p.priority (p.winner t) := by
  rw [Plic.request, Bool.and_eq_true, bne_iff_ne, decide_eq_true_iff]

/-! ### Claim and completion (61_clint_plic:R878 to R880) -/

/-- A claim moves the pending and the masked bits alone. -/
theorem Plic.claimed_eq (p : Plic) (n : Nat) :
    p.claimed n = { p with ip := (p.claimed n).ip, masked := (p.claimed n).masked } := by
  unfold Plic.claimed
  split <;> rfl

theorem Plic.getLsbD_claimed_ip (p : Plic) (n k : Nat) : (p.claimed n).ip.getLsbD k = (p.ip.getLsbD k && (n == 0 || k != n)) := by
  unfold Plic.claimed
  by_cases zero : n = 0
  · simp only [zero, if_true, beq_self_eq_true, Bool.true_or, Bool.and_true]
  · by_cases same : k = n <;> simp [zero, same, getLsbD_setSource]

theorem Plic.getLsbD_claimed_masked (p : Plic) {n : Nat} (small : n < 1024) (k : Nat) :
    (p.claimed n).masked.getLsbD k = (p.masked.getLsbD k || (n != 0 && k == n)) := by
  unfold Plic.claimed
  by_cases zero : n = 0
  · simp [zero]
  · rw [if_neg zero]
    show (setSource p.masked n true).getLsbD k = _
    rw [getLsbD_setSource]
    by_cases same : k = n
    · simp [same, small, zero]
    · simp [same]

theorem Plic.getLsbD_completed_masked (p : Plic) (n k : Nat) :
    (p.completed n).masked.getLsbD k = (p.masked.getLsbD k && k != n) := by
  show (setSource p.masked n false).getLsbD k = _
  by_cases same : k = n <;> simp [same, getLsbD_setSource]

theorem Plic.getLsbD_completed_ip (p : Plic) (n k : Nat) :
    (p.completed n).ip.getLsbD k =
      (p.ip.getLsbD k || (p.lines.getLsbD k && !(p.masked.getLsbD k && k != n) && decide (1 ≤ k ∧ k ≤ 144))) := by
  rw [← p.getLsbD_completed_masked]
  exact Plic.getLsbD_sample _ k

/-- Settles O52: the winner leads all sources, and the bits of the two vectors after a claim and a completion. -/
theorem plicArbitration : Obligations.PlicArbitration := by
  unfold Obligations.PlicArbitration
  refine ⟨fun p t => ⟨p.winner_eq_zero_iff t, fun some => ?_, p.request_iff t⟩, fun s t => ?_, fun s t v => ?_⟩
  · obtain ⟨-, qualifies, best⟩ := p.winner_leads t
    exact ⟨qualifies some, fun n q => best n q.2.1 q⟩
  · have small : s.plic.winner t < 1024 := Nat.lt_of_le_of_lt (s.plic.winner_leads t).upTo (by decide)
    exact ⟨rfl, congrArg (fun p => { s with plic := p }) (s.plic.claimed_eq _), s.plic.getLsbD_claimed_ip _,
      s.plic.getLsbD_claimed_masked small⟩
  · exact ⟨rfl, s.plic.getLsbD_completed_masked _, s.plic.getLsbD_completed_ip _⟩

end Sys2Proof.Machine

namespace Sys2Proof.Machine

/-! ### What a register reads back after its own write (11_csr_standard, 12_csr_extended) -/

/-- The low bits of a word, as FCSR and FXCR store them. -/
theorem toNat_and_maskOf_zero (v : Word) {n : Nat} (h : n ≤ 64) : (v &&& maskOf 0 n).toNat = v.toNat % 2 ^ n := by
  have fits : 2 ^ n - 1 < 2 ^ 64 := lt_of_lt_of_le (Nat.sub_lt (Nat.two_pow_pos n) one_pos) (Nat.pow_le_pow_right two_pos h)
  rw [BitVec.toNat_and, maskOf, pow_zero, mul_one, BitVec.toNat_ofNat, Nat.mod_eq_of_lt fits, Nat.and_two_pow_sub_one_eq_mod]

theorem setWidth_setWidth_eq_and_maskOf (v : Word) {n : Nat} (h : n ≤ 64) : (v.setWidth n).setWidth 64 = v &&& maskOf 0 n := by
  apply BitVec.eq_of_toNat_eq
  rw [toNat_and_maskOf_zero v h, BitVec.toNat_setWidth, BitVec.toNat_setWidth]
  exact Nat.mod_eq_of_lt (lt_of_le_of_lt (Nat.mod_le _ _) v.isLt)

theorem csrRead_fcsr_csrWrite (s : State) (v : Word) : (s.csrWrite .fcsr v).csrRead .fcsr = v &&& 0xff := by
  show BitVec.ofNat 64 ((v.setWidth 5).toNat + (BitVec.ofNat 3 (field v 5 3)).toNat * 2 ^ 5) = v &&& maskOf 0 8
  apply BitVec.eq_of_toNat_eq
  rw [toNat_and_maskOf_zero v (by decide)]
  simp only [BitVec.toNat_ofNat, BitVec.toNat_setWidth, field]
  omega

/-- A run of `len` bits of a number, in place. -/
theorem and_shiftedMask (a lo len : Nat) : a &&& 2 ^ lo * (2 ^ len - 1) = 2 ^ lo * (a / 2 ^ lo % 2 ^ len) := by
  apply Nat.eq_of_testBit_eq
  intro k
  rw [Nat.testBit_and, Nat.testBit_two_pow_mul, Nat.testBit_two_pow_mul, Nat.testBit_two_pow_sub_one, Nat.testBit_mod_two_pow,
    Nat.testBit_div_two_pow]
  by_cases above : lo ≤ k
  · rw [Nat.sub_add_cancel above, Bool.and_left_comm, Bool.and_comm (a.testBit k)]
  · rw [decide_eq_false above, Bool.false_and, Bool.and_false, Bool.false_and]

theorem csrRead_fxcr_csrWrite (s : State) (v : Word) : (s.csrWrite .fxcr v).csrRead .fxcr = v &&& 0x780003f := by
  have mask : (0x780003f : Nat) = 2 ^ 23 * (2 ^ 4 - 1) ||| (2 ^ 6 - 1) := by decide
  have value : v.toNat &&& 0x780003f = 8388608 * (v.toNat / 8388608 % 16) + v.toNat % 64 := by
    rw [mask, Nat.and_or_distrib_left, and_shiftedMask, Nat.and_two_pow_sub_one_eq_mod, ← Nat.two_pow_add_eq_or_of_lt]
    · rfl
    exact lt_of_lt_of_le (Nat.mod_lt _ (by decide)) (by decide)
  show BitVec.ofNat 64 ((v.setWidth 5).toNat + (bit v 5).toNat * 2 ^ 5 + (bit v 23).toNat * 2 ^ 23 +
    (BitVec.ofNat 3 (field v 24 3)).toNat * 2 ^ 24) = v &&& 0x780003f#64
  apply BitVec.eq_of_toNat_eq
  rw [BitVec.toNat_and, BitVec.toNat_ofNat, show (0x780003f#64).toNat = 0x780003f from rfl, value]
  simp only [BitVec.toNat_ofNat, BitVec.toNat_setWidth, field, bit, BitVec.getLsbD, Nat.toNat_testBit, Nat.reducePow, Nat.mod_mod]
  have next5 : v.toNat / 32 / 2 = v.toNat / 64 := Nat.div_div_eq_div_mul ..
  have next23 : v.toNat / 8388608 / 2 = v.toNat / 16777216 := Nat.div_div_eq_div_mul ..
  have above : v.toNat / 16777216 / 8 = v.toNat / 8388608 / 16 := by omega
  omega

/-! Registers whose write keeps some bits -/

theorem getLsbD_blend_bitsMask (l : List Nat) (below : ∀ k ∈ l, k < 64) (old new : Word) (n : Nat) :
    (blend (bitsMask l) old new).getLsbD n = if n ∈ l then new.getLsbD n else old.getLsbD n := by
  rw [getLsbD_blend, getLsbD_bitsMask]
  refine if_congr ?_ rfl rfl
  rw [decide_eq_true_iff]
  exact ⟨fun h => h.1, fun h => ⟨h, below n h⟩⟩

theorem getLsbD_csrWrite_sie (s : State) (v : Word) (n : Nat) : ((s.csrWrite .sie v).csrRead .mie).getLsbD n =
    if n ∈ [1, 5, 9, 17] ∧ s.me.m.mideleg.getLsbD n = true then v.getLsbD n else (s.csrRead .mie).getLsbD n := by
  show (blend (s.me.m.mideleg &&& bitsMask [1, 5, 9, 17]) s.me.m.mie v).getLsbD n = _
  rw [getLsbD_blend, BitVec.getLsbD_and, getLsbD_bitsMask]
  refine if_congr ?_ rfl rfl
  rw [Bool.and_eq_true, decide_eq_true_iff, and_comm]
  have below : ∀ k ∈ [1, 5, 9, 17], k < 64 := by decide
  exact and_congr_left fun _ => ⟨fun h => h.1, fun h => ⟨h, below n h⟩⟩

theorem getLsbD_csrWrite_mhcr (s : State) (v : Word) (n : Nat) : ((s.csrWrite .mhcr v).csrRead .mhcr).getLsbD n =
    if n ∈ [0, 1, 2, 4, 5, 6, 7, 12] then v.getLsbD n else (s.csrRead .mhcr).getLsbD n :=
  getLsbD_blend_bitsMask _ (by decide) _ v n

theorem getLsbD_csrWrite_mccr2 (s : State) (v : Word) (n : Nat) : ((s.csrWrite .mccr2 v).csrRead .mccr2).getLsbD n =
    if n ∈ [0, 16, 17, 18, 19, 22, 23, 24, 25, 29, 30, 31] then v.getLsbD n else (s.csrRead .mccr2).getLsbD n :=
  getLsbD_blend_bitsMask _ (by decide) _ v n

/-- PM of `mxstatus` shows the mode (12_csr_extended:R130, log 16). -/
theorem Hart.getLsbD_mxstatusRead (h : Hart) {n : Nat} (other : n ∉ [30, 31]) : h.mxstatusRead.getLsbD n = h.th.mxstatus.getLsbD n := by
  rw [Hart.mxstatusRead, getLsbD_setField, if_neg]
  simp only [List.mem_cons, List.not_mem_nil, or_false, not_or] at other
  omega

theorem Hart.field_mxstatusRead (h : Hart) : field h.mxstatusRead 30 2 = h.priv.code :=
  field_setField _ 30 2 _ (by cases h.priv <;> decide) (by decide)

theorem getLsbD_csrWrite_sxstatus (s : State) (v : Word) (n : Nat) : ((s.csrWrite .sxstatus v).csrRead .mxstatus).getLsbD n =
    if n ∈ [15] then v.getLsbD n else (s.csrRead .mxstatus).getLsbD n := by
  show (setField (setBit s.me.th.mxstatus 15 (v.getLsbD 15)) 30 2 s.me.priv.code).getLsbD n =
    if n ∈ [15] then v.getLsbD n else (setField s.me.th.mxstatus 30 2 s.me.priv.code).getLsbD n
  rw [getLsbD_setField, getLsbD_setField, getLsbD_setBit]
  by_cases mm : n = 15
  · subst mm
    rfl
  · have outside : ¬ (n = 15 ∧ n < 64) := fun h => mm h.1
    rw [if_neg outside, if_neg (mt List.mem_singleton.1 mm)]

theorem csrRead_mxstatus_csrWrite (s : State) (v : Word) : let w := (s.csrWrite .mxstatus v).csrRead .mxstatus
    field w 30 2 = s.me.priv.code ∧ ∀ n, n ∉ [30, 31] → w.getLsbD n = (v &&& 0x6fec00).getLsbD n :=
  ⟨Hart.field_mxstatusRead _, fun _ other => Hart.getLsbD_mxstatusRead _ other⟩

/-- SD of `mstatus` says that FS is Dirty; the other bits are those stored (11_csr_standard:R64). -/
theorem Hart.getLsbD_mstatusRead (h : Hart) {n : Nat} (other : n ≠ 63) : h.mstatusRead.getLsbD n = h.m.mstatus.getLsbD n :=
  getLsbD_setBit_of_ne _ _ other

theorem Hart.getLsbD_mstatusRead_63 (h : Hart) : h.mstatusRead.getLsbD 63 = (field h.m.mstatus 13 2 == 3) :=
  getLsbD_setBit_self _ _ (by decide)

theorem Hart.field_mstatusRead (h : Hart) : field h.mstatusRead 11 2 = field h.m.mstatus 11 2 :=
  field_setBit _ 63 _ 11 2 (by decide)

/-- The bits of a written `mstatus` other than MPP. -/
theorem getLsbD_mstatusWritten (old new : Word) {n : Nat} (other : n ∉ [11, 12]) :
    (mstatusWritten old new).getLsbD n =
      if n ∈ [1, 3, 5, 7, 8, 13, 14, 17, 18, 19, 20, 21, 22] then new.getLsbD n else old.getLsbD n := by
  have plain : (blend mstatusMask old new).getLsbD n = _ := getLsbD_blend_bitsMask _ (by decide) old new n
  have mpp : (maskOf mstatusMPP 2).getLsbD n = false := by
    simp only [List.mem_cons, List.not_mem_nil, or_false, not_or] at other
    rw [getLsbD_maskOf, mstatusMPP, decide_eq_false (p := 11 ≤ n ∧ n < 11 + 2) (by omega), Bool.and_false]
  unfold mstatusWritten
  dsimp only
  split
  · exact plain
  · rw [getLsbD_blend, mpp, if_neg Bool.false_ne_true]
    exact plain

/-- MPP of a written `mstatus`: the reserved value 2 keeps the old field (log 10). -/
theorem field_mstatusWritten (old new : Word) :
    field (mstatusWritten old new) 11 2 = if field new 11 2 = 2 then field old 11 2 else field new 11 2 := by
  have mpp : ∀ k, 11 ≤ k → k < 11 + 2 → (blend mstatusMask old new).getLsbD k = old.getLsbD k := fun k low high => by
    have other : k ∉ [1, 3, 5, 7, 8, 13, 14, 17, 18, 19, 20, 21, 22] := by
      simp only [List.mem_cons, List.not_mem_nil, or_false, not_or]
      omega
    exact (getLsbD_blend_bitsMask _ (by decide) old new k).trans (if_neg other)
  show field (if field new 11 2 = 2 then _ else _) 11 2 = _
  split
  · exact field_congr mpp
  · refine field_congr fun k low high => ?_
    have within : (maskOf mstatusMPP 2).getLsbD k = true := by
      rw [getLsbD_maskOf, decide_eq_true (show k < 64 by omega), Bool.true_and]
      exact decide_eq_true ⟨low, high⟩
    rw [getLsbD_blend, within, if_pos rfl]

theorem csrRead_mstatus_csrWrite (s : State) (v : Word) : let w := (s.csrWrite .mstatus v).csrRead .mstatus
    let l := [1, 3, 5, 7, 8, 13, 14, 17, 18, 19, 20, 21, 22]
    (∀ n ∈ l, w.getLsbD n = v.getLsbD n) ∧
      field w 11 2 = (if field v 11 2 = 2 then field s.me.m.mstatus 11 2 else field v 11 2) ∧
      w.getLsbD 63 = (field v 13 2 == 3) ∧
      ∀ n, n ∉ l ++ [11, 12, 63] → w.getLsbD n = (s.csrRead .mstatus).getLsbD n := by
  intro w l
  have listed : ∀ n ∈ l, n ∉ [11, 12] ∧ n ≠ 63 := by decide
  have fs : field (mstatusWritten s.me.m.mstatus v) 13 2 = field v 13 2 := field_congr fun k low high => by
    obtain rfl | rfl : k = 13 ∨ k = 14 := by omega
    all_goals exact getLsbD_mstatusWritten _ v (by decide)
  refine ⟨fun n mem => ?_, (Hart.field_mstatusRead _).trans (field_mstatusWritten _ v),
    (Hart.getLsbD_mstatusRead_63 _).trans (congrArg (· == 3) fs), fun n out => ?_⟩
  · obtain ⟨notMpp, notSd⟩ := listed n mem
    exact (Hart.getLsbD_mstatusRead _ notSd).trans ((getLsbD_mstatusWritten _ v notMpp).trans (if_pos mem))
  · have notL : n ∉ l := fun mem => out (List.mem_append_left _ mem)
    have notMpp : n ∉ [11, 12] := fun mem => out (List.mem_append_right l (List.mem_append_left [63] mem))
    have notSd : n ≠ 63 := fun e => out (List.mem_append_right l (by rw [e]; decide))
    exact (Hart.getLsbD_mstatusRead _ notSd).trans (((getLsbD_mstatusWritten _ v notMpp).trans (if_neg notL)).trans
      (Hart.getLsbD_mstatusRead _ notSd).symm)

theorem csrRead_sstatus_csrWrite (s : State) (v : Word) : let w := (s.csrWrite .sstatus v).csrRead .mstatus
    let l := [1, 5, 8, 13, 14, 18, 19]
    (∀ n ∈ l, w.getLsbD n = v.getLsbD n) ∧ w.getLsbD 63 = (field v 13 2 == 3) ∧
      ∀ n, n ∉ l ++ [63] → w.getLsbD n = (s.csrRead .mstatus).getLsbD n := by
  intro w l
  have bits := getLsbD_blend_bitsMask l (by decide) s.me.m.mstatus v
  have notSd : ∀ n ∈ l, n ≠ 63 := by decide
  have fs : field (blend sstatusMask s.me.m.mstatus v) 13 2 = field v 13 2 := field_congr fun k low high => by
    obtain rfl | rfl : k = 13 ∨ k = 14 := by omega
    all_goals exact (bits _).trans (if_pos (by decide))
  refine ⟨fun n mem => ?_, (Hart.getLsbD_mstatusRead_63 _).trans (congrArg (· == 3) fs), fun n out => ?_⟩
  · exact (Hart.getLsbD_mstatusRead _ (notSd n mem)).trans ((bits n).trans (if_pos mem))
  · have notL : n ∉ l := fun mem => out (List.mem_append_left _ mem)
    have notSd : n ≠ 63 := fun e => out (List.mem_append_right l (List.mem_singleton.2 e))
    exact (Hart.getLsbD_mstatusRead _ notSd).trans (((bits n).trans (if_neg notL)).trans (Hart.getLsbD_mstatusRead _ notSd).symm)

/-- `sstatus` shows the supervisor's fields of `mstatus` (11_csr_standard:R100). -/
theorem csrRead_sstatus (s : State) : s.csrRead .sstatus = s.csrRead .mstatus &&& 0x80000003000c6122 := by
  have view : (0x80000003000c6122 : Word) = setBit sstatusView 63 true := by decide
  rw [view]
  refine word_ext fun k _ => ?_
  show (setBit (s.me.m.mstatus &&& sstatusView) 63 _).getLsbD k = (setBit s.me.m.mstatus 63 _ &&& _).getLsbD k
  rw [BitVec.getLsbD_and, getLsbD_setBit, getLsbD_setBit, getLsbD_setBit]
  split
  · exact (Bool.and_true _).symm
  · exact BitVec.getLsbD_and

theorem csrRead_satp_csrWrite (s : State) (v : Word) : (s.csrWrite .satp v).csrRead .satp =
    if field v 60 4 = 0 ∨ field v 60 4 = 8 then v else s.csrRead .satp := rfl

/-! Physical memory protection -/

theorem field_cfgRead (p : Pmp) (i : Fin 8) : field p.cfgRead (8 * i.val) 8 = (p.cfg[i]).toNat := by
  have inside := i.isLt
  have byte := congrArg BitVec.toNat (extractLsb'_ofBytesLe (n := 64) p.cfg.toList i.val (by omega))
  rw [extract_toNat] at byte
  refine byte.trans (congrArg BitVec.toNat ?_)
  rw [List.getD_eq_getElem _ _ (by simp), Vector.getElem_toList]
  rfl

theorem csrRead_pmpcfg0_csrWrite (s : State) (v : Word) (i : Fin 8) :
    let w := field ((s.csrWrite .pmpcfg0 v).csrRead .pmpcfg0) (8 * i.val) 8
    let old := (s.me.pmp.cfg[i]).toNat
    let new := field v (8 * i.val) 8
    w = if old / 128 = 1 then old else if new / 8 % 4 = 2 then (new &&& 0x87) + (old &&& 0x18) else new &&& 0x9f := by
  intro w old new
  have byte : w = (pmpCfgWritten s.me.pmp.cfg[i] (BitVec.ofNat 8 new)).toNat := by
    refine (field_cfgRead _ i).trans (congrArg BitVec.toNat ?_)
    exact Vector.getElem_ofFn _
  have small : new < 256 := field_lt v _ 8
  have whole : (BitVec.ofNat 8 new).toNat = new := (BitVec.toNat_ofNat ..).trans (Nat.mod_eq_of_lt small)
  have lock : s.me.pmp.cfg[i].getLsbD 7 = true ↔ old / 128 = 1 := by
    have range := s.me.pmp.cfg[i].isLt
    rw [BitVec.getLsbD, Nat.testBit_eq_decide_div_mod_eq, decide_eq_true_iff]
    omega
  have apart : (BitVec.ofNat 8 new &&& 0x87) &&& (s.me.pmp.cfg[i] &&& 0x18) = 0 := by
    calc (BitVec.ofNat 8 new &&& 0x87) &&& (s.me.pmp.cfg[i] &&& 0x18)
        = (BitVec.ofNat 8 new &&& s.me.pmp.cfg[i]) &&& (0x87 &&& 0x18) := by ac_rfl
      _ = 0 := BitVec.and_zero
  rw [byte, pmpCfgWritten, whole]
  simp only [lock]
  split
  · rfl
  · split
    · have low : new &&& 0x87 ≤ 0x87 := Nat.and_le_right
      have high : old &&& 0x18 ≤ 0x18 := Nat.and_le_right
      rw [← BitVec.add_eq_or_of_and_eq_zero _ _ apart, BitVec.toNat_add, BitVec.toNat_and, BitVec.toNat_and, whole]
      exact Nat.mod_eq_of_lt (show (new &&& 0x87) + (old &&& 0x18) < 2 ^ 8 by omega)
    · rw [BitVec.toNat_and, whole]
      rfl

theorem Pmp.addrLocked_iff (p : Pmp) (i : Fin 8) : p.addrLocked i = true ↔ (p.cfg[i]).getLsbD 7 = true ∨
    ∃ h : i.val + 1 < 8, (p.cfg[i.val + 1]).getLsbD 7 = true ∧ (p.cfg[i.val + 1]).toNat / 8 % 4 = 1 := by
  unfold Pmp.addrLocked
  by_cases h : i.val + 1 < 8 
  · simp only [h, dif_pos, Bool.or_eq_true, Bool.and_eq_true, beq_iff_eq, exists_true_left]
  · simp only [h, dif_neg, Bool.or_false, IsEmpty.exists_iff, or_false, not_false_eq_true]

theorem csrRead_pmpaddr_csrWrite (s : State) (v : Word) (i : Fin 8) : (s.csrWrite (.pmpaddr i) v).csrRead (.pmpaddr i) =
    if s.me.pmp.addrLocked i then s.csrRead (.pmpaddr i) else v &&& 0x3fffffffff := by
  show ((s.me.pmp.addrWrite i v).addr[i]).setWidth 64 = _
  unfold Pmp.addrWrite
  split
  · rfl
  · show ((s.me.pmp.addr.set i.val (v.setWidth 38) i.isLt)[i.val]).setWidth 64 = v &&& maskOf 0 38
    rw [Vector.getElem_set_self, setWidth_setWidth_eq_and_maskOf v (by decide)]

theorem csrRead_mapbaddr (s : State) : (s.csrRead .mapbaddr).toNat = s.soc.apbHi.toNat * 2 ^ 27 := by
  have small := s.soc.apbHi.isLt
  exact (BitVec.toNat_ofNat ..).trans (Nat.mod_eq_of_lt (by omega))

theorem setWidth_clearLow (w : BitVec 40) : (w &&& ~~~1#40).setWidth 64 = w.setWidth 64 &&& ~~~1#64 := by
  refine word_ext fun k small => ?_
  rw [BitVec.getLsbD_setWidth, BitVec.getLsbD_and, BitVec.getLsbD_and, BitVec.getLsbD_setWidth, BitVec.getLsbD_not, BitVec.getLsbD_not,
    BitVec.getLsbD_one, BitVec.getLsbD_one, decide_eq_true small]
  by_cases low : k < 40
  · rw [decide_eq_true low]
    rfl
  · rw [BitVec.getLsbD_of_ge w k (by omega)]
    rfl

/-! ### What a write leaves alone -/

/-- The supervisor's registers are fields of one record, each shown by its own register alone. -/
theorem csrRead_csrWrite_sup (s : State) (v : Word) {c c' : Csr} (h : c.group ≠ c'.group)
    (written : c ∈ [Csr.stvec, .scounteren, .sscratch, .sepc, .scause, .stval, .satp]) :
    (s.csrWrite c v).csrRead c' = s.csrRead c' := by
  simp only [List.mem_cons, List.not_mem_nil, or_false] at written
  rcases written with rfl | rfl | rfl | rfl | rfl | rfl | rfl <;> cases c'
  -- The register itself is excluded; every other one reads another field.
  any_goals exact absurd rfl h
  all_goals rfl

theorem csrRead_csrWrite_trap (s : State) (v : Word) {c c' : Csr} (h : c.group ≠ c'.group)
    (written : c ∈ [Csr.medeleg, .mtvec, .mcounteren, .mcountinhibit, .mscratch, .mepc, .mcause, .mtval]) :
    (s.csrWrite c v).csrRead c' = s.csrRead c' := by
  simp only [List.mem_cons, List.not_mem_nil, or_false] at written
  rcases written with rfl | rfl | rfl | rfl | rfl | rfl | rfl | rfl <;> cases c'
  -- The register itself is excluded; every other one reads another field.
  any_goals exact absurd rfl h
  all_goals rfl

theorem csrRead_csrWrite_thead (s : State) (v : Word) {c c' : Csr} (h : c.group ≠ c'.group)
    (written : c ∈ [Csr.mhcr, .mccr2, .mhint, .mcindex, .mcdata0, .mcdata1, .msmpr]) :
    (s.csrWrite c v).csrRead c' = s.csrRead c' := by
  simp only [List.mem_cons, List.not_mem_nil, or_false] at written
  rcases written with rfl | rfl | rfl | rfl | rfl | rfl | rfl <;> cases c'
  -- The register itself is excluded; every other one reads another field.
  any_goals exact absurd rfl h
  all_goals rfl

theorem csrRead_csrWrite_status (s : State) (v : Word) {c c' : Csr} (h : (0, 0) ≠ c'.group)
    (written : c ∈ [Csr.fflags, .frm, .fcsr, .fxcr, .sstatus, .mstatus]) :
    (s.csrWrite c v).csrRead c' = s.csrRead c' := by
  simp only [List.mem_cons, List.not_mem_nil, or_false] at written
  cases c'
  case fflags | frm | fcsr | fxcr | sstatus | mstatus => exact absurd rfl h
  all_goals rcases written with rfl | rfl | rfl | rfl | rfl | rfl <;> rfl

theorem csrRead_csrWrite_interrupt (s : State) (v : Word) {c c' : Csr} (h : (1, 0) ≠ c'.group)
    (written : c ∈ [Csr.sie, .mie, .mideleg, .mxstatus, .sxstatus, .scounterinten, .scounterof, .mcounterwen, .mcounterinten, .mcounterof]) :
    (s.csrWrite c v).csrRead c' = s.csrRead c' := by
  simp only [List.mem_cons, List.not_mem_nil, or_false] at written
  cases c'
  case sie | mie | mideleg | sip | mip | mxstatus | sxstatus | scounterinten | scounterof | mcounterwen | mcounterinten | mcounterof =>
    exact absurd rfl h
  all_goals rcases written with rfl | rfl | rfl | rfl | rfl | rfl | rfl | rfl | rfl | rfl <;> rfl

theorem csrRead_setSsip (s : State) (id : HartId) (b latch : Bool) {c' : Csr} (h : (1, 0) ≠ c'.group) :
    (s.setSsip id b latch).csrRead c' = s.csrRead c' := by
  rw [State.setSsip_eq]
  cases c'
  case sie | mie | mideleg | sip | mip | mxstatus | sxstatus | scounterinten | scounterof | mcounterwen | mcounterinten | mcounterof =>
    exact absurd rfl h
  all_goals rfl

theorem csrRead_csrWrite_tlb (s : State) (v : Word) {c c' : Csr} (h : (8, 0) ≠ c'.group)
    (written : c ∈ [Csr.smcir, .smir, .smel, .smeh]) : (s.csrWrite c v).csrRead c' = s.csrRead c' := by
  have frame : TlbFrame s (s.csrWrite c v) := by
    simp only [List.mem_cons, List.not_mem_nil, or_false] at written
    rcases written with rfl | rfl | rfl | rfl
    · exact s.smcirWrite_frame v
    all_goals rfl
  rw [TlbFrame] at frame
  rw [frame]
  cases c'
  case smcir | smir | smel | smeh => exact absurd rfl h
  all_goals rfl

theorem csrRead_mcorWrite (s : State) (v : Word) {c' : Csr} (h : c' ≠ .mcor) : (s.mcorWrite v).csrRead c' = s.csrRead c' := by
  obtain ⟨t, frame, e⟩ := s.mcorWrite_eq v
  rw [CacheFrame] at frame
  rw [e, frame]
  cases c'
  case mcor => exact absurd rfl h
  all_goals rfl

theorem csrRead_mcinsWrite (s : State) (v : Word) {c' : Csr} (h : (7, 0) ≠ c'.group) : (s.mcinsWrite v).csrRead c' = s.csrRead c' := by
  unfold State.mcinsWrite
  split
  · cases c'
    case mcins | mcdata0 | mcdata1 => exact absurd rfl h
    all_goals rfl
  · rfl

/-- The counters and their event selectors (11_csr_standard:R89 to R91). -/
theorem csrRead_setPmu (s : State) (r : Pmu) {c' : Csr} (cycles : c'.group = (2, 0) → r.mcycle = s.me.pmu.mcycle)
    (retired : c'.group = (2, 2) → r.minstret = s.me.pmu.minstret)
    (counted : ∀ k : Fin 29, c'.group = (2, k.val + 3) → r.hpm[k] = s.me.pmu.hpm[k])
    (selected : ∀ k : Fin 29, c'.group = (3, k.val) → r.event[k] = s.me.pmu.event[k]) :
    (s.setPmu r).csrRead c' = s.csrRead c' := by
  cases c'
  case mcycle | scycle | cycle => exact cycles rfl
  case minstret | sinstret | instret => exact retired rfl
  case mhpmcounter k | shpmcounter k | hpmcounter k => exact counted k rfl
  case mhpmevent k => exact selected k rfl
  all_goals rfl

theorem Pmu.getElem_hpm_init (p : Pmu) {k j : Fin 29} (v : Word) (h : k ≠ j) : (p.init k v).hpm[j] = p.hpm[j] :=
  Vector.getElem_set_ne k.isLt j.isLt fun e => h (Fin.ext e)

theorem csrRead_setPmp (s : State) (r : Pmp) {c' : Csr} (shown : c'.group = (5, 0) → r.cfg = s.me.pmp.cfg)
    (addressed : ∀ i : Fin 8, c'.group = (4, i.val) → r.addr[i] = s.me.pmp.addr[i]) :
    ({ s with me := { s.me with pmp := r } } : State).csrRead c' = s.csrRead c' := by
  cases c'
  case pmpcfg0 => exact congrArg (fun cfg => BitVec.ofNat 64 (ofBytesLe cfg.toList)) (shown rfl)
  case pmpaddr i => exact congrArg (BitVec.setWidth 64) (addressed i rfl)
  all_goals rfl

theorem Pmp.addrWrite_cfg (p : Pmp) (i : Fin 8) (v : Word) : (p.addrWrite i v).cfg = p.cfg := by
  unfold Pmp.addrWrite
  split <;> rfl

theorem Pmp.getElem_addrWrite (p : Pmp) {i j : Fin 8} (v : Word) (h : i ≠ j) : (p.addrWrite i v).addr[j] = p.addr[j] := by
  unfold Pmp.addrWrite
  split
  · rfl
  · exact Vector.getElem_set_ne i.isLt j.isLt fun e => h (Fin.ext e)

theorem csrRead_csrWrite_of_group_ne (s : State) {c c' : Csr} (v : Word) (h : c.group ≠ c'.group) :
    (s.csrWrite c v).csrRead c' = s.csrRead c' := by
  cases c
  case misa | shcr | mrvbr | cycle | time | instret | hpmcounter | mvendorid | marchid | mimpid | mhartid | mcpuid | mapbaddr => rfl
  case fflags | frm | fcsr | fxcr | sstatus | mstatus => exact csrRead_csrWrite_status s v h (by decide)
  case sie | mie | mideleg | mxstatus | sxstatus | scounterinten | scounterof | mcounterwen | mcounterinten | mcounterof =>
    exact csrRead_csrWrite_interrupt s v h (by decide)
  case mip => exact csrRead_setSsip _ _ _ _ h
  case sip =>
    simp only [State.csrWrite]
    split
    · exact csrRead_setSsip _ _ _ _ h
    · rfl
  case stvec | scounteren | sscratch | sepc | scause | stval | satp => exact csrRead_csrWrite_sup s v h (by decide)
  case medeleg | mtvec | mcounteren | mcountinhibit | mscratch | mepc | mcause | mtval => exact csrRead_csrWrite_trap s v h (by decide)
  case mhcr | mccr2 | mhint | mcindex | mcdata0 | mcdata1 | msmpr => exact csrRead_csrWrite_thead s v h (by decide)
  case smcir | smir | smel | smeh => exact csrRead_csrWrite_tlb s v h (by decide)
  case mcor => exact csrRead_mcorWrite s v fun e => h (congrArg Csr.group e).symm
  case mcins => exact csrRead_mcinsWrite s v h
  case mcycle | scycle =>
    exact csrRead_setPmu s _ (fun e => absurd e.symm h) (fun _ => rfl) (fun _ _ => rfl) fun _ _ => rfl
  case minstret | sinstret =>
    exact csrRead_setPmu s _ (fun _ => rfl) (fun e => absurd e.symm h) (fun _ _ => rfl) fun _ _ => rfl
  case mhpmcounter k | shpmcounter k =>
    refine csrRead_setPmu s _ (fun _ => rfl) (fun _ => rfl) (fun j e => ?_) fun _ _ => rfl
    exact Pmu.getElem_hpm_init _ v fun same => h (by rw [e, ← same]; rfl)
  case mhpmevent k =>
    refine csrRead_setPmu s _ (fun _ => rfl) (fun _ => rfl) (fun _ _ => rfl) fun j e => ?_
    exact Vector.getElem_set_ne k.isLt j.isLt fun same => h (e.trans (by rw [← same]; rfl)).symm
  case pmpcfg0 => exact csrRead_setPmp s _ (fun e => absurd e.symm h) fun _ _ => rfl
  case pmpaddr i =>
    refine csrRead_setPmp s _ (fun _ => Pmp.addrWrite_cfg _ i v) fun j e => ?_
    exact Pmp.getElem_addrWrite _ v fun same => h (by rw [e, ← same]; rfl)

theorem Pmu.getElem_hpm_init_self (p : Pmu) (k : Fin 29) (v : Word) : (p.init k v).hpm[k] = v := Vector.getElem_set_self k.isLt

theorem csrRead_mhpmevent_csrWrite (s : State) (k : Fin 29) (v : Word) : (s.csrWrite (.mhpmevent k) v).csrRead (.mhpmevent k) = v :=
  Vector.getElem_set_self k.isLt

/-- Settles O55: what each register reads back, the registers of other storage, and the bytes of memory. -/
theorem csrStorage : Obligations.CsrStorage := by
  unfold Obligations.CsrStorage
  refine ⟨fun s v => ?_, fun s c c' v => csrRead_csrWrite_of_group_ne s v, fun s c v => s.csrWrite_same c v⟩
  -- The registers that store every bit written.
  refine ⟨rfl, rfl, rfl, rfl, rfl, rfl, rfl, rfl, rfl, rfl, rfl, rfl, rfl, rfl, ?_⟩
  -- Those that store the bits of a mask.
  refine ⟨rfl, rfl, rfl, rfl, rfl, rfl, rfl, rfl, rfl, rfl, rfl, rfl, setWidth_setWidth_eq_and_maskOf v (by decide),
    setWidth_setWidth_eq_and_maskOf v (by decide), csrRead_fcsr_csrWrite s v, csrRead_fxcr_csrWrite s v, rfl, rfl, rfl, rfl, rfl, ?_⟩
  -- Those that keep the other bits, or have fields of their own.
  refine ⟨getLsbD_csrWrite_sie s v, getLsbD_csrWrite_mhcr s v, getLsbD_csrWrite_mccr2 s v, getLsbD_csrWrite_sxstatus s v,
    getLsbD_blend _ _ v, getLsbD_blend _ _ v, csrRead_mxstatus_csrWrite s v, csrRead_mstatus_csrWrite s v,
    csrRead_sstatus_csrWrite s v, csrRead_pmpcfg0_csrWrite s v,
    fun i => ⟨Pmp.addrLocked_iff _ i, csrRead_pmpaddr_csrWrite s v i⟩, rfl, rfl,
    fun k => ⟨Pmu.getElem_hpm_init_self _ k v, Pmu.getElem_hpm_init_self _ k v, csrRead_mhpmevent_csrWrite s k v, rfl, rfl⟩,
    csrRead_satp_csrWrite s v, ?_⟩
  -- The views and the constants.
  refine ⟨csrRead_sstatus s, rfl, rfl, rfl, rfl, rfl, rfl, rfl, rfl, rfl, rfl, rfl, rfl, rfl, ?_, ?_, csrRead_mapbaddr s⟩
  · show s.soc.hartid s.me.id = _
    cases s.me.id <;> rfl
  · show s.soc.mrvbr s.me.id = _
    cases s.me.id <;> exact setWidth_clearLow _

end Sys2Proof.Machine

namespace Sys2Proof.Machine

/-! ### What no device register depends on -/

/-- `t` differs from `s` at most in the own TLBs, the other core's monitors, and the free values used up. -/
def Unseen (s t : State) : Prop :=
  t = { s with me := { s.me with tlb := t.me.tlb }, other := { s.other with lmon := t.other.lmon, gmon := t.other.gmon }, draws := t.draws }

theorem Unseen.trans {s t u : State} (first : Unseen s t) (second : Unseen t u) : Unseen s u := by
  unfold Unseen at *
  rw [second, first]

theorem Hidden.unseen {s t : State} (h : Hidden s t) : Unseen s t := by
  unfold Unseen
  rw [h]

theorem State.announce_unseen (s : State) (a : Nat) : Unseen s (s.announce a) := rfl

theorem Unseen.soc {s t : State} (h : Unseen s t) : t.soc = s.soc := by rw [h]

theorem Unseen.plic {s t : State} (h : Unseen s t) : t.plic = s.plic := by rw [h]

theorem Unseen.monitorsOf {s t : State} (h : Unseen s t) : Hidden (s.monitorsOf t) t := by
  unfold Hidden State.monitorsOf
  rw [h]

theorem State.monitorsOf_of_other {s t : State} (h : t.other.lmon = s.other.lmon ∧ t.other.gmon = s.other.gmon) : s.monitorsOf t = s := by
  unfold State.monitorsOf
  rw [h.1, h.2]

theorem Unseen.devReadReg {s t : State} (h : Unseen s t) (r : DevReg) :
    (t.devReadReg r).1 = (s.devReadReg r).1 ∧ Unseen (s.devReadReg r).2 (t.devReadReg r).2 := by
  unfold Unseen at h
  rw [h]
  cases r
  case msip id | ssip id | mtimecmp id high | stimecmp id high => cases id <;> exact ⟨rfl, rfl⟩
  all_goals exact ⟨rfl, rfl⟩

/-- Only the latch of the core whose bit it is moves. -/
theorem Hart.noteSsip_eq (h : Hart) (id : HartId) (b latch : Bool) :
    h.noteSsip id b latch =
      { h with m := { h.m with ssipLatch := if h.id = id then b && (latch || h.m.ssipLatch) else h.m.ssipLatch } } := by
  unfold Hart.noteSsip
  split <;> rfl

theorem Unseen.devWriteReg {s t : State} (h : Unseen s t) (r : DevReg) (v : Nat) : Unseen (s.devWriteReg r v) (t.devWriteReg r v) := by
  unfold Unseen at h
  rw [h]
  cases r
  case msip id | mtimecmp id high | stimecmp id high => cases id <;> rfl
  case ssip id =>
    simp only [State.devWriteReg, State.setSsip, Hart.noteSsip_eq]
    cases id <;> rfl
  all_goals rfl

theorem Unseen.devRead {s t : State} (h : Unseen s t) (p : Priv) (off : Nat) :
    (t.devRead p off).1 = (s.devRead p off).1 ∧ Unseen (s.devRead p off).2 (t.devRead p off).2 := by
  unfold State.devRead
  rw [h.plic]
  split
  · exact h.devReadReg _
  · exact ⟨rfl, h⟩

theorem Unseen.devWrite {s t : State} (h : Unseen s t) (p : Priv) (off v : Nat) : Unseen (s.devWrite p off v) (t.devWrite p off v) := by
  unfold State.devWrite
  rw [h.plic]
  split
  · exact h.devWriteReg _ v
  · exact h

/-! ### Rights and values (61_clint_plic:R852, R875) -/

/-- The rights by mode are those of the model, but for the reserved registers, which show 0 and ignore writes. -/
theorem devAllowed_iff {p : Priv} {per : Bool} {r : DevReg} (h : r ≠ .reserved) : devAllowed p per r = true ↔ r.MayTouch p per := by
  unfold devAllowed DevReg.MayTouch
  cases p
  case machine => simp
  case user => simp
  case supervisor =>
    cases r
    case reserved => exact absurd rfl h
    case threshold t | claim t => cases t <;> simp [Target.isM]
    all_goals simp

theorem State.devReadReg_value (s : State) (r : DevReg) : (s.devReadReg r).1 = s.deviceValue r := by
  cases r
  case permission => show s.plic.per.toNat = if s.plic.per then 1 else 0; cases s.plic.per <;> rfl
  case msip id => show (s.clint id).msip.toNat = if (s.clint id).msip then 1 else 0; cases (s.clint id).msip <;> rfl
  case ssip id => show (s.clint id).ssip.toNat = if (s.clint id).ssip then 1 else 0; cases (s.clint id).ssip <;> rfl
  case mtimecmp id high | stimecmp id high => cases high <;> rfl
  all_goals rfl

theorem State.devReadReg_state (s : State) {r : DevReg} (h : ∀ c, r ≠ .claim c) : (s.devReadReg r).2 = s := by
  cases r
  case claim c => exact absurd rfl (h c)
  all_goals rfl

theorem State.devRead_reads (s : State) (p : Priv) (off : Nat) :
    DeviceReads s p (devReg off) (s.devRead p off).1 (s.devRead p off).2 := by
  unfold State.devRead DeviceReads
  by_cases hr : devReg off = .reserved
  · rw [hr]
    split
    · exact ⟨fun _ => ⟨rfl, rfl, fun _ => rfl⟩, fun _ => ⟨rfl, rfl⟩⟩
    · exact ⟨fun _ => ⟨rfl, rfl, fun _ => rfl⟩, fun _ => ⟨rfl, rfl⟩⟩
  · rw [← devAllowed_iff hr]
    split
    · next allowed => exact ⟨fun _ => ⟨s.devReadReg_value _, rfl, s.devReadReg_state⟩, fun denied => absurd allowed denied⟩
    · next denied => exact ⟨fun allowed => absurd allowed denied, fun _ => ⟨rfl, rfl⟩⟩

theorem State.devWrite_writes (s : State) (p : Priv) (off v : Nat) : DeviceWrites s p (devReg off) v (s.devWrite p off v) := by
  unfold State.devWrite DeviceWrites
  by_cases hr : devReg off = .reserved
  · rw [hr]
    split <;> exact ⟨fun _ => rfl, fun _ => rfl⟩
  · rw [← devAllowed_iff hr]
    split
    · next allowed => exact ⟨fun _ => rfl, fun denied => absurd allowed denied⟩
    · next denied => exact ⟨fun allowed => absurd allowed denied, fun _ => rfl⟩

theorem Plic.priority_lt (p : Plic) (n : Nat) : p.priority n < 2 ^ 32 := by
  unfold Plic.priority
  split
  · exact lt_of_lt_of_le (BitVec.isLt _) (by decide)
  · decide

/-- A register of the window is a word. -/
theorem State.deviceValue_lt (s : State) (r : DevReg) : s.deviceValue r < 2 ^ 32 := by
  cases r
  case prio n => exact s.plic.priority_lt n
  case pending | enable | mtimecmp | stimecmp => exact Nat.mod_lt _ (by decide)
  case threshold t => exact lt_of_lt_of_le (s.plic.target t).threshold.isLt (by decide)
  case claim t => exact lt_of_le_of_lt (s.plic.winner_leads t).upTo (by decide)
  case reserved => exact Nat.two_pow_pos 32
  case permission | msip | ssip =>
    unfold State.deviceValue
    dsimp only
    split <;> decide

theorem State.devRead_lt (s : State) (p : Priv) (off : Nat) : (s.devRead p off).1 < 2 ^ 32 := by
  unfold State.devRead
  split
  · rw [State.devReadReg_value]
    exact s.deviceValue_lt _
  · exact Nat.two_pow_pos 32

/-! ### Words of the window -/

section
variable {s s' : State} {va : Word} {pl : Place}

/-- The plan of an aligned word is one part, at the place of its address. -/
theorem State.plan_word {k : Access} (aligned : va.toNat % 4 = 0) (place : s.resolve k va = .ok pl s') :
    s.plan k false va 4 = .ok [⟨pl, 4⟩] s' := by
  rw [State.plan, if_pos aligned, place]
  rfl

theorem State.readParts_word (t : State) (window : t.soc.inWindow pl.pa = true) :
    t.readParts .load [⟨pl, 4⟩] = t.devRead pl.priv (windowOffset pl.pa) := by
  have part : t.readPart .load ⟨pl, 4⟩ = t.devRead pl.priv (windowOffset pl.pa) := by
    unfold State.readPart
    rw [if_pos window, if_pos ⟨rfl, rfl⟩]
  unfold State.readParts State.readParts
  rw [part]
  rfl

theorem State.writeParts_word (t : State) (v : Nat) (window : t.soc.inWindow pl.pa = true) (answers : t.soc.busError pl.pa = false) :
    t.writeParts true [⟨pl, 4⟩] v = (t.announce pl.pa.toNat).devWrite pl.priv (windowOffset pl.pa) (v % 2 ^ 32) := by
  have soc : (t.announce pl.pa.toNat).soc = t.soc := rfl
  show t.writePart true ⟨pl, 4⟩ v = _
  unfold State.writePart
  dsimp only
  rw [soc, answers, if_neg Bool.false_ne_true, if_pos window]
  rfl

end

/-! ### The end of an access to the window -/

/-- What follows from the devices as in `u`, with the registers `ws` written after it. -/
structure WindowEnd (s u t : State) (len : Nat) (ws : List (Reg × Word)) : Prop where
  pc    : t.me.pc = s.me.pc + BitVec.ofNat 64 len
  regs  : ∀ q, t.getX q = regAfter s ws q
  bytes : SameBytes s t
  frame : DeviceFrame (s.monitorsOf t) t u

theorem WindowEnd.of_unseen {s u t : State} (devices : DevFrame s u) (unseen : Unseen u t) (len : Nat) (ws : List (Reg × Word))
    (x : Vector Word 32) (written : ∀ q, ({ t with me := { t.me with x := x } } : State).getX q = regAfter t ws q) :
    WindowEnd s u (({ t with me := { t.me with x := x } } : State).retire len) len ws := by
  have retired := State.retire_eq { t with me := { t.me with x := x } } len
  have both : t = _ := unseen
  rw [DevFrame] at devices
  rw [devices] at both
  have file : t.me.x = s.me.x := by rw [both]
  have pc : t.me.pc = s.me.pc := by rw [both]
  refine ⟨by simp [pc], fun q => ?_, ?_, ?_⟩
  · have same : regAfter t ws q = regAfter s ws q := by
      unfold regAfter
      rw [State.getX_congr file]
    rw [← same, ← written q]
    exact State.getX_congr (by simp) q
  · rw [retired, both]
    exact State.sees_congr rfl rfl rfl rfl rfl
  · unfold DeviceFrame State.monitorsOf
    rw [retired, both]
    rfl

/-- A read moves none of the other core's monitors, so its frame is that of `s` itself. -/
theorem WindowEnd.frame_of_other {s u t : State} {len : Nat} {ws : List (Reg × Word)} (h : WindowEnd s u t len ws)
    (other : t.other = s.other) : DeviceFrame s t u := by
  have frame := h.frame
  rwa [State.monitorsOf_of_other (by rw [other]; exact ⟨rfl, rfl⟩)] at frame

theorem State.devRead_devices (s : State) (p : Priv) (off : Nat) : DevFrame s (s.devRead p off).2 := by
  unfold DevFrame
  rw [State.devRead_eq]

theorem State.devRead_other (s : State) (p : Priv) (off : Nat) : (s.devRead p off).2.other = s.other := by
  rw [State.devRead_eq]

theorem State.writeParts_word_unseen {s t : State} {pl : Place} (h : Unseen s t) (v : Nat) (window : s.soc.inWindow pl.pa = true)
    (answers : s.soc.busError pl.pa = false) :
    Unseen (s.devWrite pl.priv (windowOffset pl.pa) (v % 2 ^ 32)) (t.writeParts true [⟨pl, 4⟩] v) := by
  rw [t.writeParts_word v (h.soc ▸ window) (h.soc ▸ answers)]
  exact (h.trans (t.announce_unseen _)).devWrite _ _ _

section
variable {s : State} {r : Result} {len : Nat} {va : Word}

/-- A load of a word of the window, by what it answers to the value read. -/
theorem WindowLoads.of_answer {ws : BitVec 32 → List (Reg × Word)} (file : Nat → State → Vector Word 32)
    (answer : ∀ v t, s.memRead va 4 = .ok v t → r = .next (({ t with me := { t.me with x := file v t } } : State).retire len))
    (written : ∀ v < 2 ^ 32, ∀ (t : State) q,
      ({ t with me := { t.me with x := file v t } } : State).getX q = regAfter t (ws (BitVec.ofNat 32 v)) q) :
    WindowLoads s r (s.me.pc + BitVec.ofNat 64 len) va ws := by
  intro pl s' aligned place window
  have hidden := (s.resolve_sat .load va).of_ok place
  obtain ⟨value, unseen⟩ := hidden.unseen.devRead pl.priv (windowOffset pl.pa)
  have read : s.memRead va 4 = .ok (s.devRead pl.priv (windowOffset pl.pa)).1 (s'.devRead pl.priv (windowOffset pl.pa)).2 := by
    rw [← value, State.memRead, State.plan_word aligned place, Res.ok_andThen, s'.readParts_word (hidden.soc ▸ window)]
  have ends := WindowEnd.of_unseen (s.devRead_devices _ _) unseen len _ _ (written _ (s.devRead_lt pl.priv (windowOffset pl.pa)) _)
  have other := (s'.devRead_other pl.priv (windowOffset pl.pa)).trans hidden.other
  exact ⟨_, _, _, answer _ _ read, ends.pc, ends.regs, ends.bytes, s.devRead_reads _ _, ends.frame_of_other other⟩

/-- A store of a word of the window, by what it answers to the state after the write. -/
theorem WindowStores.of_answer {x : Word} {ws : List (Reg × Word)} (file : State → Vector Word 32)
    (answer : ∀ t, s.memWrite va 4 x.toNat = .ok () t → r = .next (({ t with me := { t.me with x := file t } } : State).retire len))
    (written : ∀ (t : State) q, ({ t with me := { t.me with x := file t } } : State).getX q = regAfter t ws q) :
    WindowStores s r (s.me.pc + BitVec.ofNat 64 len) va x ws := by
  intro pl s' aligned place window answers
  have hidden := (s.resolve_sat .store va).of_ok place
  have unseen := State.writeParts_word_unseen hidden.unseen x.toNat window answers
  have write : s.memWrite va 4 x.toNat = .ok () (s'.writeParts true [⟨pl, 4⟩] x.toNat) := by
    rw [State.memWrite, State.plan_word aligned place, Res.ok_andThen]
  have ends := WindowEnd.of_unseen (s.devWrite_frame _ _ _) unseen len ws _ (written _)
  exact ⟨_, _, answer _ write, ends.pc, ends.regs, ends.bytes, s.devWrite_writes _ _ _, ends.frame⟩

end

/-! ### The shapes of loads and stores, in the window -/

section
variable {s : State} {signed : Bool} {value : BitVec 32 → Word} (same : ∀ v < 2 ^ 32, loadWord signed 4 v = value (BitVec.ofNat 32 v))
include same

theorem State.loadX_window (len : Nat) (rd : Reg) (va : Word) :
    WindowLoads s (s.loadX len signed 4 rd va) (s.me.pc + BitVec.ofNat 64 len) va fun x => [(rd, value x)] := by
  refine .of_answer (fun v t => (t.setX rd (loadWord signed 4 v)).me.x) (fun v t read => ?_) fun v small t q => ?_
  · rw [State.loadX, read, Res.ok_andThen, ← State.setX_eq]
    rfl
  · rw [← State.setX_eq, ← same v small]
    exact t.getX_setX rd q _

theorem State.loadUpdate_window (c : Code) (after : Bool) {rd rs1 : Reg} (different : rd ≠ rs1) (step : Word) :
    WindowLoads s (s.loadUpdate c signed 4 after rd rs1 step) (s.me.pc + 4) (if after then s.getX rs1 else s.getX rs1 + step)
      fun x => [(rd, value x), (rs1, s.getX rs1 + step)] := by
  have both (t : State) (v : Word) : (t.setX rs1 (s.getX rs1 + step)).setX rd v =
      { t with me := { t.me with x := ((t.setX rs1 (s.getX rs1 + step)).setX rd v).me.x } } := by
    rw [State.setX_eq (t.setX rs1 _), State.setX_eq t]
  refine .of_answer (len := 4) (fun v t => ((t.setX rs1 (s.getX rs1 + step)).setX rd (loadWord signed 4 v)).me.x)
    (fun v t read => ?_) fun v small t q => ?_
  · rw [State.loadUpdate, if_neg different]
    dsimp only
    rw [read, Res.ok_andThen, ← both]
    rfl
  · rw [← both, ← same v small]
    exact t.getX_setX_setX rd rs1 q _ _

end

theorem State.storeV_window (s : State) (len : Nat) (v va : Word) :
    WindowStores s (s.storeV len 4 v va) (s.me.pc + BitVec.ofNat 64 len) va v [] := by
  refine .of_answer (fun t => t.me.x) (fun t write => ?_) State.same_x
  rw [State.storeV, write, Res.ok_andThen]
  rfl

theorem State.storeUpdate_window (s : State) (after : Bool) (rs2 rs1 : Reg) (step : Word) :
    WindowStores s (s.storeUpdate 4 after rs2 rs1 step) (s.me.pc + 4) (if after then s.getX rs1 else s.getX rs1 + step)
      (s.getX rs2) [(rs1, s.getX rs1 + step)] := by
  refine .of_answer (len := 4) (fun t => (t.setX rs1 (s.getX rs1 + step)).me.x) (fun t write => ?_) fun t q => ?_
  · rw [State.storeUpdate]
    dsimp only
    rw [write, Res.ok_andThen, ← State.setX_eq]
    rfl
  · rw [← State.setX_eq]
    exact t.getX_setX rs1 q _

theorem aligned_next {va : Word} (aligned : va.toNat % 4 = 0) : (va + 4).toNat % 4 = 0 := by
  have sum : (va + 4).toNat = (va.toNat + 4) % 2 ^ 64 := BitVec.toNat_add va 4
  omega

theorem DevFrame.trans {s t u : State} (first : DevFrame s t) (second : DevFrame t u) : DevFrame s u := by
  unfold DevFrame at *
  rw [second, first]

theorem DevFrame.soc {s t : State} (h : DevFrame s t) : t.soc = s.soc := by rw [h]

theorem State.loadPair_window {s : State} {signed : Bool} {value : BitVec 32 → Word}
    (same : ∀ v < 2 ^ 32, loadWord signed 4 v = value (BitVec.ofNat 32 v)) (c : Code) {rd1 rd2 rs1 : Reg}
    (different : rd1 ≠ rd2 ∧ rd1 ≠ rs1 ∧ rd2 ≠ rs1) (va : Word) :
    WindowLoadsPair s (s.loadPair c signed 4 rd1 rd2 rs1 va) va fun x y => [(rd2, value y), (rd1, value x)] := by
  intro pl ql s1 s2 aligned place1 place2 window1 window2
  have hidden1 := (s.resolve_sat .load va).of_ok place1
  have hidden := hidden1.trans ((s1.resolve_sat .load (va + 4)).of_ok place2)
  obtain ⟨value1, unseen1⟩ := hidden.unseen.devRead pl.priv (windowOffset pl.pa)
  obtain ⟨value2, unseen2⟩ := unseen1.devRead ql.priv (windowOffset ql.pa)
  have devices := (s.devRead_devices pl.priv (windowOffset pl.pa)).trans (State.devRead_devices _ ql.priv (windowOffset ql.pa))
  have other := ((State.devRead_other _ ql.priv (windowOffset ql.pa)).trans (s2.devRead_other pl.priv (windowOffset pl.pa))).trans hidden.other
  have soc := (s2.devRead_devices pl.priv (windowOffset pl.pa)).soc
  have plan2 : s1.plan .load false (va + BitVec.ofNat 64 4) 4 = .ok [⟨ql, 4⟩] s2 := State.plan_word (aligned_next aligned) place2
  have both (t : State) (v w : Word) : (t.setX rd1 v).setX rd2 w =
      { t with me := { t.me with x := ((t.setX rd1 v).setX rd2 w).me.x } } := by
    rw [State.setX_eq (t.setX rd1 _), State.setX_eq t]
  have read : s.memReadPair va 4 = .ok ((s.devRead pl.priv (windowOffset pl.pa)).1,
      ((s.devRead pl.priv (windowOffset pl.pa)).2.devRead ql.priv (windowOffset ql.pa)).1)
      ((s2.devRead pl.priv (windowOffset pl.pa)).2.devRead ql.priv (windowOffset ql.pa)).2 := by
    rw [State.memReadPair, State.plan_word aligned place1, Res.ok_andThen, plan2, Res.ok_andThen]
    dsimp only
    rw [s2.readParts_word (hidden.soc ▸ window1), State.readParts_word _ (soc ▸ hidden.soc ▸ window2), value1, value2]
  have ends := WindowEnd.of_unseen devices unseen2 4
    [(rd2, value (BitVec.ofNat 32 ((s.devRead pl.priv (windowOffset pl.pa)).2.devRead ql.priv (windowOffset ql.pa)).1)),
      (rd1, value (BitVec.ofNat 32 (s.devRead pl.priv (windowOffset pl.pa)).1))] _ fun q => by
    rw [← both]
    exact State.getX_setX_setX _ rd2 rd1 q _ _
  rw [← both] at ends
  refine ⟨_, _, _, _, _, ?_, ends.pc, ends.regs, ends.bytes, s.devRead_reads _ _, State.devRead_reads _ _ _, ends.frame_of_other other⟩
  rw [State.loadPair, if_pos (distinct3_iff.2 different), read, Res.ok_andThen, same _ (State.devRead_lt ..), same _ (State.devRead_lt ..)]
  rfl

theorem State.storePair_window (s : State) (rd1 rd2 : Reg) (va : Word) :
    WindowStoresPair s (s.storePair 4 rd1 rd2 va) va (s.getX rd1) (s.getX rd2) := by
  intro pl ql s1 s2 aligned place1 place2 window1 window2 answers1 answers2
  have hidden1 := (s.resolve_sat .store va).of_ok place1
  have hidden := hidden1.trans ((s1.resolve_sat .store (va + 4)).of_ok place2)
  have unseen1 := State.writeParts_word_unseen hidden.unseen (s.getX rd1).toNat window1 answers1
  have devices1 := s.devWrite_frame pl.priv (windowOffset pl.pa) ((s.getX rd1).toNat % 2 ^ 32)
  have unseen2 := State.writeParts_word_unseen unseen1 (s.getX rd2).toNat (devices1.soc ▸ window2) (devices1.soc ▸ answers2)
  have devices := devices1.trans (State.devWrite_frame _ ql.priv (windowOffset ql.pa) ((s.getX rd2).toNat % 2 ^ 32))
  have plan2 : s1.plan .store false (va + BitVec.ofNat 64 4) 4 = .ok [⟨ql, 4⟩] s2 := State.plan_word (aligned_next aligned) place2
  have ends := WindowEnd.of_unseen devices unseen2 4 [] _ (State.same_x _)
  refine ⟨_, _, _, ?_, ends.pc, fun q => (ends.regs q).trans (regAfter_nil s q), ends.bytes, s.devWrite_writes _ _ _,
    State.devWrite_writes _ _ _ _, ends.frame⟩
  rw [State.storePair, State.memWritePair, State.plan_word aligned place1, Res.ok_andThen, plan2, Res.ok_andThen, Res.ok_andThen]
  rfl

/-! ### Accesses of the window that reach no register (93_implementation_defined:U30, log 34) -/

theorem State.readParts_window {k : Access} {ps : List Part} {s : State} (window : ∀ p ∈ ps, s.soc.inWindow p.place.pa = true)
    (noWord : k = .load → ∀ p ∈ ps, p.size ≠ 4) : Hidden s (s.readParts k ps).2 := by
  induction ps generalizing s with
  | nil => exact .refl s
  | cons p rest ih =>
    obtain ⟨here, there⟩ := List.forall_mem_cons.1 window
    have part : (s.readPart k p).2 = s.drawn := by
      have free : ¬ (k = .load ∧ p.size = 4) := fun ⟨load, word⟩ => noWord load p List.mem_cons_self word
      rw [State.readPart, if_pos here, if_neg free]
    have moved : Hidden s (s.readPart k p).2 := part ▸ .drawn s
    exact moved.trans (ih (s := (s.readPart k p).2) (moved.soc ▸ there) fun load q mem => noWord load q (List.mem_cons_of_mem p mem))

theorem State.writeParts_window {plain : Bool} {ps : List Part} {s : State} (window : ∀ p ∈ ps, s.soc.inWindow p.place.pa = true)
    (noWord : plain = true → ∀ p ∈ ps, p.size ≠ 4) (v : Nat) : Unseen s (s.writeParts plain ps v) := by
  induction ps generalizing s v with
  | nil => rfl
  | cons p rest ih =>
    obtain ⟨here, there⟩ := List.forall_mem_cons.1 window
    have moved : Unseen s (s.writePart plain p v) := by
      have noWrite : ¬ (plain && p.size == 4) = true := fun word => by
        obtain ⟨isPlain, isWord⟩ := Bool.and_eq_true_iff.1 word
        exact noWord isPlain p List.mem_cons_self (beq_iff_eq.1 isWord)
      unfold State.writePart
      dsimp only
      rw [if_neg noWrite, (s.announce_unseen p.place.pa.toNat).soc, if_pos here, ite_self]
      exact s.announce_unseen _
    exact moved.trans (ih (moved.soc ▸ there) (fun isPlain q mem => noWord isPlain q (List.mem_cons_of_mem p mem)) _)

/-- Only an aligned access of four bytes has a part that is a word. -/
theorem PartsOf.size_ne_four {va : Word} {n : Nat} {ps : List Part} (h : PartsOf va n ps) (other : va.toNat % n = 0 → n ≠ 4) :
    ∀ p ∈ ps, p.size ≠ 4 := by
  intro p mem
  obtain ⟨pl, rfl, aligned, -⟩ | bytes := h
  · rw [List.mem_singleton.1 mem]
    exact other aligned
  · rw [bytes p mem]
    decide

section
variable {s s' : State} {va : Word} {n : Nat} {ps : List Part} (window : ∀ p ∈ ps, s.soc.inWindow p.place.pa = true)
include window

theorem State.memRead_window (other : va.toNat % n = 0 → n ≠ 4) (plan : s.plan .load false va n = .ok ps s') :
    ∃ w u, s.memRead va n = .ok w u ∧ Hidden s u := by
  obtain ⟨hidden, parts⟩ := (s.plan_sat .load false va n).of_ok plan
  refine ⟨_, _, by rw [State.memRead, plan, Res.ok_andThen], hidden.trans ?_⟩
  exact State.readParts_window (hidden.soc ▸ window) fun _ => parts.size_ne_four other

theorem State.memWrite_window (other : va.toNat % n = 0 → n ≠ 4) (plan : s.plan .store false va n = .ok ps s') (v : Nat) :
    ∃ u, s.memWrite va n v = .ok () u ∧ Hidden (s.monitorsOf u) u := by
  obtain ⟨hidden, parts⟩ := (s.plan_sat .store false va n).of_ok plan
  refine ⟨_, by rw [State.memWrite, plan, Res.ok_andThen], Unseen.monitorsOf (hidden.unseen.trans ?_)⟩
  exact State.writeParts_window (hidden.soc ▸ window) (fun _ => parts.size_ne_four other) v

theorem State.memAmo_window (plan : s.plan .amo true va n = .ok ps s') (f : Nat → Nat) :
    ∃ w u, s.memAmo va n f = .ok w u ∧ Hidden (s.monitorsOf u) u := by
  have hidden := ((s.plan_sat .amo true va n).of_ok plan).1
  have monitored : ps.any s'.unmonitored = false := List.any_eq_false.2 fun p mem => by
    rw [State.unmonitored, hidden.soc, window p mem, Bool.not_true, Bool.and_false]
    exact Bool.false_ne_true
  have read : Hidden s' (s'.readParts .amo ps).2 := State.readParts_window (hidden.soc ▸ window) fun h => nomatch h
  have both := hidden.trans read
  refine ⟨(s'.readParts .amo ps).1, (s'.readParts .amo ps).2.writeParts false ps (f (s'.readParts .amo ps).1), ?_, Unseen.monitorsOf ?_⟩
  · rw [State.memAmo, plan, Res.ok_andThen, if_neg (by rw [monitored]; exact Bool.false_ne_true)]
  · exact both.unseen.trans (State.writeParts_window (both.soc ▸ window) (fun h => absurd h Bool.false_ne_true) _)

end

theorem State.fetchParcel_window {s s' : State} {va : Word} {pl : Place} (place : s.resolve .fetch va = .ok pl s')
    (window : s.soc.inWindow pl.pa = true) : s.fetchParcel va = .trap 1 va s' := by
  have soc := ((s.resolve_sat .fetch va).of_ok place).soc
  rw [State.fetchParcel, place, Res.ok_andThen, if_pos (soc ▸ window)]

end Sys2Proof.Machine

namespace Sys2Proof.Machine

/-! ### The register map (61_clint_plic:R853, R871) -/

theorem Target.ofIndex_index (t : Target) : Target.ofIndex t.index = t := by cases t <;> rfl
theorem Target.index_lt (t : Target) : t.index < 4 := by cases t <;> decide
theorem Target.index_ofIndex {k : Nat} (h : k < 4) : (Target.ofIndex k).index = k := by
  interval_cases k <;> rfl
theorem hartOf_index (h : HartId) : hartOf h.index = h := by cases h <;> rfl
theorem HartId.index_lt (h : HartId) : h.index < 2 := by cases h <;> decide
theorem index_hartOf {k : Nat} (h : k < 2) : (hartOf k).index = k := by
  interval_cases k <;> rfl

/-- The offset of a 32-bit half of a compare register. -/
theorem half_offset (off : Nat) (aligned : off % 4 = 0) : (if off % 8 == 4 then 4 else 0) = off % 8 := by
  by_cases high : off % 8 = 4
  · rw [high]
    rfl
  · rw [if_neg (by simpa using high)]
    omega

theorem plicReg_at {off : Nat} (aligned : off % 4 = 0) (known : plicReg off ≠ .reserved) : (plicReg off).At off := by
  revert known
  unfold plicReg
  split_ifs <;> intro known
  · exact ⟨by omega, by omega, by omega⟩
  · exact absurd rfl known
  · exact ⟨by omega, by omega⟩
  · have index := Target.index_ofIndex (k := (off - 0x2000) / 0x80) (by omega)
    exact ⟨by omega, by rw [index]; omega⟩
  · assumption
  · have index := Target.index_ofIndex (k := (off - 0x200000) / 0x1000) (by omega)
    show off = 0x200000 + 0x1000 * _
    rw [index]
    omega
  · have index := Target.index_ofIndex (k := (off - 0x200000) / 0x1000) (by omega)
    show off = 0x200004 + 0x1000 * _
    rw [index]
    omega
  · exact absurd rfl known
  · exact absurd rfl known

theorem clintReg_at {off : Nat} (aligned : off % 4 = 0) (above : 0x4000000 ≤ off) (known : clintReg off ≠ .reserved) :
    (clintReg off).At off := by
  have half := half_offset off aligned
  revert known
  unfold clintReg
  split_ifs <;> intro known
  · have index := index_hartOf (k := (off - 0x4000000) / 4) (by omega)
    show off = 0x4000000 + 4 * _
    rw [index]
    omega
  · have index := index_hartOf (k := (off - 0x4004000) / 8) (by omega)
    show off = 0x4004000 + 8 * _ + _
    rw [index, half]
    omega
  · have index := index_hartOf (k := (off - 0x400c000) / 4) (by omega)
    show off = 0x400c000 + 4 * _
    rw [index]
    omega
  · have index := index_hartOf (k := (off - 0x400d000) / 8) (by omega)
    show off = 0x400d000 + 8 * _ + _
    rw [index, half]
    omega
  · exact absurd rfl known

/-- A register's offset below 0x4000000 is one of the PLIC. -/
theorem devReg_at {off : Nat} (aligned : off % 4 = 0) (known : devReg off ≠ .reserved) : (devReg off).At off := by
  revert known
  unfold devReg
  split_ifs with below
  · exact plicReg_at aligned
  · exact clintReg_at aligned (by omega)

theorem devReg_of_at {off : Nat} {r : DevReg} (h : r.At off) : devReg off = r := by
  unfold devReg
  cases r with
  | prio n =>
    obtain ⟨low, high, rfl⟩ := h
    rw [if_pos (by omega), plicReg, if_pos (by omega), if_pos (by omega), Nat.mul_div_cancel_left n (by decide)]
  | pending x =>
    obtain ⟨high, rfl⟩ := h
    rw [if_pos (by omega), plicReg, if_neg (by omega), if_pos (by omega)]
    congr 1
    omega
  | enable t x =>
    obtain ⟨high, rfl⟩ := h
    have small := t.index_lt
    have target : (0x2000 + 0x80 * t.index + 4 * x - 0x2000) / 0x80 = t.index := by omega
    have word : (0x2000 + 0x80 * t.index + 4 * x - 0x2000) % 0x80 / 4 = x := by omega
    rw [if_pos (by omega), plicReg, if_neg (by omega), if_neg (by omega), if_pos (by omega), target, word, t.ofIndex_index]
  | permission =>
    have place : off = 0x1ffffc := h
    rw [place]
    rfl
  | threshold t =>
    have place : off = 0x200000 + 0x1000 * t.index := h
    rw [place]
    cases t <;> rfl
  | claim t =>
    have place : off = 0x200004 + 0x1000 * t.index := h
    rw [place]
    cases t <;> rfl
  | msip id =>
    have place : off = 0x4000000 + 4 * id.index := h
    rw [place]
    cases id <;> rfl
  | ssip id =>
    have place : off = 0x400c000 + 4 * id.index := h
    rw [place]
    cases id <;> rfl
  | mtimecmp id high =>
    have place : off = 0x4004000 + 8 * id.index + (if high then 4 else 0) := h
    rw [place]
    cases id <;> cases high <;> rfl
  | stimecmp id high =>
    have place : off = 0x400d000 + 8 * id.index + (if high then 4 else 0) := h
    rw [place]
    cases id <;> cases high <;> rfl
  | reserved => exact absurd h id

theorem devReg_iff {off : Nat} (aligned : off % 4 = 0) {r : DevReg} (known : r ≠ .reserved) : devReg off = r ↔ r.At off :=
  ⟨fun e => e ▸ devReg_at aligned (e.symm ▸ known), devReg_of_at⟩

/-! ### Words of a vector of sources -/

theorem testBit_sourceWord (v : BitVec 1024) (x k : Nat) :
    (sourceWord v x).testBit k = (decide (k < 32) && v.getLsbD (32 * x + k)) := by
  rw [sourceWord, Nat.testBit_mod_two_pow, Nat.testBit_div_two_pow, Nat.add_comm]
  rfl

theorem getLsbD_setSourceWord (v : BitVec 1024) (x w n : Nat) :
    (setSourceWord v x w).getLsbD n =
      if n / 32 = x then w.testBit (n % 32) && decide (1 ≤ n ∧ n ≤ 144) else v.getLsbD n := by
  have mask : (BitVec.ofNat 1024 ((2 ^ 32 - 1) * 2 ^ (32 * x))).getLsbD n = (decide (n < 1024) && decide (n / 32 = x)) := by
    rw [BitVec.getLsbD_ofNat, Nat.testBit_mul_two_pow, Nat.testBit_two_pow_sub_one, Bool.eq_iff_iff]
    simp only [Bool.and_eq_true, decide_eq_true_eq]
    omega
  have out : ¬ n < 1024 → v.getLsbD n = false := fun h => BitVec.getLsbD_of_ge v n (by omega)
  rw [setSourceWord, BitVec.getLsbD_or, BitVec.getLsbD_and, BitVec.getLsbD_and, BitVec.getLsbD_and, BitVec.getLsbD_not, mask, getLsbD_live,
    BitVec.getLsbD_ofNat, Nat.testBit_mul_two_pow]
  by_cases small : n < 1024
  · by_cases here : n / 32 = x
    · have place : n - 32 * x = n % 32 := by omega
      have above : 32 * x ≤ n := by omega
      simp [small, here, place, above]
    · simp [small, here]
  · have dead : ¬ n ≤ 144 := by omega
    simp [small, dead, out small]

theorem sourceWord_setSourceWord (v : BitVec 1024) (x w : Nat) :
    sourceWord (setSourceWord v x w) x = w &&& ((2 ^ 145 - 2) / 2 ^ (32 * x) % 2 ^ 32) := by
  apply Nat.eq_of_testBit_eq
  intro k
  rw [Nat.testBit_and, testBit_sourceWord, getLsbD_setSourceWord, Nat.testBit_mod_two_pow, Nat.testBit_div_two_pow, testBit_live,
    Nat.add_comm k]
  by_cases low : k < 32
  · have word : (32 * x + k) / 32 = x := by omega
    have place : (32 * x + k) % 32 = k := by omega
    rw [if_pos word, place, decide_eq_true low, Bool.true_and, Bool.true_and]
  · rw [decide_eq_false low, Bool.false_and, Bool.false_and, Bool.and_false]

theorem sourceWord_setSourceWord_of_ne (v : BitVec 1024) {x y : Nat} (other : y ≠ x) (w : Nat) :
    sourceWord (setSourceWord v x w) y = sourceWord v y := by
  apply Nat.eq_of_testBit_eq
  intro k
  rw [testBit_sourceWord, testBit_sourceWord, getLsbD_setSourceWord]
  by_cases low : k < 32
  · have word : (32 * y + k) / 32 ≠ x := by omega
    rw [if_neg word]
  · rw [decide_eq_false low, Bool.false_and, Bool.false_and]

/-! ### Halves of a compare register (61_clint_plic:R861) -/

theorem field_setField_mod (w : Word) {lo len : Nat} (v : Nat) (inside : lo + len ≤ 64) :
    field (setField w lo len v) lo len = v % 2 ^ len := by
  apply Nat.eq_of_testBit_eq
  intro k
  rw [testBit_field, getLsbD_setField, Nat.testBit_mod_two_pow]
  by_cases low : k < len
  · rw [if_pos ⟨by omega, by omega, by omega⟩, Nat.add_sub_cancel_left]
  · rw [decide_eq_false low, Bool.false_and, Bool.false_and]

theorem halfOf_setHalf (w : Word) (high : Bool) (v : Nat) : halfOf (setHalf w high v) high = v % 2 ^ 32 := by
  cases high <;> exact field_setField_mod w v (by decide)

theorem halfOf_setHalf_of_ne (w : Word) {high other : Bool} (h : other ≠ high) (v : Nat) :
    halfOf (setHalf w high v) other = halfOf w other := by
  cases high <;> cases other
  · exact absurd rfl h
  · exact field_setField_of_disjoint w 0 32 v 32 32 (by decide)
  · exact field_setField_of_disjoint w 32 32 v 0 32 (by decide)
  · exact absurd rfl h

/-! ### What a write of a register leaves -/

theorem Plic.priority_set (p : Plic) (n : Nat) (b : BitVec 5) {m : Nat} (live : 1 ≤ m ∧ m ≤ 144) :
    ({ p with prio := p.prio.setIfInBounds n b } : Plic).priority m = if m = n then b.toNat else p.priority m := by
  have inside : 0 < m ∧ m < 145 := by omega
  rw [Plic.priority, dif_pos inside, Plic.priority, dif_pos inside, Vector.getElem_setIfInBounds, apply_ite BitVec.toNat]
  exact if_congr eq_comm rfl rfl

theorem Plic.priority_of_not_live (p : Plic) {m : Nat} (dead : ¬ (1 ≤ m ∧ m ≤ 144)) : p.priority m = 0 :=
  dif_neg fun h => dead (by omega)

theorem Plic.target_setTarget (p : Plic) (t u : Target) (e : PlicTarget) :
    (p.setTarget t e).target u = if u = t then e else p.target u := by
  cases t <;> cases u <;> rfl

theorem Plic.setTarget_masked (p : Plic) (t : Target) (e : PlicTarget) : (p.setTarget t e).masked = p.masked := by cases t <;> rfl

theorem State.clint_setClint (s : State) (id id' : HartId) (c : ClintRegs) :
    (s.setClint id c).clint id' = if id' = id then c else s.clint id' := by
  cases id <;> cases id' <;> rfl

section
variable (s : State) {q : DevReg}

/-- New registers of a target are seen where that target's registers are, and where they differ. -/
theorem State.deviceValue_setTarget (t : Target) (e : PlicTarget) (noClaim : ∀ c, q ≠ .claim c)
    (enable : ∀ x, q = .enable t x → sourceWord e.enable x = sourceWord (s.plic.target t).enable x)
    (threshold : q = .threshold t → e.threshold = (s.plic.target t).threshold) :
    ({ s with plic := s.plic.setTarget t e } : State).deviceValue q = s.deviceValue q := by
  cases q
  case claim c => exact absurd rfl (noClaim c)
  case enable u x =>
    show sourceWord ((s.plic.setTarget t e).target u).enable x = sourceWord (s.plic.target u).enable x
    rw [Plic.target_setTarget]
    split
    · next same => exact same ▸ enable x (same ▸ rfl)
    · rfl
  case threshold u =>
    show ((s.plic.setTarget t e).target u).threshold.toNat = (s.plic.target u).threshold.toNat
    rw [Plic.target_setTarget]
    split
    · next same => exact congrArg _ (same ▸ threshold (same ▸ rfl))
    · rfl
  all_goals cases t <;> rfl

/-- New registers of a core are seen where that core's registers are, and where they differ. -/
theorem State.deviceValue_setClint (id : HartId) (c : ClintRegs) (msip : q = .msip id → c.msip = (s.clint id).msip)
    (ssip : q = .ssip id → c.ssip = (s.clint id).ssip)
    (mtimecmp : ∀ high, q = .mtimecmp id high → halfOf c.mtimecmp high = halfOf (s.clint id).mtimecmp high)
    (stimecmp : ∀ high, q = .stimecmp id high → halfOf c.stimecmp high = halfOf (s.clint id).stimecmp high) :
    (s.setClint id c).deviceValue q = s.deviceValue q := by
  rw [← State.devReadReg_value, ← State.devReadReg_value]
  cases q
  case msip id' =>
    show ((s.setClint id c).clint id').msip.toNat = (s.clint id').msip.toNat
    rw [State.clint_setClint]
    split
    · next same => exact congrArg _ (same ▸ msip (same ▸ rfl))
    · rfl
  case ssip id' =>
    show ((s.setClint id c).clint id').ssip.toNat = (s.clint id').ssip.toNat
    rw [State.clint_setClint]
    split
    · next same => exact congrArg _ (same ▸ ssip (same ▸ rfl))
    · rfl
  case mtimecmp id' high =>
    show halfOf ((s.setClint id c).clint id').mtimecmp high = halfOf (s.clint id').mtimecmp high
    rw [State.clint_setClint]
    split
    · next same => exact same ▸ mtimecmp high (same ▸ rfl)
    · rfl
  case stimecmp id' high =>
    show halfOf ((s.setClint id c).clint id').stimecmp high = halfOf (s.clint id').stimecmp high
    rw [State.clint_setClint]
    split
    · next same => exact same ▸ stimecmp high (same ▸ rfl)
    · rfl
  all_goals cases id <;> rfl

/-- A register keeps its value in a write of another one (pending and claim registers aside, whose value is computed). -/
theorem State.deviceValue_devWriteReg_of_ne {r : DevReg} (v : Nat) (other : q ≠ r) (noPending : ∀ x, q ≠ .pending x)
    (noClaim : ∀ c, q ≠ .claim c) : (s.devWriteReg r v).deviceValue q = s.deviceValue q := by
  cases r with
  | prio n =>
    cases q
    case prio m =>
      show Plic.priority { s.plic with prio := _ } m = s.plic.priority m
      by_cases live : 1 ≤ m ∧ m ≤ 144
      · exact (Plic.priority_set _ n _ live).trans (if_neg fun same => other (congrArg _ same))
      · rw [Plic.priority_of_not_live _ live, Plic.priority_of_not_live _ live]
    case claim c => exact absurd rfl (noClaim c)
    all_goals rfl
  | pending | claim =>
    cases q
    case pending x => exact absurd rfl (noPending x)
    case claim c => exact absurd rfl (noClaim c)
    all_goals rfl
  | permission =>
    cases q
    case permission => exact absurd rfl other
    case claim c => exact absurd rfl (noClaim c)
    all_goals rfl
  | enable t x =>
    refine s.deviceValue_setTarget t _ noClaim (fun y e => ?_) fun _ => rfl
    exact sourceWord_setSourceWord_of_ne _ (fun same => other (by rw [e, same])) v
  | threshold t => exact s.deviceValue_setTarget t _ noClaim (fun _ _ => rfl) fun e => absurd e other
  | msip id => exact s.deviceValue_setClint id _ (fun e => absurd e other) (fun _ => rfl) (fun _ _ => rfl) fun _ _ => rfl
  | ssip id => exact s.deviceValue_setClint id _ (fun _ => rfl) (fun e => absurd e other) (fun _ _ => rfl) fun _ _ => rfl
  | mtimecmp id high =>
    refine s.deviceValue_setClint id _ (fun _ => rfl) (fun _ => rfl) (fun h e => ?_) fun _ _ => rfl
    exact halfOf_setHalf_of_ne _ (fun same => other (by rw [e, same])) v
  | stimecmp id high =>
    refine s.deviceValue_setClint id _ (fun _ => rfl) (fun _ => rfl) (fun _ _ => rfl) fun h e => ?_
    exact halfOf_setHalf_of_ne _ (fun same => other (by rw [e, same])) v
  | reserved => rfl

theorem bit_value (v : Nat) : (if v % 2 == 1 then 1 else 0) = v % 2 := by
  split
  · next odd => exact (beq_iff_eq.1 odd).symm
  · next even =>
    have notOne : v % 2 ≠ 1 := fun e => even (beq_iff_eq.2 e)
    omega

/-- A written register shows the bits it keeps. -/
theorem State.deviceValue_devWriteReg (r : DevReg) (v : Nat) {w : Nat} (kept : r.keeps v = some w) :
    (s.devWriteReg r v).deviceValue r = w := by
  cases r with
  | prio n =>
    simp only [DevReg.keeps, Option.ite_none_right_eq_some, Option.some.injEq] at kept
    obtain ⟨live, rfl⟩ := kept
    exact (Plic.priority_set _ n _ live).trans ((if_pos rfl).trans (BitVec.toNat_ofNat v 5))
  | pending | claim | reserved => exact nomatch kept
  | enable t x =>
    simp only [DevReg.keeps, Option.ite_none_right_eq_some, Option.some.injEq] at kept
    obtain ⟨-, rfl⟩ := kept
    show sourceWord ((s.plic.setTarget t _).target t).enable x = _
    rw [Plic.target_setTarget, if_pos rfl]
    exact sourceWord_setSourceWord _ x v
  | permission => exact (bit_value v).trans (Option.some.inj kept)
  | threshold t =>
    rw [← Option.some.inj kept]
    show ((s.plic.setTarget t _).target t).threshold.toNat = v % 32
    rw [Plic.target_setTarget, if_pos rfl]
    exact BitVec.toNat_ofNat v 5
  | msip id =>
    rw [← Option.some.inj kept, ← bit_value]
    cases id <;> rfl
  | ssip id =>
    rw [← Option.some.inj kept, ← bit_value]
    cases id <;> rfl
  | mtimecmp id high =>
    rw [← Option.some.inj kept, ← State.devReadReg_value]
    show halfOf ((s.setClint id _).clint id).mtimecmp high = v % 2 ^ 32
    rw [State.clint_setClint, if_pos rfl]
    exact halfOf_setHalf _ high v
  | stimecmp id high =>
    rw [← Option.some.inj kept, ← State.devReadReg_value]
    show halfOf ((s.setClint id _).clint id).stimecmp high = v % 2 ^ 32
    rw [State.clint_setClint, if_pos rfl]
    exact halfOf_setHalf _ high v

theorem State.devWriteReg_pending (x v n : Nat) : (s.devWriteReg (.pending x) v).plic.ip.getLsbD n =
    ((if n / 32 = x then v.testBit (n % 32) && decide (1 ≤ n ∧ n ≤ 144) else s.plic.ip.getLsbD n) ||
      (s.plic.lines.getLsbD n && !s.plic.masked.getLsbD n && decide (1 ≤ n ∧ n ≤ 144))) := by
  rw [← getLsbD_setSourceWord]
  exact Plic.getLsbD_sample _ n

theorem State.devWriteReg_sources_same {r : DevReg} (v : Nat) (noPending : ∀ x, r ≠ .pending x) (noClaim : ∀ c, r ≠ .claim c) :
    (s.devWriteReg r v).plic.ip = s.plic.ip ∧ (s.devWriteReg r v).plic.masked = s.plic.masked := by
  cases r
  case pending x => exact absurd rfl (noPending x)
  case claim c => exact absurd rfl (noClaim c)
  case enable | threshold => exact ⟨Plic.setTarget_ip _ _ _, Plic.setTarget_masked _ _ _⟩
  case msip | mtimecmp | stimecmp => exact ⟨congrArg Plic.ip (s.setClint_plic _ _), congrArg Plic.masked (s.setClint_plic _ _)⟩
  case ssip => exact ⟨congrArg Plic.ip (s.setSsip_plic _ _ _), congrArg Plic.masked (s.setSsip_plic _ _ _)⟩
  all_goals exact ⟨rfl, rfl⟩

end

/-! ### The statement -/

theorem loadWord_signed_word : ∀ v < 2 ^ 32, loadWord true 4 v = (BitVec.ofNat 32 v).signExtend 64 := loadWord_signed (n := 4)
theorem loadWord_unsigned_word : ∀ v < 2 ^ 32, loadWord false 4 v = (BitVec.ofNat 32 v).setWidth 64 := loadWord_unsigned (n := 4)

section
variable {s : State} (on : s.me.theadOn = true) {c : Code}
include on

theorem State.theadStore_window (v va : Word) : WindowStores s (s.theadGate c (s.storeV 4 4 v va)) (s.me.pc + 4) va v [] :=
  State.of_theadGate on (P := fun r => WindowStores s r (s.me.pc + 4) va v []) (s.storeV_window 4 v va)

theorem State.theadStoreUpdate_window (after : Bool) (rs2 rs1 : Reg) (step : Word) :
    WindowStores s (s.theadGate c (s.storeUpdate 4 after rs2 rs1 step)) (s.me.pc + 4)
      (if after then s.getX rs1 else s.getX rs1 + step) (s.getX rs2) [(rs1, s.getX rs1 + step)] :=
  State.of_theadGate on
    (P := fun r => WindowStores s r (s.me.pc + 4) (if after then s.getX rs1 else s.getX rs1 + step) (s.getX rs2)
      [(rs1, s.getX rs1 + step)])
    (s.storeUpdate_window after rs2 rs1 step)

theorem State.theadStorePair_window (rd1 rd2 : Reg) (va : Word) :
    WindowStoresPair s (s.theadGate c (s.storePair 4 rd1 rd2 va)) va (s.getX rd1) (s.getX rd2) :=
  State.of_theadGate on (P := fun r => WindowStoresPair s r va (s.getX rd1) (s.getX rd2)) (s.storePair_window rd1 rd2 va)

variable {signed : Bool} {value : BitVec 32 → Word} (same : ∀ v < 2 ^ 32, loadWord signed 4 v = value (BitVec.ofNat 32 v))
include same

theorem State.theadLoad_window (rd : Reg) (va : Word) :
    WindowLoads s (s.theadGate c (s.loadX 4 signed 4 rd va)) (s.me.pc + 4) va fun x => [(rd, value x)] :=
  State.of_theadGate on (P := fun r => WindowLoads s r (s.me.pc + 4) va fun x => [(rd, value x)]) (State.loadX_window same 4 rd va)

theorem State.theadLoadUpdate_window (after : Bool) (rd rs1 : Reg) (step : Word) (different : rd ≠ rs1) :
    WindowLoads s (s.theadGate c (s.loadUpdate c signed 4 after rd rs1 step)) (s.me.pc + 4)
      (if after then s.getX rs1 else s.getX rs1 + step) fun x => [(rd, value x), (rs1, s.getX rs1 + step)] :=
  State.of_theadGate on
    (P := fun r => WindowLoads s r (s.me.pc + 4) (if after then s.getX rs1 else s.getX rs1 + step)
      fun x => [(rd, value x), (rs1, s.getX rs1 + step)])
    (State.loadUpdate_window same c after different step)

theorem State.theadLoadPair_window (rd1 rd2 rs1 : Reg) (va : Word) (different : rd1 ≠ rd2 ∧ rd1 ≠ rs1 ∧ rd2 ≠ rs1) :
    WindowLoadsPair s (s.theadGate c (s.loadPair c signed 4 rd1 rd2 rs1 va)) va fun x y => [(rd2, value y), (rd1, value x)] :=
  State.of_theadGate on (P := fun r => WindowLoadsPair s r va fun x y => [(rd2, value y), (rd1, value x)])
    (State.loadPair_window same c different va)

end

/-- Settles O13: the register map, the shapes of word accesses in the window, what a register's write leaves, and the accesses that
reach no register. -/
theorem deviceWindow : Obligations.DeviceWindow := by
  unfold Obligations.DeviceWindow
  refine ⟨fun off aligned r known => devReg_iff aligned known, fun s rd rs1 rs2 imm12 => ?_, fun s rd rs1 uimm5 => ?_,
    fun s rd uimm6 => ?_, fun s rs2 rs1 uimm5 => ?_, fun s rs2 uimm6 => ?_, fun s rd rs1 rs2 imm2 on => ?_, fun s rs rs1 rs2 imm2 on => ?_,
    fun s rd rs1 imm5 imm2 on => ?_, fun s rs2 rs1 imm5 imm2 on => ?_, fun s rd1 rd2 rs1 imm2 on => ?_, fun s r v => ?_,
    fun s va n v ps s' other window => ?_, fun s va n f ps s' window plan => State.memAmo_window window plan f,
    fun s va pl s' place window => State.fetchParcel_window place window⟩
  · exact ⟨State.loadX_window loadWord_signed_word 4 rd _, State.loadX_window loadWord_unsigned_word 4 rd _, s.storeV_window 4 _ _⟩
  · exact State.loadX_window loadWord_signed_word 2 (creg rd) _
  · exact State.loadX_window loadWord_signed_word 2 rd _
  · exact s.storeV_window 2 _ _
  · exact s.storeV_window 2 _ _
  · exact ⟨State.theadLoad_window on loadWord_signed_word rd _, State.theadLoad_window on loadWord_unsigned_word rd _,
      State.theadLoad_window on loadWord_signed_word rd _, State.theadLoad_window on loadWord_unsigned_word rd _⟩
  · exact ⟨State.theadStore_window on _ _, State.theadStore_window on _ _⟩
  · exact ⟨State.theadLoadUpdate_window on loadWord_signed_word true rd rs1 _,
      State.theadLoadUpdate_window on loadWord_signed_word false rd rs1 _,
      State.theadLoadUpdate_window on loadWord_unsigned_word true rd rs1 _,
      State.theadLoadUpdate_window on loadWord_unsigned_word false rd rs1 _⟩
  · exact ⟨State.theadStoreUpdate_window on true rs2 rs1 _, State.theadStoreUpdate_window on false rs2 rs1 _⟩
  · exact ⟨State.theadLoadPair_window on loadWord_signed_word rd1 rd2 rs1 _,
      State.theadLoadPair_window on loadWord_unsigned_word rd1 rd2 rs1 _,
      State.theadStorePair_window on rd1 rd2 _⟩
  · refine ⟨fun w kept => s.deviceValue_devWriteReg r v kept,
      fun q other noPending noClaim => s.deviceValue_devWriteReg_of_ne v other noPending noClaim,
      s.devWriteReg_sources_same v, fun x e _ => ?_, s.devWriteReg_frame r v⟩
    subst e
    exact ⟨rfl, s.devWriteReg_pending x v⟩
  · exact ⟨State.memRead_window window other, fun plan => State.memWrite_window window other plan v⟩

end Sys2Proof.Machine
